-- ==== Sys2Proof/Word.lean ====
section
/-! DEFINITION. The word types and the little-endian byte arithmetic of R2 that every other file uses. -/

namespace Sys2Proof

/-- One byte of any memory tier. -/
abbrev Byte := BitVec 8

/-- The widest register (R8): 64 bits. -/
abbrev Word := BitVec 64

/-- The bytes of a little-endian field as a number (R2): the first byte is the least significant. -/
def leNat : List Byte → Nat
  | [] => 0
  | b :: bs => b.toNat + 256 * leNat bs

/-- `n` bytes of a number, least significant first (R2). -/
def toLE : Nat → Nat → List Byte
  | 0, _ => []
  | n + 1, v => BitVec.ofNat 8 v :: toLE n (v / 256)

/-- Bits [lo + w - 1 : lo] of a number. -/
def bits (v lo w : Nat) : Nat := v / 2 ^ lo % 2 ^ w

/-- `v` with bits [lo + w - 1 : lo] replaced by `x`. -/
def setBits (v lo w x : Nat) : Nat :=
  v - bits v lo w * 2 ^ lo + (x % 2 ^ w) * 2 ^ lo

/-- The number read as two's complement of width `w`. -/
def toSigned (w v : Nat) : Int :=
  if 2 * (v % 2 ^ w) < 2 ^ w then ((v % 2 ^ w : Nat) : Int) else ((v % 2 ^ w : Nat) : Int) - ((2 ^ w : Nat) : Int)

/-- Two's complement code of width `w` of an integer. -/
def ofSigned (w : Nat) (v : Int) : Nat := (v % ((2 ^ w : Nat) : Int)).toNat

/-- `⌈a / b⌉` for a positive `b`. -/
def ceilDiv (a b : Nat) : Nat := (a + b - 1) / b

/-- `a` rounded up to a multiple of `b`. -/
def roundUp (a b : Nat) : Nat := ceilDiv a b * b

/-- A saturating increment: stops at `2 ^ w - 1`. -/
def satAdd (w a b : Nat) : Nat := min (a + b) (2 ^ w - 1)

/-- `take n` of the bytes from offset `o` of a byte list (zero beyond its end). -/
def sliceB (l : List Byte) (o n : Nat) : List Byte :=
  (l.drop o).take n

/-- The little-endian field of `n` bytes at offset `o`. -/
def fieldLE (l : List Byte) (o n : Nat) : Nat := leNat (sliceB l o n)

end Sys2Proof
end

