-- ==== Sys2Proof/Syntax.lean ====
section
/-! DEFINITION. The commands of the module: one constructor for each row of the table of operations and events. -/

namespace Sys2Proof

/-- The part of a host command's submission entry that every command has (R424): the queue it came through (a global queue
pair number, or 4,096 + a for the admin queue of association a), its command identifier, its FUSE field, and whether a
reserved field of the entry is non-zero. -/
structure Hdr where
  queue : Nat
  cid : Nat
  fuse : Nat := 0
  reserved : Bool := false
  /-- The entry's opcode is none of R413; what else it holds is not looked at. -/
  unlisted : Bool := false
  deriving DecidableEq, Repr

/-- The requester of a register access: a host queue, by REGISTER_READ or REGISTER_WRITE, or the monitor, with the SEQ of
its frame (R432, R558). -/
inductive Requester
  | host (h : Hdr)
  | monitor (seq : Nat)
  deriving DecidableEq, Repr

/-- What Set Features brings after dword 11: dword 12, and the data of the APST table or nothing (R414, R437). -/
structure FeatureRest where
  dw12 : Nat
  data : List Byte := []
  deriving DecidableEq, Repr

/-- A range of a Dataset Management command: first block, blocks, and bit 31 of its context attributes (R395, R396). -/
structure LbaRange where
  lba : Nat
  blocks : Nat
  secure : Bool
  deriving DecidableEq, Repr

/-- How the bytes that a copy moves were read: all of them, or a piece stayed unreadable (R356). -/
inductive Fetch
  | bytes (data : List Byte)
  | unreadable
  deriving DecidableEq, Repr

/-- What a batch's stage run hands to the query it served, in the units of R277: what ENCODE, ROUTE, RERANK and EXTRACT
leave in the batch slots (the spec does not say where they lie). -/
inductive StageOutput
  | vector (elements : List (BitVec 32))
  | ranking (scores : List (BitVec 32))
  | scores (values : List (BitVec 32))
  | step (scores : List (BitVec 32))
  | spans (entries : List (List (BitVec 32) × List (BitVec 32)))
  | failed
  deriving DecidableEq, Repr

/-- The host's answer to a command's result writes (R26, R297): the command, and the places among its descriptors of the queries whose
write failed. -/
structure WriteAck where
  cid : Nat
  failed : List Nat := []
  deriving DecidableEq, Repr

/-- A lease message from a peer module (R366, R368, R369): a request for a lease by the borrower's number of it, an answer to
one, the return of a lease, any other contact, and the end of a lease by the lender's reset. Each carries the peer's identity public
key, which the module checks at every contact. -/
inductive LeaseMessage
  | request (peer lease set tier gib : Nat) (key : List Byte)
  | grant (lease : Nat) (key : List Byte)
  | refuse (lease : Nat) (key : List Byte)
  | giveBack (peer lease : Nat) (key : List Byte)
  | contact (peer : Nat) (key : List Byte)
  | lost (lease : Nat) (key : List Byte)
  deriving DecidableEq, Repr

/-- What discovery and the self-tests at start find (R461, R499, R500): the GiB of each stack and the packages of each Arcade, the dies
that are absent, the blocks and cells that failed, whether each Square's firmware slot verifies, the hold-up bank, whether the last
shutdown ended cleanly; the Kerbs, quarters, Arcades and Gates that failed their self-test; and the block groups, by die × 2048 +
group, whose erase did not verify when an interrupted erase was done again (R231), and the sectors of a Square's flash of which the
same holds (R514). -/
structure Discovery where
  stacksGib : List Nat
  packages : List Nat
  absentDies : List Nat
  failedBlocks : List Nat
  squareOk : Bool × Bool
  bankMicrofarad : Nat
  cleanShutdown : Bool
  failedCells : List (Nat × Nat) := []
  failedKerbs : List Nat := []
  failedQuarters : List Nat := []
  failedArcades : List Nat := []
  failedGates : List Nat := []
  failedErases : List Nat := []
  failedSectors : List (Nat × Nat) := []
  deriving DecidableEq, Repr

/-- What patrol scrub finds on a line (R487). -/
inductive LineRead
  | good
  | corrected
  | uncorrectable
  deriving DecidableEq, Repr

/-- A command of the module: something a host, a peer, the monitor, the enclosure, the clock or one of its own units does
to it. -/
inductive Instr
  -- NVM commands
  | flush (h : Hdr) (nsid : Nat)
  | write (h : Hdr) (nsid lba blocks : Nat) (data : List Byte)
  | read (h : Hdr) (nsid lba blocks : Nat)
  | writeZeroes (h : Hdr) (nsid lba blocks : Nat)
  | deallocate (h : Hdr) (nsid : Nat) (ranges : List LbaRange)
  | secureDeallocate (h : Hdr) (nsid : Nat) (ranges : List LbaRange)
  | secureDeallocDrained (erasure : Nat)
  -- search, index and compute commands
  | query (h : Hdr) (count : Nat) (data : Fetch)
  | payloadFetchDone (query : Nat) (payload : Fetch)
  | ingest (h : Hdr) (nsid count : Nat) (vectorsGiven : Bool) (service textNsid : Nat) (data : List Byte)
  | delete (h : Hdr) (nsid id gen : Nat) (secure : Bool) (textNsid textLba blocks : Nat)
  | compute (h : Hdr) (block opCount : Nat) (listInT0 : Bool)
      (scaleHistory opList scaleState routeState pairGather bufferLength : Nat)
  | create (h : Hdr) (nsid : Nat) (data : List Byte)
  | seal (h : Hdr) (nsid version : Nat)
  | switch (h : Hdr) (nsid version beat : Nat)
  | retire (h : Hdr) (nsid version : Nat)
  | filterLoad (h : Hdr) (first count : Nat) (data : List Byte)
  | repair (h : Hdr) (nsid : Nat)
  | stats (h : Hdr) (nsid length : Nat)
  -- placement
  | allocate (h : Hdr) (descriptor : List Byte) (source : Fetch)
  | release (h : Hdr) (descriptor : List Byte)
  | releaseComplete (object : Nat)
  | update (h : Hdr) (descriptor : List Byte)
  | copyIn (h : Hdr) (descriptor : List Byte) (source : Fetch)
  | copyOut (h : Hdr) (descriptor : List Byte)
  | bind (h : Hdr) (descriptor : List Byte)
  | unbind (h : Hdr) (descriptor : List Byte)
  | report (h : Hdr) (length : Nat)
  -- registers and admin commands
  | registerRead (h : Hdr) (address count : Nat) (wide : Bool) (length : Nat)
  | registerWrite (h : Hdr) (address : Nat) (wide : Bool) (value : Nat)
  | getLogPage (h : Hdr) (page length : Nat)
  | identify (h : Hdr) (cns nsid : Nat)
  | abort (h : Hdr) (sqid cid : Nat)
  | setFeatures (h : Hdr) (feature : Nat) (save : Bool) (dw11 : Nat) (rest : FeatureRest)
  | getFeatures (h : Hdr) (feature select dw11 : Nat)
  | asynchronousEventRequest (h : Hdr)
  | firmwareImageDownload (h : Hdr) (offset : Nat) (data : List Byte)
  | firmwareCommit (h : Hdr) (slot action : Nat)
  | keepAlive (h : Hdr)
  | keepAliveExpiry (assoc : Nat)
  | formatNvm (h : Hdr) (nsid lbaf ses : Nat)
  | sanitize (h : Hdr) (action : Nat) (ause noDeallocate : Bool)
  | connect (h : Hdr) (assoc qid port link : Nat) (rdma : Bool) (depth kato : Nat) (nqn : List Byte)
      (mtu maxReads maxDepth : Nat)
  | propertyGet (h : Hdr) (offset : Nat) (wide : Bool)
  | propertySet (h : Hdr) (offset value : Nat)
  | disconnect (h : Hdr) (qid : Nat)
  | planLoad (h : Hdr) (activate : Bool) (data : List Byte)
  | planDiscard (h : Hdr) (activate : Bool) (length : Nat)
  | apply (h : Hdr) (data : List Byte)
  | commit (h : Hdr)
  | revert (h : Hdr)
  | quiesceDrained (slot : Nat)
  | quiesceTimeout (slot : Nat)
  | snapshot (h : Hdr) (kind length : Nat)
  | standstillLatch (unitKind index : Nat)
  | snapshotUnitTimeout (unitKind index : Nat)
  | attest (h : Hdr) (nonce : List Byte) (length : Nat)
  | leaseLend (h : Hdr) (t0Gib t1Gib notice idle : Nat)
  | leasePeer (h : Hdr) (peer : Nat) (data : List Byte)
  | leaseAcquire (h : Hdr) (peer set tier gib : Nat)
  | leaseAcquireTimeout (lease : Nat)
  | leaseReturn (h : Hdr) (lease : Nat)
  | leaseRevoke (h : Hdr) (lease notice : Nat)
  | leaseStatus (h : Hdr) (length : Nat)
  | leaseNoticeReceived (lease deadline : Nat)
  | leaseDeadline (lease : Nat)
  | leaseIdleTimeout (peer : Nat)
  | nvmeMiCommand (opcode : Nat)
  -- the monitor
  | hello (seq : Nat)
  | challenge (seq : Nat)
  | respond (seq slot level duration : Nat) (signature : List Byte)
  | logout (seq : Nat)
  | setBaud (seq rate : Nat)
  | regRead (seq address count bytes : Nat) (noClear : Bool)
  | regWrite (seq address bytes value : Nat)
  | memPeek (seq tier block address length : Nat)
  | memPoke (seq tier block address : Nat) (data : List Byte)
  | counters (seq unit : Nat)
  | monitorSnapshot (seq kind offset : Nat)
  | traceCtl (seq ctl cls trig : Nat)
  | traceRead (seq : Nat)
  | planState (seq : Nat)
  | monitorReset (seq : Nat) (letter : Char) (index : Nat)
  | monitorFailover (seq : Nat)
  | imageDownload (seq offset : Nat) (last : Bool) (data : List Byte)
  -- register accesses with an operation of their own
  | abandon (r : Requester) (slot : Nat)
  | cellInject (r : Requester) (block cell target : Nat)
  | eccInject (r : Requester) (block : Nat)
  | kerbInject (r : Requester) (kerb : Nat)
  | blkCountClear (r : Requester) (block : Nat)
  | kerbCountClear (r : Requester) (kerb : Nat)
  | cacheDrop (r : Requester) (kerb : Nat)
  | kerbCtlReset (r : Requester) (kerb : Nat)
  | ftlCountClear (r : Requester)
  | reclaimHold (r : Requester) (on : Bool)
  | hifCountClear (r : Requester)
  | portReset (r : Requester) (port : Nat)
  | pwrCountClear (r : Requester)
  | loopsFreeze (r : Requester) (on : Bool)
  | secCountClear (r : Requester)
  | failover (r : Requester)
  | deviceReset (r : Requester)
  | quarterReset (r : Requester) (quarter : Nat)
  | blockReset (r : Requester) (block : Nat)
  | forceHoldover (r : Requester) (on : Bool)
  | ppsOut (r : Requester) (on : Bool)
  | timeSet (r : Requester) (ns : Nat)
  | traceMode (r : Requester) (mode : Nat)
  | traceEnable (r : Requester) (on : Bool)
  | arm (r : Requester)
  | trigger (r : Requester)
  | traceClear (r : Requester)
  | counterSample (r : Requester) (n : Nat)
  | lightValueWrite (r : Requester) (light value : Nat)
  | lightAddWrite (r : Requester) (light addend : Nat)
  | lightOwnerWrite (r : Requester) (light owner : Nat) (clearSaturated : Bool)
  | bmwinWrite (r : Requester) (block district base length : Nat)
  | fmtFlagsRead (r : Requester) (district : Nat)
  | planErrRead (r : Requester)
  | railPeakRead (r : Requester) (rail : Nat)
  | tempMaxRead (r : Requester) (sensor : Nat)
  -- dispatch and locks
  | gateDispatch (gate : Nat)
  | rangeLockAcquire (queue cid : Nat)
  -- the operations of a block's running command
  | arrayMac (block : Nat)
  | arrayElemwise (block : Nat)
  | arrayL1 (block : Nat)
  | arrayL2 (block : Nat)
  | arrayHamming (block : Nat)
  | arrayMin (block : Nat)
  | arrayMax (block : Nat)
  | vecAdd (block : Nat)
  | vecSub (block : Nat)
  | vecMul (block : Nat)
  | vecDiv (block : Nat)
  | vecFma (block : Nat)
  | vecMin (block : Nat)
  | vecMax (block : Nat)
  | vecCvt (block : Nat)
  | vecQuant (block : Nat)
  | vecSel (block : Nat)
  | vecRowsum (block : Nat)
  | vecRowmax (block : Nat)
  | vecSoftmax (block : Nat)
  | vecRowstats (block : Nat)
  | vecMergestats (block : Nat)
  | vecLayernorm (block : Nat)
  | vecRmsnorm (block : Nat)
  | sfuFunction (block : Nat)
  | sfuMicroProgram (block : Nat)
  | dmaOp (block : Nat)
  | dmaAsyncDone (block : Nat)
  | lightSet (block : Nat)
  | lightAdd (block : Nat)
  | lightWait (block slot : Nat)
  | lightExpiry (block slot : Nat)
  | shadowLoadDone (block : Nat)
  | pairGather (block : Nat)
  | commandBoundary (block : Nat)
  | expertDispatch (block : Nat)
  -- faults of cells, blocks and block memory
  | cellParityError (block cell source entry column : Nat)
  | spareSelfTestDone (block : Nat) (passed : Bool)
  | blockMemoryUncorrectable (block address : Nat)
  | sequencerWatchdog (block : Nat)
  | queueIntegrityError (block : Nat)
  | blockMemoryCorrected (block address : Nat)
  | bucketLeak (region : Nat)
  -- Kerbs and flash
  | queryBlockAdmit (kerb qblock : Nat)
  | suspendTimeout (kerb die : Nat)
  | flashPieceReadDone (kerb die step correctedBits : Nat)
  | thetaShare (kerb : Nat)
  | thetaReturn (kerb query : Nat) (theta : BitVec 32)
  | nandProgramDone (kerb die : Nat) (verified : Bool)
  | nandEraseDone (kerb die : Nat) (verified : Bool)
  | mutableRowTimeout (group : Nat)
  | reclaimVictim (group profile : Nat)
  | kerbFault (kerb cause location : Nat)
  | kerbResetDone (kerb : Nat) (passed : Bool)
  | linkError (arcade : Bool) (unit : Nat)
  -- windows, passes and queries
  | sweepPassStart (nsid : Nat)
  | sweepPassEnd (nsid : Nat)
  | repairBackground (nsid : Nat)
  | stageRunDone (query : Nat) (output : StageOutput)
  | gateMerge (query : Nat)
  | rdmaWriteAck (queue : Nat) (ack : WriteAck)
  | jobBatchStart (job : Nat)
  | jobBatchEnd (job : Nat) (vectors : List (Nat × List (BitVec 32) × List (BitVec 32)))
  -- time, energy and power
  | beatStart (inputWatts railMicrojoules : Nat)
  | energyMeterInterval (blockUj kerbUj stackUj arcadeUj : List (Nat × Nat)) (other : Nat)
  | objectMoveExtent (object : Nat)
  | patrolScrub (region address : Nat) (found : LineRead)
  | stackReadUncorrectable (stack channel address queue cid : Nat)
  | spareCopyDone (stack : Nat)
  | lpddrReadUncorrectable (arcade address queue cid : Nat)
  | avenueFlitCrc (quarter retries failingLanes : Nat)
  | routerUncorrectable (quarter : Nat) (boulevardStop : Bool)
  | boulevardCrc (segment failingLanes : Nat)
  | arcadeFault (arcade : Nat)
  | gateFault (port : Nat)
  -- ports
  | linkTrainingDone (port link media cableDm : Nat)
  | ethernetUncorrectable (port corrected : Nat)
  | ecnCeReceived (port qp : Nat)
  | cnpReceived (port qp : Nat)
  | pfcFrameReceived (port priority : Nat) (pause : Bool)
  -- device time
  | ptpSync (port : Nat) (offset : Int)
  | ppsInPulse (offset : Int) (intervalOk : Bool)
  | backgroundSlotStart (slot : Nat)
  | backgroundSlotEnd (slot : Nat)
  -- adaptive and protection loops
  | quarterDvfs (quarter : Nat) (temperature : Int) (watts : Nat) (work : Bool)
  | readThreshold (die : Nat) (offset : Int) (marginMv : Nat)
  | widen (usePercent : Nat)
  | stackRefresh (stack : Nat)
  | linkEq (kind index : Nat) (overThreshold : Bool)
  | sensorSample (sensor : Nat) (value : Int) (current : Nat)
  | thermalTrip (sensor : Nat)
  | overCurrent (rail : Nat)
  | underVoltage (rail : Nat)
  | protectionRelease (loop unit : Nat)
  | overrideRampStep (loop unit : Nat)
  | protectionHoldTimeout (loop unit : Nat)
  -- Squares and configuration flash
  | configSectorEraseDone (square : Nat) (verified : Bool)
  | configEraseResume (square : Nat)
  | configCopyForward (square : Nat)
  | coldStart (found : Discovery)
  | modResetRelease (found : Discovery)
  | holdupBankTest (microfarad : Nat)
  | quarterResetDone (quarter : Nat) (passed : Bool)
  | blockResetDone (block : Nat) (passed : Bool)
  | squareSelfTestDone (passed : Bool)
  | ptpAnnounce (port clockClass stepsRemoved identity : Nat)
  | peerLeaseMessage (message : LeaseMessage)
  | ethernetLinkDown (port link : Nat)
  | sanitizePhaseDone (erased : Bool)
  -- events and operations without operands (at the end, where Lean's compiler can represent them)
  | t3BatchSend
  | nvmeMiReset
  | baudRevert
  | monitorBadFrame
  | monitorLockoutExpiry
  | sessionExpiry
  | computeAbortEnd
  | journalCheckpoint
  | gatherWindowClose
  | sweepWindowClose
  | hotnessDecay
  | powerStateTransition
  | apstIdleTimeout
  | placement
  | sourceLossTimeout
  | ppsOutPulse
  | timeJournal
  | heartbeat
  | heartbeatMiss
  | activeSquareFault
  | standbySquareFault
  | squaresLost
  | modReset
  | pfWarn
  | vinUnderVoltage
  | vinOverVoltage
  | telemetrySample
  | pfWarnRelease
  deriving DecidableEq, Repr

end Sys2Proof
end

