-- ==== Sys2Proof/Config.lean ====
section
/-! DEFINITION. What a module's making fixes and the spec does not give, and the values the spec leaves free: constants
without a body, so that no proof can see them. -/

namespace Sys2Proof.Config

/-- A fresh free value for each use: the counter `Dev.drawn` of the state selects it. -/
opaque freeValue : Nat → Word

/-- Built-in special-function records (R580): the segment coefficients, as binary32 codes; function code, segment,
coefficient index 0 to 2. The spec fixes the layout and not the contents. -/
opaque sfSegment : Nat → Nat → Nat → BitVec 32
/-- Built-in record heads (R580): function code to (BINADES, SIGN_MODE, EXP_LOW as 16-bit two's complement, LOW_VALUE,
HIGH_VALUE). -/
opaque sfHead : Nat → Nat × Nat × Nat × BitVec 32 × BitVec 32
/-- Built-in correction lists (R580). -/
opaque sfCorr : Nat → List (BitVec 32 × BitVec 32)
/-- A correctly rounded built-in result that the model's own enclosure does not separate (R150): function code, output
format code, input code. -/
opaque sfHard : Nat → Nat → Nat → Nat
/-- A built-in activation evaluated directly in INT16 or INT32 (R146): the spec states no accuracy for these formats. -/
opaque actWide : Nat → Nat → Nat → Nat
/-- A temporary register of a micro-program that no instruction has written (R154). -/
opaque sfTemp : Nat → BitVec 32

/-- SLH-DSA-SHA2-128s verification (R42, FIPS 205): key, message, signature. -/
opaque slhVerify : List Byte → List Byte → List Byte → Bool
/-- SLH-DSA-SHA2-128s signing by the module's identity key (R532). -/
opaque slhSign : List Byte → List Byte
/-- The module's identity public key, derived from its PUF (R524, R525). -/
opaque identityKey : List Byte

/-- The public keys in the boot ROM, slots 0 and 1 (R527). -/
opaque romKey : Nat → List Byte
/-- The boot ROM's identity, as measured (R531), and the digest of the firmware image the module ships with. -/
opaque romDigest : Nat
opaque shippedFirmware : Nat

/-- The factory certificate (R532): serial number, beat of issue, signer's slot and signature. -/
opaque serial : Nat
opaque issueBeat : Nat
opaque signerSlot : Nat
opaque certificate : List Byte

/-- The SHA-256 of the shipped standing plan container, whose bytes the spec does not give (R578). -/
opaque shippedDigest : Nat

/-- Which blocks the shipped plan makes spares in a quarter where manufacturing test marked blocks as failed (R14): the failed blocks of
the quarter, a block of the quarter. -/
opaque otherSpare : List Nat → Nat → Bool

/-- What ARBITRATION and HOMING say, whose layouts the spec does not give: the effective weight of shadow load (0) or drain (1) of a
cell of a block (R126), and whether the preferred link of a Kerb, or of an Arcade at 48 + a, is the second one (R237, R372). -/
opaque arbWeight : List (BitVec 8) → Nat → Nat → Nat → Nat
opaque secondPreferred : List (BitVec 8) → Nat → Bool

/-- The 2 bytes of parity of an accumulator entry, over its binary32 accumulator and its exact partial sum (R96, R119): the code is not in
the spec. -/
opaque accParity : BitVec 32 → Bool → Nat → Int → BitVec 16

/-- The value of a namespace key, data key first (R382, R534): key slot, generation. The device draws it at random. -/
opaque namespaceKey : Nat → Nat → BitVec 512

/-- What a service's stages gave for an INGEST (R312, R428), in the order it is used: the elements of vectors and the scores of lists, by
the INGEST. The spec does not say where in memory the device finds them. -/
opaque stageValue : Nat → Nat → BitVec 32

/-- The CAP and VS properties of the NVM Express specifications: the spec does not give them. -/
opaque capProperty : Nat
opaque vsProperty : Nat

end Sys2Proof.Config
end

