-- ==== Sys2Proof/Machine/RegMap.lean ====
section
/-! DEFINITION. The register map: for every register of the spec its place in the address space (R30, R31), its width,
and its fields with access code, default and restoring resets (R6, R9). -/

namespace Sys2Proof.Machine

/-- The access codes of R6. -/
inductive Acc
  | ro | rw | wo | w1c | rc | rsv
  deriving DecidableEq, Repr

/-- A field of a register: low bit, width, access code, default, and the reset letters that restore it, one bit each in
the order C M D Q B A K G from bit 0. -/
structure RField where
  lo : Nat
  width : Nat
  acc : Acc
  dflt : Nat
  letters : Nat
  deriving DecidableEq, Repr

/-- The place of a field in its register, for reading and writing it by name. -/
structure Fld where
  lo : Nat
  width : Nat
  deriving DecidableEq, Repr

/-- The registers, or families of registers, of the spec. -/
inductive RegName
  | PLAN_STAT | PLAN_CTL | PLAN_ERR | PLAN_ROLLBACK | PLAN_CNT | PLAN_SLOT
  | CNT_FMT_FLAGS | CELL_STAT | CELL_ERR | CELL_ERR_LOC | CELL_ARB | CELL_INJECT
  | CELL_PASSES | CELL_ROWS | CELL_STALL | CELL_LOADS | BLK_ARRAY_STAT | BLK_ARRAY_BCAST
  | BLK_ARRAY_ABORTS | BLK_STAT | BLK_CTL | BLK_QUEUE | BLK_ERR | BLK_ERR_ADDR
  | BLK_BANK | BLK_BMWIN | BLK_CMDS | BLK_DMA_BYTES | BLK_ECC | BLK_ARRAY_SKIP
  | BLK_ARRAY_SPARSE | BLK_ROUTE_TOKENS | BLK_ROUTE_SPILL | KERB_STAT | KERB_CTL | KERB_ARB
  | KERB_QUERY | KERB_CACHE | KERB_ERR | KERB_ERR_LOC | KERB_CH_STAT | KERB_CH_PIECES
  | LGT_VALUE | LGT_ADD | LGT_CTL | CNT_DIST_STAT | CNT_DIST_ARRAY | CNT_DIST_VECTOR
  | CNT_DIST_DMA | CNT_DIST_KERB | CNT_DIST_T0 | CNT_DIST_T1 | CNT_DIST_T2 | CNT_DIST_T2W
  | CNT_DIST_T3 | CNT_DIST_P0IN | CNT_DIST_P0OUT | CNT_DIST_P1IN | CNT_DIST_P1OUT | CNT_DIST_ENERGY
  | CNT_DIST_CMDS | CNT_DIST_THROTTLE | CNT_ENERGY_UNATTR | CNT_ABORTS | STK_STAT | ARC_STAT
  | FTL_STAT | FTL_CTL | FTL_ERR | FTL_SPARE | FTL_WEAR | FTL_RECLAIM
  | FTL_MOVED | FTL_HOST_WRITTEN | FTL_REWRITE | FTL_RD_SOFT | FTL_RD_RETRY | FTL_RD_REBUILD
  | FTL_RD_UNREC | FTL_SECURE | FTL_FLUSH | FTL_JOURNAL | FTL_GRP | FTL_GRP_WEAR
  | FTL_DIE_RETIRED | HIF_STAT | HIF_CTL | HIF_ARB | HIF_LOCK | HIF_CMDS
  | HIF_URGENT | HIF_PORT_STAT | HIF_PORT_CFG | HIF_PORT_FEC | HIF_QP | HIF_ASSOC_STAT
  | HIF_ASSOC_PEER | TIME_STAT | TIME_CTL | TIME_PERIOD | TIME_NOW | TIME_BEAT
  | TIME_OFFSET | TIME_GM_ID | TIME_SET | TIME_EVENTS | PWR_STAT | PWR_CTL
  | PWR_RAIL | PWR_QTR | PWR_LOOP | PWR_TEMP | CNT_CONTAIN | CNT_CONTAIN_CNT
  | STK_ECC | ARC_ECC | STK_SPARE | STK_BKT | ARC_BKT | DEV_ID
  | DEV_CTL | DEV_RESET | DEV_SQ | DEV_RESET_LOG | DEV_BOOT | DEV_LIFE
  | DEV_CFG_STAT | DEV_CFG_WEAR | SEC_STAT | SEC_CTL | SEC_KEYS | SEC_ROLLBACK
  | SEC_NSKEY | SEC_IDHASH | SEC_ATTEST | SEC_MON | SEC_MEAS | TRC_STAT
  | TRC_CTL | TRC_CLASS | TRC_TRIG | TRC_RD_PTR | TRC_TELEM | TRC_LOST
  | TRC_TELEM_RD | CNT_OP | KERB_MAC8 | KERB_MAC4 | KERB_PG_HIGH | KERB_PG_LOW
  | KERB_PG_SIDE | KERB_PG_OTHER | KERB_PRUNE | KERB_FILTERED | KERB_CACHE_HIT | KERB_CACHE_MISS
  | KERB_SPEC_ISSUED | KERB_SPEC_WASTED | KERB_SUSPEND | PLAN_DIGEST
  deriving DecidableEq, Repr

/-- A register or a family of registers: name, address of the first, counts and strides of the indices (outermost first),
width in bytes, fields in ascending order. -/
structure RegRow where
  name : RegName
  base : Nat
  dims : List (Nat × Nat)
  bytes : Nat
  fields : List RField
  deriving DecidableEq, Repr

/-- The PLAN_ registers (R65, R66, R67, R68). -/
def regRowsPlan : List RegRow := [
  ⟨.PLAN_STAT, 0xA000000, [], 8, [
    ⟨0, 1, .ro, 0, 0⟩, ⟨1, 1, .ro, 0, 0⟩, ⟨2, 6, .rsv, 0, 0⟩, ⟨8, 8, .ro, 0, 0⟩,
    ⟨16, 8, .ro, 0, 7⟩, ⟨24, 8, .ro, 0, 0⟩, ⟨32, 32, .ro, 0, 0⟩]⟩,
  ⟨.PLAN_CTL, 0xA000008, [], 4, [
    ⟨0, 1, .rw, 0, 7⟩, ⟨1, 3, .rsv, 0, 0⟩, ⟨4, 4, .wo, 0, 0⟩, ⟨8, 24, .rsv, 0, 0⟩]⟩,
  ⟨.PLAN_ERR, 0xA00000C, [], 4, [
    ⟨0, 8, .rc, 0, 7⟩, ⟨8, 8, .rsv, 0, 0⟩, ⟨16, 16, .rc, 0, 7⟩]⟩,
  ⟨.PLAN_ROLLBACK, 0xA000010, [], 4, [
    ⟨0, 32, .ro, 0, 0⟩]⟩,
  ⟨.PLAN_CNT, 0xA000018, [], 8, [
    ⟨0, 32, .ro, 0, 3⟩, ⟨32, 32, .ro, 0, 3⟩]⟩,
  ⟨.PLAN_SLOT, 0xA000040, [(4, 0x8)], 8, [
    ⟨0, 4, .ro, 0, 7⟩, ⟨4, 4, .ro, 0, 7⟩, ⟨8, 12, .ro, 0, 7⟩, ⟨20, 12, .rsv, 0, 0⟩,
    ⟨32, 32, .ro, 0, 7⟩]⟩,
  ⟨.PLAN_DIGEST, 0xA000020, [(4, 0x8)], 8, [
    ⟨0, 64, .ro, 0, 0⟩]⟩]

/-- The CNT_ registers (R94, R345, R502, R562). -/
def regRowsCnt : List RegRow := [
  ⟨.CNT_FMT_FLAGS, 0x9000800, [(16, 0x8)], 8, [
    ⟨0, 1, .rc, 0, 1⟩, ⟨1, 1, .rc, 0, 1⟩, ⟨2, 1, .rc, 0, 1⟩, ⟨3, 1, .rc, 0, 1⟩,
    ⟨4, 1, .rc, 0, 1⟩, ⟨5, 1, .rc, 0, 1⟩, ⟨6, 1, .rc, 0, 1⟩, ⟨7, 1, .rc, 0, 1⟩,
    ⟨8, 24, .rsv, 0, 0⟩, ⟨32, 32, .rc, 0, 1⟩]⟩,
  ⟨.CNT_DIST_STAT, 0x9001000, [(16, 0x100)], 8, [
    ⟨0, 1, .ro, 0, 0⟩, ⟨1, 1, .ro, 0, 0⟩, ⟨2, 6, .rsv, 0, 0⟩, ⟨8, 9, .ro, 0, 0⟩,
    ⟨17, 15, .rsv, 0, 0⟩, ⟨32, 13, .ro, 0, 39⟩, ⟨45, 19, .rsv, 0, 0⟩]⟩,
  ⟨.CNT_DIST_ARRAY, 0x9001008, [(16, 0x100)], 8, [
    ⟨0, 64, .ro, 0, 7⟩]⟩,
  ⟨.CNT_DIST_VECTOR, 0x9001010, [(16, 0x100)], 8, [
    ⟨0, 64, .ro, 0, 7⟩]⟩,
  ⟨.CNT_DIST_DMA, 0x9001018, [(16, 0x100)], 8, [
    ⟨0, 64, .ro, 0, 7⟩]⟩,
  ⟨.CNT_DIST_KERB, 0x9001020, [(16, 0x100)], 8, [
    ⟨0, 64, .ro, 0, 7⟩]⟩,
  ⟨.CNT_DIST_T0, 0x9001028, [(16, 0x100)], 8, [
    ⟨0, 64, .ro, 0, 7⟩]⟩,
  ⟨.CNT_DIST_T1, 0x9001030, [(16, 0x100)], 8, [
    ⟨0, 64, .ro, 0, 7⟩]⟩,
  ⟨.CNT_DIST_T2, 0x9001038, [(16, 0x100)], 8, [
    ⟨0, 64, .ro, 0, 7⟩]⟩,
  ⟨.CNT_DIST_T2W, 0x9001040, [(16, 0x100)], 8, [
    ⟨0, 64, .ro, 0, 7⟩]⟩,
  ⟨.CNT_DIST_T3, 0x9001048, [(16, 0x100)], 8, [
    ⟨0, 64, .ro, 0, 7⟩]⟩,
  ⟨.CNT_DIST_P0IN, 0x9001050, [(16, 0x100)], 8, [
    ⟨0, 64, .ro, 0, 7⟩]⟩,
  ⟨.CNT_DIST_P0OUT, 0x9001058, [(16, 0x100)], 8, [
    ⟨0, 64, .ro, 0, 7⟩]⟩,
  ⟨.CNT_DIST_P1IN, 0x9001060, [(16, 0x100)], 8, [
    ⟨0, 64, .ro, 0, 7⟩]⟩,
  ⟨.CNT_DIST_P1OUT, 0x9001068, [(16, 0x100)], 8, [
    ⟨0, 64, .ro, 0, 7⟩]⟩,
  ⟨.CNT_DIST_ENERGY, 0x9001070, [(16, 0x100)], 8, [
    ⟨0, 64, .ro, 0, 7⟩]⟩,
  ⟨.CNT_DIST_CMDS, 0x9001078, [(16, 0x100)], 8, [
    ⟨0, 32, .ro, 0, 7⟩, ⟨32, 32, .ro, 0, 7⟩]⟩,
  ⟨.CNT_DIST_THROTTLE, 0x9001080, [(16, 0x100)], 8, [
    ⟨0, 64, .ro, 0, 7⟩]⟩,
  ⟨.CNT_ENERGY_UNATTR, 0x9002000, [], 8, [
    ⟨0, 64, .ro, 0, 7⟩]⟩,
  ⟨.CNT_ABORTS, 0x9002008, [], 8, [
    ⟨0, 32, .ro, 0, 7⟩, ⟨32, 32, .ro, 0, 7⟩]⟩,
  ⟨.CNT_CONTAIN, 0x9003000, [], 8, [
    ⟨0, 4, .ro, 0, 0⟩, ⟨4, 1, .ro, 0, 7⟩, ⟨5, 3, .rsv, 0, 0⟩, ⟨8, 4, .ro, 0, 7⟩,
    ⟨12, 4, .rsv, 0, 0⟩, ⟨16, 16, .ro, 0, 3⟩, ⟨32, 16, .ro, 0, 0⟩, ⟨48, 16, .ro, 0, 0⟩]⟩,
  ⟨.CNT_CONTAIN_CNT, 0x9003008, [], 8, [
    ⟨0, 32, .ro, 0, 3⟩, ⟨32, 16, .ro, 0, 3⟩, ⟨48, 16, .ro, 0, 3⟩]⟩,
  ⟨.CNT_OP, 0x9010000, [(256, 0x200), (55, 0x8)], 8, [
    ⟨0, 48, .ro, 0, 7⟩, ⟨48, 16, .rsv, 0, 0⟩]⟩]

/-- The CELL_ registers (R125, R126, R128). -/
def regRowsCell : List RegRow := [
  ⟨.CELL_STAT, 0x1110000, [(4, 0x1000000), (72, 0x20000), (4, 0x4000)], 8, [
    ⟨0, 1, .ro, 0, 0⟩, ⟨1, 1, .ro, 0, 0⟩, ⟨2, 1, .ro, 0, 0⟩, ⟨3, 1, .ro, 0, 63⟩,
    ⟨4, 1, .ro, 0, 63⟩, ⟨5, 1, .ro, 0, 63⟩, ⟨6, 2, .rsv, 0, 0⟩, ⟨8, 4, .ro, 0, 63⟩,
    ⟨12, 4, .ro, 0, 63⟩, ⟨16, 4, .ro, 0, 63⟩, ⟨20, 4, .ro, 0, 63⟩, ⟨24, 8, .rsv, 0, 0⟩,
    ⟨32, 16, .ro, 0, 63⟩, ⟨48, 16, .ro, 0, 63⟩]⟩,
  ⟨.CELL_ERR, 0x1110008, [(4, 0x1000000), (72, 0x20000), (4, 0x4000)], 4, [
    ⟨0, 1, .w1c, 0, 31⟩, ⟨1, 1, .w1c, 0, 31⟩, ⟨2, 1, .w1c, 0, 31⟩, ⟨3, 1, .w1c, 0, 31⟩,
    ⟨4, 1, .w1c, 0, 31⟩, ⟨5, 1, .w1c, 0, 31⟩, ⟨6, 2, .rsv, 0, 0⟩, ⟨8, 1, .w1c, 0, 31⟩,
    ⟨9, 23, .rsv, 0, 0⟩]⟩,
  ⟨.CELL_ERR_LOC, 0x111000C, [(4, 0x1000000), (72, 0x20000), (4, 0x4000)], 4, [
    ⟨0, 16, .ro, 0, 31⟩, ⟨16, 8, .ro, 0, 31⟩, ⟨24, 8, .rsv, 0, 0⟩]⟩,
  ⟨.CELL_ARB, 0x1110010, [(4, 0x1000000), (72, 0x20000), (4, 0x4000)], 4, [
    ⟨0, 16, .ro, 1, 0⟩, ⟨16, 16, .ro, 1, 0⟩]⟩,
  ⟨.CELL_INJECT, 0x1110014, [(4, 0x1000000), (72, 0x20000), (4, 0x4000)], 4, [
    ⟨0, 3, .rw, 0, 31⟩, ⟨3, 1, .rw, 0, 31⟩, ⟨4, 28, .rsv, 0, 0⟩]⟩,
  ⟨.CELL_PASSES, 0x1110018, [(4, 0x1000000), (72, 0x20000), (4, 0x4000)], 8, [
    ⟨0, 64, .ro, 0, 31⟩]⟩,
  ⟨.CELL_ROWS, 0x1110020, [(4, 0x1000000), (72, 0x20000), (4, 0x4000)], 8, [
    ⟨0, 64, .ro, 0, 31⟩]⟩,
  ⟨.CELL_STALL, 0x1110028, [(4, 0x1000000), (72, 0x20000), (4, 0x4000)], 8, [
    ⟨0, 32, .ro, 0, 31⟩, ⟨32, 32, .ro, 0, 31⟩]⟩,
  ⟨.CELL_LOADS, 0x1110030, [(4, 0x1000000), (72, 0x20000), (4, 0x4000)], 8, [
    ⟨0, 32, .ro, 0, 31⟩, ⟨32, 32, .ro, 0, 31⟩]⟩]

/-- The BLK_ registers (R129, R163, R164, R165, R205). -/
def regRowsBlk : List RegRow := [
  ⟨.BLK_ARRAY_STAT, 0x1100800, [(4, 0x1000000), (72, 0x20000)], 8, [
    ⟨0, 4, .ro, 15, 0⟩, ⟨4, 4, .ro, 0, 0⟩, ⟨8, 1, .ro, 0, 0⟩, ⟨9, 7, .rsv, 0, 0⟩,
    ⟨16, 16, .ro, 0, 63⟩, ⟨32, 16, .ro, 0, 63⟩, ⟨48, 16, .rsv, 0, 0⟩]⟩,
  ⟨.BLK_ARRAY_BCAST, 0x1100808, [(4, 0x1000000), (72, 0x20000)], 8, [
    ⟨0, 64, .ro, 0, 31⟩]⟩,
  ⟨.BLK_ARRAY_ABORTS, 0x1100810, [(4, 0x1000000), (72, 0x20000)], 4, [
    ⟨0, 16, .ro, 0, 3⟩, ⟨16, 16, .rsv, 0, 0⟩]⟩,
  ⟨.BLK_STAT, 0x1100000, [(4, 0x1000000), (72, 0x20000)], 8, [
    ⟨0, 2, .ro, 0, 0⟩, ⟨2, 4, .ro, 0, 0⟩, ⟨6, 5, .ro, 0, 63⟩, ⟨11, 4, .ro, 0, 63⟩,
    ⟨15, 4, .ro, 0, 63⟩, ⟨19, 1, .ro, 0, 63⟩, ⟨20, 4, .rsv, 0, 0⟩, ⟨24, 8, .ro, 255, 0⟩,
    ⟨32, 32, .rsv, 0, 0⟩]⟩,
  ⟨.BLK_CTL, 0x1100008, [(4, 0x1000000), (72, 0x20000)], 4, [
    ⟨0, 1, .wo, 0, 0⟩, ⟨1, 1, .rw, 0, 31⟩, ⟨2, 30, .rsv, 0, 0⟩]⟩,
  ⟨.BLK_QUEUE, 0x1100018, [(4, 0x1000000), (72, 0x20000)], 8, [
    ⟨0, 4, .ro, 0, 63⟩, ⟨4, 4, .ro, 0, 63⟩, ⟨8, 4, .ro, 0, 63⟩, ⟨12, 4, .ro, 0, 63⟩,
    ⟨16, 4, .ro, 0, 63⟩, ⟨20, 4, .ro, 0, 63⟩, ⟨24, 4, .ro, 0, 63⟩, ⟨28, 4, .ro, 0, 63⟩,
    ⟨32, 4, .ro, 0, 63⟩, ⟨36, 4, .ro, 0, 63⟩, ⟨40, 4, .ro, 0, 63⟩, ⟨44, 4, .ro, 0, 63⟩,
    ⟨48, 4, .ro, 0, 63⟩, ⟨52, 4, .ro, 0, 63⟩, ⟨56, 4, .ro, 0, 63⟩, ⟨60, 4, .ro, 0, 63⟩]⟩,
  ⟨.BLK_ERR, 0x110000C, [(4, 0x1000000), (72, 0x20000)], 4, [
    ⟨0, 1, .w1c, 0, 31⟩, ⟨1, 1, .w1c, 0, 31⟩, ⟨2, 1, .w1c, 0, 31⟩, ⟨3, 1, .w1c, 0, 31⟩,
    ⟨4, 28, .rsv, 0, 0⟩]⟩,
  ⟨.BLK_ERR_ADDR, 0x1100010, [(4, 0x1000000), (72, 0x20000)], 4, [
    ⟨0, 23, .ro, 0, 31⟩, ⟨23, 9, .rsv, 0, 0⟩]⟩,
  ⟨.BLK_BANK, 0x1100014, [(4, 0x1000000), (72, 0x20000)], 4, [
    ⟨0, 1, .ro, 0, 0⟩, ⟨1, 1, .ro, 0, 7⟩, ⟨2, 14, .rsv, 0, 0⟩, ⟨16, 16, .ro, 0, 3⟩]⟩,
  ⟨.BLK_BMWIN, 0x1100040, [(4, 0x1000000), (72, 0x20000), (16, 0x4)], 4, [
    ⟨0, 8, .rw, 0, 7⟩, ⟨8, 8, .rw, 0, 7⟩, ⟨16, 16, .rsv, 0, 0⟩]⟩,
  ⟨.BLK_CMDS, 0x1100100, [(4, 0x1000000), (72, 0x20000)], 8, [
    ⟨0, 32, .ro, 0, 31⟩, ⟨32, 32, .ro, 0, 31⟩]⟩,
  ⟨.BLK_DMA_BYTES, 0x1100108, [(4, 0x1000000), (72, 0x20000)], 8, [
    ⟨0, 64, .ro, 0, 31⟩]⟩,
  ⟨.BLK_ECC, 0x1100110, [(4, 0x1000000), (72, 0x20000)], 4, [
    ⟨0, 32, .ro, 0, 3⟩]⟩,
  ⟨.BLK_ARRAY_SKIP, 0x1100818, [(4, 0x1000000), (72, 0x20000)], 8, [
    ⟨0, 64, .ro, 0, 31⟩]⟩,
  ⟨.BLK_ARRAY_SPARSE, 0x1100820, [(4, 0x1000000), (72, 0x20000)], 8, [
    ⟨0, 32, .ro, 0, 31⟩, ⟨32, 16, .ro, 0, 31⟩, ⟨48, 16, .rsv, 0, 0⟩]⟩,
  ⟨.BLK_ROUTE_TOKENS, 0x1100828, [(4, 0x1000000), (72, 0x20000)], 8, [
    ⟨0, 32, .ro, 0, 31⟩, ⟨32, 32, .ro, 0, 31⟩]⟩,
  ⟨.BLK_ROUTE_SPILL, 0x1100830, [(4, 0x1000000), (72, 0x20000)], 8, [
    ⟨0, 32, .ro, 0, 31⟩, ⟨32, 32, .ro, 0, 31⟩]⟩]

/-- The KERB_ registers (R237, R238, R239). -/
def regRowsKerb : List RegRow := [
  ⟨.KERB_STAT, 0x1C00000, [(4, 0x1000000), (12, 0x10000)], 8, [
    ⟨0, 1, .ro, 0, 0⟩, ⟨1, 1, .ro, 0, 0⟩, ⟨2, 1, .ro, 0, 0⟩, ⟨3, 1, .ro, 0, 0⟩,
    ⟨4, 1, .ro, 0, 0⟩, ⟨5, 3, .rsv, 0, 0⟩, ⟨8, 8, .ro, 255, 0⟩, ⟨16, 16, .rsv, 0, 0⟩,
    ⟨32, 16, .ro, 0, 3⟩, ⟨48, 16, .ro, 0, 3⟩]⟩,
  ⟨.KERB_CTL, 0x1C00008, [(4, 0x1000000), (12, 0x10000)], 4, [
    ⟨0, 1, .wo, 0, 0⟩, ⟨1, 1, .wo, 0, 0⟩, ⟨2, 1, .wo, 0, 0⟩, ⟨3, 1, .rw, 0, 71⟩,
    ⟨4, 28, .rsv, 0, 0⟩]⟩,
  ⟨.KERB_ARB, 0x1C00018, [(4, 0x1000000), (12, 0x10000)], 8, [
    ⟨0, 16, .ro, 8, 0⟩, ⟨16, 16, .ro, 4, 0⟩, ⟨32, 16, .ro, 4, 0⟩, ⟨48, 16, .ro, 1, 0⟩]⟩,
  ⟨.KERB_QUERY, 0x1C00020, [(4, 0x1000000), (12, 0x10000)], 8, [
    ⟨0, 9, .ro, 0, 0⟩, ⟨9, 7, .ro, 0, 0⟩, ⟨16, 19, .ro, 0, 0⟩, ⟨35, 29, .ro, 0, 71⟩]⟩,
  ⟨.KERB_CACHE, 0x1C00028, [(4, 0x1000000), (12, 0x10000)], 8, [
    ⟨0, 15, .ro, 0, 0⟩, ⟨15, 15, .ro, 0, 0⟩, ⟨30, 2, .rsv, 0, 0⟩, ⟨32, 32, .ro, 0, 71⟩]⟩,
  ⟨.KERB_ERR, 0x1C0000C, [(4, 0x1000000), (12, 0x10000)], 4, [
    ⟨0, 1, .w1c, 0, 71⟩, ⟨1, 1, .w1c, 0, 71⟩, ⟨2, 1, .w1c, 0, 71⟩, ⟨3, 1, .w1c, 0, 71⟩,
    ⟨4, 1, .w1c, 0, 71⟩, ⟨5, 1, .w1c, 0, 71⟩, ⟨6, 1, .w1c, 0, 71⟩, ⟨7, 25, .rsv, 0, 0⟩]⟩,
  ⟨.KERB_ERR_LOC, 0x1C00010, [(4, 0x1000000), (12, 0x10000)], 4, [
    ⟨0, 3, .ro, 0, 71⟩, ⟨3, 2, .ro, 0, 71⟩, ⟨5, 3, .rsv, 0, 0⟩, ⟨8, 18, .ro, 0, 71⟩,
    ⟨26, 6, .rsv, 0, 0⟩]⟩,
  ⟨.KERB_CH_STAT, 0x1C01000, [(4, 0x1000000), (12, 0x10000), (8, 0x20)], 8, [
    ⟨0, 4, .ro, 0, 0⟩, ⟨4, 4, .ro, 0, 0⟩, ⟨8, 4, .ro, 0, 0⟩, ⟨12, 4, .ro, 0, 0⟩,
    ⟨16, 16, .ro, 0, 0⟩, ⟨32, 32, .rsv, 0, 0⟩]⟩,
  ⟨.KERB_CH_PIECES, 0x1C01008, [(4, 0x1000000), (12, 0x10000), (8, 0x20)], 8, [
    ⟨0, 64, .ro, 0, 71⟩]⟩,
  ⟨.KERB_MAC8, 0x1C00100, [(4, 0x1000000), (12, 0x10000)], 8, [
    ⟨0, 64, .ro, 0, 71⟩]⟩,
  ⟨.KERB_MAC4, 0x1C00108, [(4, 0x1000000), (12, 0x10000)], 8, [
    ⟨0, 64, .ro, 0, 71⟩]⟩,
  ⟨.KERB_PG_HIGH, 0x1C00110, [(4, 0x1000000), (12, 0x10000)], 8, [
    ⟨0, 64, .ro, 0, 71⟩]⟩,
  ⟨.KERB_PG_LOW, 0x1C00118, [(4, 0x1000000), (12, 0x10000)], 8, [
    ⟨0, 64, .ro, 0, 71⟩]⟩,
  ⟨.KERB_PG_SIDE, 0x1C00120, [(4, 0x1000000), (12, 0x10000)], 8, [
    ⟨0, 64, .ro, 0, 71⟩]⟩,
  ⟨.KERB_PG_OTHER, 0x1C00128, [(4, 0x1000000), (12, 0x10000)], 8, [
    ⟨0, 64, .ro, 0, 71⟩]⟩,
  ⟨.KERB_PRUNE, 0x1C00130, [(4, 0x1000000), (12, 0x10000)], 8, [
    ⟨0, 64, .ro, 0, 71⟩]⟩,
  ⟨.KERB_FILTERED, 0x1C00138, [(4, 0x1000000), (12, 0x10000)], 8, [
    ⟨0, 64, .ro, 0, 71⟩]⟩,
  ⟨.KERB_CACHE_HIT, 0x1C00140, [(4, 0x1000000), (12, 0x10000)], 8, [
    ⟨0, 64, .ro, 0, 71⟩]⟩,
  ⟨.KERB_CACHE_MISS, 0x1C00148, [(4, 0x1000000), (12, 0x10000)], 8, [
    ⟨0, 64, .ro, 0, 71⟩]⟩,
  ⟨.KERB_SPEC_ISSUED, 0x1C00150, [(4, 0x1000000), (12, 0x10000)], 8, [
    ⟨0, 64, .ro, 0, 71⟩]⟩,
  ⟨.KERB_SPEC_WASTED, 0x1C00158, [(4, 0x1000000), (12, 0x10000)], 8, [
    ⟨0, 64, .ro, 0, 71⟩]⟩,
  ⟨.KERB_SUSPEND, 0x1C00160, [(4, 0x1000000), (12, 0x10000)], 8, [
    ⟨0, 32, .ro, 0, 71⟩, ⟨32, 32, .ro, 0, 71⟩]⟩]

/-- The LGT_ registers (R344). -/
def regRowsLgt : List RegRow := [
  ⟨.LGT_VALUE, 0x8000000, [(65536, 0x10)], 4, [
    ⟨0, 32, .rw, 0, 7⟩]⟩,
  ⟨.LGT_ADD, 0x8000004, [(65536, 0x10)], 4, [
    ⟨0, 32, .wo, 0, 0⟩]⟩,
  ⟨.LGT_CTL, 0x8000008, [(65536, 0x10)], 8, [
    ⟨0, 4, .rw, 0, 7⟩, ⟨4, 1, .w1c, 0, 7⟩, ⟨5, 11, .rsv, 0, 0⟩, ⟨16, 16, .ro, 0, 7⟩,
    ⟨32, 32, .ro, 0, 7⟩]⟩]

/-- The STK_ registers (R372, R502). -/
def regRowsStk : List RegRow := [
  ⟨.STK_STAT, 0x1E00000, [(4, 0x1000000), (3, 0x10000)], 8, [
    ⟨0, 1, .ro, 0, 0⟩, ⟨1, 1, .ro, 0, 0⟩, ⟨2, 1, .ro, 0, 0⟩, ⟨3, 1, .ro, 0, 0⟩,
    ⟨4, 1, .ro, 0, 0⟩, ⟨5, 2, .ro, 0, 0⟩, ⟨7, 1, .rsv, 0, 0⟩, ⟨8, 8, .ro, 0, 0⟩,
    ⟨16, 6, .ro, 0, 0⟩, ⟨22, 10, .rsv, 0, 0⟩, ⟨32, 16, .ro, 0, 3⟩, ⟨48, 16, .rsv, 0, 0⟩]⟩,
  ⟨.STK_ECC, 0x1E00800, [(4, 0x1000000), (3, 0x10000)], 8, [
    ⟨0, 32, .ro, 0, 3⟩, ⟨32, 16, .ro, 0, 3⟩, ⟨48, 16, .ro, 0, 3⟩]⟩,
  ⟨.STK_SPARE, 0x1E00808, [(4, 0x1000000), (3, 0x10000)], 8, [
    ⟨0, 5, .ro, 0, 0⟩, ⟨5, 1, .ro, 0, 0⟩, ⟨6, 1, .ro, 0, 0⟩, ⟨7, 57, .rsv, 0, 0⟩]⟩,
  ⟨.STK_BKT, 0x1E01000, [(4, 0x1000000), (3, 0x10000), (64, 0x8)], 8, [
    ⟨0, 21, .ro, 0, 3⟩, ⟨21, 1, .ro, 0, 0⟩, ⟨22, 10, .rsv, 0, 0⟩, ⟨32, 16, .ro, 0, 3⟩,
    ⟨48, 16, .rsv, 0, 0⟩]⟩]

/-- The ARC_ registers (R372, R502). -/
def regRowsArc : List RegRow := [
  ⟨.ARC_STAT, 0x1D00000, [(4, 0x1000000), (2, 0x10000)], 8, [
    ⟨0, 1, .ro, 0, 0⟩, ⟨1, 1, .ro, 0, 0⟩, ⟨2, 1, .ro, 0, 0⟩, ⟨3, 1, .ro, 0, 0⟩,
    ⟨4, 4, .rsv, 0, 0⟩, ⟨8, 8, .ro, 0, 0⟩, ⟨16, 8, .ro, 0, 0⟩, ⟨24, 8, .rsv, 0, 0⟩,
    ⟨32, 16, .ro, 0, 3⟩, ⟨48, 16, .rsv, 0, 0⟩]⟩,
  ⟨.ARC_ECC, 0x1D00800, [(4, 0x1000000), (2, 0x10000)], 8, [
    ⟨0, 32, .ro, 0, 3⟩, ⟨32, 16, .ro, 0, 3⟩, ⟨48, 16, .ro, 0, 3⟩]⟩,
  ⟨.ARC_BKT, 0x1D01000, [(4, 0x1000000), (2, 0x10000), (512, 0x8)], 8, [
    ⟨0, 21, .ro, 0, 3⟩, ⟨21, 1, .ro, 0, 0⟩, ⟨22, 10, .rsv, 0, 0⟩, ⟨32, 16, .ro, 0, 3⟩,
    ⟨48, 16, .rsv, 0, 0⟩]⟩]

/-- The FTL_ registers (R402, R403, R404). -/
def regRowsFtl : List RegRow := [
  ⟨.FTL_STAT, 0x30000, [], 8, [
    ⟨0, 1, .ro, 0, 0⟩, ⟨1, 1, .ro, 0, 0⟩, ⟨2, 1, .ro, 0, 0⟩, ⟨3, 1, .ro, 0, 0⟩,
    ⟨4, 1, .ro, 0, 0⟩, ⟨5, 3, .rsv, 0, 0⟩, ⟨8, 6, .ro, 0, 0⟩, ⟨14, 2, .rsv, 0, 0⟩,
    ⟨16, 11, .ro, 0, 0⟩, ⟨27, 5, .rsv, 0, 0⟩, ⟨32, 32, .ro, 0, 0⟩]⟩,
  ⟨.FTL_CTL, 0x30008, [], 4, [
    ⟨0, 1, .wo, 0, 0⟩, ⟨1, 1, .rw, 0, 7⟩, ⟨2, 30, .rsv, 0, 0⟩]⟩,
  ⟨.FTL_ERR, 0x3000C, [], 4, [
    ⟨0, 1, .w1c, 0, 3⟩, ⟨1, 1, .w1c, 0, 3⟩, ⟨2, 1, .w1c, 0, 3⟩, ⟨3, 1, .w1c, 0, 3⟩,
    ⟨4, 1, .w1c, 0, 3⟩, ⟨5, 1, .w1c, 0, 3⟩, ⟨6, 1, .w1c, 0, 3⟩, ⟨7, 25, .rsv, 0, 0⟩]⟩,
  ⟨.FTL_SPARE, 0x30010, [], 8, [
    ⟨0, 32, .ro, 0, 0⟩, ⟨32, 12, .ro, 0, 0⟩, ⟨44, 7, .ro, 0, 0⟩, ⟨51, 13, .rsv, 0, 0⟩]⟩,
  ⟨.FTL_WEAR, 0x30018, [], 8, [
    ⟨0, 16, .ro, 0, 0⟩, ⟨16, 16, .ro, 0, 0⟩, ⟨32, 8, .ro, 0, 0⟩, ⟨40, 24, .rsv, 0, 0⟩]⟩,
  ⟨.FTL_RECLAIM, 0x30020, [], 8, [
    ⟨0, 64, .ro, 0, 0⟩]⟩,
  ⟨.FTL_MOVED, 0x30028, [], 8, [
    ⟨0, 64, .ro, 0, 0⟩]⟩,
  ⟨.FTL_HOST_WRITTEN, 0x30030, [], 8, [
    ⟨0, 64, .ro, 0, 0⟩]⟩,
  ⟨.FTL_REWRITE, 0x30038, [], 8, [
    ⟨0, 32, .ro, 0, 3⟩, ⟨32, 32, .ro, 0, 3⟩]⟩,
  ⟨.FTL_RD_SOFT, 0x30040, [], 8, [
    ⟨0, 64, .ro, 0, 3⟩]⟩,
  ⟨.FTL_RD_RETRY, 0x30048, [], 8, [
    ⟨0, 64, .ro, 0, 3⟩]⟩,
  ⟨.FTL_RD_REBUILD, 0x30050, [], 8, [
    ⟨0, 64, .ro, 0, 3⟩]⟩,
  ⟨.FTL_RD_UNREC, 0x30058, [], 8, [
    ⟨0, 64, .ro, 0, 3⟩]⟩,
  ⟨.FTL_SECURE, 0x30060, [], 8, [
    ⟨0, 16, .ro, 0, 0⟩, ⟨16, 16, .ro, 0, 3⟩, ⟨32, 32, .ro, 0, 3⟩]⟩,
  ⟨.FTL_FLUSH, 0x30068, [], 8, [
    ⟨0, 16, .ro, 0, 0⟩, ⟨16, 16, .ro, 0, 0⟩, ⟨32, 32, .ro, 0, 0⟩]⟩,
  ⟨.FTL_JOURNAL, 0x30070, [], 8, [
    ⟨0, 32, .ro, 0, 0⟩, ⟨32, 32, .ro, 0, 3⟩]⟩,
  ⟨.FTL_GRP, 0x31000, [(96, 0x10)], 8, [
    ⟨0, 12, .ro, 0, 0⟩, ⟨12, 5, .ro, 0, 0⟩, ⟨17, 1, .ro, 0, 0⟩, ⟨18, 1, .ro, 0, 0⟩,
    ⟨19, 1, .ro, 0, 0⟩, ⟨20, 12, .ro, 0, 3⟩, ⟨32, 32, .ro, 0, 0⟩]⟩,
  ⟨.FTL_GRP_WEAR, 0x31008, [(96, 0x10)], 8, [
    ⟨0, 16, .ro, 0, 0⟩, ⟨16, 16, .ro, 0, 0⟩, ⟨32, 16, .ro, 0, 0⟩, ⟨48, 16, .rsv, 0, 0⟩]⟩,
  ⟨.FTL_DIE_RETIRED, 0x32000, [(24, 0x8)], 8, [
    ⟨0, 64, .ro, 0, 0⟩]⟩]

/-- The HIF_ registers (R440, R441). -/
def regRowsHif : List RegRow := [
  ⟨.HIF_STAT, 0x20000, [], 8, [
    ⟨0, 2, .ro, 0, 0⟩, ⟨2, 3, .ro, 0, 0⟩, ⟨5, 1, .ro, 0, 0⟩, ⟨6, 1, .ro, 0, 0⟩,
    ⟨7, 1, .rsv, 0, 0⟩, ⟨8, 12, .ro, 0, 0⟩, ⟨20, 12, .rsv, 0, 0⟩, ⟨32, 17, .ro, 0, 0⟩,
    ⟨49, 15, .rsv, 0, 0⟩]⟩,
  ⟨.HIF_CTL, 0x20008, [], 4, [
    ⟨0, 1, .wo, 0, 0⟩, ⟨1, 2, .wo, 0, 0⟩, ⟨3, 29, .rsv, 0, 0⟩]⟩,
  ⟨.HIF_ARB, 0x2000C, [], 4, [
    ⟨0, 8, .rw, 32, 7⟩, ⟨8, 24, .rsv, 0, 0⟩]⟩,
  ⟨.HIF_LOCK, 0x20010, [], 8, [
    ⟨0, 13, .ro, 0, 0⟩, ⟨13, 3, .rsv, 0, 0⟩, ⟨16, 16, .ro, 0, 0⟩, ⟨32, 32, .ro, 0, 7⟩]⟩,
  ⟨.HIF_CMDS, 0x20018, [], 8, [
    ⟨0, 32, .ro, 0, 7⟩, ⟨32, 32, .ro, 0, 7⟩]⟩,
  ⟨.HIF_URGENT, 0x20020, [], 8, [
    ⟨0, 32, .ro, 0, 7⟩, ⟨32, 32, .ro, 0, 7⟩]⟩,
  ⟨.HIF_PORT_STAT, 0x20100, [(2, 0x40)], 8, [
    ⟨0, 2, .ro, 0, 0⟩, ⟨2, 1, .ro, 0, 0⟩, ⟨3, 1, .rsv, 0, 0⟩, ⟨4, 4, .ro, 0, 0⟩,
    ⟨8, 8, .ro, 255, 0⟩, ⟨16, 16, .ro, 0, 3⟩, ⟨32, 16, .ro, 0, 3⟩, ⟨48, 16, .rsv, 0, 0⟩]⟩,
  ⟨.HIF_PORT_CFG, 0x20108, [(2, 0x40)], 4, [
    ⟨0, 1, .rw, 0, 0⟩, ⟨1, 3, .rw, 3, 0⟩, ⟨4, 1, .rw, 1, 0⟩, ⟨5, 3, .rsv, 0, 0⟩,
    ⟨8, 8, .rw, 8, 0⟩, ⟨16, 2, .rw, 2, 0⟩, ⟨18, 14, .rsv, 0, 0⟩]⟩,
  ⟨.HIF_PORT_FEC, 0x20110, [(2, 0x40)], 8, [
    ⟨0, 32, .ro, 0, 135⟩, ⟨32, 32, .ro, 0, 135⟩]⟩,
  ⟨.HIF_QP, 0x24000, [(4096, 0x4)], 4, [
    ⟨0, 1, .ro, 0, 135⟩, ⟨1, 1, .ro, 0, 135⟩, ⟨2, 2, .ro, 2, 0⟩, ⟨4, 4, .ro, 0, 0⟩,
    ⟨8, 1, .ro, 0, 0⟩, ⟨9, 11, .ro, 0, 135⟩, ⟨20, 10, .ro, 0, 135⟩, ⟨30, 2, .rsv, 0, 0⟩]⟩,
  ⟨.HIF_ASSOC_STAT, 0x28000, [(2048, 0x10)], 8, [
    ⟨0, 1, .ro, 0, 135⟩, ⟨1, 1, .ro, 0, 135⟩, ⟨2, 1, .ro, 0, 135⟩, ⟨3, 1, .ro, 0, 135⟩,
    ⟨4, 4, .rsv, 0, 0⟩, ⟨8, 12, .ro, 0, 135⟩, ⟨20, 9, .ro, 0, 135⟩, ⟨29, 3, .rsv, 0, 0⟩,
    ⟨32, 16, .ro, 0, 135⟩, ⟨48, 16, .rsv, 0, 0⟩]⟩,
  ⟨.HIF_ASSOC_PEER, 0x28008, [(2048, 0x10)], 8, [
    ⟨0, 2, .ro, 0, 135⟩, ⟨2, 6, .rsv, 0, 0⟩, ⟨8, 8, .ro, 0, 135⟩, ⟨16, 16, .ro, 0, 135⟩,
    ⟨32, 32, .rsv, 0, 0⟩]⟩]

/-- The TIME_ registers (R457). -/
def regRowsTime : List RegRow := [
  ⟨.TIME_STAT, 0xB000000, [], 8, [
    ⟨0, 3, .ro, 0, 3⟩, ⟨3, 1, .ro, 1, 3⟩, ⟨4, 2, .ro, 0, 3⟩, ⟨6, 1, .ro, 0, 0⟩,
    ⟨7, 1, .rsv, 0, 0⟩, ⟨8, 8, .ro, 255, 3⟩, ⟨16, 16, .ro, 0, 3⟩, ⟨32, 32, .ro, 0, 3⟩]⟩,
  ⟨.TIME_CTL, 0xB000008, [], 4, [
    ⟨0, 1, .rw, 0, 7⟩, ⟨1, 1, .rw, 1, 7⟩, ⟨2, 30, .rsv, 0, 0⟩]⟩,
  ⟨.TIME_PERIOD, 0xB00000C, [], 4, [
    ⟨0, 32, .ro, 1000, 0⟩]⟩,
  ⟨.TIME_NOW, 0xB000010, [], 8, [
    ⟨0, 64, .ro, 0, 0⟩]⟩,
  ⟨.TIME_BEAT, 0xB000018, [], 8, [
    ⟨0, 64, .ro, 0, 0⟩]⟩,
  ⟨.TIME_OFFSET, 0xB000020, [], 8, [
    ⟨0, 64, .ro, 0, 3⟩]⟩,
  ⟨.TIME_GM_ID, 0xB000028, [], 8, [
    ⟨0, 64, .ro, 0, 3⟩]⟩,
  ⟨.TIME_SET, 0xB000030, [], 8, [
    ⟨0, 64, .wo, 0, 0⟩]⟩,
  ⟨.TIME_EVENTS, 0xB000038, [], 8, [
    ⟨0, 16, .ro, 0, 3⟩, ⟨16, 16, .ro, 0, 3⟩, ⟨32, 16, .ro, 0, 3⟩, ⟨48, 16, .rsv, 0, 0⟩]⟩]

/-- The PWR_ registers (R478). -/
def regRowsPwr : List RegRow := [
  ⟨.PWR_STAT, 0x10000, [], 8, [
    ⟨0, 16, .ro, 0, 0⟩, ⟨16, 16, .ro, 1600, 0⟩, ⟨32, 1, .ro, 0, 0⟩, ⟨33, 1, .ro, 0, 0⟩,
    ⟨34, 1, .w1c, 0, 3⟩, ⟨35, 29, .rsv, 0, 0⟩]⟩,
  ⟨.PWR_CTL, 0x10008, [], 4, [
    ⟨0, 1, .wo, 0, 0⟩, ⟨1, 1, .rw, 0, 7⟩, ⟨2, 30, .rsv, 0, 0⟩]⟩,
  ⟨.PWR_RAIL, 0x10100, [(14, 0x8)], 8, [
    ⟨0, 16, .ro, 0, 0⟩, ⟨16, 16, .ro, 0, 0⟩, ⟨32, 16, .rc, 0, 3⟩, ⟨48, 16, .rsv, 0, 0⟩]⟩,
  ⟨.PWR_QTR, 0x10400, [(4, 0x8)], 8, [
    ⟨0, 10, .ro, 350, 0⟩, ⟨10, 10, .ro, 350, 0⟩, ⟨20, 12, .ro, 0, 0⟩, ⟨32, 32, .ro, 0, 3⟩]⟩,
  ⟨.PWR_LOOP, 0x10800, [(12, 0x8)], 8, [
    ⟨0, 32, .ro, 0, 3⟩, ⟨32, 16, .ro, 0, 3⟩, ⟨48, 1, .ro, 0, 0⟩, ⟨49, 15, .rsv, 0, 0⟩]⟩,
  ⟨.PWR_TEMP, 0x11080, [(210, 0x8)], 8, [
    ⟨0, 16, .ro, 0, 0⟩, ⟨16, 16, .rc, 0, 3⟩, ⟨32, 1, .ro, 0, 0⟩, ⟨33, 31, .rsv, 0, 0⟩]⟩]

/-- The DEV_ registers (R523). -/
def regRowsDev : List RegRow := [
  ⟨.DEV_ID, 0x0, [], 8, [
    ⟨0, 16, .ro, 38464, 0⟩, ⟨16, 4, .ro, 0, 0⟩, ⟨20, 12, .rsv, 0, 0⟩, ⟨32, 32, .ro, 0, 0⟩]⟩,
  ⟨.DEV_CTL, 0x8, [], 4, [
    ⟨0, 1, .wo, 0, 0⟩, ⟨1, 31, .rsv, 0, 0⟩]⟩,
  ⟨.DEV_RESET, 0xC, [], 4, [
    ⟨0, 4, .wo, 0, 0⟩, ⟨4, 4, .rsv, 0, 0⟩, ⟨8, 2, .wo, 0, 0⟩, ⟨10, 6, .rsv, 0, 0⟩,
    ⟨16, 9, .wo, 0, 0⟩, ⟨25, 7, .rsv, 0, 0⟩]⟩,
  ⟨.DEV_SQ, 0x10, [], 8, [
    ⟨0, 1, .ro, 0, 0⟩, ⟨1, 2, .ro, 0, 0⟩, ⟨3, 2, .ro, 1, 0⟩, ⟨5, 11, .rsv, 0, 0⟩,
    ⟨16, 16, .ro, 0, 3⟩, ⟨32, 8, .ro, 0, 3⟩, ⟨40, 24, .rsv, 0, 0⟩]⟩,
  ⟨.DEV_RESET_LOG, 0x18, [], 8, [
    ⟨0, 8, .ro, 67, 0⟩, ⟨8, 8, .ro, 0, 0⟩, ⟨16, 16, .ro, 0, 0⟩, ⟨32, 16, .ro, 0, 0⟩,
    ⟨48, 16, .ro, 0, 0⟩]⟩,
  ⟨.DEV_BOOT, 0x20, [], 8, [
    ⟨0, 4, .ro, 0, 0⟩, ⟨4, 4, .ro, 0, 0⟩, ⟨8, 1, .ro, 0, 0⟩, ⟨9, 1, .ro, 0, 0⟩,
    ⟨10, 22, .rsv, 0, 0⟩, ⟨32, 32, .ro, 0, 0⟩]⟩,
  ⟨.DEV_LIFE, 0x28, [], 8, [
    ⟨0, 32, .ro, 0, 0⟩, ⟨32, 32, .ro, 0, 0⟩]⟩,
  ⟨.DEV_CFG_STAT, 0x40, [(2, 0x10)], 8, [
    ⟨0, 12, .ro, 0, 0⟩, ⟨12, 12, .ro, 0, 0⟩, ⟨24, 1, .ro, 0, 0⟩, ⟨25, 1, .ro, 0, 0⟩,
    ⟨26, 6, .ro, 0, 0⟩, ⟨32, 16, .ro, 0, 0⟩, ⟨48, 16, .ro, 0, 3⟩]⟩,
  ⟨.DEV_CFG_WEAR, 0x48, [(2, 0x10)], 8, [
    ⟨0, 32, .ro, 0, 0⟩, ⟨32, 17, .ro, 0, 0⟩, ⟨49, 15, .rsv, 0, 0⟩]⟩]

/-- The SEC_ registers (R541). -/
def regRowsSec : List RegRow := [
  ⟨.SEC_STAT, 0xC000000, [], 8, [
    ⟨0, 1, .ro, 0, 0⟩, ⟨1, 1, .ro, 0, 0⟩, ⟨2, 1, .ro, 0, 0⟩, ⟨3, 1, .ro, 0, 0⟩,
    ⟨4, 4, .rsv, 0, 0⟩, ⟨8, 8, .ro, 0, 3⟩, ⟨16, 16, .rsv, 0, 0⟩, ⟨32, 32, .ro, 0, 3⟩]⟩,
  ⟨.SEC_CTL, 0xC000008, [], 4, [
    ⟨0, 1, .wo, 0, 0⟩, ⟨1, 31, .rsv, 0, 0⟩]⟩,
  ⟨.SEC_KEYS, 0xC00000C, [], 4, [
    ⟨0, 16, .ro, 3, 0⟩, ⟨16, 16, .ro, 0, 0⟩]⟩,
  ⟨.SEC_ROLLBACK, 0xC000010, [], 8, [
    ⟨0, 32, .ro, 0, 0⟩, ⟨32, 32, .ro, 0, 0⟩]⟩,
  ⟨.SEC_NSKEY, 0xC000018, [], 4, [
    ⟨0, 32, .ro, 0, 0⟩]⟩,
  ⟨.SEC_IDHASH, 0xC000020, [(4, 0x8)], 8, [
    ⟨0, 64, .ro, 0, 0⟩]⟩,
  ⟨.SEC_ATTEST, 0xC000040, [], 8, [
    ⟨0, 32, .ro, 0, 0⟩, ⟨32, 16, .ro, 0, 3⟩, ⟨48, 1, .ro, 0, 0⟩, ⟨49, 15, .rsv, 0, 0⟩]⟩,
  ⟨.SEC_MON, 0xC000048, [], 8, [
    ⟨0, 2, .ro, 0, 7⟩, ⟨2, 1, .ro, 0, 3⟩, ⟨3, 5, .rsv, 0, 0⟩, ⟨8, 8, .ro, 0, 3⟩,
    ⟨16, 16, .rsv, 0, 0⟩, ⟨32, 32, .ro, 0, 3⟩]⟩,
  ⟨.SEC_MEAS, 0xC000100, [(8, 0x20), (4, 0x8)], 8, [
    ⟨0, 64, .ro, 0, 7⟩]⟩]

/-- The TRC_ registers (R562). -/
def regRowsTrc : List RegRow := [
  ⟨.TRC_STAT, 0x9000000, [], 8, [
    ⟨0, 2, .ro, 0, 3⟩, ⟨2, 1, .ro, 0, 3⟩, ⟨3, 1, .ro, 0, 3⟩, ⟨4, 20, .ro, 0, 3⟩,
    ⟨24, 8, .rsv, 0, 0⟩, ⟨32, 20, .ro, 0, 3⟩, ⟨52, 12, .ro, 0, 3⟩]⟩,
  ⟨.TRC_CTL, 0x9000008, [], 4, [
    ⟨0, 2, .rw, 0, 3⟩, ⟨2, 1, .rw, 0, 3⟩, ⟨3, 1, .wo, 0, 0⟩, ⟨4, 1, .wo, 0, 0⟩,
    ⟨5, 1, .wo, 0, 0⟩, ⟨6, 4, .rw, 0, 3⟩, ⟨10, 22, .rsv, 0, 0⟩]⟩,
  ⟨.TRC_CLASS, 0x900000C, [], 4, [
    ⟨0, 6, .rw, 14, 3⟩, ⟨6, 26, .rsv, 0, 0⟩]⟩,
  ⟨.TRC_TRIG, 0x9000010, [], 8, [
    ⟨0, 8, .rw, 0, 3⟩, ⟨8, 8, .rsv, 0, 0⟩, ⟨16, 16, .rw, 0, 3⟩, ⟨32, 16, .rw, 0, 3⟩,
    ⟨48, 1, .rw, 0, 3⟩, ⟨49, 1, .rw, 0, 3⟩, ⟨50, 1, .rw, 0, 3⟩, ⟨51, 2, .rw, 0, 3⟩,
    ⟨53, 11, .rsv, 0, 0⟩]⟩,
  ⟨.TRC_RD_PTR, 0x9000018, [], 4, [
    ⟨0, 20, .rw, 0, 3⟩, ⟨20, 12, .rsv, 0, 0⟩]⟩,
  ⟨.TRC_TELEM, 0x900001C, [], 4, [
    ⟨0, 16, .rw, 1000, 3⟩, ⟨16, 1, .rw, 1, 3⟩, ⟨17, 15, .rsv, 0, 0⟩]⟩,
  ⟨.TRC_LOST, 0x9000020, [], 8, [
    ⟨0, 32, .ro, 0, 3⟩, ⟨32, 32, .ro, 0, 3⟩]⟩,
  ⟨.TRC_TELEM_RD, 0x9000028, [], 4, [
    ⟨0, 20, .rw, 0, 7⟩, ⟨20, 12, .rsv, 0, 0⟩]⟩]

/-- Every register row. -/
def regRows : List RegRow :=
  regRowsPlan ++ regRowsCnt ++ regRowsCell ++ regRowsBlk ++ regRowsKerb ++ regRowsLgt ++ regRowsStk ++ regRowsArc ++
  regRowsFtl ++ regRowsHif ++ regRowsTime ++ regRowsPwr ++ regRowsDev ++ regRowsSec ++ regRowsTrc

/-! The address of each register. -/

namespace Reg

def PLAN_STAT : Nat := 0xA000000
def PLAN_CTL : Nat := 0xA000008
def PLAN_ERR : Nat := 0xA00000C
def PLAN_ROLLBACK : Nat := 0xA000010
def PLAN_CNT : Nat := 0xA000018
def PLAN_SLOT (i : Nat) : Nat := 0xA000040 + 0x8 * i
def CNT_FMT_FLAGS (d : Nat) : Nat := 0x9000800 + 0x8 * d
def CELL_STAT (b c : Nat) : Nat := 0x1110000 + 0x1000000 * (b / 72) + 0x20000 * (b % 72) + 0x4000 * c
def CELL_ERR (b c : Nat) : Nat := 0x1110008 + 0x1000000 * (b / 72) + 0x20000 * (b % 72) + 0x4000 * c
def CELL_ERR_LOC (b c : Nat) : Nat := 0x111000C + 0x1000000 * (b / 72) + 0x20000 * (b % 72) + 0x4000 * c
def CELL_ARB (b c : Nat) : Nat := 0x1110010 + 0x1000000 * (b / 72) + 0x20000 * (b % 72) + 0x4000 * c
def CELL_INJECT (b c : Nat) : Nat := 0x1110014 + 0x1000000 * (b / 72) + 0x20000 * (b % 72) + 0x4000 * c
def CELL_PASSES (b c : Nat) : Nat := 0x1110018 + 0x1000000 * (b / 72) + 0x20000 * (b % 72) + 0x4000 * c
def CELL_ROWS (b c : Nat) : Nat := 0x1110020 + 0x1000000 * (b / 72) + 0x20000 * (b % 72) + 0x4000 * c
def CELL_STALL (b c : Nat) : Nat := 0x1110028 + 0x1000000 * (b / 72) + 0x20000 * (b % 72) + 0x4000 * c
def CELL_LOADS (b c : Nat) : Nat := 0x1110030 + 0x1000000 * (b / 72) + 0x20000 * (b % 72) + 0x4000 * c
def BLK_ARRAY_STAT (b : Nat) : Nat := 0x1100800 + 0x1000000 * (b / 72) + 0x20000 * (b % 72)
def BLK_ARRAY_BCAST (b : Nat) : Nat := 0x1100808 + 0x1000000 * (b / 72) + 0x20000 * (b % 72)
def BLK_ARRAY_ABORTS (b : Nat) : Nat := 0x1100810 + 0x1000000 * (b / 72) + 0x20000 * (b % 72)
def BLK_STAT (b : Nat) : Nat := 0x1100000 + 0x1000000 * (b / 72) + 0x20000 * (b % 72)
def BLK_CTL (b : Nat) : Nat := 0x1100008 + 0x1000000 * (b / 72) + 0x20000 * (b % 72)
def BLK_QUEUE (b : Nat) : Nat := 0x1100018 + 0x1000000 * (b / 72) + 0x20000 * (b % 72)
def BLK_ERR (b : Nat) : Nat := 0x110000C + 0x1000000 * (b / 72) + 0x20000 * (b % 72)
def BLK_ERR_ADDR (b : Nat) : Nat := 0x1100010 + 0x1000000 * (b / 72) + 0x20000 * (b % 72)
def BLK_BANK (b : Nat) : Nat := 0x1100014 + 0x1000000 * (b / 72) + 0x20000 * (b % 72)
def BLK_BMWIN (b d : Nat) : Nat := 0x1100040 + 0x1000000 * (b / 72) + 0x20000 * (b % 72) + 0x4 * d
def BLK_CMDS (b : Nat) : Nat := 0x1100100 + 0x1000000 * (b / 72) + 0x20000 * (b % 72)
def BLK_DMA_BYTES (b : Nat) : Nat := 0x1100108 + 0x1000000 * (b / 72) + 0x20000 * (b % 72)
def BLK_ECC (b : Nat) : Nat := 0x1100110 + 0x1000000 * (b / 72) + 0x20000 * (b % 72)
def BLK_ARRAY_SKIP (b : Nat) : Nat := 0x1100818 + 0x1000000 * (b / 72) + 0x20000 * (b % 72)
def BLK_ARRAY_SPARSE (b : Nat) : Nat := 0x1100820 + 0x1000000 * (b / 72) + 0x20000 * (b % 72)
def BLK_ROUTE_TOKENS (b : Nat) : Nat := 0x1100828 + 0x1000000 * (b / 72) + 0x20000 * (b % 72)
def BLK_ROUTE_SPILL (b : Nat) : Nat := 0x1100830 + 0x1000000 * (b / 72) + 0x20000 * (b % 72)
def KERB_STAT (k : Nat) : Nat := 0x1C00000 + 0x1000000 * (k / 12) + 0x10000 * (k % 12)
def KERB_CTL (k : Nat) : Nat := 0x1C00008 + 0x1000000 * (k / 12) + 0x10000 * (k % 12)
def KERB_ARB (k : Nat) : Nat := 0x1C00018 + 0x1000000 * (k / 12) + 0x10000 * (k % 12)
def KERB_QUERY (k : Nat) : Nat := 0x1C00020 + 0x1000000 * (k / 12) + 0x10000 * (k % 12)
def KERB_CACHE (k : Nat) : Nat := 0x1C00028 + 0x1000000 * (k / 12) + 0x10000 * (k % 12)
def KERB_ERR (k : Nat) : Nat := 0x1C0000C + 0x1000000 * (k / 12) + 0x10000 * (k % 12)
def KERB_ERR_LOC (k : Nat) : Nat := 0x1C00010 + 0x1000000 * (k / 12) + 0x10000 * (k % 12)
def KERB_CH_STAT (k ch : Nat) : Nat := 0x1C01000 + 0x1000000 * (k / 12) + 0x10000 * (k % 12) + 0x20 * ch
def KERB_CH_PIECES (k ch : Nat) : Nat := 0x1C01008 + 0x1000000 * (k / 12) + 0x10000 * (k % 12) + 0x20 * ch
def LGT_VALUE (l : Nat) : Nat := 0x8000000 + 0x10 * l
def LGT_ADD (l : Nat) : Nat := 0x8000004 + 0x10 * l
def LGT_CTL (l : Nat) : Nat := 0x8000008 + 0x10 * l
def CNT_DIST_STAT (d : Nat) : Nat := 0x9001000 + 0x100 * d
def CNT_DIST_ARRAY (d : Nat) : Nat := 0x9001008 + 0x100 * d
def CNT_DIST_VECTOR (d : Nat) : Nat := 0x9001010 + 0x100 * d
def CNT_DIST_DMA (d : Nat) : Nat := 0x9001018 + 0x100 * d
def CNT_DIST_KERB (d : Nat) : Nat := 0x9001020 + 0x100 * d
def CNT_DIST_T0 (d : Nat) : Nat := 0x9001028 + 0x100 * d
def CNT_DIST_T1 (d : Nat) : Nat := 0x9001030 + 0x100 * d
def CNT_DIST_T2 (d : Nat) : Nat := 0x9001038 + 0x100 * d
def CNT_DIST_T2W (d : Nat) : Nat := 0x9001040 + 0x100 * d
def CNT_DIST_T3 (d : Nat) : Nat := 0x9001048 + 0x100 * d
def CNT_DIST_P0IN (d : Nat) : Nat := 0x9001050 + 0x100 * d
def CNT_DIST_P0OUT (d : Nat) : Nat := 0x9001058 + 0x100 * d
def CNT_DIST_P1IN (d : Nat) : Nat := 0x9001060 + 0x100 * d
def CNT_DIST_P1OUT (d : Nat) : Nat := 0x9001068 + 0x100 * d
def CNT_DIST_ENERGY (d : Nat) : Nat := 0x9001070 + 0x100 * d
def CNT_DIST_CMDS (d : Nat) : Nat := 0x9001078 + 0x100 * d
def CNT_DIST_THROTTLE (d : Nat) : Nat := 0x9001080 + 0x100 * d
def CNT_ENERGY_UNATTR : Nat := 0x9002000
def CNT_ABORTS : Nat := 0x9002008
def STK_STAT (s : Nat) : Nat := 0x1E00000 + 0x1000000 * (s / 3) + 0x10000 * (s % 3)
def ARC_STAT (a : Nat) : Nat := 0x1D00000 + 0x1000000 * (a / 2) + 0x10000 * (a % 2)
def FTL_STAT : Nat := 0x30000
def FTL_CTL : Nat := 0x30008
def FTL_ERR : Nat := 0x3000C
def FTL_SPARE : Nat := 0x30010
def FTL_WEAR : Nat := 0x30018
def FTL_RECLAIM : Nat := 0x30020
def FTL_MOVED : Nat := 0x30028
def FTL_HOST_WRITTEN : Nat := 0x30030
def FTL_REWRITE : Nat := 0x30038
def FTL_RD_SOFT : Nat := 0x30040
def FTL_RD_RETRY : Nat := 0x30048
def FTL_RD_REBUILD : Nat := 0x30050
def FTL_RD_UNREC : Nat := 0x30058
def FTL_SECURE : Nat := 0x30060
def FTL_FLUSH : Nat := 0x30068
def FTL_JOURNAL : Nat := 0x30070
def FTL_GRP (g : Nat) : Nat := 0x31000 + 0x10 * g
def FTL_GRP_WEAR (g : Nat) : Nat := 0x31008 + 0x10 * g
def FTL_DIE_RETIRED (w : Nat) : Nat := 0x32000 + 0x8 * w
def HIF_STAT : Nat := 0x20000
def HIF_CTL : Nat := 0x20008
def HIF_ARB : Nat := 0x2000C
def HIF_LOCK : Nat := 0x20010
def HIF_CMDS : Nat := 0x20018
def HIF_URGENT : Nat := 0x20020
def HIF_PORT_STAT (p : Nat) : Nat := 0x20100 + 0x40 * p
def HIF_PORT_CFG (p : Nat) : Nat := 0x20108 + 0x40 * p
def HIF_PORT_FEC (p : Nat) : Nat := 0x20110 + 0x40 * p
def HIF_QP (n : Nat) : Nat := 0x24000 + 0x4 * n
def HIF_ASSOC_STAT (a : Nat) : Nat := 0x28000 + 0x10 * a
def HIF_ASSOC_PEER (a : Nat) : Nat := 0x28008 + 0x10 * a
def TIME_STAT : Nat := 0xB000000
def TIME_CTL : Nat := 0xB000008
def TIME_PERIOD : Nat := 0xB00000C
def TIME_NOW : Nat := 0xB000010
def TIME_BEAT : Nat := 0xB000018
def TIME_OFFSET : Nat := 0xB000020
def TIME_GM_ID : Nat := 0xB000028
def TIME_SET : Nat := 0xB000030
def TIME_EVENTS : Nat := 0xB000038
def PWR_STAT : Nat := 0x10000
def PWR_CTL : Nat := 0x10008
def PWR_RAIL (i : Nat) : Nat := 0x10100 + 0x8 * i
def PWR_QTR (q : Nat) : Nat := 0x10400 + 0x8 * q
def PWR_LOOP (l : Nat) : Nat := 0x10800 + 0x8 * l
def PWR_TEMP (s : Nat) : Nat := 0x11000 + 0x8 * s
def CNT_CONTAIN : Nat := 0x9003000
def CNT_CONTAIN_CNT : Nat := 0x9003008
def STK_ECC (s : Nat) : Nat := 0x1E00800 + 0x1000000 * (s / 3) + 0x10000 * (s % 3)
def ARC_ECC (a : Nat) : Nat := 0x1D00800 + 0x1000000 * (a / 2) + 0x10000 * (a % 2)
def STK_SPARE (s : Nat) : Nat := 0x1E00808 + 0x1000000 * (s / 3) + 0x10000 * (s % 3)
def STK_BKT (s r : Nat) : Nat := 0x1E01000 + 0x1000000 * (s / 3) + 0x10000 * (s % 3) + 0x8 * r
def ARC_BKT (a r : Nat) : Nat := 0x1D01000 + 0x1000000 * (a / 2) + 0x10000 * (a % 2) + 0x8 * r
def DEV_ID : Nat := 0x0
def DEV_CTL : Nat := 0x8
def DEV_RESET : Nat := 0xC
def DEV_SQ : Nat := 0x10
def DEV_RESET_LOG : Nat := 0x18
def DEV_BOOT : Nat := 0x20
def DEV_LIFE : Nat := 0x28
def DEV_CFG_STAT (s : Nat) : Nat := 0x40 + 0x10 * s
def DEV_CFG_WEAR (s : Nat) : Nat := 0x48 + 0x10 * s
def SEC_STAT : Nat := 0xC000000
def SEC_CTL : Nat := 0xC000008
def SEC_KEYS : Nat := 0xC00000C
def SEC_ROLLBACK : Nat := 0xC000010
def SEC_NSKEY : Nat := 0xC000018
def SEC_IDHASH (i : Nat) : Nat := 0xC000020 + 0x8 * i
def SEC_ATTEST : Nat := 0xC000040
def SEC_MON : Nat := 0xC000048
def SEC_MEAS (r i : Nat) : Nat := 0xC000100 + 0x20 * r + 0x8 * i
def TRC_STAT : Nat := 0x9000000
def TRC_CTL : Nat := 0x9000008
def TRC_CLASS : Nat := 0x900000C
def TRC_TRIG : Nat := 0x9000010
def TRC_RD_PTR : Nat := 0x9000018
def TRC_TELEM : Nat := 0x900001C
def TRC_LOST : Nat := 0x9000020
def TRC_TELEM_RD : Nat := 0x9000028
def CNT_OP (g i : Nat) : Nat := 0x9010000 + 0x200 * g + 0x8 * i
def KERB_MAC8 (k : Nat) : Nat := 0x1C00100 + 0x1000000 * (k / 12) + 0x10000 * (k % 12)
def KERB_MAC4 (k : Nat) : Nat := 0x1C00108 + 0x1000000 * (k / 12) + 0x10000 * (k % 12)
def KERB_PG_HIGH (k : Nat) : Nat := 0x1C00110 + 0x1000000 * (k / 12) + 0x10000 * (k % 12)
def KERB_PG_LOW (k : Nat) : Nat := 0x1C00118 + 0x1000000 * (k / 12) + 0x10000 * (k % 12)
def KERB_PG_SIDE (k : Nat) : Nat := 0x1C00120 + 0x1000000 * (k / 12) + 0x10000 * (k % 12)
def KERB_PG_OTHER (k : Nat) : Nat := 0x1C00128 + 0x1000000 * (k / 12) + 0x10000 * (k % 12)
def KERB_PRUNE (k : Nat) : Nat := 0x1C00130 + 0x1000000 * (k / 12) + 0x10000 * (k % 12)
def KERB_FILTERED (k : Nat) : Nat := 0x1C00138 + 0x1000000 * (k / 12) + 0x10000 * (k % 12)
def KERB_CACHE_HIT (k : Nat) : Nat := 0x1C00140 + 0x1000000 * (k / 12) + 0x10000 * (k % 12)
def KERB_CACHE_MISS (k : Nat) : Nat := 0x1C00148 + 0x1000000 * (k / 12) + 0x10000 * (k % 12)
def KERB_SPEC_ISSUED (k : Nat) : Nat := 0x1C00150 + 0x1000000 * (k / 12) + 0x10000 * (k % 12)
def KERB_SPEC_WASTED (k : Nat) : Nat := 0x1C00158 + 0x1000000 * (k / 12) + 0x10000 * (k % 12)
def KERB_SUSPEND (k : Nat) : Nat := 0x1C00160 + 0x1000000 * (k / 12) + 0x10000 * (k % 12)
def PLAN_DIGEST (i : Nat) : Nat := 0xA000020 + 0x8 * i

end Reg

/-! The place of each named field. -/

namespace Fld

def PLAN_STAT_STANDING_VALID : Fld := ⟨0, 1⟩
def PLAN_STAT_PENDING : Fld := ⟨1, 1⟩
def PLAN_STAT_COMMITTED : Fld := ⟨8, 8⟩
def PLAN_STAT_UNCOMMITTED : Fld := ⟨16, 8⟩
def PLAN_STAT_ANNOTATIONS : Fld := ⟨24, 8⟩
def PLAN_STAT_LAST_SEQ : Fld := ⟨32, 32⟩
def PLAN_CTL_AMEND_LOCK : Fld := ⟨0, 1⟩
def PLAN_CTL_ABANDON : Fld := ⟨4, 4⟩
def PLAN_ERR_CAUSE : Fld := ⟨0, 8⟩
def PLAN_ERR_SECTION : Fld := ⟨16, 16⟩
def PLAN_ROLLBACK_COUNTER : Fld := ⟨0, 32⟩
def PLAN_CNT_APPLIED : Fld := ⟨0, 32⟩
def PLAN_CNT_REJECTED : Fld := ⟨32, 32⟩
def PLAN_SLOT_STATE : Fld := ⟨0, 4⟩
def PLAN_SLOT_SCOPE_KIND : Fld := ⟨4, 4⟩
def PLAN_SLOT_SCOPE_INDEX : Fld := ⟨8, 12⟩
def PLAN_SLOT_SEQUENCE : Fld := ⟨32, 32⟩
def CNT_FMT_FLAGS_INVALID : Fld := ⟨0, 1⟩
def CNT_FMT_FLAGS_DIV_BY_ZERO : Fld := ⟨1, 1⟩
def CNT_FMT_FLAGS_OVERFLOW : Fld := ⟨2, 1⟩
def CNT_FMT_FLAGS_UNDERFLOW : Fld := ⟨3, 1⟩
def CNT_FMT_FLAGS_INEXACT : Fld := ⟨4, 1⟩
def CNT_FMT_FLAGS_SATURATED : Fld := ⟨5, 1⟩
def CNT_FMT_FLAGS_FLUSH_IN : Fld := ⟨6, 1⟩
def CNT_FMT_FLAGS_FLUSH_OUT : Fld := ⟨7, 1⟩
def CNT_FMT_FLAGS_SAT_COUNT : Fld := ⟨32, 32⟩
def CELL_STAT_FENCED : Fld := ⟨0, 1⟩
def CELL_STAT_QUADRANT : Fld := ⟨1, 1⟩
def CELL_STAT_PASS_ACTIVE : Fld := ⟨2, 1⟩
def CELL_STAT_FRONT_VALID : Fld := ⟨3, 1⟩
def CELL_STAT_SHADOW_VALID : Fld := ⟨4, 1⟩
def CELL_STAT_SHADOW_LOADING : Fld := ⟨5, 1⟩
def CELL_STAT_FRONT_DISTRICT : Fld := ⟨8, 4⟩
def CELL_STAT_SHADOW_DISTRICT : Fld := ⟨12, 4⟩
def CELL_STAT_MODE : Fld := ⟨16, 4⟩
def CELL_STAT_FORMAT : Fld := ⟨20, 4⟩
def CELL_STAT_FRONT_HANDLE : Fld := ⟨32, 16⟩
def CELL_STAT_SHADOW_HANDLE : Fld := ⟨48, 16⟩
def CELL_ERR_WBUF_FRONT : Fld := ⟨0, 1⟩
def CELL_ERR_WBUF_SHADOW : Fld := ⟨1, 1⟩
def CELL_ERR_PLANE : Fld := ⟨2, 1⟩
def CELL_ERR_BROADCAST : Fld := ⟨3, 1⟩
def CELL_ERR_ACCUM : Fld := ⟨4, 1⟩
def CELL_ERR_SCALE : Fld := ⟨5, 1⟩
def CELL_ERR_MULTIPLE : Fld := ⟨8, 1⟩
def CELL_ERR_LOC_ENTRY : Fld := ⟨0, 16⟩
def CELL_ERR_LOC_COLUMN : Fld := ⟨16, 8⟩
def CELL_ARB_SHADOW_WEIGHT : Fld := ⟨0, 16⟩
def CELL_ARB_DRAIN_WEIGHT : Fld := ⟨16, 16⟩
def CELL_INJECT_TARGET : Fld := ⟨0, 3⟩
def CELL_INJECT_ARM : Fld := ⟨3, 1⟩
def CELL_PASSES_PASSES : Fld := ⟨0, 64⟩
def CELL_ROWS_ROWS : Fld := ⟨0, 64⟩
def CELL_STALL_SHADOW : Fld := ⟨0, 32⟩
def CELL_STALL_DRAIN : Fld := ⟨32, 32⟩
def CELL_LOADS_LOADED : Fld := ⟨0, 32⟩
def CELL_LOADS_REUSED : Fld := ⟨32, 32⟩
def BLK_ARRAY_STAT_IN_SERVICE : Fld := ⟨0, 4⟩
def BLK_ARRAY_STAT_QUADRANT : Fld := ⟨4, 4⟩
def BLK_ARRAY_STAT_ARRAY_BUSY : Fld := ⟨8, 1⟩
def BLK_ARRAY_STAT_CMD_TAG : Fld := ⟨16, 16⟩
def BLK_ARRAY_STAT_PASSES_LEFT : Fld := ⟨32, 16⟩
def BLK_ARRAY_BCAST_ROWS : Fld := ⟨0, 64⟩
def BLK_ARRAY_ABORTS_CELL_FAULT : Fld := ⟨0, 16⟩
def BLK_STAT_ROLE : Fld := ⟨0, 2⟩
def BLK_STAT_HOME_DISTRICT : Fld := ⟨2, 4⟩
def BLK_STAT_OCCUPIED : Fld := ⟨6, 5⟩
def BLK_STAT_RUN_SLOT : Fld := ⟨11, 4⟩
def BLK_STAT_RUN_DISTRICT : Fld := ⟨15, 4⟩
def BLK_STAT_RUNNING : Fld := ⟨19, 1⟩
def BLK_STAT_LOGICAL : Fld := ⟨24, 8⟩
def BLK_CTL_COUNT_CLEAR : Fld := ⟨0, 1⟩
def BLK_CTL_ECC_INJECT : Fld := ⟨1, 1⟩
def BLK_ERR_BM_UNCORR : Fld := ⟨0, 1⟩
def BLK_ERR_WATCHDOG : Fld := ⟨1, 1⟩
def BLK_ERR_QUEUE : Fld := ⟨2, 1⟩
def BLK_ERR_MULTIPLE : Fld := ⟨3, 1⟩
def BLK_ERR_ADDR_ADDR : Fld := ⟨0, 23⟩
def BLK_BANK_IN_USE : Fld := ⟨0, 1⟩
def BLK_BANK_BACK_WRITTEN : Fld := ⟨1, 1⟩
def BLK_BANK_SWAPS : Fld := ⟨16, 16⟩
def BLK_BMWIN_BASE : Fld := ⟨0, 8⟩
def BLK_BMWIN_LENGTH : Fld := ⟨8, 8⟩
def BLK_CMDS_COMPLETED : Fld := ⟨0, 32⟩
def BLK_CMDS_ABORTED : Fld := ⟨32, 32⟩
def BLK_DMA_BYTES_BYTES : Fld := ⟨0, 64⟩
def BLK_ECC_CORRECTED : Fld := ⟨0, 32⟩
def BLK_ARRAY_SKIP_ROWS : Fld := ⟨0, 64⟩
def BLK_ARRAY_SPARSE_PASSES : Fld := ⟨0, 32⟩
def BLK_ARRAY_SPARSE_META_ERR : Fld := ⟨32, 16⟩
def BLK_ROUTE_TOKENS_PLACED : Fld := ⟨0, 32⟩
def BLK_ROUTE_TOKENS_DROPPED : Fld := ⟨32, 32⟩
def BLK_ROUTE_SPILL_SPILLED : Fld := ⟨0, 32⟩
def BLK_ROUTE_SPILL_NAN_SCORES : Fld := ⟨32, 32⟩
def KERB_STAT_ONLINE : Fld := ⟨0, 1⟩
def KERB_STAT_LINK : Fld := ⟨1, 1⟩
def KERB_STAT_PREFERRED : Fld := ⟨2, 1⟩
def KERB_STAT_RESETTING : Fld := ⟨3, 1⟩
def KERB_STAT_QUIESCED : Fld := ⟨4, 1⟩
def KERB_STAT_CHANNELS_OK : Fld := ⟨8, 8⟩
def KERB_STAT_LINK_CHANGES : Fld := ⟨32, 16⟩
def KERB_STAT_K_RESETS : Fld := ⟨48, 16⟩
def KERB_CTL_COUNT_CLEAR : Fld := ⟨0, 1⟩
def KERB_CTL_CACHE_DROP : Fld := ⟨1, 1⟩
def KERB_CTL_RESET : Fld := ⟨2, 1⟩
def KERB_CTL_INJECT : Fld := ⟨3, 1⟩
def KERB_ARB_FG_WEIGHT : Fld := ⟨0, 16⟩
def KERB_ARB_SWEEP_WEIGHT : Fld := ⟨16, 16⟩
def KERB_ARB_WRITE_WEIGHT : Fld := ⟨32, 16⟩
def KERB_ARB_BG_WEIGHT : Fld := ⟨48, 16⟩
def KERB_QUERY_RESIDENT : Fld := ⟨0, 9⟩
def KERB_QUERY_BLOCKS : Fld := ⟨9, 7⟩
def KERB_QUERY_HEAP_ENTRIES : Fld := ⟨16, 19⟩
def KERB_QUERY_HEAP_STALLS : Fld := ⟨35, 29⟩
def KERB_CACHE_VALID : Fld := ⟨0, 15⟩
def KERB_CACHE_SPEC_UNUSED : Fld := ⟨15, 15⟩
def KERB_CACHE_STALE_DROPS : Fld := ⟨32, 32⟩
def KERB_ERR_CHANNEL : Fld := ⟨0, 1⟩
def KERB_ERR_CACHE_UNCORR : Fld := ⟨1, 1⟩
def KERB_ERR_QSRAM : Fld := ⟨2, 1⟩
def KERB_ERR_HEAP : Fld := ⟨3, 1⟩
def KERB_ERR_WATCHDOG : Fld := ⟨4, 1⟩
def KERB_ERR_LINK : Fld := ⟨5, 1⟩
def KERB_ERR_MULTIPLE : Fld := ⟨6, 1⟩
def KERB_ERR_LOC_CHANNEL : Fld := ⟨0, 3⟩
def KERB_ERR_LOC_DIE : Fld := ⟨3, 2⟩
def KERB_ERR_LOC_UNIT : Fld := ⟨8, 18⟩
def KERB_CH_STAT_PRESENT : Fld := ⟨0, 4⟩
def KERB_CH_STAT_RETIRED : Fld := ⟨4, 4⟩
def KERB_CH_STAT_BUSY : Fld := ⟨8, 4⟩
def KERB_CH_STAT_SUSPENDED : Fld := ⟨12, 4⟩
def KERB_CH_STAT_QUEUED : Fld := ⟨16, 16⟩
def KERB_CH_PIECES_PIECES : Fld := ⟨0, 64⟩
def LGT_VALUE_VALUE : Fld := ⟨0, 32⟩
def LGT_ADD_ADDEND : Fld := ⟨0, 32⟩
def LGT_CTL_OWNER : Fld := ⟨0, 4⟩
def LGT_CTL_SATURATED : Fld := ⟨4, 1⟩
def LGT_CTL_WAITERS : Fld := ⟨16, 16⟩
def LGT_CTL_TIMEOUTS : Fld := ⟨32, 32⟩
def CNT_DIST_STAT_ENABLED : Fld := ⟨0, 1⟩
def CNT_DIST_STAT_THROTTLED : Fld := ⟨1, 1⟩
def CNT_DIST_STAT_BLOCKS : Fld := ⟨8, 9⟩
def CNT_DIST_STAT_IN_FLIGHT : Fld := ⟨32, 13⟩
def CNT_DIST_ARRAY_CYCLES : Fld := ⟨0, 64⟩
def CNT_DIST_VECTOR_CYCLES : Fld := ⟨0, 64⟩
def CNT_DIST_DMA_CYCLES : Fld := ⟨0, 64⟩
def CNT_DIST_KERB_CYCLES : Fld := ⟨0, 64⟩
def CNT_DIST_T0_BYTES : Fld := ⟨0, 64⟩
def CNT_DIST_T1_BYTES : Fld := ⟨0, 64⟩
def CNT_DIST_T2_READ_PIECES : Fld := ⟨0, 64⟩
def CNT_DIST_T2W_WRITE_PIECES : Fld := ⟨0, 64⟩
def CNT_DIST_T3_BYTES : Fld := ⟨0, 64⟩
def CNT_DIST_P0IN_BYTES : Fld := ⟨0, 64⟩
def CNT_DIST_P0OUT_BYTES : Fld := ⟨0, 64⟩
def CNT_DIST_P1IN_BYTES : Fld := ⟨0, 64⟩
def CNT_DIST_P1OUT_BYTES : Fld := ⟨0, 64⟩
def CNT_DIST_ENERGY_UJ : Fld := ⟨0, 64⟩
def CNT_DIST_CMDS_COMPLETED : Fld := ⟨0, 32⟩
def CNT_DIST_CMDS_ABORTED : Fld := ⟨32, 32⟩
def CNT_DIST_THROTTLE_BEATS : Fld := ⟨0, 64⟩
def CNT_ENERGY_UNATTR_UJ : Fld := ⟨0, 64⟩
def CNT_ABORTS_ABORTS : Fld := ⟨0, 32⟩
def CNT_ABORTS_MERGED : Fld := ⟨32, 32⟩
def STK_STAT_PRESENT : Fld := ⟨0, 1⟩
def STK_STAT_IN_SERVICE : Fld := ⟨1, 1⟩
def STK_STAT_TRAINING : Fld := ⟨2, 1⟩
def STK_STAT_SELF_REFRESH : Fld := ⟨3, 1⟩
def STK_STAT_OFF : Fld := ⟨4, 1⟩
def STK_STAT_REFRESH : Fld := ⟨5, 2⟩
def STK_STAT_SIZE_GIB : Fld := ⟨8, 8⟩
def STK_STAT_STREAMS : Fld := ⟨16, 6⟩
def STK_STAT_RETRAINS : Fld := ⟨32, 16⟩
def ARC_STAT_ONLINE : Fld := ⟨0, 1⟩
def ARC_STAT_LINK : Fld := ⟨1, 1⟩
def ARC_STAT_PREFERRED : Fld := ⟨2, 1⟩
def ARC_STAT_SELF_REFRESH : Fld := ⟨3, 1⟩
def ARC_STAT_PRESENT : Fld := ⟨8, 8⟩
def ARC_STAT_IN_SERVICE : Fld := ⟨16, 8⟩
def ARC_STAT_LINK_CHANGES : Fld := ⟨32, 16⟩
def FTL_STAT_READY : Fld := ⟨0, 1⟩
def FTL_STAT_REPLAYING : Fld := ⟨1, 1⟩
def FTL_STAT_WRITE_THROUGH : Fld := ⟨2, 1⟩
def FTL_STAT_FLUSHED : Fld := ⟨3, 1⟩
def FTL_STAT_DEGRADED : Fld := ⟨4, 1⟩
def FTL_STAT_NAMESPACES : Fld := ⟨8, 6⟩
def FTL_STAT_RETIRED_DIES : Fld := ⟨16, 11⟩
def FTL_STAT_DIRTY_KIB : Fld := ⟨32, 32⟩
def FTL_CTL_COUNT_CLEAR : Fld := ⟨0, 1⟩
def FTL_CTL_RECLAIM_HOLD : Fld := ⟨1, 1⟩
def FTL_ERR_HOLDUP_FAIL : Fld := ⟨0, 1⟩
def FTL_ERR_JOURNAL : Fld := ⟨1, 1⟩
def FTL_ERR_REPLAY_UNCLEAN : Fld := ⟨2, 1⟩
def FTL_ERR_DIE_RETIRED : Fld := ⟨3, 1⟩
def FTL_ERR_SECURE_INCOMPLETE : Fld := ⟨4, 1⟩
def FTL_ERR_GROUP_FULL : Fld := ⟨5, 1⟩
def FTL_ERR_MULTIPLE : Fld := ⟨6, 1⟩
def FTL_SPARE_FREE : Fld := ⟨0, 32⟩
def FTL_SPARE_MIN_FREE : Fld := ⟨32, 12⟩
def FTL_SPARE_MIN_GROUP : Fld := ⟨44, 7⟩
def FTL_WEAR_AVG_ERASES : Fld := ⟨0, 16⟩
def FTL_WEAR_MAX_ERASES : Fld := ⟨16, 16⟩
def FTL_WEAR_PERCENT_USED : Fld := ⟨32, 8⟩
def FTL_RECLAIM_SUPERBLOCKS : Fld := ⟨0, 64⟩
def FTL_MOVED_PIECES : Fld := ⟨0, 64⟩
def FTL_HOST_WRITTEN_PIECES : Fld := ⟨0, 64⟩
def FTL_REWRITE_DISTURB : Fld := ⟨0, 32⟩
def FTL_REWRITE_OTHER : Fld := ⟨32, 32⟩
def FTL_RD_SOFT_PIECES : Fld := ⟨0, 64⟩
def FTL_RD_RETRY_PIECES : Fld := ⟨0, 64⟩
def FTL_RD_REBUILD_PIECES : Fld := ⟨0, 64⟩
def FTL_RD_UNREC_PIECES : Fld := ⟨0, 64⟩
def FTL_SECURE_PENDING : Fld := ⟨0, 16⟩
def FTL_SECURE_INCOMPLETE : Fld := ⟨16, 16⟩
def FTL_SECURE_SUPERBLOCKS : Fld := ⟨32, 32⟩
def FTL_FLUSH_LAST_10US : Fld := ⟨0, 16⟩
def FTL_FLUSH_MAX_10US : Fld := ⟨16, 16⟩
def FTL_FLUSH_FLUSHES : Fld := ⟨32, 32⟩
def FTL_JOURNAL_REPLAY_MS : Fld := ⟨0, 32⟩
def FTL_JOURNAL_CHECKPOINTS : Fld := ⟨32, 32⟩
def FTL_GRP_FREE : Fld := ⟨0, 12⟩
def FTL_GRP_WIDTH : Fld := ⟨12, 5⟩
def FTL_GRP_FULL : Fld := ⟨17, 1⟩
def FTL_GRP_UNPROTECTED : Fld := ⟨18, 1⟩
def FTL_GRP_REBUILDING : Fld := ⟨19, 1⟩
def FTL_GRP_PADDED : Fld := ⟨20, 12⟩
def FTL_GRP_VALID_UNITS : Fld := ⟨32, 32⟩
def FTL_GRP_WEAR_MIN_ERASES : Fld := ⟨0, 16⟩
def FTL_GRP_WEAR_MAX_ERASES : Fld := ⟨16, 16⟩
def FTL_GRP_WEAR_BAD : Fld := ⟨32, 16⟩
def FTL_DIE_RETIRED_DIES : Fld := ⟨0, 64⟩
def HIF_STAT_PORT_UP : Fld := ⟨0, 2⟩
def HIF_STAT_PS : Fld := ⟨2, 3⟩
def HIF_STAT_SANITIZING : Fld := ⟨5, 1⟩
def HIF_STAT_FORMATTING : Fld := ⟨6, 1⟩
def HIF_STAT_ASSOCIATIONS : Fld := ⟨8, 12⟩
def HIF_STAT_DISPATCHED : Fld := ⟨32, 17⟩
def HIF_CTL_COUNT_CLEAR : Fld := ⟨0, 1⟩
def HIF_CTL_PORT_RESET : Fld := ⟨1, 2⟩
def HIF_ARB_URGENT_RUN : Fld := ⟨0, 8⟩
def HIF_LOCK_IN_USE : Fld := ⟨0, 13⟩
def HIF_LOCK_WAITING : Fld := ⟨16, 16⟩
def HIF_LOCK_WAITS : Fld := ⟨32, 32⟩
def HIF_CMDS_COMPLETED : Fld := ⟨0, 32⟩
def HIF_CMDS_ERRORS : Fld := ⟨32, 32⟩
def HIF_URGENT_DISPATCHED : Fld := ⟨0, 32⟩
def HIF_URGENT_YIELDS : Fld := ⟨32, 32⟩
def HIF_PORT_STAT_LINK_UP : Fld := ⟨0, 2⟩
def HIF_PORT_STAT_SPLIT : Fld := ⟨2, 1⟩
def HIF_PORT_STAT_MEDIA : Fld := ⟨4, 4⟩
def HIF_PORT_STAT_CABLE_DM : Fld := ⟨8, 8⟩
def HIF_PORT_STAT_RETRAINS : Fld := ⟨16, 16⟩
def HIF_PORT_STAT_G_RESETS : Fld := ⟨32, 16⟩
def HIF_PORT_CFG_SPLIT : Fld := ⟨0, 1⟩
def HIF_PORT_CFG_ROCE_PRIO : Fld := ⟨1, 3⟩
def HIF_PORT_CFG_ECN_ENABLE : Fld := ⟨4, 1⟩
def HIF_PORT_CFG_PFC_MASK : Fld := ⟨8, 8⟩
def HIF_PORT_CFG_MTU : Fld := ⟨16, 2⟩
def HIF_PORT_FEC_CORRECTED : Fld := ⟨0, 32⟩
def HIF_PORT_FEC_UNCORRECTED : Fld := ⟨32, 32⟩
def HIF_QP_ENABLED : Fld := ⟨0, 1⟩
def HIF_QP_RDMA : Fld := ⟨1, 1⟩
def HIF_QP_CLASS : Fld := ⟨2, 2⟩
def HIF_QP_DISTRICT : Fld := ⟨4, 4⟩
def HIF_QP_MAPPED : Fld := ⟨8, 1⟩
def HIF_QP_ASSOC : Fld := ⟨9, 11⟩
def HIF_QP_DEPTH : Fld := ⟨20, 10⟩
def HIF_ASSOC_STAT_ACTIVE : Fld := ⟨0, 1⟩
def HIF_ASSOC_STAT_PORT : Fld := ⟨1, 1⟩
def HIF_ASSOC_STAT_LINK : Fld := ⟨2, 1⟩
def HIF_ASSOC_STAT_TRANSPORT : Fld := ⟨3, 1⟩
def HIF_ASSOC_STAT_QP_BASE : Fld := ⟨8, 12⟩
def HIF_ASSOC_STAT_QP_COUNT : Fld := ⟨20, 9⟩
def HIF_ASSOC_STAT_CNTLID : Fld := ⟨32, 16⟩
def HIF_ASSOC_PEER_MTU : Fld := ⟨0, 2⟩
def HIF_ASSOC_PEER_MAX_READS : Fld := ⟨8, 8⟩
def HIF_ASSOC_PEER_MAX_DEPTH : Fld := ⟨16, 16⟩
def TIME_STAT_STATE : Fld := ⟨0, 3⟩
def TIME_STAT_HOLDOVER : Fld := ⟨3, 1⟩
def TIME_STAT_SOURCE : Fld := ⟨4, 2⟩
def TIME_STAT_PPS_PRESENT : Fld := ⟨6, 1⟩
def TIME_STAT_CLOCK_CLASS : Fld := ⟨8, 8⟩
def TIME_STAT_STEPS_REMOVED : Fld := ⟨16, 16⟩
def TIME_STAT_HOLDOVER_S : Fld := ⟨32, 32⟩
def TIME_CTL_FORCE_HOLDOVER : Fld := ⟨0, 1⟩
def TIME_CTL_PPS_OUT : Fld := ⟨1, 1⟩
def TIME_PERIOD_PERIOD_US : Fld := ⟨0, 32⟩
def TIME_NOW_NS : Fld := ⟨0, 64⟩
def TIME_BEAT_BEAT : Fld := ⟨0, 64⟩
def TIME_OFFSET_NS : Fld := ⟨0, 64⟩
def TIME_GM_ID_IDENTITY : Fld := ⟨0, 64⟩
def TIME_SET_NS : Fld := ⟨0, 64⟩
def TIME_EVENTS_HOLDOVERS : Fld := ⟨0, 16⟩
def TIME_EVENTS_STEPS : Fld := ⟨16, 16⟩
def TIME_EVENTS_SOURCE_CHANGES : Fld := ⟨32, 16⟩
def PWR_STAT_INPUT_W : Fld := ⟨0, 16⟩
def PWR_STAT_CAP_W : Fld := ⟨16, 16⟩
def PWR_STAT_GATING : Fld := ⟨32, 1⟩
def PWR_STAT_OVERRIDE : Fld := ⟨33, 1⟩
def PWR_STAT_METER_FAULT : Fld := ⟨34, 1⟩
def PWR_CTL_COUNT_CLEAR : Fld := ⟨0, 1⟩
def PWR_CTL_LOOPS_FREEZE : Fld := ⟨1, 1⟩
def PWR_RAIL_MV : Fld := ⟨0, 16⟩
def PWR_RAIL_CURRENT : Fld := ⟨16, 16⟩
def PWR_RAIL_PEAK : Fld := ⟨32, 16⟩
def PWR_QTR_FREQ_MHZ : Fld := ⟨0, 10⟩
def PWR_QTR_TARGET_MHZ : Fld := ⟨10, 10⟩
def PWR_QTR_VDD_MV : Fld := ⟨20, 12⟩
def PWR_QTR_GATED_US : Fld := ⟨32, 32⟩
def PWR_LOOP_CONFLICTS : Fld := ⟨0, 32⟩
def PWR_LOOP_OVERRIDES : Fld := ⟨32, 16⟩
def PWR_LOOP_ACTIVE : Fld := ⟨48, 1⟩
def PWR_TEMP_TEMP : Fld := ⟨0, 16⟩
def PWR_TEMP_MAX : Fld := ⟨16, 16⟩
def PWR_TEMP_VALID : Fld := ⟨32, 1⟩
def CNT_CONTAIN_QUARANTINED : Fld := ⟨0, 4⟩
def CNT_CONTAIN_SHUTDOWN : Fld := ⟨4, 1⟩
def CNT_CONTAIN_SHUTDOWN_CAUSE : Fld := ⟨8, 4⟩
def CNT_CONTAIN_QUARANTINES : Fld := ⟨16, 16⟩
def CNT_CONTAIN_RETIRED_BLOCKS : Fld := ⟨32, 16⟩
def CNT_CONTAIN_FENCED_CELLS : Fld := ⟨48, 16⟩
def CNT_CONTAIN_CNT_UNCORR_MEM : Fld := ⟨0, 32⟩
def CNT_CONTAIN_CNT_OVERFLOWS : Fld := ⟨32, 16⟩
def CNT_CONTAIN_CNT_LINK_RETRY : Fld := ⟨48, 16⟩
def STK_ECC_CORRECTED : Fld := ⟨0, 32⟩
def STK_ECC_UNCORR : Fld := ⟨32, 16⟩
def STK_ECC_SCRUB_PASSES : Fld := ⟨48, 16⟩
def ARC_ECC_CORRECTED : Fld := ⟨0, 32⟩
def ARC_ECC_UNCORR : Fld := ⟨32, 16⟩
def ARC_ECC_SCRUB_PASSES : Fld := ⟨48, 16⟩
def STK_SPARE_CHANNEL : Fld := ⟨0, 5⟩
def STK_SPARE_USED : Fld := ⟨5, 1⟩
def STK_SPARE_COPYING : Fld := ⟨6, 1⟩
def STK_BKT_LEVEL : Fld := ⟨0, 21⟩
def STK_BKT_LIGHT : Fld := ⟨21, 1⟩
def STK_BKT_OVERFLOWS : Fld := ⟨32, 16⟩
def ARC_BKT_LEVEL : Fld := ⟨0, 21⟩
def ARC_BKT_LIGHT : Fld := ⟨21, 1⟩
def ARC_BKT_OVERFLOWS : Fld := ⟨32, 16⟩
def DEV_ID_PART : Fld := ⟨0, 16⟩
def DEV_ID_STEPPING : Fld := ⟨16, 4⟩
def DEV_ID_FW_VERSION : Fld := ⟨32, 32⟩
def DEV_CTL_FAILOVER : Fld := ⟨0, 1⟩
def DEV_RESET_KIND : Fld := ⟨0, 4⟩
def DEV_RESET_QUARTER : Fld := ⟨8, 2⟩
def DEV_RESET_BLOCK : Fld := ⟨16, 9⟩
def DEV_SQ_ACTIVE : Fld := ⟨0, 1⟩
def DEV_SQ_A_STATE : Fld := ⟨1, 2⟩
def DEV_SQ_B_STATE : Fld := ⟨3, 2⟩
def DEV_SQ_FAILOVERS : Fld := ⟨16, 16⟩
def DEV_SQ_LAST_CAUSE : Fld := ⟨32, 8⟩
def DEV_RESET_LOG_LAST : Fld := ⟨0, 8⟩
def DEV_RESET_LOG_CAUSE : Fld := ⟨8, 8⟩
def DEV_RESET_LOG_D_COUNT : Fld := ⟨16, 16⟩
def DEV_RESET_LOG_M_COUNT : Fld := ⟨32, 16⟩
def DEV_RESET_LOG_C_COUNT : Fld := ⟨48, 16⟩
def DEV_BOOT_PHASE : Fld := ⟨0, 4⟩
def DEV_BOOT_FAILED_PHASE : Fld := ⟨4, 4⟩
def DEV_BOOT_SLOT : Fld := ⟨8, 1⟩
def DEV_BOOT_FALLBACK : Fld := ⟨9, 1⟩
def DEV_BOOT_READY_MS : Fld := ⟨32, 32⟩
def DEV_LIFE_POWER_ON_HOURS : Fld := ⟨0, 32⟩
def DEV_LIFE_POWER_CYCLES : Fld := ⟨32, 32⟩
def DEV_CFG_STAT_BASE : Fld := ⟨0, 12⟩
def DEV_CFG_STAT_LIVE : Fld := ⟨12, 12⟩
def DEV_CFG_STAT_BUSY : Fld := ⟨24, 1⟩
def DEV_CFG_STAT_SUSPENDED : Fld := ⟨25, 1⟩
def DEV_CFG_STAT_BAD : Fld := ⟨26, 6⟩
def DEV_CFG_STAT_HALF_ERASED : Fld := ⟨32, 16⟩
def DEV_CFG_STAT_SUSPENDS : Fld := ⟨48, 16⟩
def DEV_CFG_WEAR_GENERATIONS : Fld := ⟨0, 32⟩
def DEV_CFG_WEAR_MAX_ERASES : Fld := ⟨32, 17⟩
def SEC_STAT_IDENTITY_OK : Fld := ⟨0, 1⟩
def SEC_STAT_STANDBY_ID_OK : Fld := ⟨1, 1⟩
def SEC_STAT_ROM_RECOVERY : Fld := ⟨2, 1⟩
def SEC_STAT_KEY_ERASE_PENDING : Fld := ⟨3, 1⟩
def SEC_STAT_LAST_CAUSE : Fld := ⟨8, 8⟩
def SEC_STAT_VERIFY_FAILS : Fld := ⟨32, 32⟩
def SEC_CTL_COUNT_CLEAR : Fld := ⟨0, 1⟩
def SEC_KEYS_VALID : Fld := ⟨0, 16⟩
def SEC_KEYS_REVOKED : Fld := ⟨16, 16⟩
def SEC_ROLLBACK_FIRMWARE : Fld := ⟨0, 32⟩
def SEC_ROLLBACK_KEY : Fld := ⟨32, 32⟩
def SEC_NSKEY_PRESENT : Fld := ⟨0, 32⟩
def SEC_IDHASH_HASH : Fld := ⟨0, 64⟩
def SEC_ATTEST_LENGTH : Fld := ⟨0, 32⟩
def SEC_ATTEST_SIGNED : Fld := ⟨32, 16⟩
def SEC_ATTEST_BUSY : Fld := ⟨48, 1⟩
def SEC_MON_LEVEL : Fld := ⟨0, 2⟩
def SEC_MON_LOCKED : Fld := ⟨2, 1⟩
def SEC_MON_FAILS : Fld := ⟨8, 8⟩
def SEC_MON_LOCK_S : Fld := ⟨32, 32⟩
def SEC_MEAS_VALUE : Fld := ⟨0, 64⟩
def TRC_STAT_STATE : Fld := ⟨0, 2⟩
def TRC_STAT_WRAPPED : Fld := ⟨2, 1⟩
def TRC_STAT_IN_STACK3 : Fld := ⟨3, 1⟩
def TRC_STAT_WR_UNIT : Fld := ⟨4, 20⟩
def TRC_STAT_TRIG_UNIT : Fld := ⟨32, 20⟩
def TRC_STAT_EXTRA_TRIGGERS : Fld := ⟨52, 12⟩
def TRC_CTL_MODE : Fld := ⟨0, 2⟩
def TRC_CTL_ENABLE : Fld := ⟨2, 1⟩
def TRC_CTL_ARM : Fld := ⟨3, 1⟩
def TRC_CTL_TRIGGER : Fld := ⟨4, 1⟩
def TRC_CTL_CLEAR : Fld := ⟨5, 1⟩
def TRC_CTL_COUNTER_SAMPLE : Fld := ⟨6, 4⟩
def TRC_CLASS_CLASSES : Fld := ⟨0, 6⟩
def TRC_TRIG_EVENT : Fld := ⟨0, 8⟩
def TRC_TRIG_SOURCE : Fld := ⟨16, 16⟩
def TRC_TRIG_SOURCE_MASK : Fld := ⟨32, 16⟩
def TRC_TRIG_MATCH_EN : Fld := ⟨48, 1⟩
def TRC_TRIG_ON_ABORT : Fld := ⟨49, 1⟩
def TRC_TRIG_ON_OVERRIDE : Fld := ⟨50, 1⟩
def TRC_TRIG_SEVERITY : Fld := ⟨51, 2⟩
def TRC_RD_PTR_UNIT : Fld := ⟨0, 20⟩
def TRC_TELEM_PERIOD_BEATS : Fld := ⟨0, 16⟩
def TRC_TELEM_ENABLE : Fld := ⟨16, 1⟩
def TRC_LOST_DISCARDED : Fld := ⟨0, 32⟩
def TRC_LOST_DROPPED : Fld := ⟨32, 32⟩
def TRC_TELEM_RD_UNIT : Fld := ⟨0, 20⟩
def CNT_OP_COUNT : Fld := ⟨0, 48⟩
def KERB_MAC8_MACS : Fld := ⟨0, 64⟩
def KERB_MAC4_MACS : Fld := ⟨0, 64⟩
def KERB_PG_HIGH_PIECES : Fld := ⟨0, 64⟩
def KERB_PG_LOW_PIECES : Fld := ⟨0, 64⟩
def KERB_PG_SIDE_PIECES : Fld := ⟨0, 64⟩
def KERB_PG_OTHER_PIECES : Fld := ⟨0, 64⟩
def KERB_PRUNE_PAIRS : Fld := ⟨0, 64⟩
def KERB_FILTERED_PAIRS : Fld := ⟨0, 64⟩
def KERB_CACHE_HIT_PIECES : Fld := ⟨0, 64⟩
def KERB_CACHE_MISS_PIECES : Fld := ⟨0, 64⟩
def KERB_SPEC_ISSUED_READS : Fld := ⟨0, 64⟩
def KERB_SPEC_WASTED_READS : Fld := ⟨0, 64⟩
def KERB_SUSPEND_ERASE : Fld := ⟨0, 32⟩
def KERB_SUSPEND_PROGRAM : Fld := ⟨32, 32⟩
def PLAN_DIGEST_DIGEST : Fld := ⟨0, 64⟩
/-- The state code of slot i (R163). -/
def BLK_QUEUE_SLOT (i : Nat) : Fld := ⟨4 * i, 4⟩

end Fld

end Sys2Proof.Machine
end

