-- ==== Sys2Proof/Machine/Formats.lean ====
section
/-! DEFINITION. The eleven number formats (R69 to R85): codes, values, rounding, placing, flags. -/

namespace Sys2Proof.Machine

/-- The formats of R69, in code order. -/
inductive Fmt
  | b64 | b32 | b16 | i32 | i16 | i8 | i4 | f8e4 | f8e5 | f6 | f4
  deriving DecidableEq, Repr

/-- The rounding modes of R73, in code order. -/
inductive Rnd
  | rne | rna | rtz | rup | rdn
  deriving DecidableEq, Repr

/-- The sticky flags of R94, with the number of element operations that raised SATURATED. -/
structure Flags where
  invalid : Bool := false
  divByZero : Bool := false
  overflow : Bool := false
  underflow : Bool := false
  inexact : Bool := false
  saturated : Bool := false
  flushIn : Bool := false
  flushOut : Bool := false
  satOps : Nat := 0
  deriving DecidableEq, Repr

/-- A datum of any format: an exact dyadic number with its sign, an infinity, or a NaN with its sign, whether it
signals, and its payload left-aligned below the quiet bit in 51 bits (the payload width of binary64). -/
inductive Datum
  | fin (neg : Bool) (m : Nat) (e : Int)
  | inf (neg : Bool)
  | nan (neg signalling : Bool) (payload : Nat)
  deriving DecidableEq, Repr

/-- An exact rational magnitude with a sign, `num / den · 2 ^ e`, the argument of every rounding. -/
structure Exact where
  neg : Bool
  num : Nat
  den : Nat
  e : Int
  deriving DecidableEq, Repr

/-- The parameters of a binary float format: precision (with the implicit bit), exponent of the smallest normal,
exponent of the largest binade, mantissa field width, exponent bias, total width. -/
structure FParam where
  prec : Nat
  emin : Int
  emax : Int
  mant : Nat
  bias : Nat
  width : Nat
  deriving DecidableEq, Repr

/-- Computations that raise flags. -/
abbrev FM (α : Type) := StateM Flags α

/-- Format code (R69). -/
def Fmt.code : Fmt → Nat
  | .b64 => 0 | .b32 => 1 | .b16 => 2 | .i32 => 3 | .i16 => 4 | .i8 => 5 | .i4 => 6
  | .f8e4 => 7 | .f8e5 => 8 | .f6 => 9 | .f4 => 10

/-- The format a code names; any other code is rejected (R69). -/
def Fmt.ofCode : Nat → Option Fmt
  | 0 => some .b64 | 1 => some .b32 | 2 => some .b16 | 3 => some .i32 | 4 => some .i16
  | 5 => some .i8 | 6 => some .i4 | 7 => some .f8e4 | 8 => some .f8e5 | 9 => some .f6 | 10 => some .f4
  | _ => none

/-- Width in bits (R69). -/
def Fmt.width : Fmt → Nat
  | .b64 => 64 | .b32 => 32 | .b16 => 16 | .i32 => 32 | .i16 => 16 | .i8 => 8 | .i4 => 4
  | .f8e4 => 8 | .f8e5 => 8 | .f6 => 6 | .f4 => 4

def Fmt.isInt : Fmt → Bool
  | .i32 | .i16 | .i8 | .i4 => true
  | _ => false

def Fmt.isShort : Fmt → Bool
  | .f8e4 | .f8e5 | .f6 | .f4 => true
  | _ => false

def Fmt.isLong : Fmt → Bool
  | .b64 | .b32 | .b16 => true
  | _ => false

/-- Rounding-mode codes (R73); 5 to 7 are rejected. -/
def Rnd.ofCode : Nat → Option Rnd
  | 0 => some .rne | 1 => some .rna | 2 => some .rtz | 3 => some .rup | 4 => some .rdn
  | _ => none

/-- Flags raised by either of two pieces of work. -/
def Flags.or (a b : Flags) : Flags :=
  { invalid := a.invalid || b.invalid, divByZero := a.divByZero || b.divByZero,
    overflow := a.overflow || b.overflow, underflow := a.underflow || b.underflow,
    inexact := a.inexact || b.inexact, saturated := a.saturated || b.saturated,
    flushIn := a.flushIn || b.flushIn, flushOut := a.flushOut || b.flushOut,
    satOps := a.satOps + b.satOps }

/-- The eight flag bits in the order of R94. -/
def Flags.toBits (f : Flags) : Nat :=
  f.invalid.toNat + 2 * f.divByZero.toNat + 4 * f.overflow.toNat + 8 * f.underflow.toNat
    + 16 * f.inexact.toNat + 32 * f.saturated.toNat + 64 * f.flushIn.toNat + 128 * f.flushOut.toNat

/-- Raise flags. -/
def raise (f : Flags) : FM Unit := modify fun g => g.or f

def raiseSat : FM Unit := raise { saturated := true, satOps := 1 }

/-- The canonical quiet NaN with a sign (R74). -/
def Datum.qnan (neg : Bool := false) : Datum := .nan neg false 0

def Datum.zero (neg : Bool := false) : Datum := .fin neg 0 0

def Datum.ofInt (i : Int) : Datum := .fin (i < 0) i.natAbs 0

def Datum.isNaN : Datum → Bool
  | .nan .. => true
  | _ => false

def Datum.isZero : Datum → Bool
  | .fin _ 0 _ => true
  | _ => false

def Datum.neg? : Datum → Bool
  | .fin n _ _ => n
  | .inf n => n
  | .nan n _ _ => n

/-- The number with its sign inverted. -/
def Datum.negate : Datum → Datum
  | .fin n m e => .fin (!n) m e
  | .inf n => .inf (!n)
  | .nan n s p => .nan (!n) s p

def Datum.quiet : Datum → Datum
  | .nan n _ p => .nan n false p
  | x => x

/-- `2 ^ k` for an integer exponent as a pair numerator, denominator. -/
def pow2Num (k : Int) : Nat := if 0 ≤ k then 2 ^ k.toNat else 1
def pow2Den (k : Int) : Nat := if 0 ≤ k then 1 else 2 ^ (-k).toNat

/-- The exponent `k` with `2 ^ k ≤ n / d < 2 ^ (k + 1)`, for positive `n` and `d`. -/
def ilog2Q (n d : Nat) : Int :=
  let k : Int := (Nat.log2 n : Int) - (Nat.log2 d : Int)
  if n * pow2Den k < d * pow2Num k then k - 1 else k

/-- Round the exact magnitude `n / d` to an integer under a mode; the second part says whether it was inexact. -/
def roundIntQ (mode : Rnd) (neg : Bool) (n d : Nat) : Nat × Bool :=
  let q := n / d
  let r := n % d
  if r = 0 then (q, false)
  else
    let up : Bool := match mode with
      | .rne => 2 * r > d || (2 * r = d && q % 2 = 1)
      | .rna => decide (2 * r ≥ d)
      | .rtz => false
      | .rup => !neg
      | .rdn => neg
    (if up then q + 1 else q, true)

/-- Round `n / d · 2 ^ e` to a multiple of `2 ^ q`: the multiple and whether it was inexact. -/
def roundAt (mode : Rnd) (neg : Bool) (n d : Nat) (e q : Int) : Nat × Bool :=
  roundIntQ mode neg (n * pow2Num (e - q)) (d * pow2Den (e - q))

/-- The parameters of the float formats (R72, R77). For F8E4, F6 and F4 every exponent field is finite. -/
def Fmt.param : Fmt → FParam
  | .b64 => ⟨53, -1022, 1023, 52, 1023, 64⟩
  | .b32 => ⟨24, -126, 127, 23, 127, 32⟩
  | .b16 => ⟨11, -14, 15, 10, 15, 16⟩
  | .f8e4 => ⟨4, -6, 8, 3, 7, 8⟩
  | .f8e5 => ⟨3, -14, 15, 2, 15, 8⟩
  | .f6 => ⟨3, -2, 4, 2, 3, 6⟩
  | .f4 => ⟨2, 0, 2, 1, 1, 4⟩
  | _ => ⟨1, 0, 0, 0, 0, 0⟩

/-- The integer range of a format under its signedness bit (R75). -/
def Fmt.intRange (f : Fmt) (signed : Bool) : Int × Int :=
  if signed then (-((2 ^ (f.width - 1) : Nat) : Int), ((2 ^ (f.width - 1) : Nat) : Int) - 1)
  else (0, ((2 ^ f.width : Nat) : Int) - 1)

/-- The largest finite magnitude of a float format as significand and exponent. -/
def FParam.maxFin (p : FParam) : Nat × Int := (2 ^ p.prec - 1, p.emax - (p.prec : Int) + 1)

/-- The value of a code of a float format (R72, R77, R78); for short floats the subnormal mode of R81 applies. Every NaN code of F8E5
is a quiet NaN (DESIGN CHOICE, log entry 64: the spec does not say which of them signal). -/
def decodeFloat (f : Fmt) (keep : Bool) (code : Nat) : FM Datum := do
  let p := f.param
  let neg := bits code (p.width - 1) 1 = 1
  let ebits := p.width - 1 - p.mant
  let ex := bits code p.mant ebits
  let m := bits code 0 p.mant
  let ieee := f.isLong || f = .f8e5
  if ieee && ex = 2 ^ ebits - 1 then
    if m = 0 then return .inf neg
    else if f = .f8e5 then return .qnan neg
    else
      let sig := bits m (p.mant - 1) 1 = 0
      return .nan neg sig (bits m 0 (p.mant - 1) * 2 ^ (51 - (p.mant - 1)))
  else if !ieee && neg && ex = 0 && m = 0 then return .qnan false
  else if ex = 0 then
    if m ≠ 0 && f.isShort && !keep then
      raise { flushIn := true }
      return .zero (neg && f = .f8e5)
    else return .fin neg m (p.emin - (p.mant : Int))
  else return .fin neg (m + 2 ^ p.mant) ((ex : Int) - (p.bias : Int) - (p.mant : Int))

/-- The value of a code of any format (R69 to R81). -/
def decode (f : Fmt) (signed keep : Bool) (code : Nat) : FM Datum :=
  if f.isInt then
    return .ofInt (if signed then toSigned f.width code else ((code % 2 ^ f.width : Nat) : Int))
  else decodeFloat f keep code

/-- The code of a finite magnitude `m · 2 ^ q` that the float format holds exactly. -/
def codeOfFin (p : FParam) (neg : Bool) (m : Nat) (q : Int) : Nat :=
  let s := if neg then 2 ^ (p.width - 1) else 0
  if m = 0 then s
  else
    let k : Int := (Nat.log2 m : Int) + q
    if k < p.emin then
      s + m * pow2Num (q - (p.emin - (p.mant : Int))) / pow2Den (q - (p.emin - (p.mant : Int)))
    else
      let sh : Int := q - (k - (p.mant : Int))
      let sig := m * pow2Num sh / pow2Den sh
      s + (k + (p.bias : Int)).toNat * 2 ^ p.mant + (sig - 2 ^ p.mant)

/-- The code of an infinity or NaN of an IEEE-style format (R72, R74, R77). -/
def codeOfInf (f : Fmt) (neg : Bool) : Nat :=
  let p := f.param
  (if neg then 2 ^ (p.width - 1) else 0) + (2 ^ (p.width - 1 - p.mant) - 1) * 2 ^ p.mant

def codeOfNaN (f : Fmt) (neg : Bool) (payload : Nat) : Nat :=
  let p := f.param
  match f with
  | .f8e4 | .f6 | .f4 => 2 ^ (p.width - 1)
  | .f8e5 => if neg then 0xFE else 0x7E
  | _ => codeOfInf f neg + 2 ^ (p.mant - 1) + payload / 2 ^ (51 - (p.mant - 1))

/-- The result of an overflow under IEEE 754-2019 for a rounding mode: true for infinity. -/
def overflowToInf (mode : Rnd) (neg : Bool) : Bool :=
  match mode with
  | .rne | .rna => true
  | .rtz => false
  | .rup => !neg
  | .rdn => neg

/-- Round an exact value into a float format (R72, R80 to R82): the placed value. -/
def roundFloat (f : Fmt) (mode : Rnd) (keep : Bool) (x : Exact) : FM Datum := do
  let p := f.param
  if x.num = 0 then
    return .zero (x.neg && (f.isLong || f = .f8e5))
  let k := ilog2Q x.num x.den + x.e
  let qU : Int := k - (p.prec : Int) + 1
  let (mU, inexU) := roundAt mode x.neg x.num x.den x.e qU
  -- the magnitude rounded with an unbounded exponent is mU · 2 ^ qU
  let kU : Int := (Nat.log2 mU : Int) + qU
  let (mMax, qMax) := p.maxFin
  let above := kU > p.emax
    || (kU = p.emax && mU * pow2Num (qU - qMax) > mMax * pow2Den (qU - qMax))
  if above then
    if f.isLong || f = .f8e5 then
      raise { overflow := true, inexact := true }
      if overflowToInf mode x.neg then return .inf x.neg else return .fin x.neg mMax qMax
    else
      raiseSat
      return .fin x.neg mMax qMax
  else if kU < p.emin then
    -- tiny after rounding (R82)
    if f.isShort && !keep then
      raise { flushOut := true, inexact := true }
      return .zero (x.neg && f = .f8e5)
    let qS := p.emin - (p.mant : Int)
    let (mS, inexS) := roundAt mode x.neg x.num x.den x.e qS
    if inexS then raise { inexact := true, underflow := f.isLong }
    if mS = 0 then return .zero (x.neg && (f.isLong || f = .f8e5))
    return .fin x.neg mS qS
  else
    if k < p.emin then
      -- rounds up to the smallest normal (R82)
      if inexU then raise { inexact := true }
      return .fin x.neg (2 ^ p.mant) (p.emin - (p.mant : Int))
    if inexU then raise { inexact := true }
    return .fin x.neg mU qU

/-- Convert a NaN into a float format's NaN (R74, R80). -/
def placeNaN (f : Fmt) (neg : Bool) (payload : Nat) : Datum :=
  match f with
  | .f8e4 | .f6 | .f4 => .qnan false
  | .f8e5 => .qnan neg
  | _ => .nan neg false (payload / 2 ^ (51 - (f.param.mant - 1)) * 2 ^ (51 - (f.param.mant - 1)))

/-- Round an exact value to an integer format (R84; R85 when the source is an integer). `fromInt` says that the
source is an integer value of an integer format, whose saturation raises SATURATED alone. -/
def roundToInt (f : Fmt) (signed fromInt : Bool) (mode : Rnd) (x : Exact) : FM Int := do
  let (m, inex) := roundAt mode x.neg x.num x.den x.e 0
  let v : Int := if x.neg then -(m : Int) else m
  let (lo, hi) := f.intRange signed
  if v < lo || v > hi then
    if !fromInt then raise { invalid := true }
    raiseSat
    return if v < lo then lo else hi
  else
    if inex then raise { inexact := true }
    return v

/-- Place a datum that is already exact (no operation formed it) as a code of a format (R80, R83 to R85).
`fromInt`: the source is an integer format. -/
def place (f : Fmt) (signed keep fromInt : Bool) (mode : Rnd) (x : Datum ⊕ Exact) : FM Nat := do
  if f.isInt then
    match x with
    | .inl (.nan _ sig _) =>
      raise { invalid := true }
      if sig then raise { invalid := true }
      return 0
    | .inl (.inf neg) =>
      raise { invalid := true }
      raiseSat
      let (lo, hi) := f.intRange signed
      return ofSigned f.width (if neg then lo else hi)
    | .inl (.fin n m e) => return ofSigned f.width (← roundToInt f signed fromInt mode ⟨n, m, 1, e⟩)
    | .inr x => return ofSigned f.width (← roundToInt f signed fromInt mode x)
  else
    match x with
    | .inl (.nan neg sig payload) =>
      if sig then raise { invalid := true }
      return codeOfNaN f neg payload
    | .inl (.inf neg) =>
      if f.isLong || f = .f8e5 then return codeOfInf f neg
      else
        raiseSat
        let (m, q) := f.param.maxFin
        return codeOfFin f.param neg m q
    | .inl (.fin n m e) =>
      match ← roundFloat f mode keep ⟨n, m, 1, e⟩ with
      | .fin n m q => return codeOfFin f.param n m q
      | .inf n => return codeOfInf f n
      | .nan n _ p => return codeOfNaN f n p
    | .inr x =>
      match ← roundFloat f mode keep x with
      | .fin n m q => return codeOfFin f.param n m q
      | .inf n => return codeOfInf f n
      | .nan n _ p => return codeOfNaN f n p

/-- One conversion between formats (R83 to R85). -/
def convert (src dst : Fmt) (srcSigned dstSigned keep : Bool) (mode : Rnd) (code : Nat) : FM Nat := do
  let x ← decode src srcSigned keep code
  place dst dstSigned keep src.isInt mode (.inl x)

/-- Round a datum into binary32 under a mode and keep it as a value: the intermediate roundings of R86, R146, R166. -/
def round32 (mode : Rnd) (x : Exact) : FM Datum := roundFloat .b32 mode true x

/-- A binary32 code as a value; a signalling NaN stays signalling. -/
def dec32 (code : Nat) : Datum := (decodeFloat .b32 true code {}).1

/-- The binary32 code of a value that binary32 holds exactly. -/
def enc32 (x : Datum) : Nat :=
  match x with
  | .fin n m q => codeOfFin Fmt.b32.param n m q
  | .inf n => codeOfInf .b32 n
  | .nan n s p => codeOfNaN .b32 n p - (if s then 2 ^ 22 else 0)

/-! Exact arithmetic on data. -/

def Datum.toExact : Datum → Exact
  | .fin n m e => ⟨n, m, 1, e⟩
  | _ => ⟨false, 0, 1, 0⟩

/-- The signed significand of a finite datum aligned at exponent `q ≤ e`. -/
def alignAt (n : Bool) (m : Nat) (e q : Int) : Int :=
  let v : Int := (m : Int) * ((2 ^ (e - q).toNat : Nat) : Int)
  if n then -v else v

/-- The exact sum of two finite data; an exact zero sum takes `zneg` unless both terms are zeros of one sign. -/
def addFin (zneg n1 : Bool) (m1 : Nat) (e1 : Int) (n2 : Bool) (m2 : Nat) (e2 : Int) : Datum :=
  if m1 = 0 ∧ m2 = 0 then .zero (if n1 = n2 then n1 else zneg)
  else
    let q := min e1 e2
    let v := alignAt n1 m1 e1 q + alignAt n2 m2 e2 q
    if v = 0 then .zero zneg else .fin (v < 0) v.natAbs q

/-- First NaN operand of a list, quieted (R74), raising INVALID for a signalling one. -/
def firstNaN (xs : List Datum) : FM (Option Datum) := do
  if xs.any (fun x => match x with | .nan _ true _ => true | _ => false) then raise { invalid := true }
  return (xs.find? Datum.isNaN).map Datum.quiet

def invalidNaN : FM Datum := do
  raise { invalid := true }
  return .qnan false

/-- Sum of two data before rounding: exact (IEEE 754-2019), the sign of an exact zero by the mode (R143). -/
def addNum (mode : Rnd) (a b : Datum) : FM Datum := do
  match ← firstNaN [a, b] with
  | some n => return n
  | none =>
    match a, b with
    | .inf x, .inf y => if x = y then return .inf x else invalidNaN
    | .inf x, _ => return .inf x
    | _, .inf y => return .inf y
    | .fin n1 m1 e1, .fin n2 m2 e2 => return addFin (mode = .rdn) n1 m1 e1 n2 m2 e2
    | x, _ => return x

/-- Product of two data before rounding: exact. -/
def mulNum (a b : Datum) : FM Datum := do
  match ← firstNaN [a, b] with
  | some n => return n
  | none =>
    match a, b with
    | .fin n1 m1 e1, .fin n2 m2 e2 => return .fin (n1 != n2) (m1 * m2) (e1 + e2)
    | x, y => if x.isZero || y.isZero then invalidNaN else return .inf (x.neg? != y.neg?)

/-- Compare two non-NaN data: negative when `a < b`, zero when equal in value, positive when `a > b`. -/
def cmpNum (a b : Datum) : Int :=
  match a, b with
  | .inf x, .inf y => (if x then -1 else 1) - (if y then -1 else 1)
  | .inf x, _ => if x then -1 else 1
  | _, .inf y => if y then 1 else -1
  | .fin n1 m1 e1, .fin n2 m2 e2 =>
    alignAt n1 m1 e1 (min e1 e2) - alignAt n2 m2 e2 (min e1 e2)
  | _, _ => 0

/-- The order of minimum and maximum: −0 below +0 (R142). -/
def lessNum (a b : Datum) : Bool :=
  let c := cmpNum a b
  c < 0 || (c = 0 && a.neg? && !b.neg?)

/-- INVALID for a signalling NaN operand (R74). -/
def raiseSig (x : Datum) : FM Unit :=
  match x with
  | .nan _ true _ => raise { invalid := true }
  | _ => pure ()

/-- Round an exact datum into binary32, passing infinities and quieting NaNs; a signalling NaN raises INVALID (R74). -/
def num32 (mode : Rnd) (x : Datum) : FM Datum := do
  match x with
  | .fin n m e => round32 mode ⟨n, m, 1, e⟩
  | .inf n => return .inf n
  | .nan n s p =>
    raiseSig (.nan n s p)
    return placeNaN .b32 n p

def add32 (mode : Rnd) (a b : Datum) : FM Datum := do num32 mode (← addNum mode a b)
def mul32 (mode : Rnd) (a b : Datum) : FM Datum := do num32 mode (← mulNum a b)

/-- Run a flagged computation from no flags. -/
def FM.run0 {α : Type} (x : FM α) : α × Flags := x {}

end Sys2Proof.Machine
end

