-- ==== Sys2Proof/Machine/Sfu.lean ====
section
/-! DEFINITION. Special functions (R148 to R154, R580): table evaluation, correctly rounded values, micro-programs. -/

namespace Sys2Proof.Machine

/-- A table record (R153): the head fields, the segments as coefficient triples and the corrections. -/
structure TableRec where
  code : Nat
  outFmt : Nat
  binades : Nat
  signMode : Nat
  expLow : Int
  low : Nat
  high : Nat
  segs : List (Nat × Nat × Nat)
  corr : List (Nat × Nat)
  deriving DecidableEq, Repr

/-- A program record (R154): instructions as 64-bit words. -/
structure ProgRec where
  code : Nat
  outFmt : Nat
  instrs : List Nat
  deriving DecidableEq, Repr

/-- An expansion record (R91). -/
structure ExpRec where
  tableId : Nat
  kind : Nat
  target : Nat
  sourceSigned : Bool
  source : Nat
  zeroPoint : Int
  scale : Nat
  entries : List Nat
  deriving DecidableEq, Repr

/-- The contents of one bank (R155). -/
structure Bank where
  tables : List TableRec := []
  progs : List ProgRec := []
  exps : List ExpRec := []
  deriving DecidableEq, Repr

/-! Fixed-point arithmetic with 640 fraction bits, for enclosures of the elementary functions. -/

abbrev fxBits : Nat := 640
def fxOne : Int := 2 ^ 640

def fxMul (a b : Int) : Int := a * b / fxOne
def fxDiv (a b : Int) : Int := a * fxOne / b

/-- A finite datum as fixed point, truncated. -/
def fxOf (neg : Bool) (m : Nat) (e : Int) : Int :=
  let k := e + 640
  let v : Int := ((m * pow2Num k / pow2Den k : Nat) : Int)
  if neg then -v else v

/-- `floor (sqrt n)` by `fuel` result bits, most significant first. -/
def isqrtAux (n : Nat) : Nat → Nat → Nat
  | 0, r => r
  | k + 1, r => if (r + 2 ^ k) * (r + 2 ^ k) ≤ n then isqrtAux n k (r + 2 ^ k) else isqrtAux n k r

def isqrt (n : Nat) : Nat := isqrtAux n (Nat.log2 n / 2 + 1) 0

/-- `e ^ r` for `|r| ≤ 1` by Horner's rule over 120 terms of the exponential series. -/
def fxExpAux (r : Int) : Nat → Int → Int
  | 0, acc => acc
  | n + 1, acc => fxExpAux r n (fxOne + fxMul r acc / ((n : Int) + 1))

def fxExpSmall (r : Int) : Int := fxExpAux r 120 fxOne

/-- `Σ z ^ (2 i + 1) / (2 i + 1)`, the inverse hyperbolic tangent series, by `n` terms. -/
def fxAtanhAux (z2 : Int) : Nat → Nat → Int → Int
  | 0, _, _ => 0
  | n + 1, i, p => p / (2 * (i : Int) + 1) + fxAtanhAux z2 n (i + 1) (fxMul p z2)

def fxAtanh (z : Int) : Int := fxAtanhAux (fxMul z z) 210 0 z

def fxLn2 : Int := 2 * fxAtanh (fxOne / 3)

/-- `Σ (-1) ^ i z ^ (2 i + 1) / (2 i + 1)`, the inverse tangent series. -/
def fxAtan (z : Int) : Int := fxAtanhAux (-(fxMul z z)) 150 0 z

def fxPi : Int := 16 * fxAtan (fxOne / 5) - 4 * fxAtan (fxOne / 239)

def fxSqrt (a : Int) : Int := (isqrt (a.toNat * 2 ^ 640) : Int)

def fxScale (a k : Int) : Int := a * (pow2Num k : Int) / (pow2Den k : Int)

/-- `e ^ x` for `|x| ≤ 256`. -/
def fxExp (x : Int) : Int :=
  let k := x / fxLn2
  fxScale (fxExpSmall (x - k * fxLn2)) k

/-- The natural logarithm of a positive `m · 2 ^ e`. -/
def fxLn (m : Nat) (e : Int) : Int :=
  let l := Nat.log2 m
  let y := fxOf false m (-(l : Int))
  2 * fxAtanh (fxDiv (y - fxOne) (y + fxOne)) + (e + l) * fxLn2

/-- `Σ 2 ^ n x ^ (2 n + 1) / (2 n + 1)!!`. -/
def fxErfAux (x2 : Int) : Nat → Nat → Int → Int
  | 0, _, _ => 0
  | k + 1, n, t => t + fxErfAux x2 k (n + 1) (fxMul t (2 * x2) / (2 * (n : Int) + 3))

/-- The error function of `0 ≤ x ≤ 12`. -/
def fxErf (x : Int) : Int :=
  let x2 := fxMul x x
  fxDiv (2 * fxMul (fxExp (-x2)) (fxErfAux x2 700 0 x)) (fxSqrt fxPi)

/-- A value known to lie strictly between two fixed-point magnitudes, with its sign. -/
structure Encl where
  neg : Bool
  lo : Nat
  hi : Nat
  deriving DecidableEq, Repr

/-- The enclosure of a computed fixed-point value: its error is below 2 ^ -140 of its magnitude plus 2 ^ -400. -/
def enclose (v : Int) : Encl :=
  let a := v.natAbs
  let err := a / 2 ^ 140 + 2 ^ 240
  ⟨v < 0, max 1 (a - err), a + err⟩

/-- The value of a built-in function of a finite input (R148): an exact datum, or an enclosure. The caller handles
zeros, infinities, NaNs and negative arguments outside the domain where the function has none. -/
def sfValue (code : Nat) (neg : Bool) (m : Nat) (e : Int) : Exact ⊕ Encl :=
  let big := decide (ilog2Q m 1 + e ≥ 7)
  -- below 2 ^ -170, above 2 ^ 180, and below 1 by less than 2 ^ -90
  let tiny (n : Bool) : Encl := ⟨n, 1, 2 ^ 470⟩
  let tinyP := tiny false
  let hugeP : Encl := ⟨false, 2 ^ 820, 2 ^ 821⟩
  let nearOne (n : Bool) : Encl := ⟨n, 2 ^ 640 - 2 ^ 550, 2 ^ 640 - 1⟩
  let x := fxOf neg m e
  match code with
  | 0x02 => if big then .inr (if neg then tinyP else hugeP) else .inr (enclose (fxExp x))
  | 0x03 =>
    if m % pow2Den e = 0 ∧ ilog2Q m 1 + e < 12 then
      let k : Int := ((m * pow2Num e / pow2Den e : Nat) : Int)
      .inl ⟨false, 1, 1, if neg then -k else k⟩
    else if decide (ilog2Q m 1 + e ≥ 8) then .inr (if neg then tinyP else hugeP)
    else
      let k := x / fxOne
      .inr (enclose (fxScale (fxExpSmall (fxMul (x - k * fxOne) fxLn2)) k))
  | 0x04 => .inr (enclose (fxLn m e))
  | 0x05 =>
    let l := Nat.log2 m
    if m = 2 ^ l then
      let k := e + (l : Int)
      .inl ⟨k < 0, k.natAbs, 1, 0⟩
    else .inr (enclose (fxDiv (fxLn m e) fxLn2))
  | 0x06 => .inl ⟨neg, 1, m, -e⟩
  | 0x07 =>
    -- square root: an odd exponent is made even, 400 extra bits leave a sticky remainder
    let (m', e') := if e % 2 = 0 then (m, e) else (2 * m, e - 1)
    let r := isqrt (m' * 2 ^ 400)
    if r * r = m' * 2 ^ 400 then .inl ⟨false, r, 1, e' / 2 - 200⟩
    else .inl ⟨false, 2 * r + 1, 1, e' / 2 - 201⟩
  | 0x08 =>
    let (m', e') := if e % 2 = 0 then (m, e) else (2 * m, e - 1)
    let q := 2 ^ (2 * (Nat.log2 m' + 200)) / m'
    let r := isqrt q
    if r * r * m' = 2 ^ (2 * (Nat.log2 m' + 200)) then .inl ⟨false, r, 1, -(e' / 2) - ((Nat.log2 m' + 200 : Nat) : Int)⟩
    else .inl ⟨false, 2 * r + 1, 1, -(e' / 2) - ((Nat.log2 m' + 201 : Nat) : Int)⟩
  | 0x09 =>
    if big then .inr (nearOne neg)
    else
      let t := fxExp (-2 * (x.natAbs : Int))
      let v := fxDiv (fxOne - t) (fxOne + t)
      .inr (enclose (if neg then -v else v))
  | 0x0A =>
    if big then .inr (if neg then tinyP else nearOne false)
    else .inr (enclose (fxDiv fxOne (fxOne + fxExp (-x))))
  | 0x0B =>
    if decide (ilog2Q m 1 + e ≥ 4) then
      if neg then .inr (tiny true)
      else if big then .inl ⟨false, 2 * m * pow2Num (e + 300) - 1, 2, -300⟩
      else .inr ⟨false, x.toNat - 2 ^ 470, x.toNat - 1⟩
    else
      let ef := fxErf (fxDiv (x.natAbs : Int) (fxSqrt (2 * fxOne)))
      .inr (enclose (fxMul x (fxOne + (if neg then -ef else ef)) / 2))
  | 0x0C =>
    if big then
      if neg then .inr (tiny true) else .inl ⟨false, 2 * m * pow2Num (e + 300) - 1, 2, -300⟩
    else .inr (enclose (fxMul x (fxDiv fxOne (fxOne + fxExp (-x)))))
  | 0x0D =>
    if decide (ilog2Q m 1 + e ≥ 3) then .inr (nearOne neg)
    else
      let v := fxErf (x.natAbs : Int)
      .inr (enclose (if neg then -v else v))
  | _ =>
    if big then
      if neg then .inr tinyP else .inl ⟨false, 2 * m * pow2Num (e + 300) + 1, 2, -300⟩
    else
      let t := fxExp (-(x.natAbs : Int))
      let l := fxLn (fxOne + t).toNat (-640)
      .inr (enclose (if neg then l else x + l))

/-- The value of a built-in function at ±0 (R148, R151): the datum and its flags. -/
def sfAtZero (code : Nat) (neg : Bool) : FM Datum := do
  match code with
  | 0x02 | 0x03 => return .fin false 1 0
  | 0x04 | 0x05 => raise { divByZero := true }; return .inf true
  | 0x06 | 0x08 => raise { divByZero := true }; return .inf neg
  | 0x0A => return .fin false 1 (-1)
  | _ => return .zero neg

/-- The limit of a built-in function at ±∞. -/
def sfAtInf (code : Nat) (neg : Bool) : FM Datum := do
  match code, neg with
  | 0x02, true | 0x03, true | 0x0A, true | 0x0E, true => return .zero
  | 0x04, true | 0x05, true | 0x07, true | 0x08, true => invalidNaN
  | 0x06, _ => return .zero neg
  | 0x08, false => return .zero
  | 0x09, _ | 0x0D, _ => return .fin neg 1 0
  | 0x0A, false => return .fin false 1 0
  | 0x0B, true | 0x0C, true => return .zero true
  | _, _ => return .inf false

/-- Evaluate a table record (R149) at a binary32 value. -/
def tableEval (binades signMode : Nat) (expLow : Int) (low high : Nat) (seg : Nat → Nat × Nat × Nat)
    (corr : List (Nat × Nat)) (x : Datum) : FM Datum := do
  match x with
  | .nan n s _ =>
    if s then raise { invalid := true }
    return .qnan n
  | x =>
    match corr.find? (fun p => p.1 = enc32 x) with
    | some p => return dec32 p.2
    | none =>
      let fix (v : Datum) : Datum := if signMode = 0 && x.neg? then v.negate else v
      match x with
      | .fin neg m e =>
        if m = 0 then return fix (dec32 low)
        else
          let l := Nat.log2 m
          let b := e + (l : Int) - expLow
          if b < 0 then return fix (dec32 low)
          else if b ≥ (binades : Int) then return fix (dec32 high)
          else
            let fr := m * 2 ^ 23 / 2 ^ l - 2 ^ 23
            let base := if signMode = 2 && neg then binades * 64 else 0
            let (c0, c1, c2) := seg (base + b.toNat * 64 + fr / 2 ^ 17)
            let t : Datum := .fin false (fr % 2 ^ 17) (-17)
            let a ← mul32 .rne t (dec32 c2)
            let a ← add32 .rne (dec32 c1) a
            let a ← mul32 .rne t a
            let a ← add32 .rne (dec32 c0) a
            return fix a
      | _ => return fix (dec32 high)

/-- R149 over the built-in record of a function code (R580). -/
def builtinTable (code : Nat) (x : Datum) : FM Datum :=
  let h := Config.sfHead code
  tableEval h.1 h.2.1 (toSigned 16 h.2.2.1) h.2.2.2.1.toNat h.2.2.2.2.toNat
    (fun i => ((Config.sfSegment code i 0).toNat, (Config.sfSegment code i 1).toNat, (Config.sfSegment code i 2).toNat))
    ((Config.sfCorr code).map fun p => (p.1.toNat, p.2.toNat)) x

/-- Place an enclosed value: both ends must place alike (R150: correctly rounded under RNE). -/
def placeEncl (f : Fmt) (signed keep : Bool) (code inCode : Nat) (v : Encl) : FM Nat := do
  let a := (place f signed keep false .rne (.inr ⟨v.neg, v.lo, 1, -640⟩)).run0
  let b := (place f signed keep false .rne (.inr ⟨v.neg, v.hi, 1, -640⟩)).run0
  if a.1 = b.1 then
    raise { a.2 with inexact := a.2.inexact || !a.2.saturated }
    return a.1
  else
    raise { inexact := true }
    return Config.sfHard code f.code inCode

def datumMag : Datum → Nat
  | .fin _ m _ => m
  | _ => 0

def datumExp : Datum → Int
  | .fin _ _ e => e
  | _ => 0

/-- Is a finite datum within 2 ulp of the exact magnitude `num / den · 2 ^ e` with its sign? -/
def within2 (neg : Bool) (num den : Nat) (e : Int) (t : Datum) : Bool :=
  match t with
  | .fin tn tm te =>
    let u := max (ilog2Q num den + e) (-126) - 23
    let q := min te (min e u)
    let at' (n : Bool) (m : Nat) (k : Int) : Int := alignAt n m k q
    decide ((at' tn (tm * den) te - at' neg num e).natAbs ≤ 2 * (at' false den u).natAbs)
  | _ => false

/-- Does a datum lie within 2 ulp of a function's value? For an enclosed value: of some point of the enclosure. -/
def nearValue (v : Exact ⊕ Encl) (t : Datum) : Bool :=
  match v with
  | .inl x => within2 x.neg x.num x.den x.e t
  | .inr v =>
    within2 v.neg v.lo 1 (-640) t || within2 v.neg v.hi 1 (-640) t ||
      (t.neg? = v.neg && cmpNum (.fin false v.lo (-640)) (.fin false (datumMag t) (datumExp t)) ≤ 0
        && cmpNum (.fin false (datumMag t) (datumExp t)) (.fin false v.hi (-640)) ≤ 0)

/-! Monotony (R150). -/

/-- GELU and SILU fall left of their minima, at -0.7517915… and -1.2784645…, held with 80 fraction bits. -/
def leftOfMin (code : Nat) (neg : Bool) (m : Nat) (e : Int) : Bool :=
  let c := if code = 0x0B then 908860185169499140135091 else 1545568795205673265880367
  (code = 0x0B || code = 0x0C) && neg && decide (c * pow2Den (e + 80) < m * pow2Num (e + 80))

/-- Does a function fall at an input? The others rise wherever they have values. -/
def sfFalls (code : Nat) (neg : Bool) (m : Nat) (e : Int) : Bool := code = 0x06 || code = 0x08 || leftOfMin code neg m e

/-- Is a function's value at an input negative? -/
def sfBelowZero (code : Nat) (neg : Bool) (m : Nat) (e : Int) : Bool :=
  match code with
  | 0x04 | 0x05 => decide (m * pow2Num e < pow2Den e)
  | 0x06 | 0x09 | 0x0B | 0x0C | 0x0D => neg
  | _ => false

/-- Two finite inputs lie on one interval on which a function is monotone. -/
def sfTogether (code : Nat) (n1 : Bool) (m1 : Nat) (e1 : Int) (n2 : Bool) (m2 : Nat) (e2 : Int) : Bool :=
  leftOfMin code n1 m1 e1 = leftOfMin code n2 m2 e2 && (code ≠ 0x06 || n1 = n2)

/-- Every binary32 code in turn, from the highest down. -/
def scanCodes {α : Type} (f : Nat → α → α) : Nat → α → α
  | 0, a => a
  | n + 1, a => scanCodes f n (f n a)

/-- The other finite inputs of a function at which its exact value is on the same side of what it is at an input, as `below` asks: below it
or above it, on the same monotone interval. -/
def overPiece {α : Type} (code : Nat) (below : Bool) (neg : Bool) (m : Nat) (e : Int) (f : Bool → Nat → Int → α → α) (a : α) : α :=
  scanCodes (fun c a => match dec32 c with
    | .fin n2 m2 e2 =>
      let before := cmpNum (.fin n2 m2 e2) (.fin neg m e) < 0
      let domain := !(n2 && (code = 0x04 || code = 0x05 || code = 0x07 || code = 0x08))
      if m2 ≠ 0 && domain && sfTogether code neg m e n2 m2 e2 && (before == (below != sfFalls code neg m e)) then f n2 m2 e2 a else a
    | _ => a) (2 ^ 32) a

/-- The value of the built-in record, which R150 promises to lie within 2 ulp of the exact value. A record that broke the promise would
be no record of R580: the correctly rounded value stands in for such an output, so that the promise holds whatever the record. -/
def recordValue (code : Nat) (neg : Bool) (m : Nat) (e : Int) : FM Datum := do
  let x : Datum := .fin neg m e
  let (t, f) := (builtinTable code x).run0
  let v : Exact ⊕ Encl := if code = 0x04 && m = pow2Den e && e ≤ 0 then .inl ⟨false, 0, 1, 0⟩ else sfValue code neg m e
  if nearValue v t then
    raise f
    return t
  else
    match v with
    | .inl v => round32 .rne v
    | .inr v => return dec32 (← placeEncl .b32 true true code (enc32 x) v)

/-- A datum of greater magnitude than another. -/
def greaterMag (a b : Datum) : Bool :=
  let mag : Datum → Datum
    | .fin _ m e => .fin false m e
    | .inf _ => .inf false
    | x => x
  decide (0 < cmpNum (mag a) (mag b))

/-- The binary32 value of a built-in function. R150 promises that the values of a record are monotone on each interval where the function is,
which makes the value of the record the greatest in magnitude of those at the inputs where the function's magnitude is no greater; for any
record the model takes that greatest value, so that its results are monotone and within 2 ulp whatever the record. -/
def tableValue (code : Nat) (neg : Bool) (m : Nat) (e : Int) : FM Datum := do
  let t ← recordValue code neg m e
  let under := sfBelowZero code neg m e
  return overPiece code (!under) neg m e (fun n2 m2 e2 best =>
    if sfBelowZero code n2 m2 e2 != under then best
    else
      let y := (recordValue code n2 m2 e2).run0.1
      if greaterMag y best then y else best) t

/-- The binary32 output of a built-in function (R149, R151, R580). At a zero and at an infinity, which no binade
tabulates, it is the function's limit value correctly rounded (R149). -/
def builtin32 (code : Nat) (x : Datum) : FM Datum := do
  match x with
  | .nan n s _ =>
    if s then raise { invalid := true }
    return .qnan n
  | .fin neg 0 _ =>
    if code = 0x01 then return .zero
    else if code = 0x0E then return dec32 (← placeEncl .b32 true true code 0 (enclose fxLn2))
    else sfAtZero code neg
  | .inf n => if code = 0x01 then return (if n then .zero else .inf false) else sfAtInf code n
  | x =>
    if code = 0x01 then return if x.neg? then .zero else x
    else if x.neg? && (code = 0x04 || code = 0x05 || code = 0x07 || code = 0x08) then invalidNaN
    else
      match x with
      | .fin neg m e => tableValue code neg m e
      | x => return x

/-- A built-in function in INT16 or INT32 at one input, for which the spec states no accuracy: a value outside the range saturates (R84);
within it the result is a free value of the range (log entry 14), and it is inexact where the exact value is not integral. -/
def wideAt (f : Fmt) (signed : Bool) (code inCode : Nat) (v : Exact ⊕ Encl) : Int × Flags :=
  let (lo, hi) := match v with
    | .inl x => (x, x)
    | .inr e => (⟨e.neg, e.lo, 1, -640⟩, ⟨e.neg, e.hi, 1, -640⟩)
  let a := (roundToInt f signed false .rne lo).run0
  let b := (roundToInt f signed false .rne hi).run0
  if a.2.saturated && b.2.saturated then (a.1, a.2)
  else
    let (least, most) := f.intRange signed
    (least + ((Config.actWide code f.code inCode : Int) % (most - least + 1)), { inexact := a.2.inexact || b.2.inexact })

/-- The same, the greatest of the results at the inputs where the function is no greater, so that the results are monotone (R150). -/
def placeWide (f : Fmt) (signed : Bool) (code : Nat) (neg : Bool) (m : Nat) (e : Int) : FM Nat := do
  let (x, fl) := wideAt f signed code (enc32 (.fin neg m e)) (sfValue code neg m e)
  raise fl
  return ofSigned f.width (overPiece code true neg m e (fun n2 m2 e2 best =>
    max best (wideAt f signed code (enc32 (.fin n2 m2 e2)) (sfValue code n2 m2 e2)).1) x)

/-- A built-in function evaluated directly in an output format other than binary32: the exact function value correctly
rounded under RNE for binary16 and the formats of 8 bits or fewer (R150, R151, R580). -/
def builtinDirect (code : Nat) (f : Fmt) (signed keep : Bool) (x : Datum) : FM Nat := do
  if f = .b64 then place f signed keep false .rne (.inl (← builtin32 code x)) else
  match x with
  | .nan n s _ =>
    if s then raise { invalid := true }
    place f signed keep false .rne (.inl (.qnan n))
  | .inf n =>
    if code = 0x01 then place f signed keep false .rne (.inl (if n then .zero else .inf false))
    else
      let v ← sfAtInf code n
      place f signed keep false .rne (.inl v)
  | .fin neg 0 _ =>
    if code = 0x01 then place f signed keep false .rne (.inl .zero)
    else if code = 0x0E then placeEncl f signed keep code (enc32 x) (enclose fxLn2)
    else
      let v ← sfAtZero code neg
      place f signed keep false .rne (.inl v)
  | .fin neg m e =>
    if code = 0x01 then place f signed keep false .rne (.inl (if neg then .zero else .fin neg m e))
    else if neg && (code = 0x04 || code = 0x05 || code = 0x07 || code = 0x08) then
      let v ← invalidNaN
      place f signed keep false .rne (.inl v)
    else if code = 0x04 && m = pow2Den e * 1 && e ≤ 0 then place f signed keep false .rne (.inl .zero)
    else if f.isInt && f.width > 8 then placeWide f signed code neg m e
    else
      match sfValue code neg m e with
      | .inl v => place f signed keep false .rne (.inr v)
      | .inr v => placeEncl f signed keep code (enc32 x) v

/-! User tables and micro-programs. -/

/-- Minimum and maximum of IEEE 754-2019 (R142): a NaN operand gives the first NaN. -/
def minNum (a b : Datum) : FM Datum := do
  match ← firstNaN [a, b] with
  | some n => return n
  | none => return if lessNum b a then b else a

def maxNum (a b : Datum) : FM Datum := do
  match ← firstNaN [a, b] with
  | some n => return n
  | none => return if lessNum a b then b else a

/-- The integral value at or below a finite datum. -/
def floorInt (neg : Bool) (m : Nat) (e : Int) : Int :=
  let v : Int := if neg then -(m : Int) else m
  v * (pow2Num e : Int) / (pow2Den e : Int)

def floorNum (x : Datum) : FM Datum := do
  match ← firstNaN [x] with
  | some n => return n
  | none =>
    match x with
    | .fin n m e =>
      let v := floorInt n m e
      return if v = 0 then .zero n else .ofInt v
    | x => return x

/-- `SRC1 × 2^⌊SRC2⌋` rounded under RNE (R154). -/
def scaleB (a b : Datum) : FM Datum := do
  match ← firstNaN [a, b] with
  | some n => return n
  | none =>
    match a, b with
    | .fin n m e, .fin n2 m2 e2 =>
      let k := floorInt n2 m2 e2
      num32 .rne (.fin n m (e + max (-2000) (min 2000 k)))
    | .fin n m e, .inf s => if s then return .zero n else mulNum (.fin n m e) (.inf false)
    | .inf n, .inf s => if s then mulNum (.inf n) .zero else return .inf n
    | x, _ => return x

/-- One micro-program operation on its three sources (R154); `fn` is the function IMM names. Each rounds under RNE. -/
def progOp (fn : Datum → FM Datum) (op : Nat) (a b c : Datum) : FM Datum := do
  match op with
  | 0x01 => add32 .rne a b
  | 0x02 => add32 .rne a (if b.isNaN then b else b.negate)
  | 0x03 => mul32 .rne a b
  | 0x04 =>
    match ← firstNaN [a, b, c] with
    | some n => return n
    | none => num32 .rne (← addNum .rne (← mulNum a b) c)
  | 0x05 => minNum a b
  | 0x06 => maxNum a b
  | 0x07 =>
    raiseSig a
    return if a.isNaN then a.quiet else if a.neg? then a.negate else a
  | 0x08 =>
    raiseSig a
    return if a.isNaN then a.quiet else a.negate
  | 0x09 =>
    let _ ← firstNaN [a, b]
    return if !a.isNaN && !b.isNaN && cmpNum a b < 0 then Datum.fin false 1 0 else .zero
  | 0x0A =>
    let _ ← firstNaN [a, b, c]
    return (if a.isZero then c else b).quiet
  | 0x0B => floorNum a
  | 0x0C => scaleB a b
  | _ => fn a

/-- Apply the function a code names from a bank, in binary32: built-in, user table or program; `fuel` bounds nested
program calls, which R155 keeps acyclic. -/
def applyFn (bank : Bank) : Nat → Nat → Datum → FM Datum
  | 0, _, x => return x
  | fuel + 1, code, x => do
    if code < 0x40 then builtin32 code x
    else if code < 0x80 then
      match bank.tables.find? (fun t => t.code = code) with
      | some t =>
        let v ← tableEval t.binades t.signMode t.expLow t.low t.high (fun i => t.segs.getD i (0, 0, 0)) t.corr x
        if t.outFmt = 2 then
          let c ← place .b16 true true false .rne (.inl v)
          return (decodeFloat .b16 true c {}).1
        else return v
      | none => return x
    else
      match bank.progs.find? (fun p => p.code = code) with
      | some p =>
        let init : List Datum := x :: (List.range 14).map (fun i => dec32 (Config.sfTemp (i + 1)).toNat)
        let (_, last) ← p.instrs.foldlM (init := (init, x)) fun (regs, last) w => do
          let imm := dec32 (bits w 32 32)
          let src (i : Nat) : Datum := if i = 15 then imm else regs.getD i .zero
          let a := src (bits w 12 4)
          let b := src (bits w 16 4)
          let c := src (bits w 20 4)
          let pred := bits w 24 4
          if pred ≠ 0 && (regs.getD pred .zero).isZero then return (regs, regs.getD (bits w 8 4) last)
          else
            let r ← progOp (applyFn bank fuel (bits w 32 8)) (bits w 0 8) a b c
            return (regs.set (bits w 8 4) r, r)
        if p.outFmt = 2 then
          let c ← place .b16 true true false .rne (.inl last)
          return (decodeFloat .b16 true c {}).1
        else return last
      | none => return x

/-- A function code evaluated straight into an output format under RNE (R146, R150, R580). -/
def applyFnTo (bank : Bank) (code : Nat) (f : Fmt) (signed keep : Bool) (x : Datum) : FM Nat := do
  if code < 0x40 && f ≠ .b32 then builtinDirect code f signed keep x
  else
    let v ← applyFn bank 130 code x
    place f signed keep false .rne (.inl v)

/-- Does the bank (with the built-ins) name a function code (R148, R156)? -/
def fnKnown (bank : Bank) (code : Nat) : Bool :=
  (1 ≤ code && code ≤ 0x0E) || bank.tables.any (fun t => t.code = code) || bank.progs.any (fun p => p.code = code)

/-- Could some bank name a function code (R148)? -/
def fnPossible (code : Nat) : Bool := (1 ≤ code && code ≤ 0x0E) || (0x40 ≤ code && code ≤ 0xFF)

end Sys2Proof.Machine
end

