-- ==== Sys2Proof/Machine/ArrayOps.lean ====
section
/-! DEFINITION. Array arithmetic (R86 to R112, R166 to R175, R184 to R194) and the epilogue (R146), on decoded operands. -/

namespace Sys2Proof.Machine

/-- Elements of a packed sequence (R71): element i is bits [w i + w - 1 : w i] of the little-endian byte string, which for
F6 is the 24-bit group rule because four elements fill three bytes. -/
def unpack (w n : Nat) (bytes : List Byte) : List Nat :=
  let v := leNat bytes
  (List.range n).map fun i => bits v (w * i) w

/-- Bytes that `n` elements of a format occupy (R71): F6 fills whole 3-byte groups. -/
def nbytes (f : Fmt) (n : Nat) : Nat :=
  match f with
  | .f6 => 3 * ceilDiv n 4
  | f => ceilDiv (n * f.width) 8

/-- Pack element codes under R71, padding with the all-zero code. -/
def packCodes (f : Fmt) (codes : List Nat) : List Byte :=
  let v := codes.foldr (fun c acc => c % 2 ^ f.width + acc * 2 ^ f.width) 0
  toLE (nbytes f codes.length) v

/-- Decode a list of codes. -/
def decodeAll (f : Fmt) (signed keep : Bool) (codes : List Nat) : FM (List Datum) :=
  codes.mapM (decode f signed keep)

/-- The paths of R89. -/
inductive APath
  | integer | short | long
  deriving DecidableEq, Repr

/-- The rate classes of R28 and R89. -/
inductive Rate
  | r4 | r8 | r16 | r32
  deriving DecidableEq, Repr

/-- The path and rate class of a weight and activation pair as held in the cell (R89), or none for a rejected pair. -/
def pairOf (w a : Fmt) : Option (APath × Rate) :=
  match w, a with
  | .i8, .i8 | .i4, .i8 => some (.integer, .r8)
  | .i4, .i4 => some (.integer, .r4)
  | .i16, .i16 | .i16, .i8 => some (.integer, .r16)
  | .f8e4, .f8e4 | .f8e4, .f8e5 | .f8e4, .f6 | .f8e5, .f8e4 | .f8e5, .f8e5 | .f8e5, .f6
  | .f6, .f8e4 | .f6, .f8e5 | .f6, .f6 | .f4, .f8e4 | .f4, .f8e5 | .f4, .f6 => some (.short, .r8)
  | .f4, .f4 => some (.short, .r4)
  | .b16, .b16 => some (.long, .r16)
  | .b32, .b32 => some (.long, .r32)
  | _, _ => none

/-- The exact value of a dot product with the special values of R88; an exact zero sum is +0 (R86). -/
def dotDatum (terms : List (Datum × Datum)) : FM Datum := do
  let ps ← terms.mapM fun t => mulNum t.1 t.2
  let pos := ps.any fun p => match p with | .inf false => true | _ => false
  let neg := ps.any fun p => match p with | .inf true => true | _ => false
  if pos && neg then invalidNaN
  else if ps.any Datum.isNaN then return .qnan false
  else if pos then return .inf false
  else if neg then return .inf true
  else
    let s := ps.foldl (fun acc p =>
      match acc, p with
      | .fin n1 m1 e1, .fin n2 m2 e2 => addFin false n1 m1 e1 n2 m2 e2
      | a, _ => a) (Datum.zero)
    return if s.isZero then .zero else s

/-- A NaN of the arrays is the canonical positive one (R88). -/
def canonNaN (x : Datum) : Datum := if x.isNaN then .qnan false else x

/-- One group rescale (R108, R166): `acc + round(p · gs · ss)`, two RNE roundings. A NaN multiplied by zero raises INVALID (R171). -/
def rescaleAdd (acc p gs ss : Datum) : FM Datum := do
  let q ← mulNum p gs
  if q.isZero && ss.isNaN || q.isNaN && ss.isZero || p.isZero && gs.isNaN || p.isNaN && gs.isZero then raise { invalid := true }
  let t ← num32 .rne (← mulNum q ss)
  return canonNaN (← add32 .rne acc (canonNaN t))

/-- The products of one group of a column: each weight with its activation, less the zero point on the integer path (R83, R86). -/
def groupTerms (g : Nat) (zp : Int) (integer : Bool) (col : List (Nat × Datum)) (row : Nat → Datum) (kg : Nat) : List (Datum × Datum) :=
  (col.filter fun t => t.1 / g = kg).map fun t =>
    let a := row t.1
    let a' := if integer then
      (match a with | .fin n m _ => Datum.ofInt ((if n then -(m : Int) else m) - zp) | x => x) else a
    (t.2, a')

/-- The accumulator of one output column and row on the integer and short-float paths: the groups of G along K in
ascending order, each an exact partial rescaled once (R86, R108, R166). `col`: the weights held, each with its K
position. `gs`, `ss`: the group and second-level scale of a group of this column. -/
def macGrouped (g gk : Nat) (zp : Int) (integer : Bool) (col : List (Nat × Datum)) (row : Nat → Datum)
    (gs ss : Nat → Datum) : FM Datum :=
  (List.range gk).foldlM (init := Datum.zero) fun acc kg => do
    rescaleAdd acc (← dotDatum (groupTerms g zp integer col row kg)) (gs kg) (ss kg)

/-- The accumulator on the long-float paths: segments of `seg` products, each an exact sum added with one RNE rounding
(R86). -/
def macLong (seg k : Nat) (col : List (Nat × Datum)) (row : Nat → Datum) : FM Datum :=
  (List.range (ceilDiv k seg)).foldlM (init := Datum.zero) fun acc s => do
    let terms := (col.filter fun t => t.1 / seg = s).map fun t => (t.2, row t.1)
    return canonNaN (← add32 .rne acc (← dotDatum terms))

def datumInt : Datum → Int
  | .fin n m _ => if n then -(m : Int) else m
  | _ => 0

def popcount8 (v : Nat) : Nat := ((List.range 8).map fun i => bits v i 1).sum

/-- The exact column result of the comparison modes (R110, R111) over K pairs (a, w). -/
def compareCol (mode : Nat) (pairs : List (Int × Int)) : Int :=
  match mode with
  | 0x2 => (pairs.map fun p => ((p.1 - p.2).natAbs : Int)).sum
  | 0x3 => (pairs.map fun p => (p.1 - p.2) * (p.1 - p.2)).sum
  | 0x4 => (pairs.map fun p => ((popcount8 (Nat.xor (p.1.toNat) (p.2.toNat)) : Nat) : Int)).sum
  | 0x5 =>
    match pairs with
    | [] => 0
    | p :: ps => ps.foldl (fun acc q => min acc (q.1 + q.2)) (p.1 + p.2)
  | _ =>
    match pairs with
    | [] => 0
    | p :: ps => ps.foldl (fun acc q => max acc (q.1 + q.2)) (p.1 + p.2)

/-! Weights: stored tiles, sparse sequences, expansion. -/

/-- Element index of weight (k, j) within the stored dense tensor (R98): tiles of 32 columns by `kt` K elements, by
column group and then K tile, column by column within a tile. -/
def denseIndex (kt ktiles k j : Nat) : Nat :=
  ((j / 32) * ktiles + k / kt) * (32 * kt) + (j % 32) * kt + k % kt

/-- Bytes of one stored tile (R98). -/
def tileBytes : Fmt → Nat
  | .i8 | .f8e4 | .f8e5 | .i4 | .f4 => 1024
  | .f6 => 768
  | .b32 => 4096
  | _ => 2048

/-- K elements of one stored tile. -/
def tileK : Fmt → Nat
  | .i4 | .f4 => 64
  | _ => 32

/-- Bytes of a dense tensor (R98). -/
def denseBytes (f : Fmt) (k n : Nat) : Nat := ceilDiv n 32 * ceilDiv k (tileK f) * tileBytes f

/-- The header fields of a sparse tensor (R186). -/
structure SparseHdr where
  pattern : Nat
  format : Nat
  k : Nat
  n : Nat
  valuesOff : Nat
  indexOff : Nat
  reservedZero : Bool
  deriving DecidableEq, Repr

def sparseHdr (b : List Byte) : SparseHdr :=
  { pattern := fieldLE b 0 1, format := fieldLE b 1 1, k := fieldLE b 4 4, n := fieldLE b 8 4,
    valuesOff := fieldLE b 0x10 8, indexOff := fieldLE b 0x18 8,
    reservedZero := fieldLE b 2 2 = 0 && fieldLE b 12 4 = 0 && fieldLE b 0x20 32 = 0 }

/-- Kept entries of a run under a pattern (R184). -/
def perRun (pattern : Nat) : Nat := if pattern = 1 then 2 else 1

/-- The kept codes of a column of a sparse tensor with their K positions (R187). -/
def sparseCol (pattern k j w : Nat) (values indices : Nat) : List (Nat × Nat) :=
  let runs := ceilDiv k 4
  let pr := perRun pattern
  let ent (r i : Nat) : Nat × Nat :=
    let x := (j * runs + r) * pr + i
    (4 * r + bits indices (2 * x) 2, bits values (w * x) w)
  let all := (List.range runs).flatMap fun r => (List.range pr).map fun i => ent r i
  all.filter fun t => t.1 < k

/-- Index order of the runs of a column between two K positions (R188). -/
def runsOk (pattern k j indices lo hi : Nat) : Bool :=
  let runs := ceilDiv k 4
  pattern ≠ 1 || (List.range runs).all fun r =>
    4 * r < lo || hi ≤ 4 * r || bits indices (4 * (j * runs + r)) 2 < bits indices (4 * (j * runs + r) + 2) 2

/-- Expand a narrow integer weight (R90): the code in the TARGET format. -/
def expandCode (keep : Bool) (r : ExpRec) (code : Nat) : FM Nat := do
  match Fmt.ofCode r.target with
  | none => return 0
  | some t =>
    if r.kind = 0 then return r.entries.getD code 0
    else
      let w := if r.source = 6 then 4 else 8
      let q : Int := if r.sourceSigned then toSigned w code else (code : Int)
      let p ← mulNum (.ofInt (q - r.zeroPoint)) (dec32 r.scale)
      place t false keep false .rne (.inl p)

/-! The epilogue. -/

/-- The epilogue controls of an ARRAY descriptor (R146), decoded. -/
structure Epi where
  bias : Bool
  act : Nat
  residual : Bool
  quantise : Bool
  scaleA : Nat
  scaleB : Nat
  out : Fmt
  outSigned : Bool
  rnd : Rnd
  keep : Bool
  deriving DecidableEq, Repr

/-- An observation (R179): elements converted, largest finite magnitude, non-finite elements, saturated elements. -/
structure Obs where
  count : Nat := 0
  maxMag : Datum := .zero
  nonfinite : Nat := 0
  saturated : Nat := 0
  deriving DecidableEq, Repr

/-- Observe one element before its quantisation; `sat`: its conversion saturated. -/
def Obs.see (o : Obs) (x : Datum) (sat : Bool) : Obs :=
  match x with
  | .fin _ m e =>
    { o with count := o.count + 1,
             maxMag := if lessNum o.maxMag (.fin false m e) then .fin false m e else o.maxMag,
             saturated := o.saturated + sat.toNat }
  | _ => { o with count := o.count + 1, nonfinite := o.nonfinite + 1 }

/-- One element through the epilogue (R146): the output code, with the value after step 4 and whether its conversion
saturated. -/
def epilogueElem (bank : Bank) (e : Epi) (acc bias residual : Datum) : FM (Nat × Datum × Bool) := do
  let v ← mul32 .rne acc (dec32 e.scaleA)
  let v ← if e.bias then add32 .rne v bias else pure v
  if e.act ≠ 0 && !e.quantise && !e.residual && e.rnd = .rne then
    let c ← applyFnTo bank e.act e.out e.outSigned e.keep v
    return (c, v, false)
  else
    let v ← if e.act ≠ 0 then applyFn bank 130 e.act v else pure v
    let v ← if e.residual then add32 .rne v (← num32 .rne residual) else pure v
    let q ← if e.quantise then mul32 .rne v (dec32 e.scaleB) else pure v
    let before ← get
    let c ← place e.out e.outSigned e.keep false e.rnd (.inl q)
    let after ← get
    return (c, v, before.satOps < after.satOps)

/-! One ARRAY operation. -/

/-- A column place of R106: its cell, its width, whether the cell is in quadrant mode. -/
structure Place where
  cell : Nat
  width : Nat
  quadrant : Bool
  deriving DecidableEq, Repr

/-- The places of a block (R104, R106): `cells` are the in-service cells with their groupings, ascending. -/
def placesOf (cells : List (Nat × Bool)) (k half : Nat) : List Place :=
  cells.flatMap fun c =>
    if c.2 then List.replicate (if k ≤ half then 4 else 2) ⟨c.1, 16, true⟩ else [⟨c.1, 32, false⟩]

/-- A column group of R106: first column, columns, place, and how many times round the places it comes. -/
structure ColGroup where
  first : Nat
  count : Nat
  place : Nat
  round : Nat
  deriving DecidableEq, Repr

/-- N cut from column 0 upward into column groups of the places' widths in turn (R106). `fuel` bounds the groups. -/
def cutColumns (places : List Place) (n : Nat) : Nat → Nat → Nat → List ColGroup
  | 0, _, _ => []
  | fuel + 1, col, j =>
    if n ≤ col then []
    else
      let p := j % places.length
      let w := (places.getD p ⟨0, 32, false⟩).width
      ⟨col, min w (n - col), p, j / places.length⟩ :: cutColumns places n fuel (col + w) (j + 1)

/-- What an ARRAY operation needs, decoded (R139, R168): formats as held in the cell. `scaled`: its scale block holds group
scales, so it is neither of a long-float path nor under UNIT_SCALES. -/
structure ArrJob where
  mode : Nat
  path : APath
  rate : Rate
  wHeld : Fmt
  wSigned : Bool
  aFmt : Fmt
  aSigned : Bool
  keep : Bool
  m : Nat
  k : Nat
  n : Nat
  g : Nat
  zp : Int
  sparse : Option Nat
  scaled : Bool
  cells : List (Nat × Bool)
  deriving DecidableEq, Repr

namespace ArrJob

/-- How many dense K positions one kept weight of a pattern stands for (R184). -/
def factor (j : ArrJob) : Nat :=
  match j.sparse with
  | none => 1
  | some p => if p = 1 then 2 else 4

/-- K elements one row covers, by its rate class (R97, R184). -/
def kRow (j : ArrJob) : Nat := (if j.rate = .r4 then 64 else 32) * j.factor

/-- K elements one tile covers, by the format held (R97, R185). Where it is twice a row, as for 4-bit weights under wider
activations, two rows of each activation vector meet the tile (DEDUCED, log entry 66). -/
def span (j : ArrJob) : Nat := tileK j.wHeld * j.factor

/-- Cycles between rows (R99): half rate for L2 (R110). -/
def rowCycles (j : ArrJob) : Nat :=
  (match j.rate with
    | .r4 | .r8 => 1
    | .r16 => 2
    | .r32 => 8) * (if j.mode = 3 then 2 else 1)

def half (j : ArrJob) : Nat := j.kRow / 2

def places (j : ArrJob) : List Place := placesOf j.cells j.k j.half

def placeAt (j : ArrJob) (c : ColGroup) : Place := j.places.getD c.place ⟨0, 32, false⟩

/-- The column groups of the operation (R106), none for a block without a cell in service. -/
def cut (j : ArrJob) : List ColGroup := if j.places.isEmpty then [] else cutColumns j.places j.n (j.n + 1) 0 0

def ktiles (j : ArrJob) : Nat := ceilDiv j.k j.span

/-- Groups of G in a column. -/
def gk (j : ArrJob) : Nat := ceilDiv j.k j.g

/-- Rows of a chunk (R106), and the rows of each chunk of M. -/
def chunk (j : ArrJob) : Nat := if j.cells.all (fun c => !c.2) then 512 else 256

def chunks (j : ArrJob) : List (Nat × Nat) :=
  (List.range (ceilDiv j.m j.chunk)).map fun i => (i * j.chunk, min j.chunk (j.m - i * j.chunk))

end ArrJob

/-! Segments (R96, R109, R172). -/

/-- Tiles a buffer holds (R97, R185). -/
def bufferTiles (sparse : Bool) (f : Fmt) : Nat :=
  if sparse then
    match f with
    | .i4 | .f4 => 170
    | .i16 | .b16 => 113
    | .b32 => 60
    | _ => 204
  else
    match f with
    | .i16 | .b16 => 128
    | .b32 => 64
    | _ => 256

/-- One K tile on the places of one cell: the column groups it serves in one round (R104, R106). -/
structure SegStep where
  groups : List ColGroup
  tile : Nat
  deriving DecidableEq, Repr

/-- The walk of one cell: its rounds in order, and in each the K tiles in ascending order (R106). -/
def ArrJob.walk (j : ArrJob) (cell : Nat) : List SegStep :=
  let cut := j.cut
  let rounds := (cut.map fun c => c.round + 1).foldl max 0
  (List.range rounds).flatMap fun r =>
    let mine := cut.filter fun c => c.round = r && (j.placeAt c).cell = cell
    if mine.isEmpty then [] else (List.range j.ktiles).map fun t => ⟨mine, t⟩

/-- Quarter tiles that a step fills: a place of 16 columns takes two quadrants, or one where a cell offers four (R104). -/
def ArrJob.quarters (j : ArrJob) (x : SegStep) : Nat :=
  (x.groups.map fun c => if !(j.placeAt c).quadrant then 4 else if j.k ≤ j.half then 1 else 2).sum

/-- First and last group of a column that a K tile meets (R167). -/
def ArrJob.groupsOf (j : ArrJob) (tile : Nat) : Nat × Nat :=
  (tile * j.span / j.g, (min j.k ((tile + 1) * j.span) - 1) / j.g)

/-- Columns of a step. -/
def SegStep.columns (x : SegStep) : List Nat := x.groups.flatMap fun c => (List.range c.count).map (c.first + ·)

/-- The group scales that a step uses (R167). -/
def ArrJob.scaleIndices (j : ArrJob) (x : SegStep) : List Nat :=
  if !j.scaled then []
  else
    let (lo, hi) := j.groupsOf x.tile
    x.columns.flatMap fun c => (List.range (hi + 1 - lo)).map fun i => c * j.gk + lo + i

/-- A segment being filled: those that are full, the steps of this one, its quarter tiles, group scales and second-level
scales. -/
structure SegFill where
  full : List (List SegStep) := []
  steps : List SegStep := []
  quarters : Nat := 0
  groups : List Nat := []
  seconds : List Nat := []

/-- The next step joins the segment, or begins the next where a limit of R172 is reached. -/
def ArrJob.fill (j : ArrJob) (s : SegFill) (x : SegStep) : SegFill :=
  let q := j.quarters x
  let mine := j.scaleIndices x
  let groups := mine.filter (fun g => !s.groups.contains g) ++ s.groups
  let seconds := ((mine.map (· / 256)).eraseDups).filter (fun g => !s.seconds.contains g) ++ s.seconds
  if s.steps.isEmpty || (s.quarters + q ≤ 4 * bufferTiles j.sparse.isSome j.wHeld && groups.length ≤ 8192 && seconds.length ≤ 64) then
    { s with steps := s.steps ++ [x], quarters := s.quarters + q, groups := groups, seconds := seconds }
  else
    { full := s.full ++ [s.steps], steps := [x], quarters := q, groups := mine, seconds := (mine.map (· / 256)).eraseDups }

/-- The segments of one cell, in order (R172). -/
def ArrJob.segments (j : ArrJob) (cell : Nat) : List (List SegStep) :=
  let s := (j.walk cell).foldl j.fill {}
  if s.steps.isEmpty then s.full else s.full ++ [s.steps]

/-- A tile as a cell holds it: of each of its columns, the weight codes with their K positions, in the format held. -/
abbrev Tile := List (Nat × List (Nat × Nat))

/-! Counters and run time. -/

/-- The work a cell or block did in an operation, for its counters (R107, R128, R129, R193, R205). -/
structure ArrStats where
  cycles : Nat := 0
  passes : List (Nat × Nat) := []
  rows : List (Nat × Nat) := []
  bcast : Nat := 0
  skipped : Nat := 0
  sparsePasses : Nat := 0
  products : Nat := 0
  deriving DecidableEq, Repr

/-- One broadcast step: the cells that take part, the rows issued in each chunk, the rows skipped, the products formed. -/
structure StepInfo where
  cells : List Nat
  issued : List Nat
  zero : Nat
  products : Nat
  deriving DecidableEq, Repr

/-- Is an activation element zero for its path (R192)? -/
def zeroElem (path : APath) (zp : Int) (a : Datum) : Bool :=
  match path with
  | .integer => datumInt a = zp
  | _ => a.isZero

/-- One K tile of one round: its rows by chunk, those that are zero blocks skipped in every cell (R192, R193). Under sparse weights the
elements that a cell reads are taken as the whole K span of the row, not only those that the kept indices select (DESIGN CHOICE, log
entry 74). -/
def ArrJob.stepInfo (j : ArrJob) (row : Nat → Nat → Datum) (cols : List (List (Nat × Datum))) (groups : List ColGroup) (tile : Nat) :
    StepInfo :=
  let ws : List (Nat × Datum) := groups.flatMap fun c =>
    ((cols.drop c.first).take c.count).flatMap fun col => col.filter fun w => w.1 / j.span = tile
  let badW := j.path ≠ .integer && ws.any fun w => w.2.isNaN || (match w.2 with | .inf _ => true | _ => false)
  let starts := ((List.range (j.span / j.kRow)).map fun u => tile * j.span + u * j.kRow).filter (· < j.k)
  let zeroRow (k0 m : Nat) : Bool := !badW && j.mode ≤ 1 &&
    (List.range j.kRow).all fun i => k0 + i ≥ j.k || zeroElem j.path j.zp (row m (k0 + i))
  let zerosOf (k0 : Nat) (c : Nat × Nat) : Nat := ((List.range c.2).filter fun m => zeroRow k0 (c.1 + m)).length
  { cells := groups.map fun c => (j.placeAt c).cell,
    issued := j.chunks.map fun c => (starts.map fun k0 => c.2 - zerosOf k0 c).sum,
    zero := (j.chunks.map fun c => (starts.map fun k0 => zerosOf k0 c).sum).sum,
    products := (starts.map fun k0 =>
      (j.chunks.map fun c => c.2 - zerosOf k0 c).sum * (ws.filter fun w => w.1 / j.kRow = k0 / j.kRow).length).sum }

/-- The counters and the run time of an operation (R99 to R107, R192, R193): each pass of M rows with Z skipped takes
max((M - Z) × r, T_load) cycles, and the block is done when its slowest cell is. `ran`: the passes that count, by column group and K
tile. -/
def arrStats (j : ArrJob) (row : Nat → Nat → Datum) (cols : List (List (Nat × Datum))) (ran : ColGroup → Nat → Bool) : ArrStats :=
  let cut := j.cut
  let rounds := (cut.map fun c => c.round + 1).foldl max 0
  let infos : List StepInfo := ((List.range rounds).flatMap fun r => (List.range j.ktiles).map fun t =>
    j.stepInfo row cols (cut.filter fun c => c.round = r && ran c t) t).filter fun s => !s.cells.isEmpty
  let perCell (c : Nat × Bool) : Nat × Nat × Nat × Nat :=
    let mine := infos.filter fun s => s.cells.contains c.1
    let tload := if c.2 then 16 else 32
    let lat := if c.2 then 32 else 64
    (c.1, mine.length * j.chunks.length, (mine.map fun s => s.issued.sum).sum,
     if mine.isEmpty then 0 else (mine.map fun s => (s.issued.map fun n => max (n * j.rowCycles) tload).sum).sum + lat)
  let cellsInfo := j.cells.map perCell
  { cycles := (cellsInfo.map fun c => c.2.2.2).foldl max 0,
    passes := cellsInfo.map fun c => (c.1, c.2.1),
    rows := cellsInfo.map fun c => (c.1, c.2.2.1),
    bcast := (infos.map fun s => s.issued.sum).sum,
    skipped := (infos.map fun s => s.zero).sum,
    sparsePasses := if j.sparse.isSome then (cellsInfo.map fun c => c.2.1).sum else 0,
    products := (infos.map fun s => s.products).sum }

/-- The long-float segment of a column: 32 products in a 32×32 cell and 16 in a quadrant, twice that K span under sparse
weights (R86, R189). -/
def segOf (j : ArrJob) (quadrant : Bool) : Nat :=
  (if quadrant then 16 else 32) * (if j.sparse.isSome then 2 else 1)

/-- Is a column served by a quadrant (R106)? -/
def ArrJob.quadAt (j : ArrJob) (c : Nat) : Bool :=
  match j.cut.find? (fun x => x.first ≤ c && c < x.first + x.count) with
  | some x => (j.placeAt x).quadrant
  | none => false

/-- An accumulator entry once the first `reach` positions of K have run (R86, R96, R108): the groups or segments that are whole are in the
binary32 accumulator, and the exact sum of the one in progress stands beside it. `c`: the column. -/
def accAfter (j : ArrJob) (c reach : Nat) (col0 : List (Nat × Datum)) (row : Nat → Datum) (gs ss : Nat → Datum) :
    FM (Datum × Datum) := do
  let col := (if j.mode = 1 then col0.filter fun t => t.1 = c else col0).filter fun t => t.1 < reach
  let whole (len count : Nat) : Nat := if j.k ≤ reach then count else reach / len
  if 1 < j.mode then return (.zero, .ofInt (compareCol j.mode (col.map fun t => (datumInt (row t.1), datumInt t.2))))
  else match j.path with
    | .long =>
      let seg := segOf j (j.quadAt c)
      let n := whole seg (ceilDiv j.k seg)
      return (← macLong seg (seg * n) col row, ← dotDatum ((col.filter fun t => t.1 / seg = n).map fun t => (t.2, row t.1)))
    | p =>
      let n := whole j.g j.gk
      return (← macGrouped j.g n j.zp (p = .integer) col row gs ss, ← dotDatum (groupTerms j.g j.zp (p = .integer) col row n))

/-- Every output of an ARRAY operation in row order, with the flags, the observation of R179 and the counters.
`act`: activation data, element (m, k) at m · K + k. `cols`: the weights of each column as held. `gs g`, `ss s`: scales.
`bias j`, `res i`: epilogue operands. -/
def runArray (bank : Bank) (j : ArrJob) (e : Epi) (act : List Datum) (cols : List (List (Nat × Datum)))
    (gs ss : Nat → Datum) (bias res : Nat → Datum) : FM (List Nat × Obs × ArrStats) := do
  let acts := act.toArray
  let row (m k : Nat) : Datum := acts.getD (m * j.k + k) .zero
  let gk := j.gk
  let idx := (List.range j.m).flatMap fun m => (List.range j.n).map fun n => (m, n)
  let (codes, obs) ← idx.foldlM (init := (([] : List Nat), ({} : Obs))) fun (acc, obs) (m, n) => do
    let col0 := cols.getD n []
    let col := if j.mode = 1 then col0.filter fun t => t.1 = n else col0
    if j.mode ≤ 1 then
      let a ← match j.path with
        | .long => macLong (segOf j (j.quadAt n)) j.k col (row m)
        | p => macGrouped j.g gk j.zp (p = .integer) col (row m) (fun kg => gs (n * gk + kg)) (fun kg => ss ((n * gk + kg) / 256))
      let (c, v, sat) ← epilogueElem bank e a (bias n) (res (m * j.n + n))
      return (c :: acc, if e.quantise then obs.see v sat else obs)
    else
      let v := compareCol j.mode (col.map fun t => (datumInt (row m t.1), datumInt t.2))
      let c ← place e.out e.outSigned e.keep true e.rnd (.inl (.ofInt v))
      return (c :: acc, obs)
  return (codes.reverse, obs, arrStats j row cols fun _ _ => true)

end Sys2Proof.Machine
end

