-- ==== Sys2Proof/Machine/VectorOps.lean ====
section
/-! DEFINITION. The vector unit (R141 to R145, R581), SFU operations (R148 to R152), the scale-state update (R179, R180)
and expert assignment (R198), on decoded operands. -/

namespace Sys2Proof.Machine

/-- The decoded formats of a VECTOR or SFU descriptor (R139). -/
structure VecFmt where
  a : Fmt
  aSigned : Bool
  w : Fmt
  wSigned : Bool
  out : Fmt
  outSigned : Bool
  rnd : Rnd
  keep : Bool
  deriving DecidableEq, Repr

/-- Place a result under FMT_OUT; `ints`: every operand came from an integer format (R76, R85). -/
def VecFmt.put (v : VecFmt) (ints : Bool) (x : Datum) : FM Nat :=
  place v.out v.outSigned v.keep ints v.rnd (.inl x)

/-- Quotient of two data, placed (R76, R141): exact, then rounded once. An integer divided by zero into a float FMT_OUT gives what IEEE
754-2019 gives (DESIGN CHOICE, log entry 64: R76 speaks of the destination's maximum and minimum, which an integer destination has). -/
def divPlace (v : VecFmt) (ints : Bool) (a b : Datum) : FM Nat := do
  match ← firstNaN [a, b] with
  | some n => v.put ints n
  | none =>
    match a, b with
    | .inf _, .inf _ => do v.put ints (← invalidNaN)
    | .inf x, y => v.put ints (.inf (x != y.neg?))
    | x, .inf y => v.put ints (.zero (x.neg? != y))
    | .fin n1 m1 e1, .fin n2 m2 e2 =>
      if m2 = 0 then
        if ints && v.out.isInt then
          raise { divByZero := true }
          let r := v.out.intRange v.outSigned
          return ofSigned v.out.width (if n1 && m1 ≠ 0 then r.1 else r.2)
        else if m1 = 0 then v.put ints (← invalidNaN)
        else
          raise { divByZero := true }
          v.put ints (.inf (n1 != n2))
      else place v.out v.outSigned v.keep ints v.rnd (.inr ⟨n1 != n2, m1, m2, e1 - e2⟩)
    | x, _ => v.put ints x

/-- One element of an element-wise operation (R141, R142): codes 0x01 to 0x0A. FMA of 0 × ∞ beside a quiet NaN raises no INVALID
(DESIGN CHOICE, log entry 64: IEEE 754-2019 leaves it to the implementation). A zero product or quotient of integers that goes to a float
format has the exclusive OR of the signs of its operands (DESIGN CHOICE, log entry 74). SEL returns the operand that it selects; a signalling
NaN among its operands raises INVALID (R74). -/
def vecElem (v : VecFmt) (scaleB : Nat) (code : Nat) (a b c : Datum) : FM Nat := do
  let ints1 := v.a.isInt
  let ints := v.a.isInt && v.w.isInt
  match code with
  | 0x01 => v.put ints (← addNum v.rnd a b)
  | 0x02 => v.put ints (← addNum v.rnd a (if b.isNaN then b else b.negate))
  | 0x03 => v.put ints (← mulNum a b)
  | 0x04 => divPlace v ints a b
  | 0x05 =>
    match ← firstNaN [a, b, c] with
    | some n => v.put ints n
    | none => v.put ints (← addNum v.rnd (← mulNum a b) c)
  | 0x06 => v.put ints (← minNum a b)
  | 0x07 => v.put ints (← maxNum a b)
  | 0x08 => v.put ints1 a
  | 0x09 => v.put false (← mulNum a (dec32 scaleB))
  | _ =>
    let _ ← firstNaN [a, b, c]
    v.put v.w.isInt (if !a.isNaN && cmpNum a .zero > 0 then b else c).quiet

/-- Sum of two values held in a long format, rounded (R143). -/
def addIn (f : Fmt) (mode : Rnd) (a b : Datum) : FM Datum := do
  match ← addNum mode a b with
  | .fin n m e => roundFloat f mode true ⟨n, m, 1, e⟩
  | .inf n => return .inf n
  | .nan n _ p => return placeNaN f n p

/-- One level of the pairwise tree (R143): lane 2i with lane 2i + 1; an empty side passes the other on. -/
def treeLevel (add : Datum → Datum → FM Datum) : List (Option Datum) → FM (List (Option Datum))
  | [] => return []
  | [x] => return [x]
  | x :: y :: rest => do
    let z ← match x, y with
      | some a, some b => do pure (some (← add a b))
      | some a, none => pure (some a)
      | none, y => pure y
    return z :: (← treeLevel add rest)

def treeSum (add : Datum → Datum → FM Datum) : Nat → List (Option Datum) → FM (Option Datum)
  | 0, l => return l.headD none
  | n + 1, l => do treeSum add n (← treeLevel add l)

/-- A row reduced in the fixed order of R143: 128 lanes, then the pairwise tree. -/
def laneSum (add : Datum → Datum → FM Datum) (row : List Datum) : FM (Option Datum) := do
  let lanes ← (List.range 128).mapM fun j => do
    let mine := (row.zipIdx.filter fun p => p.2 % 128 = j).map (·.1)
    match mine with
    | [] => return none
    | x :: xs => do return some (← xs.foldlM add x)
  treeSum add 7 lanes

def accFmt (f : Fmt) : Fmt := if f = .b64 then .b64 else .b32

def rowSum (v : VecFmt) (row : List Datum) : FM Nat := do
  if v.a.isInt then v.put true (.ofInt ((row.map datumInt).sum))
  else
    let s ← laneSum (addIn (accFmt v.a) v.rnd) row
    v.put false (s.getD .zero)

/-- Maximum of a row as a datum, −0 below +0, the first NaN if there is one (R142). -/
def rowMaxDatum (row : List Datum) : FM Datum :=
  match row with
  | [] => return .inf true
  | x :: xs => xs.foldlM maxNum x

/-- `a - b` rounded into binary32. -/
def sub32 (mode : Rnd) (a b : Datum) : FM Datum := add32 mode a (if b.isNaN then b else b.negate)

def expB (x : Datum) : FM Datum := builtin32 0x02 x

/-- Chunks of 128 elements of a row. `fuel` bounds them. -/
def chunks128 : Nat → List Datum → List (List Datum)
  | 0, _ => []
  | n + 1, l => if l.isEmpty then [] else l.take 128 :: chunks128 n (l.drop 128)

/-- The online maximum and sum of a row (R144, R581). A maximum of −∞ leaves the sum 0. -/
def rowStats (mode : Rnd) (row : List Datum) : FM (Datum × Datum) :=
  (chunks128 (row.length + 1) row).foldlM (init := (Datum.inf true, Datum.zero)) fun (m, s) x => do
    let mc ← maxNum m (← rowMaxDatum x)
    if mc = .inf true then return (mc, s)
    else
      let old ← if m = .inf true then pure Datum.zero else do mul32 mode s (← expB (← sub32 mode m mc))
      let es ← x.mapM fun e => do expB (← sub32 mode e mc)
      let sum ← laneSum (add32 mode) es
      return (mc, ← add32 mode old (sum.getD .zero))

/-- MERGESTATS of two pairs (R144). -/
def mergeStats (mode : Rnd) (m1 s1 m2 s2 : Datum) : FM (Datum × Datum) := do
  let m ← maxNum m1 m2
  if m = .inf true then return (m, .zero)
  else
    let a ← mul32 mode s1 (← expB (← sub32 mode m1 m))
    let b ← mul32 mode s2 (← expB (← sub32 mode m2 m))
    return (m, ← add32 mode a b)

/-- SOFTMAX of a row (R144); a row of −∞ gives the canonical NaN with INVALID (R581). -/
def softmaxRow (v : VecFmt) (row : List Datum) : FM (List Nat) := do
  let row ← row.mapM (num32 v.rnd)
  let (m, s) ← rowStats v.rnd row
  if m = .inf true then
    raise { invalid := true }
    row.mapM fun _ => v.put false .qnan
  else
    let r ← builtin32 0x06 s
    row.mapM fun x => do
      let e ← expB (← sub32 v.rnd x m)
      v.put false (← mul32 v.rnd e r)

/-- A quotient in binary32. -/
def div32 (mode : Rnd) (a b : Datum) : FM Datum := do
  let c ← divPlace ⟨.b32, true, .b32, true, .b32, true, mode, true⟩ false a b
  return dec32 c

/-- Mean and sum of squared deviations of a chunk, in binary32. -/
def chunkStats (mode : Rnd) (x : List Datum) : FM (Datum × Datum) := do
  let n : Datum := .ofInt x.length
  let s ← laneSum (add32 mode) x
  let mean ← div32 mode (s.getD .zero) n
  let d ← x.mapM fun e => do
    let t ← sub32 mode e mean
    mul32 mode t t
  let m2 ← laneSum (add32 mode) d
  return (mean, m2.getD .zero)

/-- The chunks of a row joined in row order by the pairwise update of Chan (R145): mean and sum of squared deviations. -/
def chanStats (mode : Rnd) (row : List Datum) : FM (Datum × Datum) := do
  let (_, mean, m2) ← (chunks128 (row.length + 1) row).foldlM (init := (0, Datum.zero, Datum.zero)) fun (n, mean, m2) x => do
    let (mb, sb) ← chunkStats mode x
    if n = 0 then return (x.length, mb, sb)
    else
      let tot := n + x.length
      let d ← sub32 mode mb mean
      let mean' ← add32 mode mean (← div32 mode (← mul32 mode d (.ofInt x.length)) (.ofInt tot))
      let dd ← mul32 mode d d
      let corr ← div32 mode (← mul32 mode dd (← num32 mode (.ofInt ((n * x.length : Nat) : Int)))) (.ofInt tot)
      return (tot, mean', ← add32 mode (← add32 mode m2 sb) corr)
  return (mean, m2)

/-- One row of LAYERNORM (`beta` given) or RMSNORM (R145). -/
def normRow (v : VecFmt) (eps : Nat) (row : List Datum) (gamma : Nat → Datum) (beta : Option (Nat → Datum)) :
    FM (List Nat) := do
  let row ← row.mapM (num32 v.rnd)
  let n : Datum := .ofInt row.length
  let (mu, var) ← match beta with
    | some _ => do
      let (mean, m2) ← chanStats v.rnd row
      pure (some mean, ← div32 v.rnd m2 n)
    | none => do
      let sq ← (chunks128 (row.length + 1) row).foldlM (init := (0, Datum.zero)) fun (cnt, ms) x => do
        let q ← x.mapM fun e => mul32 v.rnd e e
        let s ← laneSum (add32 v.rnd) q
        let tot := cnt + x.length
        let a ← div32 v.rnd (← mul32 v.rnd ms (.ofInt cnt)) (.ofInt tot)
        let b ← div32 v.rnd (s.getD .zero) (.ofInt tot)
        return (tot, ← add32 v.rnd a b)
      pure (none, sq.2)
  let r ← builtin32 0x08 (← add32 v.rnd var (dec32 eps))
  row.zipIdx.mapM fun (x, i) => do
    let d ← match mu with
      | some m => sub32 v.rnd x m
      | none => pure x
    let y ← mul32 v.rnd d r
    let y ← mul32 v.rnd y (← num32 v.rnd (gamma i))
    let y ← match beta with
      | some b => do add32 v.rnd y (← num32 v.rnd (b i))
      | none => pure y
    v.put false y

/-- Split a row-major list into `m` rows of `k`. -/
def rowsOf {α : Type} (m k : Nat) (l : List α) : List (List α) :=
  (List.range m).map fun i => (l.drop (i * k)).take k

/-- The row-wise operations of R142 (0x10 to 0x16) over M rows of K: the output codes. MERGESTATS reads pairs. -/
def vecRows (v : VecFmt) (eps code m k : Nat) (a : List Datum) (b c : Nat → Datum) : FM (List Nat) := do
  let rs := rowsOf m k a
  let outs ← rs.zipIdx.mapM fun (row, i) => do
    match code with
    | 0x10 => return [← rowSum v row]
    | 0x11 => return [← v.put v.a.isInt (← rowMaxDatum row)]
    | 0x12 => softmaxRow v row
    | 0x13 =>
      let row ← row.mapM (num32 v.rnd)
      let (x, s) ← rowStats v.rnd row
      return [enc32 x, enc32 s]
    | 0x14 =>
      let (x, s) ← mergeStats v.rnd (row.getD 0 .zero) (row.getD 1 .zero) (b (2 * i)) (b (2 * i + 1))
      return [enc32 x, enc32 s]
    | 0x15 => normRow v eps row (fun j => b (i * k + j)) (some fun j => c (i * k + j))
    | _ => normRow v eps row (fun j => b (i * k + j)) none
  return outs.flatten

/-! The scale-state record (R176 to R180). -/

/-- fmt_max of R180. -/
def fmtMax (target : Nat) (signed : Bool) : Nat :=
  match target with
  | 0x2 => 65504
  | 0x5 => if signed then 127 else 255
  | 0x6 => if signed then 7 else 15
  | 0x7 => 480
  | 0x8 => 57344
  | 0x9 => 28
  | _ => 6

/-- The observation as a binary32 code, rounded toward +∞ and capped at the largest finite value (R179). -/
def obsCode (o : Obs) : Nat :=
  let x := ((num32 .rup o.maxMag).run0).1
  match x with
  | .inf _ => 0x7F7FFFFF
  | x => enc32 x

/-- The derived scale (R180) as a binary32 code: `a` is the history's maximum. -/
def deriveScale (target : Nat) (signed pow2 : Bool) (margin : Nat) (a : Datum) (init : Nat) : Nat :=
  match a with
  | .fin _ m e =>
    if m = 0 then init
    else
      let s := ((round32 .rtz ⟨false, fmtMax target signed, m, -e - (margin : Int)⟩).run0).1
      match s with
      | .fin _ sm se => if pow2 then enc32 (.fin false 1 (Nat.log2 sm + se)) else enc32 s
      | s => enc32 s
  | _ => init

/-- The writes of the update at command end (R180): block-memory offset and bytes, the record at `off`. `rec` is the
record's 128 bytes, `h` the history length. Its roundings raise no format flag (DESIGN CHOICE, log entry 65: R94 speaks of a command's
operations). -/
def scaleUpdate (rec : List Byte) (off h : Nat) (o : Obs) : List (Nat × List Byte) :=
  if o.count = 0 then []
  else
    let flags := fieldLE rec 1 1
    let head := (fieldLE rec 4 1 + 1) % 16
    let filled := min (fieldLE rec 3 1 + 1) 16
    let oc := obsCode o
    let ring (i : Nat) : Nat := if i = head then oc else fieldLE rec (0x20 + 4 * i) 4
    let n := min h filled
    let a := (List.range n).foldl (fun acc i =>
      let x := dec32 (ring ((head + 16 - i % 16) % 16))
      if lessNum acc x then x else acc) (Datum.zero)
    let scale := deriveScale (fieldLE rec 0 1) (bits flags 1 1 = 1) (bits flags 0 1 = 1) (fieldLE rec 2 1) a (fieldLE rec 8 4)
    let dests := (List.range 4).filterMap fun i =>
      let w := fieldLE rec (0x60 + 8 * i) 4
      let f := fieldLE rec (0x64 + 8 * i) 4
      if bits w 31 1 = 1 then
        let v := if bits w 30 1 = 1 then ((div32 .rne (dec32 f) (dec32 scale)).run0).1
                 else ((mul32 .rne (dec32 scale) (dec32 f)).run0).1
        some (bits w 0 23, toLE 4 (enc32 v))
      else none
    [(off + 3, toLE 1 filled), (off + 4, toLE 1 head), (off + 5, toLE 1 h), (off + 0x0C, toLE 4 scale),
     (off + 0x10, toLE 4 (satAdd 32 (fieldLE rec 0x10 4) o.nonfinite)),
     (off + 0x14, toLE 4 (satAdd 32 (fieldLE rec 0x14 4) o.saturated)),
     (off + 0x18, toLE 8 (fieldLE rec 0x18 8 + 1)), (off + 0x20 + 4 * head, toLE 4 oc)] ++ dests

/-! Expert assignment (R198). -/

/-- Insertion into a list sorted by `before`. -/
def insertBy {α : Type} (before : α → α → Bool) (x : α) : List α → List α
  | [] => [x]
  | y :: ys => if before x y then x :: y :: ys else y :: insertBy before x ys

/-- A stable insertion sort. -/
def sortBy {α : Type} (before : α → α → Bool) (l : List α) : List α :=
  l.foldr (insertBy before) []

/-- Highest score first, ties to the lower index, NaN last (R198, R202). -/
def scoreBefore (a b : Datum × Nat) : Bool :=
  match a.1.isNaN, b.1.isNaN with
  | true, true => a.2 < b.2
  | true, false => false
  | false, true => true
  | false, false => cmpNum a.1 b.1 > 0 || (cmpNum a.1 b.1 = 0 && a.2 < b.2)

/-- One assigned choice: token, choice index, expert, rank, slot. -/
structure Choice where
  token : Nat
  choice : Nat
  expert : Nat
  rank : Nat
  slot : Nat
  deriving DecidableEq, Repr

structure Assign where
  used : List Nat
  placed : List Choice
  pending : List (Nat × Nat)
  deriving DecidableEq, Repr

def Assign.tryPlace (cap : Nat) (a : Assign) (t i x rank : Nat) : Option Assign :=
  let u := a.used.getD x 0
  if u < cap then some { a with used := a.used.set x (u + 1), placed := ⟨t, i, x, rank, u⟩ :: a.placed } else none

/-- The assignment of R198: the placed choices in order of placing. `order t` lists the experts of token t. -/
def assignExperts (e topk spillLimit m cap : Nat) (spill : Bool) (order : Nat → List Nat) : List Choice :=
  let idx := (List.range topk).flatMap fun i => (List.range m).map fun t => (t, i)
  let a := idx.foldl (fun (a : Assign) (t, i) =>
    match a.tryPlace cap t i ((order t).getD i 0) i with
    | some a' => a'
    | none => { a with pending := (t, i) :: a.pending }) ⟨List.replicate e 0, [], []⟩
  let a := if spill then
      a.pending.reverse.foldl (fun (a : Assign) (t, i) =>
        let ranks := (List.range (spillLimit - topk)).map (· + topk)
        match ranks.find? (fun r =>
            let x := (order t).getD r 0
            a.used.getD x 0 < cap && !a.placed.any (fun c => c.token = t && c.expert = x)) with
        | some r => (a.tryPlace cap t i ((order t).getD r 0) r).getD a
        | none => a) a
    else a
  a.placed.reverse

end Sys2Proof.Machine
end

