-- ==== Sys2Proof/Machine/Search.lean ====
section
/-! DEFINITION. Search arithmetic: list heads and records (R208 to R211, R257), coefficients and scores (R212 to R216),
pruning and heaps (R217, R221), filter programs (R268, R269), identity states (R262 to R264), graph walks (R259), cascades
(R202), stored-byte quantisation (R309). Bytes in, data out; no machine state. -/

namespace Sys2Proof.Machine

/-! Small binary32 helpers without flags (the Kerb raises none). -/

def v32 (x : FM Datum) : Datum := (x.run0).1
def kadd (a b : Datum) : Datum := v32 (add32 .rne a b)
def kmul (a b : Datum) : Datum := v32 (mul32 .rne a b)
def isFinite (x : Datum) : Bool :=
  match x with
  | .fin .. => true
  | _ => false

/-- The binary32 values of a table of `n` codes at an offset. -/
def table32 (b : List Byte) (off n : Nat) : List Datum :=
  (unpack 32 n (sliceB b off (4 * n))).map dec32

/-! List heads. -/

/-- A list head (R208). -/
structure ListHead where
  magic : Nat
  format : Nat
  kind : Nat
  flags : Nat
  listId : Nat
  dims : Nat
  stripeVectors : Nat
  vectors : Nat
  stripes : Nat
  version : Nat
  highBase : Nat
  lowBase : Nat
  sideBase : Nat
  sideStride : Nat
  headLength : Nat
  capacity : Nat
  offsets : List Datum
  scales : List Datum
  deriving DecidableEq, Repr

def dPad (d : Nat) : Nat := roundUp d 64

def listHead (b : List Byte) : ListHead :=
  let d := fieldLE b 0x0C 2
  let tab := if fieldLE b 6 1 = 3 then 0 else d
  { magic := fieldLE b 0 4, format := fieldLE b 4 2, kind := fieldLE b 6 1, flags := fieldLE b 7 1,
    listId := fieldLE b 8 4, dims := d, stripeVectors := fieldLE b 0x0E 2, vectors := fieldLE b 0x10 8,
    stripes := fieldLE b 0x18 4, version := fieldLE b 0x1C 4, highBase := fieldLE b 0x20 8,
    lowBase := fieldLE b 0x28 8, sideBase := fieldLE b 0x30 8, sideStride := fieldLE b 0x38 4,
    headLength := fieldLE b 0x3C 4, capacity := fieldLE b 0x40 4,
    offsets := table32 b 0x80 tab, scales := table32 b (0x80 + 4 * tab) tab }

/-- SIDE_STRIDE and HEAD_LENGTH as R208 computes them. -/
def sideStrideOf (v : Nat) : Nat := roundUp (128 * v) 4096
def headLengthOf (kind d : Nat) : Nat := if kind = 3 then 4096 else roundUp (128 + 8 * d) 4096

/-- The checks of R211; `kind` is the distance kind of the index. -/
def headOk (kind : Nat) (h : ListHead) : Bool :=
  h.magic = 0x5453494C && h.format = 1 && h.kind = kind && h.kind ≤ 3
    && decide (64 ≤ h.dims) && decide (h.dims ≤ 4096) && h.stripeVectors = 131072 / dPad h.dims
    && h.sideStride = sideStrideOf h.stripeVectors && h.headLength = headLengthOf h.kind h.dims
    && h.highBase % 65536 = 0 && h.lowBase % 65536 = 0 && h.sideBase % 4096 = 0
    && h.capacity ≠ 0 && decide (h.stripes ≤ h.capacity)
    && h.offsets.all isFinite && h.scales.all isFinite

/-! Side and node records. -/

/-- The identity, text locator and attributes a candidate carries (R210, R257). -/
structure Rec where
  id : Nat
  gen : Nat
  valid : Bool
  norm : Nat
  docId : Nat
  textLba : Nat
  textLength : Nat
  attr : List Byte
  deriving DecidableEq, Repr

def sideRec (b : List Byte) : Rec :=
  { id := fieldLE b 0 5, gen := fieldLE b 5 1, valid := bits (fieldLE b 6 1) 0 1 = 1, norm := fieldLE b 8 4,
    docId := fieldLE b 0x0C 4, textLba := fieldLE b 0x10 8, textLength := fieldLE b 0x18 4, attr := sliceB b 0x20 64 }

def sideBytes (r : Rec) : List Byte :=
  toLE 5 r.id ++ toLE 1 r.gen ++ toLE 1 r.valid.toNat ++ toLE 1 0 ++ toLE 4 r.norm ++ toLE 4 r.docId ++ toLE 8 r.textLba
    ++ toLE 4 r.textLength ++ toLE 4 0 ++ (r.attr ++ List.replicate 64 0).take 64 ++ List.replicate 32 0

/-- A node record (R257). -/
structure Node where
  r : Rec
  magic : Nat
  version : Nat
  neighbours : Nat
  edges : List (Nat × Nat)
  vector : List Nat
  deriving DecidableEq, Repr

def nodeRec (b : List Byte) : Node :=
  { r := { id := fieldLE b 4 5, gen := fieldLE b 9 1, valid := bits (fieldLE b 0xA 1) 0 1 = 1, norm := fieldLE b 0x10 4,
           docId := fieldLE b 0x14 4, textLba := fieldLE b 0x18 8, textLength := fieldLE b 0x20 4, attr := sliceB b 0x40 64 },
    magic := fieldLE b 0 4, version := fieldLE b 0xC 4, neighbours := fieldLE b 0xB 1,
    edges := (List.range 64).map fun i => (fieldLE b (0x80 + 6 * i) 5, fieldLE b (0x85 + 6 * i) 1),
    vector := (sliceB b 0x200 1536).map (·.toNat) }

def nodeBytes (n : Node) : List Byte :=
  toLE 4 n.magic ++ toLE 5 n.r.id ++ toLE 1 n.r.gen ++ toLE 1 n.r.valid.toNat ++ toLE 1 n.neighbours ++ toLE 4 n.version
    ++ toLE 4 n.r.norm ++ toLE 4 n.r.docId ++ toLE 8 n.r.textLba ++ toLE 4 n.r.textLength ++ List.replicate 28 0
    ++ (n.r.attr ++ List.replicate 64 0).take 64
    ++ ((List.range 64).flatMap fun i => let e := n.edges.getD i (0, 0); toLE 5 e.1 ++ toLE 1 e.2)
    ++ ((n.vector.map fun v => BitVec.ofNat 8 v) ++ List.replicate 1536 0).take 1536

/-- Is a node record scored (R257)? `id`: the ID its location implies. -/
def nodeOk (version degree id : Nat) (n : Node) : Bool :=
  n.magic = 0x45444F4E && n.version = version && decide (n.neighbours ≤ degree) && n.r.id = id

/-- The exact squared norm rounded once (R210): binary32, capped at the largest finite value. -/
def normOf (offsets scales : List Datum) (u : List Nat) : Nat :=
  let terms := ((offsets.zip scales).zip u).map fun ((o, s), x) =>
    match o, s with
    | .fin n1 m1 e1, .fin n2 m2 e2 => addFin false n1 m1 e1 n2 (m2 * x) e2
    | _, _ => .zero
  let sum := terms.foldl (fun acc t =>
    match acc, t with
    | .fin n1 m1 e1, .fin _ m e => addFin false n1 m1 e1 false (m * m) (e + e)
    | a, _ => a) Datum.zero
  match v32 (num32 .rne sum) with
  | .inf _ => 0x7F7FFFFF
  | x => enc32 x

/-! Coefficients and scores. -/

/-- What the Kerb derives for a query and a scale set (R213). For HAMMING `c` holds the query bytes. -/
structure Coef where
  kind : Nat
  c : List Int
  qs : Datum
  qc : Datum
  qn : Datum
  lmax : Int
  lmin : Int
  deriving DecidableEq, Repr

/-- The power-of-two scale of R213: `2 ^ ceil (log2 (m / 127))` of a positive dyadic magnitude. -/
def coefScale (m : Nat) (e : Int) : Int :=
  let n := m * pow2Num e
  let d := 127 * pow2Den e
  let k := ilog2Q n d
  if n * pow2Den k = d * pow2Num k then k else k + 1

def coefOf (kind : Nat) (q offsets scales : List Datum) (qbytes : List Nat) : Coef :=
  if kind = 3 then ⟨3, qbytes.map fun (b : Nat) => (b : Int), .zero, .zero, .zero, 0, 0⟩
  else
    let a := (q.zip scales).map fun p => kmul p.1 p.2
    let m := a.foldl (fun acc x =>
      match x with
      | .fin _ mm e => if lessNum acc (.fin false mm e) then .fin false mm e else acc
      | _ => acc) Datum.zero
    let (qs, c) : Datum × List Int :=
      match m with
      | .fin _ mm e =>
        if mm = 0 then (.zero, a.map fun _ => 0)
        else
          let p := coefScale mm e
          (.fin false 1 p, a.map fun x =>
            match x with
            | .fin n xm xe =>
              let v := (roundAt .rne n xm 1 (xe - p) 0).1
              if n then -(v : Int) else v
            | _ => 0)
      | _ => (.zero, a.map fun _ => 0)
    let qc := (q.zip offsets).foldl (fun acc p => kadd acc (kmul p.1 p.2)) Datum.zero
    let qn := q.foldl (fun acc x => kadd acc (kmul x x)) Datum.zero
    ⟨kind, c, qs, qc, qn, 15 * (c.filter (0 < ·)).sum, 15 * (c.filter (· < 0)).sum⟩

/-- The score function of R212 at an integer sum. -/
def scoreAt (k : Coef) (norm : Nat) (s : Int) : Datum :=
  if k.kind = 3 then .ofInt s
  else
    let t := v32 (mul32 .rne k.qs (.ofInt s))
    if k.kind = 1 then
      let two := match t with
        | .fin n m e => Datum.fin (!n) m (e + 1)
        | x => x.negate
      v32 (add32 .rne (kadd k.qn (dec32 norm)) two)
    else kadd k.qc t

/-- Is score `a` strictly better than `b` (R212)? -/
def betterScore (kind : Nat) (a b : Datum) : Bool :=
  if kind = 0 || kind = 2 then cmpNum a b > 0 else cmpNum a b < 0

/-- The worst threshold (R217). -/
def thetaInit (kind : Nat) : Datum := if kind = 0 || kind = 2 then .inf true else .inf false

/-- The integer sums of R214 over nibbles or bytes; for HAMMING a popcount of differences. `sh`: which nibble of the
query byte a HAMMING sum compares (4 high, 0 low), `mask` its mask. -/
def sumOver (k : Coef) (sh mask : Nat) (vals : List Nat) : Int :=
  if k.kind = 3 then
    ((k.c.zip vals).map fun p => ((popcount8 (Nat.xor (p.1.toNat / 2 ^ sh % (mask + 1)) p.2) : Nat) : Int)).sum
  else ((k.c.zip vals).map fun p => p.1 * (p.2 : Int)).sum

def sumHigh (k : Coef) (h : List Nat) : Int := sumOver k 4 15 h
def sumLow (k : Coef) (l : List Nat) : Int := sumOver k 0 15 l
def sumByte (k : Coef) (u : List Nat) : Int := sumOver k 0 255 u

/-- S from H and L (R214). -/
def sumS (k : Coef) (h l : Int) : Int := if k.kind = 3 then h + l else 16 * h + l

/-- The optimistic bound (R216). -/
def optBound (k : Coef) (norm : Nat) (h : Int) : Datum :=
  if k.kind = 3 then .ofInt h else scoreAt k norm (16 * h + k.lmax)

/-- Pruned (R217): the bound is strictly worse than θ. -/
def pruned (kind : Nat) (theta bound : Datum) : Bool := betterScore kind theta bound

/-! Heaps. -/

/-- A heap entry (R221): score, identity, bound, place, and what the side record gives the result entry. -/
structure Cand where
  score : Datum
  bound : Datum
  info : Rec
  stripe : Nat
  slot : Nat
  source : Nat
  deriving DecidableEq, Repr

/-- The order of R221: score best first, then lower ID, then lower generation. -/
def candBefore (kind : Nat) (a b : Cand) : Bool :=
  betterScore kind a.score b.score
    || (cmpNum a.score b.score = 0
        && (a.info.id < b.info.id || (a.info.id = b.info.id && a.info.gen < b.info.gen)))

/-- Offer a candidate to a heap of `k` entries kept best first (R221). -/
def offer (kind k : Nat) (c : Cand) (heap : List Cand) : List Cand :=
  (insertBy (candBefore kind) c heap).take k

/-- θ of a heap (R217). -/
def thetaOf (kind k : Nat) (heap : List Cand) : Datum :=
  if k ≤ heap.length then
    match heap[k - 1]? with
    | some c => c.score
    | none => thetaInit kind
  else thetaInit kind

/-- The better of two thresholds (R219). -/
def thetaBest (kind : Nat) (a b : Datum) : Datum := if betterScore kind b a then b else a

/-! Identity states. -/

/-- An entry of the ID state table (R262). -/
structure IdState where
  gen : Nat := 0
  tomb : Bool := false
  free : Bool := true
  exhausted : Bool := false
  deriving DecidableEq, Repr

/-- The tombstone check (R264): true when the candidate passes. -/
def idPasses (s : IdState) (gen : Nat) : Bool := s.gen = gen && !s.tomb && !s.free

/-! Filter programs. -/

/-- One comparison of R268 and R269. -/
def filterCmp (op : Nat) (lt eq unordered : Bool) : Bool :=
  if unordered then op = 2
  else match op with
    | 0x01 => eq
    | 0x02 => !eq
    | 0x03 => lt
    | 0x04 => lt || eq
    | 0x05 => !lt && !eq
    | _ => !lt

/-- Run one filter instruction on the flags (R268). -/
def filterStep (attr : List Byte) (params : List Nat) (flags : List Bool) (w : Nat) : List Bool :=
  let op := bits w 0 8
  let dst := bits w 19 3
  let a := flags.getD (bits w 22 3) false
  let b := flags.getD (bits w 25 3) false
  let width := 2 ^ bits w 14 2
  let opnd := if bits w 18 1 = 1 then params.getD (bits w 32 3) 0 else bits w 32 32
  let raw := fieldLE attr (bits w 8 6) width
  let o := opnd % 2 ^ (8 * width)
  let r : Bool := match op with
    | 0x07 => Nat.land raw o ≠ 0
    | 0x08 => Nat.land raw o = o
    | 0x10 => a && b
    | 0x11 => a || b
    | 0x12 => a && !b
    | 0x13 => !a
    | op =>
      if bits w 17 1 = 1 then
        let x := dec32 raw
        let y := dec32 opnd
        filterCmp op (cmpNum x y < 0) (cmpNum x y = 0) (x.isNaN || y.isNaN)
      else
        let x : Int := if bits w 16 1 = 1 then toSigned (8 * width) raw else raw
        let y : Int := if bits w 16 1 = 1 then toSigned (8 * width) o else o
        filterCmp op (x < y) (x = y) false
  flags.set dst r

/-- A filter program over ATTR (R269): the candidate passes when b0 is 1 at the end. -/
def filterRun (prog : List Nat) (attr : List Byte) (params : List Nat) : Bool :=
  (prog.foldl (filterStep attr params) (List.replicate 8 false)).getD 0 false

/-- Is a filter instruction accepted at FILTER_LOAD (R268, R269)? -/
def filterInstrOk (w : Nat) : Bool :=
  let op := bits w 0 8
  let logic := op = 0x10 || op = 0x11 || op = 0x12 || op = 0x13
  (logic || (1 ≤ op && op ≤ 8)) && bits w 28 4 = 0
    && (if logic then bits w 8 11 = 0 && bits w 32 32 = 0 && (op ≠ 0x13 || bits w 25 3 = 0)
        else bits w 14 2 ≠ 3 && decide (bits w 8 6 + 2 ^ bits w 14 2 ≤ 64) && bits w 22 6 = 0
          && (bits w 17 1 = 0 || (bits w 14 2 = 2 && bits w 16 1 = 0))
          && (bits w 18 1 = 0 || bits w 35 29 = 0))

/-! Stripes. -/

/-- The nibbles of slot `v` in a unit (R209). -/
def slotNibbles (d v : Nat) (unit : List Byte) : List Nat :=
  unpack 4 d (sliceB unit (v * (dPad d / 2)) (dPad d / 2))

/-- A surviving slot of the high pass: slot number and H. -/
structure Surv where
  slot : Nat
  h : Int
  deriving DecidableEq, Repr

/-- The high pass of one stripe for one query (R218 step 1): survivors by the bound of R216 against θ. The side record's
NORM enters the bound of L2. `valid` says which slots hold a vector. Returns survivors and the pruned pairs. -/
def highPass (k : Coef) (theta : Datum) (d slots : Nat) (norm : Nat → Nat) (valid : Nat → Bool) (high : List Byte) :
    List Surv × Nat :=
  let all := (List.range slots).filter valid
  let scored := all.map fun v => (⟨v, sumHigh k (slotNibbles d v high)⟩ : Surv)
  let keep := scored.filter fun s => !pruned k.kind theta (optBound k (norm s.slot) s.h)
  (keep, scored.length - keep.length)

/-- The low pass of one surviving slot (R218 step 5): its exact score and bound as a heap entry. -/
def lowCand (k : Coef) (d stripe : Nat) (s : Surv) (r : Rec) (low : List Byte) : Cand :=
  let l := sumLow k (slotNibbles d s.slot low)
  { score := scoreAt k r.norm (sumS k s.h l), bound := optBound k r.norm s.h, info := r, stripe := stripe, slot := s.slot,
    source := 0 }

/-! Graph walks. -/

/-- A beam entry. -/
structure BeamEnt where
  cand : Cand
  node : Node
  expanded : Bool
  deriving DecidableEq, Repr

/-- A walk of one partition (R259). -/
structure Walk where
  beam : List BeamEnt := []
  visited : List Nat := []
  scored : List BeamEnt := []
  level : Nat := 0
  stale : Nat := 0
  full : Bool := false
  done : Bool := false
  deriving DecidableEq, Repr

def nodeCand (k : Coef) (n : Node) : Cand :=
  let s := scoreAt k n.r.norm (sumByte k n.vector)
  { score := s, bound := s, info := n.r, stripe := 0, slot := 0, source := 0 }

/-- Score a record and put it into the beam and the visited set. -/
def Walk.take (k : Coef) (w : Nat) (x : Walk) (n : Node) : Walk :=
  let e : BeamEnt := ⟨nodeCand k n, n, false⟩
  { x with beam := (insertBy (fun a b => candBefore k.kind a.cand b.cand) e x.beam).take w,
           visited := x.visited ++ [n.r.id], scored := x.scored ++ [e] }

/-- Follow one edge (R259). `read` gives the record of an ID of the partition, none outside it. A visited set of 16,384 IDs is full and
takes no further record of the level. -/
def Walk.edge (k : Coef) (w version degree : Nat) (read : Nat → Option Node) (x : Walk) (e : Nat × Nat) : Walk :=
  if x.visited.contains e.1 then x
  else match read e.1 with
    | none => x
    | some n =>
      if !(nodeOk version degree e.1 n && n.r.valid && n.r.gen = e.2) then { x with stale := x.stale + 1 }
      else if x.full then x
      else
        let y := x.take k w n
        { y with full := decide (16384 ≤ y.visited.length) }

/-- One hop level (R259): the first EXPAND unexpanded beam entries, in beam order, each edge in record order. The beam is
updated as each record is scored, in this fixed order (R260). -/
def Walk.step (k : Coef) (w expand version degree : Nat) (read : Nat → Option Node) (x : Walk) : Walk :=
  let xs := (x.beam.filter fun b => !b.expanded).take expand
  if xs.isEmpty || x.full then { x with done := true }
  else
    let ids := xs.map fun b => b.node.r.id
    let x1 := { x with beam := x.beam.map fun b => if ids.contains b.node.r.id then { b with expanded := true } else b }
    let x2 := xs.foldl (fun acc b => (b.node.edges.take b.node.neighbours).foldl (Walk.edge k w version degree read) acc) x1
    { x2 with level := x2.level + 1, done := x2.full }

/-- Seed a walk (R258, R259). -/
def Walk.seed (k : Coef) (w version degree : Nat) (read : Nat → Option Node) (seeds : List (Nat × Nat)) : Walk :=
  seeds.foldl (Walk.edge k w version degree read) {}

/-- Run up to `levels` levels. -/
def Walk.run (k : Coef) (w expand version degree : Nat) (read : Nat → Option Node) : Nat → Walk → Walk
  | 0, x => { x with done := true }
  | n + 1, x => if x.done then x else Walk.run k w expand version degree read n (x.step k w expand version degree read)

/-- The result heap of a walk (R259): every scored node in visited order that passes the checks. Also the number that
failed them. -/
def Walk.result (kind k : Nat) (passes : Rec → Bool) (x : Walk) : List Cand × Nat :=
  x.scored.foldl (fun (h, f) b => if passes b.cand.info then (offer kind k b.cand h, f) else (h, f + 1)) ([], 0)

/-! Cascades, stored bytes, insertion. -/

/-- Candidates by exit score (R202): highest first, then lower ID and generation, NaN last. -/
def exitBefore (a b : Cand) : Bool :=
  match a.score.isNaN, b.score.isNaN with
  | true, false => false
  | false, true => true
  | true, true => a.info.id < b.info.id || (a.info.id = b.info.id && a.info.gen < b.info.gen)
  | false, false =>
    cmpNum a.score b.score > 0
      || (cmpNum a.score b.score = 0 && (a.info.id < b.info.id || (a.info.id = b.info.id && a.info.gen < b.info.gen)))

/-- The candidates that continue after a cascade stage (R202): the first KEEP less those below EXIT_BELOW, never one of
the `k` best. -/
def cascadeExit (keep k : Nat) (exitBelow : Nat) (cs : List Cand) : List Cand :=
  let r := (sortBy exitBefore cs).take keep
  r.take k ++ (r.drop k).filter fun c => !(!c.score.isNaN && !(dec32 exitBelow).isNaN && cmpNum c.score (dec32 exitBelow) < 0)

/-- The stored byte of one element and whether it was clamped (R309 step 4). -/
def storedByte (x offset scale : Datum) : Nat × Bool :=
  let d := v32 (addNum .rne x offset.negate)
  match d, scale with
  | .fin n m e, .fin _ sm se =>
    let v := (roundAt .rne n m sm (e - se) 0).1
    if n && v ≠ 0 then (0, true) else if v > 255 then (255, true) else (v, false)
  | .inf n, _ => (if n then 0 else 255, true)
  | _, _ => (0, false)

/-- The DEGREE best scored nodes that are not tombstoned as neighbours (R311 step 2), ties to the lower ID. -/
def pickNeighbours (kind degree : Nat) (live : Rec → Bool) (x : Walk) : List BeamEnt :=
  (sortBy (fun a b => candBefore kind a.cand b.cand) (x.scored.filter fun b => live b.cand.info)).take degree

end Sys2Proof.Machine
end

