-- ==== Sys2Proof/Machine/Types.lean ====
section
/-! DEFINITION. Plain data of the plan, the blocks, the Kerbs, the indexes, the queries and the jobs: the parts of State. -/

namespace Sys2Proof.Machine

/-! Sparse maps and memories. -/

/-- A sparse map in one canonical form: keys strictly rising. -/
abbrev AMap (α : Type) := List (Nat × α)

/-- A memory of bytes: addresses strictly rising, no entry equal to 0, which an unlisted address reads as. -/
abbrev Mem := List Host.Cell

/-! Statuses. -/

/-- The statuses a command completes with: the vendor codes of R5 and the NVMe statuses the spec names. -/
inductive Status
  | success | invalidField | invalidOpcode
  | computeAborted | planMismatch | indexVersionRetired | districtNotResident | lightTimeout | timeHoldover
  | leaseRevoked | signatureInvalid | scopeBusy
  | unrecoveredReadError | internalError | dataTransferError | capacityExceeded | lbaOutOfRange | commandInterrupted
  | formatInProgress | sanitizeInProgress | commandSequenceError | transientTransportError | invalidFirmwareImage
  | asyncEventLimit | sanitizeFailed | commandAbortRequested | invalidNamespace
  deriving DecidableEq, Repr

/-! The plan. -/

/-- The scope kinds of R43. -/
inductive ScopeKind
  | device | quarter | block | cell | kerb
  deriving DecidableEq, Repr

structure Scope where
  kind : ScopeKind
  index : Nat
  deriving DecidableEq, Repr

/-- An entry of DISTRICT_TABLE (R47). -/
structure DistrictEntry where
  enable : Bool := false
  subnormalKeep : Bool := false
  blockWeight : Nat := 0
  quarterWeight : Nat := 0
  gateWeight : Nat := 0
  kerbShare : Nat := 0
  t0Gib : Nat := 0
  t1Gib : Nat := 0
  energyCapMw : Nat := 0
  hostqFirst : Nat := 0
  hostqCount : Nat := 0
  defaultProbes : Nat := 0
  defaultBeam : Nat := 0
  scaleHistory : Nat := 0
  widenLimit : Nat := 0
  deriving DecidableEq, Repr

/-- The role of a physical block in BLOCK_MAP (R61), `unset` before the plan is applied at start. -/
inductive Role
  | unset
  | active (logical : Nat)
  | spare (rank : Nat)
  | retired
  deriving DecidableEq, Repr

/-- An entry of BLOCK_MAP (R61). -/
structure BlockEntry where
  role : Role
  district : Nat
  deriving DecidableEq, Repr

/-- The KERB_POLICY record (R232). -/
structure KerbPolicy where
  fg : Nat := 8
  sweep : Nat := 4
  write : Nat := 4
  bg : Nat := 1
  writeUrgentPct : Nat := 75
  maxSuspends : Nat := 4
  minEraseRunUs : Nat := 500
  cacheSpecPct : Nat := 25
  prefetchDepth : Nat := 8
  prefetchInflight : Nat := 1024
  thresholdShare : Bool := true
  deriving DecidableEq, Repr

/-! Blocks and cells. -/

/-- The tag of a weight buffer (R115): district, weight handle and expansion bank, whose number counts the swaps, so that a bank swapped
out and in again is another one (R116, R134). `data`, the bytes of the bound range and of the scale block as the load read them, is its
load generation (DESIGN CHOICE, log entry 12). `table` and `keep` are an expansion's table and subnormal mode, `group` the group size of
scaled weights (0: none), and `cover` says which part of the tensor the buffer holds: for each column, the K positions from and to. -/
structure BufKey where
  district : Nat
  handle : Nat
  bank : Nat
  table : Option Nat
  keep : Bool
  group : Nat
  cover : List (Nat × Nat × Nat)
  data : List Byte
  deriving DecidableEq, Repr

/-- A loaded weight buffer (R96, R109): its tag, its tiles step by step as expanded and held, and its scale area, group scales and
second-level scales each with its index. `fresh`: no pass has used it since its load. -/
structure BufTag where
  key : BufKey
  tiles : List Tile
  groupScales : AMap Nat
  secondScales : AMap Nat
  fresh : Bool := true
  deriving DecidableEq, Repr

/-- An entry of the accumulator memory (R86, R96, R118): the row and the column of the output tile in progress that it serves, its
binary32 accumulator, the exact partial sum of the group in progress, and its 2 bytes of parity. -/
structure AccEntry where
  row : Nat
  col : Nat
  acc : BitVec 32
  sum : Datum
  parity : BitVec 16
  deriving DecidableEq, Repr

/-- A cell's state beside its registers (R96, R102, R115). `acc`: the segments whose passes have run for the operation in progress;
`accum`: the accumulator memory, 512 × 32 or 256 × 64 entries at most; `planes`: the tiles of the last two passes. -/
structure Cell where
  fenced : Bool := false
  quadrant : Bool := false
  front : Option BufTag := none
  shadow : Option BufTag := none
  acc : List BufTag := []
  accum : List AccEntry := []
  planes : List Tile := []
  deriving DecidableEq, Repr

/-- The slot states of R163. -/
inductive SlotState
  | waiting | ready | preparing | running | completing
  deriving DecidableEq, Repr

/-- Who issued a compute command: a host queue, a query stage, a job, or an INGEST (R278, R309, R312). -/
inductive Origin
  | host (queue cid : Nat)
  | stage (query : Nat)
  | job (job : Nat)
  | ingest (queue cid : Nat)
  deriving DecidableEq, Repr

/-- A COMPUTE command in a slot (R130, R138, R163). -/
structure Slot where
  seq : Nat
  origin : Origin
  district : Nat
  opCount : Nat
  opList : Nat
  listInT0 : Bool
  scaleState : Nat
  scaleHistory : Nat
  routeState : Nat
  pairGather : Nat
  bufferLength : Nat
  state : SlotState
  /-- The light and value a leading WAIT waits for, and the beat at which it expires (R136, R334). -/
  wait : Option (Nat × Nat × Nat) := none
  /-- The descriptors, fixed when the command is checked (R140). -/
  ops : List (List Byte) := []
  /-- The next operation. -/
  next : Nat := 0
  gathered : Bool := false
  /-- Reads of its pair gather that are not here yet, once they are issued (R305). -/
  gatherWait : Option Nat := none
  dispatched : Bool := false
  /-- The LIGHT WAIT that the slot has waited for (R136). -/
  waited : Option (List Byte) := none
  /-- The leading ASYNC DMA operations issued ahead, while another command ran (R134). -/
  ahead : List (List Byte) := []
  /-- The base of the batch slot of a stage run (R275). -/
  base : Option Nat := none
  /-- The subnormal mode and the history length in force at the command's start (R50, R81, R177). -/
  keep : Bool := true
  hist : Nat := 0
  /-- INDEX numbers of the objects the command names and holds (R355). -/
  held : List Nat := []
  /-- The operation for which the last shadow load completed, and the loads that found a metadata error: operation, cell and segment
  (R191). -/
  loadedOp : Option Nat := none
  badMeta : List (Nat × Nat × Nat) := []
  /-- What the command added to CELL_STALL of its cells (R101, R544). -/
  stalls : Nat := 0
  obs : Obs := {}
  startOps : List Nat := []
  startTime : Nat := 0
  arrayCycles : Nat := 0
  vectorCycles : Nat := 0
  dmaCycles : Nat := 0
  dmaBytes : Nat := 0
  failed : Option Status := none
  deriving DecidableEq, Repr

/-- A DMA marked ASYNC still in flight (R160): its slot, its place in the command's list, and its descriptor. -/
structure AsyncDma where
  slot : Nat
  ix : Nat
  op : List Byte
  deriving DecidableEq, Repr

/-- A physical block (0 to 287) beside its registers and memory. -/
structure Block where
  role : Role := .unset
  home : Nat := 0
  selfTest : Bool := false
  slots : AMap Slot := []
  running : Option Nat := none
  deficits : AMap Int := []
  banks : Bank × Bank := ({}, {})
  inUse : Nat := 0
  /-- The number of the bank in use: each bank that comes into use is a new one. -/
  bankGen : Nat := 0
  /-- The back bank written by an amendment and the beat of its swap, if one is named (R51). -/
  backWritten : Option (Option Nat) := none
  cells : List Cell := [{}, {}, {}, {}]
  dma : List AsyncDma := []
  quiesced : Bool := false
  /-- A fault has retired the block and a spare is in self-test for it: its queue waits (R62, R121). -/
  failing : Bool := false
  /-- The district of weight zero that started last (R24). -/
  lastZero : Nat := 16
  /-- Queue entry order: the next command's place (R135). -/
  nextSeq : Nat := 0
  /-- Commands counted for COUNTER_SAMPLE (R548). -/
  sampled : Nat := 0
  deriving DecidableEq, Repr

/-! Kerbs. -/

/-- The classes of R228. -/
inductive DieClass
  | flush | foreground | speculative | sweep | write | rebuild | background
  deriving DecidableEq, Repr

/-- What a die operation is for. -/
inductive DiePurpose
  /-- A host read of a namespace piece for a command tag. -/
  | hostRead (tag : Nat)
  /-- The head, high unit, side piece or low piece of a query block's current stripe. -/
  | head (qblock : Nat)
  | high (qblock : Nat)
  | side (qblock piece : Nat)
  | low (qblock piece : Nat)
  /-- A graph record for a walk. -/
  | record (qblock id : Nat)
  | text (query entry : Nat)
  /-- A passage record for the pair gather of a command of a block (R305). -/
  | gather (block seq : Nat)
  /-- A passage record for a batch of a job, by the number of the batch (R309). -/
  | passage (job turn : Nat)
  | speculate
  | patrol
  /-- Reads and programs of reclaim, rewrite and rebuild. -/
  | relocate (unit : Nat)
  | program
  | erase
  | calibrate
  deriving DecidableEq, Repr

inductive DieOpKind
  | read | program | erase
  deriving DecidableEq, Repr

/-- One queued or running die operation (R228): namespace and piece (or unit, or block group) it acts on. -/
structure DieOp where
  kind : DieOpKind
  cls : DieClass
  purpose : DiePurpose
  ns : Nat
  piece : Nat
  generation : Nat := 0
  /-- The time at which it started or was last resumed, ns, and the times it has been suspended (R229). -/
  since : Nat := 0
  suspends : Nat := 0
  /-- MIN_ERASE_RUN_US and MAX_SUSPENDS of the record in force when it was issued (R232). -/
  minRun : Nat := 500
  maxSuspends : Nat := 4
  /-- Its piece is discarded as it arrives: the cache was dropped while it was in flight (R237). -/
  dropped : Bool := false
  deriving DecidableEq, Repr

/-- A flash die (R228, R229, R238, R392). -/
structure Die where
  present : Bool := true
  busy : Option DieOp := none
  suspended : Option DieOp := none
  queue : List DieOp := []
  /-- The suspended operation is due to resume at the next operation boundary. -/
  resume : Bool := false
  /-- WRITE operations in a row, and grants left to each class in the present round of weights (R228). -/
  writeRun : Nat := 0
  credits : AMap Nat := []
  /-- Times of the reads that needed a rebuild (R392). -/
  rebuilds : List Nat := []
  deriving DecidableEq, Repr

/-- A cached piece (R224). -/
structure CachePiece where
  ns : Nat
  piece : Nat
  generation : Nat
  speculative : Bool
  used : Bool
  deriving DecidableEq, Repr

/-- One query of a query block (R213, R218): coefficients, the survivors of the stripe in progress and of the one after it, whose high unit
is read ahead, and its heap at this Kerb as the block began. `gone`: it has ended, and leaves at the next boundary (R235). -/
structure QbQuery where
  query : Nat
  coef : Coef := { kind := 0, c := [], qs := .zero, qc := .zero, qn := .zero, lmax := 0, lmin := 0 }
  surv : List Surv := []
  ahead : List Surv := []
  start : List Cand := []
  gone : Bool := false
  deriving DecidableEq, Repr

/-- The steps of a query block: list head; coefficients ready, for the turn of the block (R215, R252); high unit; its bounds compared;
side pieces, low pieces; graph seeds and levels; done. -/
inductive QbPhase
  | head | ready | high | passed | side | low | seeds | level | done
  deriving DecidableEq, Repr

/-- A query block at a Kerb (R215 to R218, R222, R250, R252, R259): one list, or one partition of a graph. -/
structure QBlock where
  id : Nat
  district : Nat
  ns : Nat
  version : Nat
  kind : Nat
  sweep : Bool
  admitted : Bool := false
  /-- The list, or the partition, and for a list the stripes of this Kerb that are left. -/
  unit : Nat
  stripes : List Nat := []
  phase : QbPhase := .head
  /-- Reads that its present step waits for. -/
  pending : Nat := 0
  /-- Reads of the next stripe's high unit that are not here yet, once they are issued; at 0 its bounds are compared (R218). -/
  ahead : Option Nat := none
  queries : List QbQuery
  /-- Levels left to a walk, and the beam widths of its rounds, the present one first (R271). -/
  levels : Nat := 0
  beams : List Nat := []
  /-- The place of a sweep block in its pass (R252). -/
  turn : Nat := 0
  deriving DecidableEq, Repr

/-- A Kerb (0 to 47) beside its registers. -/
structure Kerb where
  link : Nat := 0
  homeUp : Bool := true
  secondUp : Bool := true
  resetting : Bool := false
  quiesced : Bool := false
  cache : List CachePiece := []
  qblocks : List QBlock := []
  dies : AMap Die := []
  deriving DecidableEq, Repr

/-! Indexes. -/

/-- Version states (R241). -/
inductive VState
  | building | ready | current | draining | retired
  deriving DecidableEq, Repr

/-- The INDEX_PARAMS of a version (R245). -/
structure IndexParams where
  version : Nat
  graph : Bool
  dist : Nat
  dims : Nat
  lists : Nat
  degree : Nat
  expand : Nat
  maxLevels : Nat
  entryProbes : Nat
  partitions : Nat
  entriesPerList : Nat
  sweepLimit : Nat
  idBase : Nat
  idCount : Nat
  centroids : Nat
  directory : Nat
  scales : Nat
  deriving DecidableEq, Repr

/-- A version of an index (R240, R241, R244). -/
structure Version where
  ns : Nat
  params : IndexParams
  state : VState
  stripes : Nat := 0
  staleEdges : Nat := 0
  repairs : Nat := 0
  passes : Nat := 0
  reread : Nat := 0
  /-- IDs whose repair in this version has finished. -/
  repaired : List Nat := []
  deriving DecidableEq, Repr

/-! Services and queries. -/

/-- A stage entry (R274). -/
structure StageEntry where
  first : Nat
  count : Nat
  opList : Nat
  opCount : Nat
  keep : Nat := 0
  exitBelow : Nat := 0
  deriving DecidableEq, Repr

/-- A service record (R274). -/
structure Service where
  object : Nat
  id : Nat
  district : Nat
  stages : Nat
  ns : Nat
  graph : Bool
  generate : Bool
  maxK : Nat
  candidates : Nat
  chunkTokens : Nat
  decodePerPass : Nat
  textMax : Nat
  maxTokens : Nat
  cascadeStages : Nat
  contextEntries : Nat
  endToken : Nat
  encode : StageEntry
  route : StageEntry
  extract : StageEntry
  cascade : List StageEntry
  /-- Its record has been released, which takes effect at the next gather close (R273). -/
  gone : Bool := false
  deriving DecidableEq, Repr

/-- A change that waits for a gather window close (R243). -/
inductive Deferred
  | tomb (ns id gen : Nat)
  /-- A secure DELETE's record range is erased (R429). -/
  | secure (queue cid ns first count : Nat)
  /-- An ingested ID, with the namespace and byte offset of its passage record. -/
  | assign (ns id text offset : Nat)
  /-- An INGEST has taken effect, and completes as R383 and R398 say. -/
  | written (queue cid : Nat)
  /-- A command that completes at this close: vendor command of a port. -/
  | done (queue cid : Nat) (status : Status) (dw0 : Nat)
  | switch (ns version beat queue cid : Nat)
  | filterLoad (district prog : Nat) (code : List Nat)
  | service (record : Service)
  | serviceGone (id object : Nat)
  /-- An ID whose repair has finished: freed at the close after the one at which its rewrites take effect (R265). -/
  | freeNext (ns id : Nat)
  | free (ns id : Nat)
  /-- A write to an index, and who asked for it: a command, a job as 0xFFFF and its ID, or repair. -/
  | rewrite (ns offset : Nat) (bytes : List Byte) (owner : Option (Nat × Nat))
  deriving DecidableEq, Repr

/-- A query descriptor (R279). -/
structure QDesc where
  service : Nat
  flags : Nat
  ns : Nat
  version : Nat
  k : Nat
  probes : Nat
  filter : Nat
  budget : Nat
  payloadKind : Nat
  extractTokens : Nat
  payloadAddr : Nat
  payloadLength : Nat
  payloadKey : Nat
  resultAddr : Nat
  resultLength : Nat
  resultKey : Nat
  params : List Nat
  targetBeat : Nat
  tag : Nat
  reservedZero : Bool
  deriving DecidableEq, Repr

/-- Where a query is on its path (R25, R277). -/
inductive QPhase
  | fetching | waiting | encode | route | search | fetchText
  | rerank (stage : Nat) | extract | returning | done
  deriving DecidableEq, Repr

/-- The counts of a query's header (R284). -/
structure QCounts where
  high : Nat := 0
  low : Nat := 0
  side : Nat := 0
  other : Nat := 0
  prunes : Nat := 0
  filtered : Nat := 0
  deriving DecidableEq, Repr

/-- A query in flight (R277 to R297). -/
structure Query where
  id : Nat
  /-- Its command and its index among the command's descriptors. -/
  queue : Nat
  cid : Nat
  index : Nat
  district : Nat
  desc : QDesc
  /-- The service record it runs under (R273), and the entry of its district as it was accepted (R50). -/
  service : Service
  entry : DistrictEntry := {}
  arrivalNs : Nat
  arrivalBeat : Nat
  phase : QPhase
  payload : List Byte := []
  vector : List Datum := []
  /-- Its payload has arrived; its window has closed. -/
  paid : Bool := false
  resolved : Bool := false
  /-- The stage whose run encodes it, or has encoded it, before its gather close (R470). -/
  ahead : Option StageEntry := none
  version : Nat := 0
  resolveBeat : Nat := 0
  /-- The gather close that formed its batch. -/
  closeBeat : Nat := 0
  holdover : Bool := false
  filter : Option (List Nat) := none
  /-- The scores that ROUTE gave, ranked once the version is resolved (R242, R248). -/
  scores : List (BitVec 32) := []
  ranking : List Nat := []
  /-- Probes, or the beam width. -/
  probes : Nat := 0
  /-- Lists of the ranking that its rounds have probed. -/
  probed : Nat := 0
  /-- A graph walk's beam width in each round (R271). -/
  beams : List Nat := []
  rounds : Nat := 0
  levels : Nat := 0
  walkLimit : Bool := false
  /-- Heaps and adopted thresholds by Kerb, walks by partition. -/
  heaps : AMap (List Cand) := []
  thetas : AMap Datum := []
  /-- The best θ that the Gate of arrival has received (R219). -/
  gateTheta : Option Datum := none
  walks : AMap Walk := []
  cands : List Cand := []
  /-- Candidates that left at each cascade stage. -/
  exits : List Nat := []
  answer : List Nat := []
  stop : Nat := 0
  spans : List (Nat × Nat) := []
  provisional : Nat := 0
  /-- Text reads outstanding. -/
  texts : Nat := 0
  counts : QCounts := {}
  /-- A header of it had SHORTFALL, or HOLDOVER (R287). -/
  shortfall : Bool := false
  heldShown : Bool := false
  restarts : AMap Nat := []
  kerbs : List Nat := []
  failed : Option Status := none
  /-- A final record awaits its acknowledgement. -/
  unacked : Bool := false
  /-- Provisional records await theirs, and the final record waits for it (R291). -/
  streaming : Bool := false
  finalWaits : Bool := false
  /-- Time spent in ENCODE, SEARCH, FETCH, RERANK, EXTRACT, RETURN, ns, and when the present one began (R546). -/
  spent : AMap Nat := []
  since : Nat := 0
  deriving DecidableEq, Repr

/-- A sweep pass of an index (R251 to R255): its queries in order, the lists left, the queries left of the list in progress. -/
structure Pass where
  ns : Nat
  queries : List Nat
  windowBeat : Nat
  started : Bool
  startNs : Nat
  lists : List Nat
  left : List Nat
  rereads : Nat
  read : Nat
  /-- The versions that its queries resolved to (R255). -/
  versions : List Nat := []
  /-- The blocks cut so far. -/
  turn : Nat := 0
  /-- Since when nothing but ROUTE keeps it from starting, and when its last ROUTE was done (R296). -/
  readyNs : Nat := 0
  routeNs : Nat := 0
  deriving DecidableEq, Repr

/-- A sequence of RERANK or a context of EXTRACT (R288, R289): its query, its entry, its tokens, those prefilled, whose keys and values the
district's T0 share holds, and the decode steps left to it. -/
structure Request where
  query : Nat
  entry : Nat
  tokens : Nat
  filled : Nat := 0
  steps : Nat := 0
  deriving DecidableEq, Repr

/-- A batch of queries at one stage (R277, R278): 1 ENCODE, 2 ROUTE, 3 RERANK with its cascade stage, 4 EXTRACT. -/
structure Batch where
  service : Nat
  kind : Nat
  cascade : Nat
  queries : List Nat
  /-- Its sequences, for RERANK and EXTRACT; the rows of the present pass: queries with a decode step, and the chunk of a sequence. -/
  reqs : List Request := []
  decodes : List Nat := []
  chunk : Option (Nat × Nat) := none
  /-- CHUNK_TOKENS and DECODE_PER_PASS. -/
  chunkTokens : Nat := 0
  decodePerPass : Nat := 0
  district : Nat
  /-- The global logical block of its COMPUTE command, its operation list, and once issued the physical block and place. -/
  glb : Nat
  opList : Nat
  opCount : Nat
  issued : Bool := false
  block : Nat := 0
  seq : Nat := 0
  /-- How the command ended, once it has. -/
  result : Option Status := none
  deriving DecidableEq, Repr

/-! Jobs. -/

/-- Job states (R308). -/
inductive JobState
  | idle | running | paused | following | done | cancelled
  deriving DecidableEq, Repr

/-- A re-embedding job (R306 to R315). -/
structure Job where
  object : Nat
  id : Nat
  district : Nat
  control : Nat
  flags : Nat
  ns : Nat
  target : Nat
  idFirst : Nat
  idCount : Nat
  encode : StageEntry
  route : StageEntry
  seqTokens : Nat
  batchRows : Nat
  duty : Nat
  buildBeam : Nat
  staging : Nat
  coverage : Nat
  state : JobState
  failStatus : Option Status := none
  retries : Nat := 0
  nextId : Nat
  embedded : Nat := 0
  skipped : Nat := 0
  saturated : Nat := 0
  dualWrites : Nat := 0
  /-- START_BEAT, and whether a first batch has set it (R306). -/
  startBeat : Nat := 0
  begun : Bool := false
  followBeat : Nat := 0
  /-- The batch in progress: its IDs, those of them to embed, NEXT_ID after it, and how far it has come: 0 none, 1 ENCODE
  waits for a slot, 2 ENCODE issued, 3 ROUTE waits, 4 ROUTE issued, 5 its runs are done. -/
  batch : List Nat := []
  embed : List Nat := []
  after : Nat := 0
  stage : Nat := 0
  /-- At stage 6 its passages are read: the batches begun so far, the reads that are outstanding, and the IDs whose passage stays unreadable
  (R309, R313). -/
  turn : Nat := 0
  reads : Nat := 0
  lost : List Nat := []
  /-- The block and sequence number of the command of its last run, and how it ended. -/
  ran : Option (Nat × Nat) := none
  result : Option Status := none
  /-- Engine cycles of its commands in the present beat. -/
  cycles : Nat := 0
  deriving DecidableEq, Repr

end Sys2Proof.Machine
end

