-- ==== Sys2Proof/Machine/Units.lean ====
section
/-! DEFINITION. Plain data of the plan in force, the lights, placement, flash media, the host interface, time, power,
containment, the Squares, security, the monitor and the trace: the other parts of State. -/

namespace Sys2Proof.Machine

/-! What leaves the module. -/

/-- The kinds of asynchronous event (R416). -/
inductive AsyncKind
  | smartHealth | notice | vendor
  deriving DecidableEq, Repr

/-- What the module sends during one step. -/
inductive Out
  /-- A completion entry: queue, command, status, Dwords 0 and 1 (R340). -/
  | completion (queue cid : Nat) (status : Status) (dw0 dw1 : Nat)
  /-- Bytes written into a command's data buffer. -/
  | data (queue cid : Nat) (bytes : List Byte)
  /-- An RDMA WRITE to host memory by key and address (R411). -/
  | rdmaWrite (queue key address : Nat) (bytes : List Byte)
  /-- An RDMA READ of host memory asked for (R411). -/
  | rdmaRead (queue key address length : Nat)
  /-- A page or structure whose layout is that of the NVM Express specifications, with the values the spec names. -/
  | page (queue cid page : Nat) (values : List Nat)
  /-- An asynchronous event completing an outstanding request of an association (R416). -/
  | asyncEvent (assoc cid : Nat) (kind : AsyncKind) (page : Nat)
  /-- A response frame of the monitor: TYPE, SEQ, STATUS, payload (R558). -/
  | frame (type seq status : Nat) (payload : List Byte)
  /-- A Kerb's θ for a query, to or from the Gate (R219). -/
  | theta (query kerb bits : Nat)
  /-- A message to a peer module (R366, R368). -/
  | peer (peer : Nat) (lease op value : Nat)
  /-- The notice of a revocation to the host: lease, set, deadline beat (R368). -/
  | leaseNotice (lease set deadline : Nat)
  /-- A batch of T3 copies sent to lenders (R367). -/
  | t3Batch (copies : List (Nat × Nat))
  /-- A congestion notification packet for a queue pair (R406). -/
  | cnp (qp : Nat)
  /-- A pulse on PPS_OUT (R444). -/
  | ppsPulse
  /-- A sideband heartbeat (R504). -/
  | heartbeat
  /-- An NVMe-MI response (R566); `nack` when the endpoint does not answer. -/
  | mi (opcode : Nat) (nack : Bool)
  deriving DecidableEq, Repr

/-- An event record: source, event kind, sequence number, time, HOLDOVER and payload (R337, R481, R577). -/
structure EventRec where
  source : Nat
  event : Nat
  seq : Nat
  time : Nat
  holdover : Bool
  payload : List Byte
  deriving DecidableEq, Repr

/-! The plan in force. -/

/-- An entry of NAMESPACES (R377). -/
structure NsDef where
  nsid : Nat
  mutable : Bool
  kerbBind : Bool
  keySlot : Nat
  rewriteBits : Nat
  size : Nat
  idBase : Nat
  idCount : Nat
  idShare : Nat
  deriving DecidableEq, Repr

/-- An entry of ECC_REGIONS (R484). -/
structure EccEntry where
  light : Bool
  count : Nat
  first : Nat
  depth : Nat
  leak : Nat
  deriving DecidableEq, Repr

/-- TIME_BASE (R443). -/
structure TimeBase where
  periodUs : Nat := 1000
  domain : Nat := 0
  portPref : Nat := 2
  source : Nat := 0
  transport : Nat := 7
  deriving DecidableEq, Repr

/-- A background-slot entry of WINDOWS (R453). -/
structure SlotEntry where
  start : Nat
  length : Nat
  activities : Nat
  budget : Nat
  deriving DecidableEq, Repr

/-- WINDOWS (R450). -/
structure Windows where
  gatherBeats : Nat := 1
  tracePost : Nat := 128
  gatherPhaseUs : Nat := 0
  sweepBeats : Nat := 60000
  sweepOffset : Nat := 0
  sweepPhaseUs : Nat := 0
  slotCycle : Nat := 1000
  slots : List SlotEntry := []
  deriving DecidableEq, Repr

/-- The device record of POWER_CAPS (R464). -/
structure PowerCaps where
  deviceW : Nat := 1600
  quarterW : Nat := 160
  stackW : Nat := 300
  kerbW : Nat := 190
  flashW : Nat := 185
  arcadeW : Nat := 120
  floorMhz : Nat := 350
  ceilMhz : Nat := 700
  threshMax : Nat := 8
  widenFloor : Nat := 0
  refreshMin : Nat := 0
  eqFecExp : Nat := 6
  earlyMin : Nat := 0
  earlyMax : Nat := 512
  moveGib : Nat := 64
  shedOrder : List Nat := [15, 14, 13, 12, 11, 10, 9, 8, 7, 6, 5, 4, 3, 2, 1, 0]
  deriving DecidableEq, Repr

/-- A quarter's record of POWER_CAPS (R464). -/
structure QuarterCaps where
  capW : Nat
  floorMhz : Nat
  ceilMhz : Nat
  deriving DecidableEq, Repr

/-- An entry of KEY_TABLE (R528). -/
structure KeyEntry where
  slot : Nat
  kinds : Nat
  revoke : Bool
  key : List Byte
  deriving DecidableEq, Repr

/-- A section's contents. The layout of ARBITRATION, AVENUE_ROUTES and HOMING is not in the spec: their bytes are kept. -/
inductive SectionBody
  | districts (entries : List DistrictEntry)
  /-- Entries with the scope index 72q + b of the block they describe. -/
  | blockMap (entries : List (Nat × BlockEntry))
  /-- Entries with the scope index of the cell: quadrant, fence. -/
  | cellGrouping (entries : List (Nat × Bool × Bool))
  | ecc (entries : List EccEntry)
  | namespaces (entries : List NsDef)
  | arbitration (raw : List Byte)
  | kerbPolicy (policy : KerbPolicy)
  | sfTables (tables : List TableRec) (progs : List ProgRec)
  | expansions (records : List ExpRec)
  | timeBase (t : TimeBase)
  | windows (w : Windows)
  | powerCaps (p : PowerCaps)
  | quarterCaps (p : QuarterCaps)
  | routes (raw : List Byte)
  | homing (raw : List Byte)
  | keyTable (entries : List KeyEntry)
  deriving DecidableEq, Repr

/-- A section: type, scope, contents (R41). -/
structure Section where
  type : Nat
  scope : Scope
  body : SectionBody
  deriving DecidableEq, Repr

/-- A container that passed its checks (R40). -/
structure Container where
  kind : Nat
  swapAtBeat : Bool
  scope : Scope
  rollback : Nat
  sequence : Nat
  swapBeat : Nat
  quiesceLimit : Nat
  keySlot : Nat
  digest : Nat
  /-- Its length in bytes, of which configuration flash holds one sector for each 4,064. -/
  size : Nat
  sections : List Section
  deriving DecidableEq, Repr

/-- The annotations of R35. -/
inductive Annotation
  | fence (block cell : Nat)
  | retire (block : Nat)
  | activate (block logical district : Nat)
  | quarantine (quarter : Nat)
  | spareChannel (stack channel : Nat)
  deriving DecidableEq, Repr

/-- The steps of an amendment (R68). -/
inductive AmendStep
  | idle | verifying | validating | writing | quiescing | applying | resuming | awaitingSwap
  deriving DecidableEq, Repr

/-- An amendment slot (R53, R56). -/
structure AmendSlot where
  step : AmendStep := .idle
  queue : Nat := 0
  cid : Nat := 0
  reverting : Bool := false
  container : Option Container := none
  startBeat : Nat := 0
  /-- Blocks that have not swapped their banks. -/
  awaiting : List Nat := []
  deriving DecidableEq, Repr

/-- The plan records and the values in force. -/
structure PlanState where
  standing : Container
  pending : Option Container := none
  committed : List Container := []
  uncommitted : List Container := []
  /-- Districts disabled at start because their shares did not fit (R462). -/
  disabled : List Nat := []
  annotations : List Annotation := []
  slots : List AmendSlot := [{}, {}, {}, {}]
  /-- Whether the standing plan has been verified and applied since start. -/
  inForce : Bool := false
  districts : List DistrictEntry := List.replicate 16 {}
  ecc : List EccEntry := []
  namespaces : List NsDef := []
  timeBase : TimeBase := {}
  windows : Windows := {}
  /-- Window and slot fields accepted and waiting for their close (R452). -/
  windowsNext : Option Windows := none
  caps : PowerCaps := {}
  quarterCaps : AMap QuarterCaps := []
  kerbPolicies : AMap KerbPolicy := []
  rawSections : List Section := []
  deriving DecidableEq, Repr

/-! Lights. -/

/-- A registered WAIT (R331, R334). -/
structure Wait where
  light : Nat
  operand : Nat
  block : Nat
  slot : Nat
  district : Nat
  registered : Nat
  expiry : Nat
  deriving DecidableEq, Repr

/-! Placement. -/

/-- A move in progress (R361): destination tier and next extent. -/
structure Moving where
  tier : Nat
  nextExtent : Nat
  deriving DecidableEq, Repr

/-- A placed object (R349, R352, R355, R362). -/
structure Obj where
  gen : Nat
  district : Nat
  size : Nat
  tier : Nat
  kind : Nat
  light : Bool
  movable : Bool
  resident : Bool
  region : Nat
  moveTiers : Nat
  moveT1 : Nat
  moveT0 : Nat
  copyHandle : Nat
  /-- The place of each 2 MiB extent, in order: global region (R483) × 512 + extent of the region; the lease for T3. -/
  extents : List Nat
  uses : Nat := 0
  /-- The RELEASE that waits for the use count. -/
  releasing : Option (Nat × Nat) := none
  lost : Bool := false
  moving : Option Moving := none
  moves : Nat := 0
  reads : Nat := 0
  writes : Nat := 0
  lastMoveBeat : Nat := 0
  deriving DecidableEq, Repr

/-- A weight binding of a global logical block (R358). -/
structure Binding where
  block : Nat
  handle : Nat
  objOffset : Nat
  length : Nat
  bmOffset : Nat
  deriving DecidableEq, Repr

inductive LeaseState
  | asked | active | returning | revoking | ended
  deriving DecidableEq, Repr

/-- A lease record (R431). -/
structure Lease where
  borrower : Bool
  state : LeaseState
  peer : Nat
  set : Nat
  tier : Nat
  gib : Nat
  deadline : Nat := 0
  start : Nat := 0
  copied : Nat := 0
  /-- The ACQUIRE that waits for the peer. -/
  waiting : Option (Nat × Nat) := none
  /-- The number by which the peer knows the lease. -/
  remote : Nat := 0
  deriving DecidableEq, Repr

/-- A peer module (R366, R431), and the beat of its last contact. -/
structure Peer where
  port : Nat
  address : List Byte
  hash : List Byte
  lastContact : Nat
  deriving DecidableEq, Repr

/-- A copy touching T3 that waits for its batch, with the beat in which it was accepted, or whose batch has been sent (R367). -/
structure T3Copy where
  queue : Nat
  cid : Nat
  beat : Nat
  command : Instr
  /-- Its batch has been sent; and it has begun, so that those accepted after it wait for its end. -/
  sent : Bool := false
  begun : Bool := false
  deriving DecidableEq, Repr

/-- An open prefetch stream (R364). -/
structure Stream where
  stack : Nat
  block : Nat
  slot : Nat
  op : Nat
  deriving DecidableEq, Repr

structure PlaceState where
  objs : AMap Obj := []
  /-- The GEN an INDEX carries at its next assignment. -/
  gens : AMap Nat := []
  bindings : List Binding := []
  leases : AMap Lease := []
  nextLease : Nat := 1
  lendT0 : Nat := 0
  lendT1 : Nat := 0
  lendNotice : Nat := 16
  lendIdle : Nat := 1000
  peers : AMap Peer := []
  t3 : List T3Copy := []
  streams : List Stream := []
  /-- Extents moved in the present slot cycle (R474), and the number of that cycle. -/
  movedExtents : Nat := 0
  moveCycle : Nat := 0
  /-- Objects that an ALLOCATE has allocated while its copy waits for reads, by queue × 65,536 + CID. -/
  placing : AMap Nat := []
  deriving DecidableEq, Repr

/-! Flash media. -/

/-- A place on flash (R379): group, member, block group, page, plane, piece. -/
structure UnitLoc where
  group : Nat
  member : Nat
  bg : Nat
  page : Nat
  plane : Nat
  piece : Nat
  deriving DecidableEq, Repr

inductive SbState
  | free | open | closed | journal | checkpoint
  deriving DecidableEq, Repr

/-- A superblock (R375, R386, R399). -/
structure SuperBlock where
  state : SbState := .free
  mutable : Bool := false
  pair : Nat := 0
  closeBeat : Nat := 0
  /-- `MediaState.age` when it was closed. -/
  closeAge : Nat := 0
  freedBeat : Nat := 0
  /-- Pages given out on each member, and pages programmed on each. -/
  cursors : AMap Nat := []
  programmed : AMap Nat := []
  /-- Rows whose parity program has been issued. -/
  parityRows : Nat := 0
  /-- Its members and the one that holds the parity, as they were when it was opened (R375). -/
  members : List Nat := []
  parity : Option Nat := none
  /-- What each page holds, by member × 2,048 + page: ciphertext of its units, or the parity of its row (R375, R382). -/
  pages : AMap (List Byte) := []
  /-- Every copy put into it since its last erase: unit key and member (the reverse map of R396). -/
  copies : List (Nat × Nat) := []
  rewriteFirst : Bool := false
  unprotected : Bool := false
  deriving DecidableEq, Repr

/-- A block group of a die (R373, R380, R388). -/
structure BlockGroup where
  epoch : Nat := 0
  bad : Bool := false
  /-- An ERASE_INTENT without an ERASE_DONE. -/
  intent : Bool := false
  reads : Nat := 0
  deriving DecidableEq, Repr

/-- A unit or piece on its way to flash: namespace, unit, its new place, for a relocation the place it was read from, and
the command that wrote it. -/
structure ProgUnit where
  ns : Nat
  unit : Nat
  loc : UnitLoc
  source : Option UnitLoc
  /-- The command whose data it holds, by queue and CID, or job i as (0xFFFF, i). -/
  owner : Option (Nat × Nat)
  deriving DecidableEq, Repr

/-- The job whose data a unit holds. -/
def jobUnit (u : ProgUnit) : Option Nat := match u.owner with
  | some (0xFFFF, i) => some i
  | _ => none

/-- A unit that a deferred change superseded: its place, its bytes before the change, and the queries that still see them
(R243, R385). -/
structure StaleUnit where
  ns : Nat
  unit : Nat
  loc : Option UnitLoc
  bytes : List Byte
  queries : List Nat
  deriving DecidableEq, Repr

/-- A program waiting for its die or running (R383), with the units it writes. -/
structure Program where
  group : Nat
  member : Nat
  sb : Nat
  page : Nat
  parity : Bool
  flush : Bool
  units : List ProgUnit
  deriving DecidableEq, Repr

/-- A superblock being emptied and erased: for reclaim in a class of R228, or for a secure erasure. -/
structure Victim where
  group : Nat
  sb : Nat
  cls : DieClass
  erasures : List Nat
  erasing : Bool := false
  deriving DecidableEq, Repr

/-- A command whose data lies in the protected buffer only in part (R383), with its completion's Dword 0. -/
structure Ack where
  queue : Nat
  cid : Nat
  command : Instr
  /-- The objects that it names (R355). -/
  held : List Nat := []
  deriving DecidableEq, Repr

inductive JournalRec
  | map (ns unit : Nat) (loc : Option UnitLoc)
  | eraseIntent (die bg epoch : Nat)
  | eraseDone (die bg : Nat)
  | secureStart (erasure : Nat)
  | secureDone (erasure : Nat)
  /-- A job's checkpoint (R314): NEXT_ID, the device counters, VECTORS of each list. -/
  | jobCheckpoint (ns version nextId : Nat) (counters fills : List Nat)
  | cleanShutdown
  deriving DecidableEq, Repr

/-- A secure erasure (R396): its command, ranges of pieces, the superblocks still to erase. -/
structure Erasure where
  queue : Nat
  cid : Nat
  ns : Nat
  ranges : List (Nat × Nat)
  drained : Bool := false
  journalled : Bool := false
  superblocks : List (Nat × Nat) := []
  incomplete : Bool := false
  /-- It is a Format's (R433). -/
  format : Bool := false
  /-- Its command has ended with a reset K (R397). -/
  ended : Bool := false
  deriving DecidableEq, Repr

structure MediaState where
  /-- Time weighted by temperature, ns at 40 °C (R391). -/
  age : Nat := 0
  /-- Mapping entries by namespace × 2^40 + unit. -/
  map : AMap UnitLoc := []
  /-- Superblocks by group × 2,048 + index. -/
  sbs : AMap SuperBlock := []
  /-- Block groups by die × 2,048 + index. -/
  bgs : AMap BlockGroup := []
  /-- Programs pending, oldest first, and units that wait for room on a die. -/
  programs : List Program := []
  unplaced : List ProgUnit := []
  /-- Pieces of a MUTABLE page not yet full, by group × 16 + member. -/
  partials : AMap (List ProgUnit) := []
  /-- Units kept clean in the protected buffer, by key. -/
  clean : List Nat := []
  acks : List Ack := []
  /-- The journal (R399): records programmed since the newest checkpoint, records staged in T1, the bytes journalled since the checkpoint
  and those programmed in the present pair, the pair's number, and the mapping as the checkpoint holds it. -/
  journal : List JournalRec := []
  staged : List JournalRec := []
  sinceCheckpoint : Nat := 0
  pairBytes : Nat := 0
  pair : Nat := 0
  checkpoint : AMap UnitLoc := []
  stale : List StaleUnit := []
  erasures : AMap Erasure := []
  nextErasure : Nat := 1
  /-- Block groups with a rewrite scheduled (R391). -/
  rewrites : List Nat := []
  victims : List Victim := []
  /-- Retired dies, and those whose units are not all rebuilt. -/
  retired : List Nat := []
  rebuilding : List Nat := []
  /-- MUTABLE pieces padded, by group (R383). -/
  padded : AMap Nat := []
  writeThrough : Bool := false
  flushing : Bool := false
  down : Bool := false
  /-- A CLEAN_SHUTDOWN record stands in the journal. -/
  cleanShutdown : Bool := false
  deriving DecidableEq, Repr

/-! The host interface. -/

structure Assoc where
  port : Nat
  link : Nat
  rdma : Bool
  nqn : List Byte
  kato : Nat
  numQueues : Nat := 256
  qpBase : Option Nat := none
  ioConnected : Bool := false
  /-- The Asynchronous Event Configuration: every kind on by default (DESIGN CHOICE, log entry 47). -/
  aerConfig : Nat := 0x3FF
  /-- The Controller Configuration property. -/
  cc : Nat := 0
  /-- Outstanding Asynchronous Event Requests, by CID. -/
  aers : List Nat := []
  /-- Events that found no outstanding request. -/
  held : List (AsyncKind × Nat) := []
  deriving DecidableEq, Repr

/-- The COMPUTE commands that an INGEST has the device issue for it, one after the other (R312, R319, R428): stage entry, block of the
stage, district. `issued`: the block and sequence number of the first one once it has its slot; `result`: how that command ended; `seed`:
which free values are the vectors and scores that the stages gave, once all have run. -/
structure IngestRun where
  todo : List (StageEntry × Nat × Nat)
  issued : Option (Nat × Nat) := none
  result : Option Status := none
  seed : Option Nat := none
  deriving DecidableEq, Repr

/-- A command dispatched and not completed (R420). -/
structure Inflight where
  queue : Nat
  cid : Nat
  command : Instr
  /-- The district its queue pair mapped to as it was dispatched (R50). -/
  district : Option Nat := none
  /-- Its effect has happened (R407). -/
  effective : Bool := false
  /-- It has written data to its host over RDMA that is not acknowledged, and the completion that waits for that: status, Dwords 0 and 1
  (R26, R411). -/
  wrote : Bool := false
  held : Option (Status × Nat × Nat) := none
  /-- What an INGEST has encoded and routed. -/
  encode : Option IngestRun := none
  /-- The port and host whose association ended while the command ran: its status is recorded instead (R407). -/
  orphan : Option (Nat × List Byte) := none
  deriving DecidableEq, Repr

/-- A registered range lock (R421): owner, namespace, first block, blocks, the erasure that keeps it. -/
structure RangeLock where
  queue : Nat
  cid : Nat
  ns : Nat
  lba : Nat
  blocks : Nat
  deriving DecidableEq, Repr

/-- A Gate reset outcome (R416). -/
structure GateOutcome where
  port : Nat
  nqn : List Byte
  queue : Nat
  cid : Nat
  opcode : Nat
  status : Status
  beat : Nat
  deriving DecidableEq, Repr

/-- The progress of a Format or Sanitize (R433 to R435). -/
structure Wipe where
  sanitize : Bool
  ns : Nat
  action : Nat
  ause : Bool
  phase : Nat
  sprog : Nat
  queue : Nat
  cid : Nat
  failed : Bool := false
  /-- The block group being erased, and the dies that still erase it. -/
  group : Nat := 0
  dies : List Nat := []
  deriving DecidableEq, Repr

/-- The arbitration of a Gate (R417, R419): urgent dispatches in a row, whether a weighted burst interrupts them, the dispatches
left in the present grant and its class, the grants left to each class in the present round, the credits of each contender by
class × 32 + contender, and the queue served last, by class × 32 + contender, with 1,024 for the admin queues. -/
structure GateArb where
  urgentRun : Nat := 0
  yielding : Bool := false
  burst : Nat := 0
  burstClass : Nat := 1
  grants : AMap Nat := []
  credits : AMap Nat := []
  lastQueue : AMap Nat := []
  deriving DecidableEq, Repr

/-- An entry of the Error Information log (R416): its error count, queue, CID and status. -/
structure ErrorEntry where
  count : Nat
  queue : Nat
  cid : Nat
  status : Status
  deriving DecidableEq, Repr

/-- The shipped APST table (R437): from each state the one that an idle time leads to, and that time in ms. -/
def shippedApst : AMap (Nat × Nat) := [(0, (3, 30000)), (1, (3, 30000)), (2, (3, 30000)), (3, (4, 600000))]

structure HostState where
  assocs : AMap Assoc := []
  /-- Submission entries that wait, in order of arrival. -/
  waiting : List Instr := []
  inflight : List Inflight := []
  locks : List RangeLock := []
  lockWaiters : List Instr := []
  /-- Saved and current feature values (R414). -/
  saved : AMap Nat := []
  current : AMap Nat := []
  /-- Saved and current queue classes, by queue pair. -/
  qpClass : AMap Nat := []
  qpClassSaved : AMap Nat := []
  gateLog : List GateOutcome := []
  /-- The APST table, as it is and as it is saved (R414, R437). -/
  apst : AMap (Nat × Nat) := shippedApst
  apstSaved : AMap (Nat × Nat) := shippedApst
  /-- The Error Information log, newest first, and how many entries it ever had (R416). -/
  errors : List ErrorEntry := []
  errorCount : Nat := 0
  /-- Namespaces that the plan has changed since the Changed Namespace List was read. -/
  changedNs : List Nat := []
  /-- The Addressing setting of the ports (R405), held in configuration flash: none, the shipped IPv6 link-local with DHCPv4; else which
  setting NVMe-MI has made. -/
  addressing : Option Nat := none
  wipe : Option Wipe := none
  /-- The last sanitize: 0 none, 1 completed, 2 in progress, 3 failed, and its SPROG. -/
  sanitizeResult : Nat := 0
  sanitizeProgress : Nat := 0
  /-- Arbitration of each Gate. -/
  arb : AMap GateArb := []
  /-- Commands that wait in their submission queue for free range-lock entries (R422). -/
  entryWaits : List (Nat × Nat) := []
  /-- Priorities paused by PFC, by port × 8 + priority. -/
  paused : List Nat := []
  /-- Congestion notifications received, by queue pair (R406). -/
  slowed : AMap Nat := []
  /-- HIF_PORTp_CFG as each port's last link training took it, and the links trained, by 2 × port + link (R405, R441). -/
  portCfg : AMap Nat := []
  trained : List Nat := []
  image : List Byte := []
  /-- By queue: its depth, and the positions of its submission tail and head and its completion tail (R555). -/
  depths : AMap Nat := []
  sqTail : AMap Nat := []
  sqHead : AMap Nat := []
  cqTail : AMap Nat := []
  deriving DecidableEq, Repr

/-! Time. -/

inductive LockState
  | freeRun | acquiring | locked | holdover | recovering
  deriving DecidableEq, Repr

/-- A port's master (R444, R445): device time of its last Sync, and its last Announce. -/
structure Master where
  lastSync : Option Nat
  clockClass : Nat
  stepsRemoved : Nat
  identity : Nat
  deriving DecidableEq, Repr

structure TimeState where
  ns : Nat := 0
  lock : LockState := .freeRun
  source : Nat := 0
  offset : Int := 0
  good : Nat := 0
  stepped : Bool := false
  masters : AMap Master := []
  ppsUsable : Bool := false
  journalled : Option Nat := none
  flagSince : Nat := 0
  holdoverSince : Nat := 0
  lastGather : Nat := 0
  lastSweep : Nat := 0
  /-- Background slots open, by index. -/
  openSlots : List Nat := []
  deriving DecidableEq, Repr

/-! Power and the loops. -/

/-- An acting protection loop (R475, R477). -/
structure Override where
  loop : Nat
  unit : Nat
  bound : Nat
  applied : Nat
  releasing : Bool := false
  /-- The bounds in force as a quarter's override began: others take effect at its release (R476). -/
  caps : Option QuarterCaps := none
  deriving DecidableEq, Repr

structure PowerState where
  ps : Nat := 0
  psNext : Option Nat := none
  lastOperational : Nat := 0
  overrides : List Override := []
  /-- Districts that POWER_CAP gates (R469), from the front of SHED_ORDER: 0 to 3 for an excess of the quarter, 4 of the
  stacks, 5 of the Kerbs, 6 of flash, 7 of the Arcades, 8 of the device. -/
  gates : AMap Nat := []
  /-- What each district did on each unit in the metering interval (R342), by unit × 16 + district: busy cycles of block b at
  unit b, cycles and pieces of Kerb k at 288 + k, bytes of stack s at 336 + s and of Arcade a at 348 + a. -/
  basis : AMap Nat := []
  /-- Energy apportioned to each district in the present beat, µJ, and the meters' sum. -/
  beatUj : AMap Nat := []
  meterUj : Nat := 0
  throttled : List Nat := []
  widenLimit : AMap Nat := []
  /-- The rows that GATHER_FILL would encode before a gather close (R467, R470). -/
  earlyRows : Nat := 0
  thresholds : AMap Int := []
  margins : AMap Nat := []
  /-- Since when the coolant outlet is more than 15 °C above the inlet, and whether that was logged (R574). -/
  riseSince : Option (Nat × Bool) := none
  deriving DecidableEq, Repr

/-! Containment. -/

structure ContainState where
  quarantined : Option Nat := none
  shutdown : Nat := 0
  abortActive : Bool := false
  /-- Blocks the abort in progress will retire. -/
  faulty : List Nat := []
  /-- Gates that failed their self-test: their ports stay down (R500). -/
  gatesDown : List Nat := []
  /-- Spares in self-test for a failed block. -/
  sparing : List (Nat × Nat) := []
  /-- Spares that have passed it and wait for the running command of their failed block (R121). -/
  spared : List (Nat × Nat) := []
  /-- Bucket levels of block-memory regions, by scope index. -/
  blockBuckets : AMap Nat := []
  /-- Beat of the last reported overflow, by region. -/
  lastReport : AMap Nat := []
  lanes : AMap Nat := []
  resettingQuarters : List Nat := []
  resettingBlocks : List Nat := []
  /-- Links of the Arcades that are down: bit 0 home, bit 1 second. -/
  arcDown : AMap Nat := []
  /-- Link retries not yet counted, below 1,024. -/
  retries : Nat := 0
  deriving DecidableEq, Repr

/-! Squares and configuration flash. -/

inductive SqState
  | active | standby | updating | outOfService
  deriving DecidableEq, Repr

/-- A sector of configuration flash (R507): the generation, kind and object it holds. -/
structure Sector where
  generation : Nat
  kind : Nat
  object : Nat
  live : Bool
  deriving DecidableEq, Repr

/-- What a write set does once its SET_COMMIT stands on every Square in service (R510). -/
inductive WriteEffect
  | pendingPlan (c : Container) (activate : Bool)
  | discardPlan
  | commitChain (count : Nat)
  | keyTable (c : Container)
  | firmware (slot version rollback mirrorMin keySlot digest action : Nat)
  /-- The former active Square stores the image that a failover activated (R530). -/
  | mirrorImage
  /-- Namespace keys replaced (R535). -/
  | nsKeys (slots : List Nat)
  /-- A feature value saved (R414), with the APST table where it has one, and a queue class saved. -/
  | feature (key value : Nat) (table : AMap (Nat × Nat))
  | queueClass (queue cls : Nat)
  deriving DecidableEq, Repr

/-- A write set in progress (R510): the command that waits for it, the kind and object number of its sectors, how many each
Square has still to write and how many there are. -/
structure WriteSet where
  owner : Option (Nat × Nat)
  kind : Nat
  object : Nat
  left0 : Nat
  left1 : Nat
  sectors : Nat
  effect : WriteEffect
  deriving DecidableEq, Repr

structure CfgFlash where
  base : Nat := 0
  generation : Nat := 0
  sectors : AMap Sector := []
  /-- The sector being erased, with its suspension count. -/
  erasing : Option (Nat × Nat) := none
  suspended : Bool := false
  /-- The live sector that the next program copies forward (R509). -/
  copying : Option Nat := none
  bad : List Nat := []
  erases : AMap Nat := []
  half : List Nat := []
  deriving DecidableEq, Repr

structure FwSlot where
  version : Nat
  rollback : Nat
  mirrorMin : Nat
  keySlot : Nat
  digest : Nat
  deriving DecidableEq, Repr

structure SquareState where
  /-- The object of the record sectors that hold the saved features (R414). -/
  featureObject : Option Nat := none
  activeB : Bool := false
  a : SqState := .active
  b : SqState := .standby
  flash0 : CfgFlash := {}
  flash1 : CfgFlash := {}
  writeSets : List WriteSet := []
  nextObject : Nat := 1
  fw : AMap FwSlot := []
  fwNext : Nat := 1
  fwRunning : Nat := 1
  powered : Bool := false
  resetPending : Bool := false
  testing : Bool := false
  /-- Time the module has been on, ns. -/
  onNs : Nat := 0
  deriving DecidableEq, Repr

/-! Security. -/

structure KeySlotState where
  key : List Byte
  kinds : Nat
  revoked : Bool
  deriving DecidableEq, Repr

/-- A measurement log entry (R532). -/
structure MeasEntry where
  register : Nat
  event : Nat
  seq : Nat
  beat : Nat
  digest : Nat
  deriving DecidableEq, Repr

structure SecState where
  keys : AMap KeySlotState := []
  nsKeys : AMap Nat := []
  /-- The object of the record sectors that hold a namespace key slot's wrapped pair (R534, R535). -/
  keyObjects : AMap Nat := []
  /-- Sectors, by Square, that hold a replaced pair and are still to be erased (step 4 of R535). -/
  keyErases : List (Nat × Nat) := []
  measures : AMap Nat := []
  log : List MeasEntry := []
  folded : Nat := 0
  measSeq : Nat := 0
  signing : Option (Nat × Nat) := none
  challenge : Option (List Byte) := none
  level : Nat := 0
  sessionEnd : Nat := 0
  lockUntil : Nat := 0
  lockSeconds : Nat := 60
  deriving DecidableEq, Repr

/-! The monitor, snapshots, the trace and telemetry. -/

structure MonitorState where
  baud : Nat := 115200
  lastSeq : Option Nat := none
  lastFrame : Option Out := none
  snapshot : List Byte := []
  image : List Byte := []
  newBaud : Bool := false
  deriving DecidableEq, Repr

/-- A standstill snapshot being taken (R555). -/
structure Standstill where
  queue : Option (Nat × Nat)
  /-- The monitor's request that waits for it. -/
  request : Option Nat
  length : Nat
  latchTime : Nat
  sections : List (Nat × List Byte)
  deriving DecidableEq, Repr

/-- A record in the trace buffer: its position and length in 64-byte units, and its bytes. -/
structure TraceRec where
  position : Nat
  units : Nat
  bytes : List Byte
  deriving DecidableEq, Repr

structure TraceState where
  records : List TraceRec := []
  armed : Bool := false
  postUnits : Nat := 0
  left : Nat := 0
  queued : AMap Nat := []
  standstill : Option Standstill := none
  snapshotWaiting : List Instr := []
  telemetry : List TraceRec := []
  telemetryWr : Nat := 0
  nextSample : Nat := 0
  /-- CONFLICTS of each loop at the last telemetry sample. -/
  conflictBase : AMap Nat := []
  deriving DecidableEq, Repr

/-! The module's pins. -/

structure PinState where
  modResetLow : Bool := false
  pfWarnLow : Bool := false
  /-- VIN is outside its limits, until rail 0 is sampled within its operating range again. -/
  vinOut : Bool := false
  ppsHeld : Bool := false
  /-- The device time at which MOD_RESET_N was asserted during a hold-up flush. -/
  resetDuringFlush : Option Nat := none
  /-- The flush of reset M has run, and the reset goes on at the release of MOD_RESET_N. -/
  resetM : Bool := false
  /-- SMB_ALERT_N is asserted (R564). -/
  smbAlert : Bool := false
  deriving DecidableEq, Repr

end Sys2Proof.Machine
end

