-- ==== Sys2Proof/Machine/State.lean ====
section
/-! DEFINITION. The state of the module, and the state after reset. -/

namespace Sys2Proof.Machine

/-- Everything the module holds but the queue of commands. -/
structure Dev where
  /-- Registers by address, those that differ from their default. -/
  regs : AMap Nat := []
  /-- What the module sent during the last step. -/
  out : List Out := []
  /-- The event log (log page 0xC1), oldest first, and the next sequence number of each source (R339). -/
  events : List EventRec := []
  seqs : AMap Nat := []
  plan : PlanState
  /-- Physical blocks by scope index 72q + b, and their memories: byte address 2^23 × block + offset. -/
  blocks : AMap Block := []
  bmem : Mem := []
  waits : List Wait := []
  kerbs : AMap Kerb := []
  versions : List Version := []
  /-- ID states that differ from FREE with GEN 0, by namespace × 2^40 + ID. -/
  ids : AMap IdState := []
  /-- Where the passage record of an ID stands, as INGEST wrote it: text namespace and byte offset, by namespace × 2^40 + ID
  (the device's own note: the spec does not say how it finds a record by ID). -/
  texts : AMap (Nat × Nat) := []
  changes : List Deferred := []
  /-- ID states that a window close replaced: key, the earlier state, the queries that still see it (R243). -/
  staleIds : List (Nat × IdState × List Nat) := []
  /-- Filter programs by district × 256 + number. -/
  filters : AMap (List Nat) := []
  services : List Service := []
  queries : AMap Query := []
  nextQuery : Nat := 1
  batches : AMap Batch := []
  nextBatch : Nat := 1
  /-- Sweep queries that a pass left for the next one, in order (R251). -/
  sweepLeft : List Nat := []
  nextBlock : Nat := 1
  passes : List Pass := []
  jobs : AMap Job := []
  place : PlaceState := {}
  /-- Bytes of placed objects: address 2^36 × INDEX + offset. -/
  objMem : Mem := []
  media : MediaState := {}
  /-- Bytes of the namespaces: address 2^49 × NSID + offset. -/
  nsMem : Mem := []
  host : HostState := {}
  time : TimeState := {}
  power : PowerState := {}
  contain : ContainState := {}
  squares : SquareState := {}
  sec : SecState := {}
  mon : MonitorState := {}
  trace : TraceState := {}
  pins : PinState := {}
  /-- Free values drawn so far (the model's own field). -/
  drawn : Nat := 0
  deriving DecidableEq, Repr

/-- The state of the machine: the module, and the commands that wait for it, first in, first out. -/
structure State where
  dev : Dev
  pending : List Instr
  deriving DecidableEq, Repr

/-- Why the machine stops with a fault. -/
inductive Fault
  /-- Raised by no command: every error of this module is a status, an event record or a register bit. Safe. -/
  | none
  deriving DecidableEq, Repr

/-- Why a command has no meaning. -/
inductive Refusal
  /-- Raised by Dispatch.exec for a command whose meaning is not written, with its mnemonic. Safe. -/
  | notModelled (mnemonic : String)
  deriving DecidableEq, Repr

/-! The shipped standing plan (R578), for a module without manufacturing defects. -/

/-- The shipped role of physical block p of a quarter: column 4 holds the spares, ranked 1 to 8 from row 0; the others are
numbered in increasing physical order (R14). -/
def shippedEntry (p : Nat) : BlockEntry :=
  if p % 9 = 4 then { role := .spare (p / 9 + 1), district := 0 }
  else { role := .active (p / 9 * 8 + (if p % 9 < 4 then p % 9 else p % 9 - 1)), district := 0 }

def shippedDistrict0 : DistrictEntry :=
  { enable := true, subnormalKeep := true, blockWeight := 1, quarterWeight := 1, gateWeight := 1, t0Gib := 512,
    t1Gib := 2048, energyCapMw := 1600000, hostqFirst := 0, hostqCount := 4096, defaultProbes := 64, defaultBeam := 64,
    scaleHistory := 16, widenLimit := 1 }

def shippedWindows : Windows :=
  { slots := [{ start := 0, length := 1000, activities := 0x0FFF, budget := 100 }] }

def shippedSections : List Section :=
  [{ type := 0x10, scope := ⟨.device, 0⟩, body := .districts (shippedDistrict0 :: List.replicate 15 {}) }] ++
  ((List.range 4).map fun q =>
    { type := 0x11, scope := ⟨.quarter, q⟩,
      body := .blockMap ((List.range 72).map fun p => (72 * q + p, shippedEntry p)) }) ++
  [{ type := 0x41, scope := ⟨.device, 0⟩, body := .kerbPolicy {} },
   { type := 0x60, scope := ⟨.device, 0⟩, body := .timeBase {} },
   { type := 0x61, scope := ⟨.device, 0⟩, body := .windows shippedWindows },
   { type := 0x70, scope := ⟨.device, 0⟩, body := .powerCaps {} }]

/-- The shipped standing plan. Its digest is not in the spec. -/
def shippedPlan : Container :=
  { kind := 2, swapAtBeat := false, scope := ⟨.device, 0⟩, rollback := 0, sequence := 0, swapBeat := 0, quiesceLimit := 0,
    keySlot := 0, digest := Config.shippedDigest, size := 0, sections := shippedSections }

/-! The shipped plan of a module with manufacturing defects (R14, R578). -/

/-- What manufacturing test marked as failed: blocks by scope index, cells as 4 times the block plus the cell. -/
structure Defects where
  blocks : List Nat := []
  cells : List Nat := []
  deriving DecidableEq, Repr

/-- The failed blocks of a quarter, by their number in it. -/
def Defects.inQuarter (f : Defects) (q : Nat) : List Nat := (List.range 72).filter fun p => f.blocks.contains (72 * q + p)

/-- The spares of a quarter in ascending physical order: column 4, or the ones chosen where blocks failed; at most 64 blocks are left
to be active. -/
def Defects.spares (f : Defects) (q : Nat) : List Nat :=
  let bad := f.inQuarter q
  let good := (List.range 72).filter fun p => !bad.contains p
  let picked := good.filter fun p => if bad.isEmpty then p % 9 = 4 else Config.otherSpare bad p
  let rest := good.filter fun p => !picked.contains p
  good.filter fun p => picked.contains p || (rest.drop 64).contains p

/-- The spares once the active blocks of the device are a multiple of 4: the highest-numbered active blocks of the quarter with the most
failures join them. Of two such quarters the lower is taken (DESIGN CHOICE, log entry 70). -/
def Defects.sparesFinal (f : Defects) (q : Nat) : List Nat :=
  let bads (i : Nat) : Nat := (f.inQuarter i).length
  let worst := (List.range 4).foldl (fun w i => if bads w < bads i then i else w) 0
  let active (i : Nat) : List Nat := (List.range 72).filter fun p => !(f.inQuarter i).contains p && !(f.spares i).contains p
  let excess := ((List.range 4).map fun i => (active i).length).sum % 4
  if q = worst then
    let down := (active q).drop ((active q).length - excess)
    (List.range 72).filter fun p => (f.spares q).contains p || down.contains p
  else f.spares q

/-- The role of each block of a quarter: failed blocks retired, spares ranked from row 0, the others numbered in increasing physical
order. -/
def Defects.entries (f : Defects) (q : Nat) : List (Nat × BlockEntry) :=
  let bad := f.inQuarter q
  let spares := f.sparesFinal q
  let active := (List.range 72).filter fun p => !bad.contains p && !spares.contains p
  (List.range 72).map fun p =>
    let role : Role := if bad.contains p then .retired
      else if spares.contains p then .spare (spares.findIdx (· = p) + 1) else .active (active.findIdx (· = p))
    (72 * q + p, { role := role, district := 0 })

/-- The plan that a module with defects ships with: its BLOCK_MAP, and CELL_GROUPING with FENCE for the failed cells. `State.reset` is a
module without defects (DESIGN CHOICE, log entry 70). -/
def shippedPlanOf (f : Defects) : Container :=
  let grouping := (List.range 4).filterMap fun q =>
    let cells := (List.range 288).map (288 * q + ·)
    if cells.any f.cells.contains then
      some { type := 0x12, scope := ⟨.quarter, q⟩, body := .cellGrouping (cells.map fun c => (c, false, f.cells.contains c)) }
    else none
  let maps := (List.range 4).map fun q => { type := 0x11, scope := ⟨.quarter, q⟩, body := .blockMap (f.entries q) }
  { shippedPlan with sections := shippedSections.filter (·.type ≠ 0x11) ++ maps ++ grouping }

/-- The module as power is applied, before start-up runs: every register at its default, the shipped plan stored. -/
def Dev.reset : Dev := { plan := { standing := shippedPlan } }

/-- The machine right after reset. -/
def State.reset : State := { dev := Dev.reset, pending := [] }

end Sys2Proof.Machine
end

