-- ==== Sys2Proof/Machine/Ops.lean ====
section
/-! DEFINITION. The named operations on sparse maps, memories and registers, free values, device time and districts, that
every meaning uses. -/

namespace Sys2Proof.Machine

/-! Sparse maps and memories. -/

/-- The value at a key. -/
def AMap.look {α : Type} (m : AMap α) (k : Nat) : Option α :=
  match m with
  | [] => none
  | (j, v) :: t => if j = k then some v else AMap.look t k

/-- The map with a value put at a key: the keys stay strictly rising. -/
def AMap.put {α : Type} (m : AMap α) (k : Nat) (v : α) : AMap α :=
  match m with
  | [] => [(k, v)]
  | (j, w) :: t => if k < j then (k, v) :: (j, w) :: t else if k = j then (k, v) :: t else (j, w) :: AMap.put t k v

/-- The map without a key. -/
def AMap.drop {α : Type} (m : AMap α) (k : Nat) : AMap α :=
  match m with
  | [] => []
  | (j, w) :: t => if j = k then t else (j, w) :: AMap.drop t k

/-- The value at a key, or a default. -/
def AMap.get {α : Type} (m : AMap α) (k : Nat) (dflt : α) : α := (AMap.look m k).getD dflt

/-- The map with the value at a key changed, if it has one. -/
def AMap.upd {α : Type} (m : AMap α) (k : Nat) (f : α → α) : AMap α :=
  m.map fun (j, v) => if j = k then (j, f v) else (j, v)

/-- The canonical form of maps and memories: keys strictly rising. -/
def AMap.sorted {α : Type} (m : AMap α) : Bool :=
  match m with
  | [] => true
  | (j, _) :: t => (match t with | [] => true | (k, _) :: _ => decide (j < k)) && AMap.sorted t

/-- What an unlisted byte of any memory reads as (DESIGN CHOICE, log entry 3: R158, R357 and R486 give no value). -/
def memDefault : Byte := 0

/-- One byte. -/
def Mem.read (m : Mem) (a : Nat) : Byte := AMap.get (α := Byte) m a memDefault

/-- One byte written: writing what an unlisted byte reads as removes the entry. -/
def Mem.write (m : Mem) (a : Nat) (b : Byte) : Mem :=
  if b = memDefault then AMap.drop (α := Byte) m a else AMap.put (α := Byte) m a b

/-- The canonical form of a memory (no entry equal to the default). -/
def Mem.wf (m : Mem) : Bool := AMap.sorted (α := Byte) m && m.all fun c => c.2 != memDefault

/-- `n` bytes from an address up. -/
def Mem.load (m : Mem) (a : Nat) : Nat → List Byte
  | 0 => []
  | n + 1 => Mem.read m a :: Mem.load m (a + 1) n

/-- Bytes written from an address up. -/
def Mem.store (m : Mem) (a : Nat) : List Byte → Mem
  | [] => m
  | b :: bs => Mem.store (Mem.write m a b) (a + 1) bs

/-- A range written with zeros: every entry in it goes. -/
def Mem.zero (m : Mem) (a n : Nat) : Mem := m.filter fun c => decide (c.1 < a) || decide (a + n ≤ c.1)

/-! Registers. -/

/-- The indices of an address in a family of registers, if it is one of theirs. -/
def regIndex : List (Nat × Nat) → Nat → Option (List Nat)
  | [], off => if off = 0 then some [] else none
  | (n, stride) :: t, off =>
    if off / stride < n then (regIndex t (off % stride)).map (off / stride :: ·) else none

def RegRow.indexOf (r : RegRow) (a : Nat) : Option (List Nat) :=
  if a < r.base then none else regIndex r.dims (a - r.base)

/-- The register at an address (R30, R31), with its indices. -/
def findReg (a : Nat) : Option (RegRow × List Nat) :=
  regRows.findSome? fun r => (r.indexOf a).map fun ix => (r, ix)

/-- The default of a register: its fields' defaults. LGT_CTL.OWNER of light L is ⌊L ÷ 4,096⌋ (R344). -/
def RegRow.dflt (r : RegRow) (ix : List Nat) : Nat :=
  let base := r.fields.foldl (fun v f => setBits v f.lo f.width f.dflt) 0
  match r.name, ix with
  | .LGT_CTL, [l] => setBits base 0 4 (l / 4096)
  | _, _ => base

def regDefault (a : Nat) : Nat :=
  match findReg a with
  | some (r, ix) => r.dflt ix
  | none => 0

namespace Dev

/-- The stored value of a register. -/
def reg (d : Dev) (a : Nat) : Nat := (AMap.look d.regs a).getD (regDefault a)

def setReg (d : Dev) (a v : Nat) : Dev := { d with regs := AMap.put d.regs a v }

/-- A field of a register by name. -/
def fget (d : Dev) (a : Nat) (f : Fld) : Nat := bits (d.reg a) f.lo f.width

def fset (d : Dev) (a : Nat) (f : Fld) (v : Nat) : Dev := d.setReg a (setBits (d.reg a) f.lo f.width v)

/-- A counter field that stops at its maximum value. -/
def fadd (d : Dev) (a : Nat) (f : Fld) (n : Nat) : Dev := d.fset a f (satAdd f.width (d.fget a f) n)

/-- A field of one bit set. -/
def fon (d : Dev) (a : Nat) (f : Fld) : Dev := d.fset a f 1

def foff (d : Dev) (a : Nat) (f : Fld) : Dev := d.fset a f 0

def fbit (d : Dev) (a : Nat) (f : Fld) : Bool := d.fget a f = 1

/-! Free values. -/

/-- A fresh free value. -/
def draw (d : Dev) : Word × Dev := (Config.freeValue d.drawn, { d with drawn := d.drawn + 1 })

/-- One of several things that the spec lets the device choose among: the only one, or a free one. -/
def pick {α : Type} (d : Dev) (l : List α) : Option α × Dev :=
  match l with
  | [] => (none, d)
  | [x] => (some x, d)
  | x :: y :: t =>
    let (v, d) := d.draw
    ((x :: y :: t)[v.toNat % (t.length + 2)]?, d)

/-! Device time. -/

/-- The beat period in ns. -/
def period (d : Dev) : Nat := d.plan.timeBase.periodUs * 1000

/-- The beat number (R448). -/
def beat (d : Dev) : Nat := d.time.ns / d.period

/-- Whether device time is in a state that flags holdover (R445). -/
def holdover (d : Dev) : Bool := d.time.lock != .locked

/-- Whether an open background slot names an activity (R453). Background activity is suspended in PS3 and PS4 (R437). -/
def slotNames (d : Dev) (activity : Nat) : Bool :=
  decide (d.power.ps < 3) && d.time.openSlots.any fun i => match d.plan.windows.slots[i]? with
    | some e => bits e.activities activity 1 = 1
    | none => false

/-! Energy (R342) and start gating (R469). -/

/-- A district's work on a unit in the metering interval. -/
def addBasis (d : Dev) (unit dist n : Nat) : Dev :=
  if n = 0 then d
  else
    let k := 16 * unit + dist
    { d with power := { d.power with basis := AMap.put d.power.basis k (AMap.get d.power.basis k 0 + n) } }

/-- Whether POWER_CAP gates a district, for an excess of one of several parts. -/
def gatedBy (d : Dev) (keys : List Nat) (dist : Nat) : Bool :=
  keys.any fun k => (d.plan.caps.shedOrder.take (AMap.get d.power.gates k 0)).contains dist

/-- A district starts no command on a block: its energy cap stops it (R321), or its starts are gated (R469). -/
def stopsBlock (d : Dev) (b dist : Nat) : Bool := d.power.throttled.contains dist || d.gatedBy [b / 72, 4, 7, 8] dist

/-- A district's query blocks are not admitted. -/
def stopsKerb (d : Dev) (dist : Nat) : Bool := d.power.throttled.contains dist || d.gatedBy [5, 6, 8] dist

/-! Queues, ports, districts. -/

/-- The association of a queue: of an admin queue 4,096 + a, or of an I/O queue pair (R441). -/
def assocOf (d : Dev) (q : Nat) : Nat :=
  if 4096 ≤ q then q - 4096 else d.fget (Reg.HIF_QP q) Fld.HIF_QP_ASSOC

/-- The port, and Gate, of a queue. -/
def portOf (d : Dev) (q : Nat) : Nat := d.fget (Reg.HIF_ASSOC_STAT (d.assocOf q)) Fld.HIF_ASSOC_STAT_PORT

def isAdmin (q : Nat) : Bool := decide (4096 ≤ q)

/-- The enabled district that maps an I/O queue pair (R47, R318). -/
def districtOf (d : Dev) (q : Nat) : Option Nat :=
  if 4096 ≤ q then none
  else (List.range 16).find? fun i =>
    match d.plan.districts[i]? with
    | some e => e.enable && decide (e.hostqFirst ≤ q) && decide (q < e.hostqFirst + e.hostqCount)
    | none => false

def district (d : Dev) (i : Nat) : DistrictEntry := (d.plan.districts[i]?).getD {}

/-- The queue pair's class (R417): 0 urgent, 1 high, 2 medium, 3 low. -/
def classOf (d : Dev) (q : Nat) : Nat := AMap.get d.host.qpClass q 2

/-! Units. -/

def block (d : Dev) (b : Nat) : Block := AMap.get d.blocks b {}

def setBlock (d : Dev) (b : Nat) (x : Block) : Dev := { d with blocks := AMap.put d.blocks b x }

def modBlock (d : Dev) (b : Nat) (f : Block → Block) : Dev := d.setBlock b (f (d.block b))

def kerb (d : Dev) (k : Nat) : Kerb := AMap.get d.kerbs k {}

def setKerb (d : Dev) (k : Nat) (x : Kerb) : Dev := { d with kerbs := AMap.put d.kerbs k x }

def modKerb (d : Dev) (k : Nat) (f : Kerb → Kerb) : Dev := d.setKerb k (f (d.kerb k))

/-- Physical blocks, by scope index. -/
def allBlocks : List Nat := List.range 288

/-- The physical block that holds a global logical block number, if it is not vacant (R14, R63). -/
def physOf (d : Dev) (g : Nat) : Option Nat :=
  (List.range 72).findSome? fun p =>
    match (d.block (72 * (g / 64) + p)).role with
    | .active l => if l = g % 64 then some (72 * (g / 64) + p) else none
    | _ => none

/-- The global logical block number of an active physical block. -/
def logicalOf (d : Dev) (b : Nat) : Option Nat :=
  match (d.block b).role with
  | .active l => some (64 * (b / 72) + l)
  | _ => none

/-- Whether a quarter is quarantined (R494). -/
def quarantined (d : Dev) (q : Nat) : Bool := d.contain.quarantined == some q

/-- A district's window on a block: first byte and length (R131, R164). -/
def window (d : Dev) (b dist : Nat) : Nat × Nat :=
  (65536 * d.fget (Reg.BLK_BMWIN b dist) Fld.BLK_BMWIN_BASE, 65536 * d.fget (Reg.BLK_BMWIN b dist) Fld.BLK_BMWIN_LENGTH)

/-- Whether a range of block memory lies in a district's window. -/
def inWindow (d : Dev) (b dist a n : Nat) : Bool :=
  let (base, len) := d.window b dist
  decide (base ≤ a) && decide (a + n ≤ base + len)

/-- Bytes of a block's memory. -/
def loadBm (d : Dev) (b a n : Nat) : List Byte := Mem.load d.bmem (2 ^ 23 * b + a) n

def storeBm (d : Dev) (b a : Nat) (bytes : List Byte) : Dev := { d with bmem := Mem.store d.bmem (2 ^ 23 * b + a) bytes }

/-- Bytes of a placed object. -/
def loadObj (d : Dev) (i o n : Nat) : List Byte := Mem.load d.objMem (2 ^ 36 * i + o) n

def storeObj (d : Dev) (i o : Nat) (bytes : List Byte) : Dev :=
  { d with objMem := Mem.store d.objMem (2 ^ 36 * i + o) bytes }

/-- Bytes of a namespace. -/
def loadNs (d : Dev) (ns o n : Nat) : List Byte := Mem.load d.nsMem (2 ^ 49 * ns + o) n

def storeNs (d : Dev) (ns o : Nat) (bytes : List Byte) : Dev := { d with nsMem := Mem.store d.nsMem (2 ^ 49 * ns + o) bytes }

/-- A namespace of the plan in force. -/
def nsDef (d : Dev) (ns : Nat) : Option NsDef := d.plan.namespaces.find? fun n => n.nsid = ns

/-- The namespace whose ID state table a namespace uses (R378). -/
def idOwner (d : Dev) (ns : Nat) : Nat :=
  match d.nsDef ns with
  | some n => if n.idShare = 0 then ns else n.idShare
  | none => ns

/-- Whether an ID lies in a namespace's ID range. -/
def idInRange (d : Dev) (ns id : Nat) : Bool :=
  match d.nsDef (d.idOwner ns) with
  | some n => decide (n.idBase ≤ id) && decide (id < n.idBase + n.idCount)
  | none => false

/-- An ID's state (R262). -/
def idState (d : Dev) (ns id : Nat) : IdState :=
  AMap.get d.ids (2 ^ 40 * d.idOwner ns + id) { gen := 0, tomb := false, free := true, exhausted := false }

def setId (d : Dev) (ns id : Nat) (x : IdState) : Dev := { d with ids := AMap.put d.ids (2 ^ 40 * d.idOwner ns + id) x }

end Dev

/-- A command acts on the module: what the module sends is what it sends during this step. -/
def effect (f : Dev → Dev) (s : State) : Host.Outcome State Fault Refusal := .next { s with dev := f { s.dev with out := [] } }

end Sys2Proof.Machine
end

