-- ==== Sys2Proof/Machine/Events.lean ====
section
/-! DEFINITION. Events, their sequence numbers, the trace buffer, the event log, asynchronous events and completions
(R337 to R340, R547 to R550, R481, R577, R416). -/

namespace Sys2Proof.Machine

/-! Source IDs (R338). -/

def srcBlock (g : Nat) : Nat := 0x1000 + g
def srcKerb (k : Nat) : Nat := 0x2000 + k
def srcChannel (n : Nat) : Nat := 0x3000 + n
def srcPort (p : Nat) : Nat := 0x4000 + p
def srcSensor (s : Nat) : Nat := 0x5000 + s
def srcArcade (a : Nat) : Nat := 0x7000 + a
def srcStack (s : Nat) : Nat := 0x8000 + s

/-- STATUS as R5 and the NVM Express specifications code it: status code type × 256 + status code. -/
def Status.code : Status → Nat
  | .success => 0
  | .invalidOpcode => 0x001
  | .invalidField => 0x002
  | .dataTransferError => 0x004
  | .internalError => 0x006
  | .commandAbortRequested => 0x007
  | .invalidNamespace => 0x00B
  | .commandSequenceError => 0x00C
  | .sanitizeFailed => 0x01C
  | .sanitizeInProgress => 0x01D
  | .commandInterrupted => 0x021
  | .transientTransportError => 0x022
  | .lbaOutOfRange => 0x080
  | .capacityExceeded => 0x081
  | .formatInProgress => 0x084
  | .asyncEventLimit => 0x105
  | .invalidFirmwareImage => 0x107
  | .unrecoveredReadError => 0x281
  | .computeAborted => 0x7C0
  | .planMismatch => 0x7C1
  | .indexVersionRetired => 0x7C2
  | .districtNotResident => 0x7C3
  | .lightTimeout => 0x7C4
  | .timeHoldover => 0x7C5
  | .leaseRevoked => 0x7C6
  | .signatureInvalid => 0x7C7
  | .scopeBusy => 0x7C8

/-- The opcode of a host's command (R413), as a Gate reset outcome shows it. Those of the standard commands are the NVM Express
specifications' (PRESUMED, log entry 42). -/
def opcodeOf : Instr → Nat
  | .flush .. => 0x00
  | .write .. => 0x01
  | .read .. => 0x02
  | .writeZeroes .. => 0x08
  | .deallocate .. | .secureDeallocate .. => 0x09
  | .query .. => 0xC1
  | .ingest .. => 0xC2
  | .delete .. => 0xC5
  | .compute .. => 0xC6
  | .create .. | .seal .. | .switch .. | .retire .. | .filterLoad .. | .repair .. | .stats .. => 0xC9
  | .allocate .. | .release .. | .update .. | .copyIn .. | .copyOut .. | .bind .. | .unbind .. | .report .. => 0xCA
  | .registerRead .. | .fmtFlagsRead .. | .planErrRead .. | .railPeakRead .. | .tempMaxRead .. => 0xD0
  | .getLogPage .. => 0x02
  | .identify .. => 0x06
  | .abort .. => 0x08
  | .setFeatures .. => 0x09
  | .getFeatures .. => 0x0A
  | .asynchronousEventRequest .. => 0x0C
  | .firmwareCommit .. => 0x10
  | .firmwareImageDownload .. => 0x11
  | .keepAlive .. => 0x18
  | .connect .. | .propertyGet .. | .propertySet .. | .disconnect .. => 0x7F
  | .formatNvm .. => 0x80
  | .sanitize .. => 0x84
  | .planLoad .. | .planDiscard .. => 0xD4
  | .apply .. | .commit .. | .revert .. => 0xD5
  | .snapshot .. => 0xD8
  | .attest .. => 0xDA
  | .leaseLend .. | .leasePeer .. | .leaseAcquire .. | .leaseReturn .. | .leaseRevoke .. | .leaseStatus .. => 0xDC
  | _ => 0xD1

namespace Dev

/-- The source ID of the active Square. -/
def srcSquare (d : Dev) : Nat := 0x6000 + (if d.squares.activeB then 1 else 0)

/-- The number of a source's next event, which it then has used (R339). -/
def takeSeq (d : Dev) (src : Nat) : Nat × Dev :=
  let n := AMap.get d.seqs src 0
  (n, { d with seqs := AMap.put d.seqs src ((n + 1) % 2 ^ 32) })

def emit (d : Dev) (o : Out) : Dev := { d with out := d.out ++ [o] }

/-! The trace buffer (R547 to R552): 2^20 units of 64 bytes. -/

def traceUnits : Nat := 2 ^ 20

/-- The event header of R337. -/
def header (d : Dev) (src ev seq : Nat) : List Byte :=
  toLE 2 src ++ toLE 1 (if d.holdover then 1 else 0) ++ toLE 1 ev ++ toLE 4 seq ++ toLE 8 d.time.ns

/-- The class bit of an event (R547); the trigger marker is always recorded. -/
def traceClass (ev : Nat) : Option Nat :=
  if ev = 0x10 then some 0 else if ev = 0x11 then some 1 else if ev = 0x12 || ev = 0x13 then some 2
  else if 0x40 ≤ ev && ev ≤ 0x43 then some 3 else if ev = 0x14 then some 4
  else if ev = 0x50 || ev = 0x51 then some 5 else none

def traceState (d : Dev) : Nat := d.fget Reg.TRC_STAT Fld.TRC_STAT_STATE

/-- The oldest record retained, or the next write position of an empty buffer. -/
def traceOldest (d : Dev) : Nat :=
  match d.trace.records with
  | r :: _ => r.position
  | [] => d.fget Reg.TRC_STAT Fld.TRC_STAT_WR_UNIT

/-- The buffer freezes or stops: the read cursor goes to the oldest record retained (R549, R552). -/
def traceFreeze (d : Dev) : Dev :=
  (d.fset Reg.TRC_STAT Fld.TRC_STAT_STATE 3).fset Reg.TRC_RD_PTR Fld.TRC_RD_PTR_UNIT d.traceOldest

/-- Two ranges of units meet. -/
def meets (a n b m : Nat) : Bool := decide (a < b + m) && decide (b < a + n)

/-- A record laid at a position: what it overwrites goes. -/
def tracePut (d : Dev) (pos units : Nat) (bytes : List Byte) : Dev :=
  let kept := d.trace.records.filter fun r => !meets r.position r.units pos units
  let d := if kept.length < d.trace.records.length then d.fon Reg.TRC_STAT Fld.TRC_STAT_WRAPPED else d
  let d := { d with trace := { d.trace with records := kept ++ [TraceRec.mk pos units bytes] } }
  d.fset Reg.TRC_STAT Fld.TRC_STAT_WR_UNIT ((pos + units) % traceUnits)

def traceDiscard (d : Dev) : Dev := d.fadd Reg.TRC_LOST Fld.TRC_LOST_DISCARDED 1

/-- Where a record of so many units goes: a filler takes the rest of the buffer when it does not fit (R548). -/
def traceAt (d : Dev) (units : Nat) : Nat × Nat :=
  let pos := d.fget Reg.TRC_STAT Fld.TRC_STAT_WR_UNIT
  if pos + units ≤ traceUnits then (pos, 0) else (0, traceUnits - pos)

/-- A record written while recording or while the post-trigger portion fills. -/
def traceWrite (d : Dev) (units : Nat) (bytes : List Byte) : Dev :=
  let (pos, fill) := d.traceAt units
  let d := if fill = 0 then d
    else d.tracePut (traceUnits - fill) fill (toLE 2 0 ++ toLE 1 0 ++ toLE 1 0 ++ toLE 4 0 ++ toLE 8 d.time.ns)
  d.tracePut pos units bytes

/-- A record reaches the trace (R547 to R549). -/
def traceEnter (d : Dev) (units : Nat) (bytes : List Byte) : Dev :=
  if !d.fbit Reg.TRC_CTL Fld.TRC_CTL_ENABLE then d
  else match d.traceState with
    | 1 =>
      let (pos, fill) := d.traceAt units
      let full := d.trace.records.any fun r =>
        meets r.position r.units pos units || (decide (0 < fill) && meets r.position r.units (traceUnits - fill) fill)
      if d.fget Reg.TRC_CTL Fld.TRC_CTL_MODE ≠ 1 then d.traceWrite units bytes
      else if full then d.traceFreeze.traceDiscard
      else
        let d := d.traceWrite units bytes
        if traceUnits ≤ (d.trace.records.map (·.units)).sum then d.traceFreeze else d
    | 2 =>
      let (_, fill) := d.traceAt units
      if d.trace.left < units + fill then d.traceFreeze.traceDiscard
      else
        let d := d.traceWrite units bytes
        let left := d.trace.left - (units + fill)
        let d := { d with trace := { d.trace with left := left } }
        if left = 0 then d.traceFreeze else d
    | 3 => d.traceDiscard
    | _ => d

/-- A trace trigger (R549, R550): cause, and the matched source and sequence. -/
def traceTrigger (d : Dev) (cause src seq : Nat) : Dev :=
  if !(d.trace.armed && d.fget Reg.TRC_CTL Fld.TRC_CTL_MODE = 2 && d.fbit Reg.TRC_CTL Fld.TRC_CTL_ENABLE) then d
  else if d.traceState = 1 then
    let s := d.srcSquare
    let (n, d) := d.takeSeq s
    let (pos, _) := d.traceAt 1
    let d := d.traceWrite 1 (d.header s 0x30 n ++ toLE 1 cause ++ toLE 1 0 ++ toLE 2 src ++ toLE 4 seq ++
      List.replicate 40 0)
    let d := d.fset Reg.TRC_STAT Fld.TRC_STAT_TRIG_UNIT pos
    { d.fset Reg.TRC_STAT Fld.TRC_STAT_STATE 2 with trace := { d.trace with left := d.trace.postUnits } }
  else d.fadd Reg.TRC_STAT Fld.TRC_STAT_EXTRA_TRIGGERS 1

/-- A record of a class that TRC_CLASS selects enters the trace and may match TRC_TRIG. -/
def traceRecord (d : Dev) (src ev seq : Nat) (payload : List Byte) : Dev :=
  match traceClass ev with
  | none => d
  | some c =>
    if bits (d.fget Reg.TRC_CLASS Fld.TRC_CLASS_CLASSES) c 1 = 0 then d
    else
      let bytes := d.header src ev seq ++ payload
      let units := ceilDiv bytes.length 64
      let d := d.traceEnter units (bytes ++ List.replicate (64 * units - bytes.length) 0)
      let mask := d.fget Reg.TRC_TRIG Fld.TRC_TRIG_SOURCE_MASK
      if d.fbit Reg.TRC_TRIG Fld.TRC_TRIG_MATCH_EN && d.fget Reg.TRC_TRIG Fld.TRC_TRIG_EVENT = ev &&
          (d.fget Reg.TRC_TRIG Fld.TRC_TRIG_SOURCE).land mask = src.land mask then
        d.traceTrigger 2 src seq
      else d

/-- An event that goes only to the trace. -/
def traceEvent (d : Dev) (src ev : Nat) (payload : List Byte) : Dev :=
  let (n, d) := d.takeSeq src
  d.traceRecord src ev n payload

/-! Positions of the completion queues. -/

/-- A position of a queue moves on by one entry. -/
def turn (m : AMap Nat) (depth q : Nat) : AMap Nat := AMap.put m q ((AMap.get m q 0 + 1) % max 1 depth)

/-- The completion tail of a queue moves on. -/
def postTail (d : Dev) (q : Nat) : Dev :=
  { d with host := { d.host with cqTail := turn d.host.cqTail (AMap.get d.host.depths q 32) q } }

/-- An outstanding Asynchronous Event Request completes with its event. -/
def postAsync (d : Dev) (a cid : Nat) (kind : AsyncKind) (page : Nat) : Dev :=
  ((d.fadd Reg.HIF_CMDS Fld.HIF_CMDS_COMPLETED 1).postTail (4096 + a)).emit (.asyncEvent a cid kind page)

/-! Asynchronous events and the event log. -/

/-- Every association whose Asynchronous Event Configuration has the event's bit, where it has one, gets an asynchronous event: it completes
an outstanding request, or is held (R414, R416). SMB_ALERT_N is asserted until the management controller asks (R564): that every event of the
module is an NVMe-MI asynchronous event too is a DESIGN CHOICE (log entry 52). -/
def asyncAll (d : Dev) (kind : AsyncKind) (page : Nat) (config : Option Nat) : Dev :=
  d.host.assocs.foldl (fun d (a, x) =>
    if config.any fun b => bits x.aerConfig b 1 = 0 then d
    else match x.aers with
    | cid :: rest =>
      ({ d with host := { d.host with assocs := AMap.put d.host.assocs a { x with aers := rest } } } : Dev).postAsync a cid kind page
    | [] => { d with host := { d.host with assocs := AMap.put d.host.assocs a { x with held := x.held ++ [(kind, page)] } } })
    { d with pins := { d.pins with smbAlert := true } }

def asyncVendor (d : Dev) : Dev := d.asyncAll .vendor 0xC1 none

/-- An entry of the event log, which may also be a trace record. -/
def logEvent (d : Dev) (src ev : Nat) (payload : List Byte) : Dev :=
  let (n, d) := d.takeSeq src
  let d := { d with events := d.events ++
    [EventRec.mk src ev n d.time.ns d.holdover payload] }
  d.traceRecord src ev n payload

/-- An error record (R481) of EVENT 0x40 to 0x43. -/
def logError (d : Dev) (src ev code severity reset unit : Nat) (dist : Option Nat) (address detail region : Nat) : Dev :=
  let payload := toLE 2 code ++ toLE 1 severity ++ toLE 1 reset ++ toLE 2 unit ++
    toLE 2 (match dist with | some x => 0x8000 + x | none => 0) ++ toLE 8 address ++ toLE 8 detail ++ toLE 4 region ++ toLE 4 0
  let d := d.logEvent src ev payload
  let d := if d.fget Reg.TRC_TRIG Fld.TRC_TRIG_SEVERITY != 0 && decide (d.fget Reg.TRC_TRIG Fld.TRC_TRIG_SEVERITY ≤ severity) then
    d.traceTrigger 5 src (AMap.get d.seqs src 1 - 1) else d
  if 2 ≤ severity then d.asyncVendor else d

/-- An error record at a unit that is its own source, without district, address or region. -/
def logFault (d : Dev) (src code severity reset detail : Nat) : Dev :=
  d.logError src 0x40 code severity reset src none 0 detail 0xFFFFFFFF

/-- A notice record of the active Square (R577); EVENT 0x60 and 0x61 raise an asynchronous event. -/
def logNotice (d : Dev) (ev : Nat) (payload : List Byte) : Dev :=
  let d := d.logEvent d.srcSquare ev payload
  if ev = 0x62 then d else d.asyncVendor

/-- A POLICY_OVERRIDDEN record or its release (R477). -/
def logOverride (d : Dev) (ev loop unit bound applied measured : Nat) : Dev :=
  let d := d.logEvent unit ev (toLE 1 loop ++ toLE 2 unit ++ toLE 1 0 ++ toLE 4 bound ++ toLE 4 applied ++ toLE 4 measured)
  if ev = 0x50 && d.fbit Reg.TRC_TRIG Fld.TRC_TRIG_ON_OVERRIDE then d.traceTrigger 4 unit (AMap.get d.seqs unit 1 - 1) else d

/-! Completions. -/

/-- The command is no longer in flight, and its range locks are released (R421); a Format that completes no longer runs. -/
def leave (d : Dev) (q cid : Nat) : Dev :=
  let wipe := match d.host.wipe with
    | some w => if !w.sanitize && w.queue = q && w.cid = cid then none else some w
    | none => none
  { d with host := { d.host with
      wipe := wipe,
      inflight := d.host.inflight.filter fun x => !(x.queue = q && x.cid = cid),
      locks := d.host.locks.filter fun x => !(x.queue = q && x.cid = cid) } }

def inflightOf (d : Dev) (q cid : Nat) : Option Inflight := d.host.inflight.find? fun x => x.queue = q && x.cid = cid

/-- The district of a command: that of its queue pair as the command was dispatched (R50). -/
def districtFor (d : Dev) (q cid : Nat) : Option Nat :=
  match d.host.inflight.reverse.find? fun x => x.queue = q && x.cid = cid with
  | some x => x.district
  | none => d.districtOf q

/-- A command in flight has reached its point of effect (R407). -/
def takeEffect (d : Dev) (q cid : Nat) : Dev :=
  let mark (x : Inflight) : Inflight := if x.queue = q && x.cid = cid then { x with effective := true } else x
  { d with host := { d.host with inflight := d.host.inflight.map mark } }

/-- A completion is counted; one with an error is entered in the Error Information log (R416). -/
def countEnd (d : Dev) (q cid : Nat) (st : Status) : Dev :=
  if st = .success then d.fadd Reg.HIF_CMDS Fld.HIF_CMDS_COMPLETED 1
  else
    let x : ErrorEntry := ⟨d.host.errorCount + 1, q, cid, st⟩
    { d.fadd Reg.HIF_CMDS Fld.HIF_CMDS_ERRORS 1 with host := { d.host with errors := (x :: d.host.errors).take 256,
                                                                           errorCount := d.host.errorCount + 1 } }

/-- A completion entry is posted to its queue. -/
def postEnd (d : Dev) (q cid : Nat) (st : Status) (dw0 dw1 : Nat) : Dev :=
  (((d.countEnd q cid st).leave q cid).postTail q).emit (.completion q cid st dw0 dw1)

/-- A completion of a command whose association has ended is recorded instead (R407); the record keeps the newest 65,536 (R416; which ones a
full page keeps is not in the spec, DESIGN CHOICE, log entry 62). -/
def recordEnd (d : Dev) (port : Nat) (nqn : List Byte) (c : Instr) (q cid : Nat) (st : Status) : Dev :=
  let d := (d.countEnd q cid st).leave q cid
  let log := d.host.gateLog ++ [GateOutcome.mk port nqn q cid (opcodeOf c) st d.beat]
  { d with host := { d.host with gateLog := log.drop (log.length - 65536) } }

/-- A completion with Dword 1 as given. It waits until the host's RDMA adapter has acknowledged what the command wrote (R26, R411). -/
def finishWith (d : Dev) (q cid : Nat) (st : Status) (dw0 dw1 : Nat) : Dev :=
  match d.inflightOf q cid with
  | some { orphan := some (port, nqn), command := c, .. } => d.recordEnd port nqn c q cid st
  | some { wrote := true, .. } =>
    let hold (x : Inflight) : Inflight :=
      if x.queue = q && x.cid = cid then { x with wrote := false, held := some (st, dw0, dw1) } else x
    { d with host := { d.host with inflight := d.host.inflight.map hold } }
  | _ => d.postEnd q cid st dw0 dw1

/-- Does a queue belong to an association over RDMA? -/
def overRdma (d : Dev) (q : Nat) : Bool := (AMap.look d.host.assocs (d.assocOf q)).any fun x => x.rdma

/-- Data goes to the host of a command. -/
def sendHost (d : Dev) (q cid : Nat) (o : Out) : Dev :=
  let d := d.emit o
  if d.overRdma q then
    let mark (x : Inflight) : Inflight := if x.queue = q && x.cid = cid then { x with wrote := true } else x
    { d with host := { d.host with inflight := d.host.inflight.map mark } }
  else d

/-- The host's adapter has acknowledged what a command wrote, or a write of it failed (R26, R411): the completion that waited is posted. -/
def ackEnd (d : Dev) (q cid : Nat) (bad : Bool) : Dev :=
  match d.inflightOf q cid with
  | some { held := some (st, dw0, dw1), orphan := none, .. } => d.postEnd q cid (if bad then .dataTransferError else st) dw0 dw1
  | _ => d

/-- The completion of a standard NVMe command. -/
def finish (d : Dev) (q cid : Nat) (st : Status) (dw0 : Nat := 0) : Dev := d.finishWith q cid st dw0 0

/-- The completion of a vendor command, which carries its source and sequence number in Dword 1 (R340). -/
def finishFrom (d : Dev) (src q cid : Nat) (st : Status) (dw0 : Nat := 0) : Dev :=
  let (n, d) := d.takeSeq src
  d.finishWith q cid st dw0 (src + 2 ^ 16 * (n % 2 ^ 16))

/-- The completion of a vendor I/O command whose source is the port of arrival. -/
def finishPort (d : Dev) (q cid : Nat) (st : Status) (dw0 : Nat := 0) : Dev :=
  let port := match d.inflightOf q cid with
    | some { orphan := some (p, _), .. } => p
    | _ => d.portOf q
  d.finishFrom (srcPort port) q cid st dw0

/-- The completion of a vendor admin command, whose source is the active Square. -/
def finishSquare (d : Dev) (q cid : Nat) (st : Status) (dw0 : Nat := 0) : Dev := d.finishFrom d.srcSquare q cid st dw0

end Dev

end Sys2Proof.Machine
end

