-- ==== Sys2Proof/Machine/Objects.lean ====
section
/-! DEFINITION. Handles, tier addresses and placed objects as commands name them (R349, R350, R355, R362, R341, R483). -/

namespace Sys2Proof.Machine

/-! Handles and tier addresses (R349, R350). -/

def handleIndex (h : Nat) : Nat := bits h 0 20
def handleDistrict (h : Nat) : Nat := bits h 20 4
def handleGen (h : Nat) : Nat := bits h 24 8

/-- The handle of an object of a district: INDEX, DISTRICT, GEN. -/
def handleOf (index dist gen : Nat) : Nat := index + 2 ^ 20 * dist + 2 ^ 24 * gen

/-- The handle and the byte offset of a tier address, for a district. -/
def tierHandle (dist a : Nat) : Nat := handleOf (bits a 36 20) dist (bits a 56 8)
def tierOffset (a : Nat) : Nat := bits a 0 36

/-- A condition of a check. -/
def need (c : Bool) (s : Status := .invalidField) : Except Status Unit := if c then .ok () else .error s

/-- Global regions of 1 GiB (R483): T0 stack s holds 64s to 64s + 63, T1 region r is 768 + r. -/
def regionStack (r : Nat) : Nat := r / 64

/-- The Arcade of a T1 region. T1 regions are spread evenly: Arcade a holds regions 768 + 512a to 768 + 512a + 511 (R17). -/
def regionArcade (r : Nat) : Nat := (r - 768) / 512

namespace Dev

/-- The object a handle names, or the status of a command that names it (R349, R355, R368, R370): GEN and district match,
it is not releasing unless the command holds it, and it is not lost. -/
def objCheck (d : Dev) (dist h : Nat) (held : List Nat := []) : Except Status Obj :=
  match AMap.look d.place.objs (handleIndex h) with
  | none => .error .invalidField
  | some o =>
    if 2 ^ 32 ≤ h || o.gen != handleGen h || handleDistrict h != dist || o.district != dist then .error .invalidField
    else if o.releasing.isSome && !held.contains (handleIndex h) then .error .invalidField
    else if o.lost then .error (if o.tier = 3 then .leaseRevoked else .districtNotResident)
    else .ok o

def modObj (d : Dev) (i : Nat) (f : Obj → Obj) : Dev := { d with place := { d.place with objs := AMap.upd d.place.objs i f } }

/-- A command that names the objects passes its checks (R355). -/
def hold (d : Dev) (is : List Nat) : Dev := is.foldl (fun d i => d.modObj i fun o => { o with uses := o.uses + 1 }) d

/-- The command that named the objects completes (R355). -/
def unhold (d : Dev) (is : List Nat) : Dev := is.foldl (fun d i => d.modObj i fun o => { o with uses := o.uses - 1 }) d

/-- Bytes of a tier moved for a district (R341). -/
def countTier (d : Dev) (dist tier n : Nat) : Dev :=
  match tier with
  | 0 => d.fadd (Reg.CNT_DIST_T0 dist) Fld.CNT_DIST_T0_BYTES n
  | 1 => d.fadd (Reg.CNT_DIST_T1 dist) Fld.CNT_DIST_T1_BYTES n
  | _ => d.fadd (Reg.CNT_DIST_T3 dist) Fld.CNT_DIST_T3_BYTES n

/-- Bytes of a range of an object on each stack and Arcade that holds it (R342). -/
def basisBytes (d : Dev) (dist : Nat) (o : Obj) (a n : Nat) : Dev :=
  if n = 0 || o.tier = 3 then d
  else (List.range ((a + n - 1) / 2 ^ 21 + 1 - a / 2 ^ 21)).foldl (fun d j =>
    let e := a / 2 ^ 21 + j
    let m := min (a + n) (2 ^ 21 * (e + 1)) - max a (2 ^ 21 * e)
    match o.extents[e]? with
    | some x => d.addBasis (if x / 512 < 768 then 336 + regionStack (x / 512) else 348 + regionArcade (x / 512)) dist m
    | none => d) d

/-- Bytes of an object read by a command of a district, from an offset up: accounting and hotness in 64 KiB units (R341,
R362). -/
def touchRead (d : Dev) (dist i n : Nat) (a : Nat := 0) : Dev :=
  match AMap.look d.place.objs i with
  | none => d
  | some o => ((d.basisBytes dist o a n).countTier dist o.tier n).modObj i fun o => { o with reads := satAdd 32 o.reads (ceilDiv n 65536) }

def touchWrite (d : Dev) (dist i n : Nat) (a : Nat := 0) : Dev :=
  match AMap.look d.place.objs i with
  | none => d
  | some o => ((d.basisBytes dist o a n).countTier dist o.tier n).modObj i fun o => { o with writes := satAdd 32 o.writes (ceilDiv n 65536) }

/-- A PLACE command lets its objects go (R355). One whose T3 batch has been sent no longer holds up those after it (R367). -/
def letGo (d : Dev) (held : List Nat) (queue cid : Nat) : Dev :=
  let d := held.foldl (fun d i => d.modObj i fun o => { o with uses := o.uses - 1 }) d
  { d with place := { d.place with t3 := d.place.t3.filter fun c => !(c.begun && c.queue = queue && c.cid = cid) } }

/-- The binding of a weights object on a global logical block (R358). -/
def bindingOf (d : Dev) (glb h : Nat) : Option Binding := d.place.bindings.find? fun x => x.block = glb && x.handle = h

/-- Bytes of a range that the spec calls undefined: free values. -/
def freeBytes (d : Dev) (n : Nat) : List Byte × Dev :=
  ((List.range n).map fun i => (Config.freeValue (d.drawn + i)).setWidth 8, { d with drawn := d.drawn + n })

/-- A range of block memory left undefined. -/
def undefineBm (d : Dev) (b a n : Nat) : Dev :=
  let (bs, d) := d.freeBytes n
  d.storeBm b a bs

def undefineObj (d : Dev) (i a n : Nat) : Dev :=
  let (bs, d) := d.freeBytes n
  d.storeObj i a bs

end Dev

end Sys2Proof.Machine
end

