-- ==== Sys2Proof/Machine/Operands.lean ====
section
/-! DEFINITION. Operand forms of a COMPUTE command: descriptors (R139, R159), their operands in block memory (R579), and
the checks made before a command starts (R140 and the rules it names). -/

namespace Sys2Proof.Machine

/-- A descriptor of 64 bytes (R139, R159). The fields of the ARRAY, VECTOR and SFU layout, and those of DMA and LIGHT. -/
structure Desc where
  raw : List Byte
  cls : Nat
  mode : Nat
  fa : Nat
  faRest : Nat
  fw : Nat
  fwRest : Nat
  fo : Nat
  foSigned : Bool
  rnd : Nat
  group : Nat
  m : Nat
  k : Nat
  n : Nat
  handle : Nat
  inA : Nat
  aux : Nat
  out : Nat
  zp : Nat
  table : Nat
  useTable : Bool
  scaleA : Nat
  scaleB : Nat
  flags : Nat
  aux2 : Nat
  /-- The reserved fields of the layout are zero. -/
  clean : Bool
  deriving DecidableEq, Repr

/-- The descriptor in 64 bytes. -/
def Desc.of (b : List Byte) : Desc :=
  { raw := b, cls := fieldLE b 0 1, mode := fieldLE b 1 1,
    fa := bits (fieldLE b 2 1) 0 4, faRest := bits (fieldLE b 2 1) 4 4,
    fw := bits (fieldLE b 3 1) 0 4, fwRest := bits (fieldLE b 3 1) 4 4,
    fo := bits (fieldLE b 4 1) 0 4, foSigned := bits (fieldLE b 4 1) 4 1 = 1, rnd := bits (fieldLE b 4 1) 5 3,
    group := fieldLE b 6 2, m := fieldLE b 8 4, k := fieldLE b 0xC 4, n := fieldLE b 0x10 4,
    handle := fieldLE b 0x14 4, inA := fieldLE b 0x18 4, aux := fieldLE b 0x1C 4, out := fieldLE b 0x20 4,
    zp := fieldLE b 0x24 2, table := bits (fieldLE b 0x26 2) 0 8, useTable := bits (fieldLE b 0x26 2) 15 1 = 1,
    scaleA := fieldLE b 0x28 4, scaleB := fieldLE b 0x2C 4, flags := fieldLE b 0x30 4, aux2 := fieldLE b 0x34 4,
    clean := fieldLE b 5 1 = 0 && fieldLE b 0x38 8 = 0 && bits (fieldLE b 0x26 2) 8 7 = 0
      && decide (bits (fieldLE b 2 1) 5 3 = 0) && decide (bits (fieldLE b 3 1) 6 2 = 0) }

namespace Desc

def aSigned (x : Desc) : Bool := bits x.faRest 0 1 = 1
def wSigned (x : Desc) : Bool := bits x.fwRest 0 1 = 1
def sparse (x : Desc) : Bool := bits x.fwRest 1 1 = 1
def fmtA (x : Desc) : Option Fmt := Fmt.ofCode x.fa
def fmtW (x : Desc) : Option Fmt := Fmt.ofCode x.fw
def fmtOut (x : Desc) : Option Fmt := Fmt.ofCode x.fo
def isArray (x : Desc) : Bool := x.cls = 1
def isVector (x : Desc) : Bool := x.cls = 2
def isSfu (x : Desc) : Bool := x.cls = 3
def isDma (x : Desc) : Bool := x.cls = 4
def isLight (x : Desc) : Bool := x.cls = 5

/-- The epilogue controls of OP_FLAGS (R146). -/
def bias (x : Desc) : Bool := bits x.flags 0 1 = 1
def act (x : Desc) : Nat := bits x.flags 1 8
def residual (x : Desc) : Bool := bits x.flags 9 1 = 1
def quantise (x : Desc) : Bool := bits x.flags 10 1 = 1

/-- ACT_ZP as a signed number (R139). -/
def zpInt (x : Desc) : Int := toSigned 16 x.zp

/-- The operation does nothing (R4, R107, R139): a count of zero. -/
def empty (x : Desc) : Bool :=
  if x.cls = 1 then x.m = 0 || x.k = 0 || x.n = 0
  else if x.cls = 4 then fieldLE x.raw 4 4 = 0 || fieldLE x.raw 0x18 4 = 0
  else if x.cls = 5 then false
  else x.m = 0 || x.k = 0

/-! The DMA layout (R159). -/

def srcTier (x : Desc) : Nat := bits x.mode 0 4
def dstTier (x : Desc) : Nat := bits x.mode 4 4
def dmaFlags (x : Desc) : Nat := fieldLE x.raw 2 2
def isAsync (x : Desc) : Bool := bits x.dmaFlags 0 1 = 1
def rows (x : Desc) : Nat := fieldLE x.raw 4 4
def src (x : Desc) : Nat := fieldLE x.raw 8 8
def dst (x : Desc) : Nat := fieldLE x.raw 0x10 8
def rowBytes (x : Desc) : Nat := fieldLE x.raw 0x18 4
def srcStride (x : Desc) : Nat := fieldLE x.raw 0x1C 4
def dstStride (x : Desc) : Nat := fieldLE x.raw 0x20 4
def peer (x : Desc) : Nat := fieldLE x.raw 0x24 2

/-! The LIGHT layout (R139). -/

def light (x : Desc) : Nat := fieldLE x.raw 8 4
def value (x : Desc) : Nat := fieldLE x.raw 0xC 4
def timeout (x : Desc) : Nat := fieldLE x.raw 0x10 2

end Desc

/-- Two ranges have a byte in common. -/
def overlap (a n b m : Nat) : Bool := decide (0 < n) && decide (0 < m) && decide (a < b + m) && decide (b < a + n)

/-! The scale block (R168). -/

/-- Offset S of the scale block. -/
def Desc.scaleAt (x : Desc) : Nat := if x.bias then roundUp (x.aux + 4 * x.n) 64 else x.aux
def Desc.groups (x : Desc) : Nat := x.n * ceilDiv x.k x.group
def Desc.seconds (x : Desc) : Nat := ceilDiv x.groups 256

/-- Bytes of the scale block after a header with its UNIT_SCALES bit. -/
def Desc.scaleBytes (x : Desc) (unit : Bool) : Nat :=
  if unit then 16 else roundUp (16 + x.groups) 4 + 4 * x.seconds

/-! What a command is checked against. -/

/-- The command's place: its physical and logical block, district, the bank in use, the objects it holds, and whether the
check is the early one made before a leading WAIT, which reads neither what a signalled write may still change nor the bank, which
is that of the command's boundary (R156). -/
structure CheckCtx where
  d : Dev
  b : Nat
  glb : Nat
  dist : Nat
  bank : Bank
  held : List Nat
  early : Bool

namespace CheckCtx

/-- A range of the own block's memory lies in the district's window (R157). -/
def win (c : CheckCtx) (a n : Nat) : Bool := n = 0 || c.d.inWindow c.b c.dist a n

def winAll (c : CheckCtx) (l : List (Nat × Nat)) : Except Status Unit := need (l.all fun r => c.win r.1 r.2)

/-- A function code is in the bank (R156); before the boundary, one that some bank could hold. -/
def fn (c : CheckCtx) (code : Nat) : Bool := if c.early then fnPossible code else fnKnown c.bank code

/-- The expansion record an ARRAY descriptor names (R93), with the weight format as held. -/
def record (c : CheckCtx) (x : Desc) : Option ExpRec :=
  if x.useTable then c.bank.exps.find? fun r => r.tableId = x.table else none

/-- The weight format as held in the cell. -/
def heldFmt (c : CheckCtx) (x : Desc) : Option Fmt :=
  if x.useTable then (c.record x).bind fun r => Fmt.ofCode r.target else x.fmtW

/-- The path and rate class of an ARRAY operation in mode MAC or ELEMWISE (R89), none for a rejected pair. -/
def pair (c : CheckCtx) (x : Desc) : Option (APath × Rate) :=
  match c.heldFmt x, x.fmtA with
  | some w, some a => pairOf w a
  | _, _ => none

/-- Pattern, rate class and GROUP_SIZE of a sparse tensor (R184). -/
def sparseOk (path : APath) (rate : Rate) (pattern group : Nat) : Bool :=
  if pattern = 1 then
    match rate with
    | .r8 => group = 32 || group = 64 || group = 128
    | .r4 => group = 64 || group = 128
    | .r16 => if path = .long then group = 0 else group = 32 || group = 64 || group = 128
    | .r32 => group = 0
  else
    match rate with
    | .r8 => group = 64 || group = 128
    | .r4 => group = 128
    | _ => false

/-- Bytes of a sparse tensor's values and indices (R187). -/
def sparseValueBytes (f : Fmt) (h : SparseHdr) : Nat := nbytes f (h.n * ceilDiv h.k 4 * perRun h.pattern)
def sparseIndexBytes (h : SparseHdr) : Nat := ceilDiv (h.n * ceilDiv h.k 4 * perRun h.pattern) 4

/-- The stored tensor of an ARRAY operation against its bound range (R98, R186). -/
def tensor (c : CheckCtx) (x : Desc) (bd : Binding) (f : Fmt) (path : APath) (rate : Rate) : Except Status Unit := do
  if x.sparse then
    need (64 ≤ bd.length)
    let h := sparseHdr (c.d.loadBm c.b bd.bmOffset 64)
    need (h.pattern = 1 || h.pattern = 2)
    need (h.reservedZero && h.format = x.fw && h.k = x.k && h.n = x.n && h.valuesOff % 64 = 0 && h.indexOff % 64 = 0)
    need (sparseOk path rate h.pattern x.group)
    need (h.valuesOff + sparseValueBytes f h ≤ bd.length && h.indexOff + sparseIndexBytes h ≤ bd.length)
  else need (denseBytes f x.k x.n ≤ bd.length)

/-- An ARRAY descriptor (R89, R93, R98, R110, R111, R139, R146, R148, R157, R168, R169, R175, R184, R349, R358). -/
def array (c : CheckCtx) (x : Desc) : Except Status Unit := do
  need (x.clean && x.mode < 16 && x.mode ≤ 6)
  let some a := x.fmtA | throw .invalidField
  let some w := x.fmtW | throw .invalidField
  let some o := x.fmtOut | throw .invalidField
  need ((Rnd.ofCode x.rnd).isSome && x.flags / 2048 = 0 && o ≠ .b64)
  need (x.useTable || x.table = 0)
  let mut scales := false
  let mut pr : APath × Rate := (.integer, .r8)
  if x.mode ≤ 1 then
    need (!x.sparse || x.mode = 0)
    if !(c.early && x.useTable) then
      if x.useTable then
        let some r := c.record x | throw .invalidField
        need (r.source = x.fw && r.target = x.fa)
      let some p := c.pair x | throw .invalidField
      pr := p
      if p.1 = .long then need (x.group = 0)
      else need (x.group = 32 || x.group = 64 || x.group = 128)
      scales := p.1 ≠ .long
      if p.1 = .integer then
        let (lo, hi) := a.intRange x.aSigned
        need (lo ≤ x.zpInt && x.zpInt ≤ hi)
      else need (x.zp = 0)
      need (x.bias || scales || x.aux = 0)
    need (x.act = 0 || c.fn x.act)
    need (x.residual || x.aux2 = 0)
  else
    need (!x.useTable && !x.sparse && x.group = 0 && x.zp = 0 && x.flags = 0 && x.scaleA = 0 && x.scaleB = 0
      && x.aux = 0 && x.aux2 = 0 && (o = .i32 || o = .b32))
    if x.mode = 4 then need (a = .i8 && w = .i8) else need (a = w && (a = .i8 || a = .i4))
  if !x.empty then
    let o' ← c.d.objCheck c.dist x.handle c.held
    need (o'.kind = 1)
    let some bd := c.d.bindingOf c.glb x.handle | throw .invalidField
    need (c.win bd.bmOffset bd.length)
    if !(c.early && x.sparse) then c.tensor x bd w pr.1 pr.2
    c.winAll [(x.inA, nbytes a (x.m * x.k)), (x.out, nbytes o (x.m * x.n)), (x.aux, if x.bias then 4 * x.n else 0),
      (x.aux2, if x.residual then nbytes o (x.m * x.n) else 0)]
    if scales then
      need (c.win x.scaleAt 16)
      if !c.early then
        let h := c.d.loadBm c.b x.scaleAt 16
        let unit := bits (fieldLE h 8 1) 0 1 = 1
        need (fieldLE h 0 4 = ceilDiv x.k x.group && fieldLE h 4 4 = (if unit then 0 else x.seconds)
          && fieldLE h 8 1 / 2 = 0 && fieldLE h 9 7 = 0)
        need (c.win x.scaleAt (x.scaleBytes unit))

/-- Vector operations with a second operand, and with a third (R142, R145). -/
def needsB (code : Nat) : Bool := (1 ≤ code && code ≤ 7) || code = 0xA || (0x14 ≤ code && code ≤ 0x16)
def needsC (code : Nat) : Bool := code = 5 || code = 0xA || code = 0x15

/-- Elements of the second operand (R579), and of a vector result. -/
def bCount (x : Desc) : Nat :=
  if bits x.flags 0 1 = 1 then 1 else if bits x.flags 1 1 = 1 then x.k else x.m * x.k

def outCount (x : Desc) : Nat :=
  match x.mode with
  | 0x10 | 0x11 => x.m
  | 0x13 | 0x14 => 2 * x.m
  | _ => x.m * x.k

/-- A VECTOR descriptor (R69, R70, R73, R139, R142, R145, R157, R579, R581). MERGESTATS with an M of 0 does nothing
under R4 whatever its K says; that R581's demand for K = 2 does not reach such an empty operation is a DESIGN CHOICE
(log entry 74). -/
def vector (c : CheckCtx) (x : Desc) : Except Status Unit := do
  need (x.clean && ((1 ≤ x.mode && x.mode ≤ 0xA) || (0x10 ≤ x.mode && x.mode ≤ 0x16)))
  let some a := x.fmtA | throw .invalidField
  let some w := x.fmtW | throw .invalidField
  let some o := x.fmtOut | throw .invalidField
  need ((Rnd.ofCode x.rnd).isSome && x.flags < 3 && !x.sparse)
  need (x.group = 0 && x.n = 0 && x.handle = 0 && x.zp = 0 && x.table = 0 && !x.useTable)
  need (x.mode = 0x15 || x.mode = 0x16 || x.scaleA = 0)
  need (needsB x.mode || (x.aux = 0 && x.fw = 0 && x.fwRest = 0 && x.flags = 0))
  need (needsC x.mode || x.aux2 = 0)
  if 0x12 ≤ x.mode && x.mode ≤ 0x14 then
    need (!a.isInt && a ≠ .b64)
    if x.mode = 0x12 then need (o ≠ .b64) else need (o = .b32)
    if x.mode = 0x14 then need (a = .b32 && w = .b32 && x.flags = 0 && (x.k = 2 || x.empty))
  if !x.empty then
    c.winAll [(x.inA, nbytes a (x.m * x.k)), (x.out, nbytes o (outCount x)),
      (x.aux, if needsB x.mode then nbytes w (bCount x) else 0), (x.aux2, if needsC x.mode then nbytes w (x.m * x.k) else 0)]

/-- An SFU descriptor (R70, R139, R148, R150, R152, R156, R157). -/
def sfu (c : CheckCtx) (x : Desc) : Except Status Unit := do
  need (x.clean && c.fn x.mode)
  let some a := x.fmtA | throw .invalidField
  let some o := x.fmtOut | throw .invalidField
  need (x.rnd = 0 && !a.isInt && a ≠ .b64 && o ≠ .b64)
  need (x.fw = 0 && x.fwRest = 0 && x.group = 0 && x.n = 0 && x.handle = 0 && x.aux = 0 && x.zp = 0 && x.table = 0
    && !x.useTable && x.scaleA = 0 && x.flags = 0 && x.aux2 = 0)
  if !x.empty then c.winAll [(x.inA, nbytes a (x.m * x.k)), (x.out, nbytes o (x.m * x.k))]

/-- Bytes that the rows of a DMA span. -/
def span (rows rowBytes stride : Nat) : Nat := (rows - 1) * stride + rowBytes

/-- One end of a DMA: its tier, address and span (R159, R350). -/
def dmaEnd (c : CheckCtx) (x : Desc) (tier a n : Nat) : Except Status Unit := do
  match tier with
  | 0 => need (c.win a n)
  | 1 =>
    match c.d.physOf x.peer with
    | none => throw .districtNotResident
    | some p =>
      need (!c.d.quarantined (x.peer / 64)) .districtNotResident
      need (c.d.inWindow p c.dist a n)
  | _ =>
    let o ← c.d.objCheck c.dist (tierHandle c.dist a) c.held
    need (o.tier ≤ 1 && tierOffset a + n ≤ o.size)

/-- A DMA descriptor (R159, R157, R350, R367). -/
def dma (c : CheckCtx) (x : Desc) : Except Status Unit := do
  need (x.srcTier ≤ 3 && x.dstTier ≤ 3 && x.dmaFlags / 2 = 0 && fieldLE x.raw 0x26 26 = 0)
  need (!(1 < x.rows && x.dstStride < x.rowBytes))
  need (x.srcTier = 1 || x.dstTier = 1 || x.peer = 0)
  if !x.empty then
    c.dmaEnd x x.srcTier x.src (span x.rows x.rowBytes x.srcStride)
    c.dmaEnd x x.dstTier x.dst (span x.rows x.rowBytes x.dstStride)

/-- A light exists and the district owns it (R330). -/
def owns (c : CheckCtx) (l : Nat) : Bool := l < 65536 && c.d.fget (Reg.LGT_CTL l) Fld.LGT_CTL_OWNER = c.dist

/-- A LIGHT descriptor at its place in the list (R136, R330, R331). -/
def lightOp (c : CheckCtx) (ix : Nat) (x : Desc) : Except Status Unit := do
  need (1 ≤ x.mode && x.mode ≤ 3 && fieldLE x.raw 2 6 = 0 && fieldLE x.raw 0x12 46 = 0)
  need (x.mode ≠ 3 || ix = 0)
  need (x.mode = 3 || x.timeout = 0)
  need (c.owns x.light)

/-- One descriptor (R140). -/
def op (c : CheckCtx) (ix : Nat) (x : Desc) : Except Status Unit :=
  match x.cls with
  | 1 => c.array x
  | 2 => c.vector x
  | 3 => c.sfu x
  | 4 => c.dma x
  | 5 => c.lightOp ix x
  | _ => .error .invalidField

/-- A binary32 code of a finite, non-negative value (R178). -/
def ringOk (code : Nat) : Bool :=
  match dec32 code with
  | .fin n m _ => !n || m = 0
  | _ => false

/-- The quantising operations (R178). -/
def quantising (x : Desc) : Bool := (x.isArray && x.quantise) || (x.isVector && x.mode = 9)

/-- The scale-state record a command names (R176 to R178). -/
def scaleState (c : CheckCtx) (w hist : Nat) (ops : List Desc) : Except Status Unit := do
  need (hist ≤ 16)
  if bits w 31 1 = 0 then need (w = 0 && hist = 0)
  else
    let off := bits w 0 23
    need (bits w 23 8 = 0 && off % 128 = 0 && c.win off 128)
    if !c.early then
      let r := c.d.loadBm c.b off 128
      let target := fieldLE r 0 1
      let fl := fieldLE r 1 1
      let signed := bits fl 1 1 = 1
      need ([2, 5, 6, 7, 8, 9, 10].contains target && fl / 4 = 0 && fieldLE r 6 2 = 0)
      need (!signed || target = 5 || target = 6)
      need (fieldLE r 2 1 ≤ 15 && fieldLE r 3 1 ≤ 16 && fieldLE r 4 1 ≤ 15)
      need (ringOk (fieldLE r 8 4) && !(dec32 (fieldLE r 8 4)).isZero)
      need ((List.range (fieldLE r 3 1)).all fun i => ringOk (fieldLE r (0x20 + 4 * ((fieldLE r 4 1 + 16 - i) % 16)) 4))
      need ((List.range 4).all fun i =>
        let dw := fieldLE r (0x60 + 8 * i) 4
        let a := bits dw 0 23
        bits dw 23 7 = 0 && (bits dw 31 1 = 0 || (a % 4 = 0 && c.win a 4 && !overlap a 4 off 128)))
      need (ops.all fun x => !quantising x || (x.fo = target && x.foSigned = signed))

/-! The dispatch record (R195 to R201). -/

structure RouteRec where
  off : Nat
  experts : Nat
  topk : Nat
  policy : Nat
  spillLimit : Nat
  sourceIndex : Nat
  sources : Nat
  tokens : Nat
  capacity : Nat
  rowBytes : Nat
  scores : Nat
  rowsAt : Nat
  log : Nat
  table : Nat
  fill : Nat
  step : Nat

def routeOf (d : Dev) (b off : Nat) : RouteRec :=
  let r := d.loadBm b off 64
  { off := off, experts := fieldLE r 0 1, topk := fieldLE r 1 1, policy := fieldLE r 2 1, spillLimit := fieldLE r 3 1,
    sourceIndex := fieldLE r 4 2, sources := fieldLE r 6 2, tokens := fieldLE r 8 4, capacity := fieldLE r 0xC 4,
    rowBytes := fieldLE r 0x10 4, scores := fieldLE r 0x14 4, rowsAt := fieldLE r 0x18 4, log := fieldLE r 0x1C 4,
    table := fieldLE r 0x20 4, fill := fieldLE r 0x24 4, step := fieldLE r 0x28 8 }

/-- An expert entry (R197). -/
structure Expert where
  peer : Nat
  light : Nat
  header : Nat
  rows : Nat
  reserved : Nat
  deriving DecidableEq, Repr

def expertOf (d : Dev) (b : Nat) (r : RouteRec) (x : Nat) : Expert :=
  let e := d.loadBm b (r.table + 16 * x) 16
  { peer := fieldLE e 0 2, light := fieldLE e 2 2, header := fieldLE e 4 4, rows := fieldLE e 8 4, reserved := fieldLE e 12 4 }

/-- The ranges of a slab: headers and rows (R197). -/
def slab (r : RouteRec) (e : Expert) : List (Nat × Nat) :=
  [(e.header, 16 * r.sources), (e.rows, r.sources * r.capacity * r.rowBytes)]

/-- Two slabs on one block overlap. -/
def slabsMeet (r : RouteRec) (a b : Expert) : Bool :=
  a.peer = b.peer && (slab r a).any fun x => (slab r b).any fun y => overlap x.1 x.2 y.1 y.2

def route (c : CheckCtx) (w : Nat) : Except Status Unit := do
  if bits w 31 1 = 0 then need (w = 0)
  else
    let off := bits w 0 23
    need (bits w 23 8 = 0 && off % 64 = 0 && c.win off 64)
    if !c.early then
      let r := routeOf c.d c.b off
      need (1 ≤ r.experts && r.experts ≤ 64 && r.topk ≤ 4 && r.topk ≤ r.experts && r.policy ≤ 1)
      need (if r.policy = 1 then r.topk < r.spillLimit && r.spillLimit ≤ r.experts else r.spillLimit = 0)
      need (1 ≤ r.sources && r.sources ≤ 64 && r.sourceIndex < r.sources && 1 ≤ r.capacity && r.capacity ≤ 65535)
      need (1 ≤ r.rowBytes && r.rowBytes ≤ 65536 && r.rowBytes % 64 = 0 && fieldLE (c.d.loadBm c.b off 64) 0x3C 4 = 0)
      c.winAll [(r.scores, 4 * r.tokens * r.experts), (r.rowsAt, r.tokens * r.rowBytes), (r.log, 8 * r.tokens * r.topk),
        (r.table, 16 * r.experts)]
      let es := (List.range r.experts).map (expertOf c.d c.b r)
      for e in es do
        need (e.reserved = 0 && c.owns e.light)
        match c.d.physOf e.peer with
        | none => throw .districtNotResident
        | some p =>
          need (!c.d.quarantined (e.peer / 64)) .districtNotResident
          need ((slab r e).all fun s => c.d.inWindow p c.dist s.1 s.2)
      need ((es.zipIdx).all fun x => (es.drop (x.2 + 1)).all fun y => !slabsMeet r x.1 y)

/-! The pair-gather record (R302 to R305). -/

structure GatherRec where
  off : Nat
  pairs : Nat
  first : Nat
  count : Nat
  ns : Nat
  seq : Nat
  pad : Nat
  rows : Nat
  lens : Nat
  step : Nat

def gatherOf (d : Dev) (b off : Nat) : GatherRec :=
  let r := d.loadBm b off 64
  { off := off, pairs := fieldLE r 0 8, first := fieldLE r 8 4, count := fieldLE r 0xC 4, ns := fieldLE r 0x10 4,
    seq := fieldLE r 0x14 2, pad := fieldLE r 0x18 4, rows := fieldLE r 0x1C 4, lens := fieldLE r 0x20 4,
    step := fieldLE r 0x30 8 }

/-- Bytes of one gathered row (R304). -/
def GatherRec.rowBytes (r : GatherRec) : Nat := roundUp (4 * r.seq) 64

def gather (c : CheckCtx) (w : Nat) : Except Status Unit := do
  if bits w 31 1 = 0 then need (w = 0)
  else
    let off := bits w 0 23
    need (bits w 23 8 = 0 && off % 64 = 0 && c.win off 64)
    if !c.early then
      let raw := c.d.loadBm c.b off 64
      let r := gatherOf c.d c.b off
      need (1 ≤ r.seq && r.seq ≤ 4096 && fieldLE raw 0x16 2 = 0 && fieldLE raw 0x24 4 = 0 && fieldLE raw 0x38 8 = 0)
      if r.count ≠ 0 then
        let o ← c.d.objCheck c.dist r.pairs c.held
        need (o.tier = 1 && 32 * (r.first + r.count) ≤ o.size && (c.d.nsDef r.ns).isSome)
        c.winAll [(r.rows, 5 * r.count * r.rowBytes), (r.lens, 20 * r.count)]
        need ((List.range r.count).all fun i =>
          let e := c.d.loadObj (handleIndex r.pairs) (32 * (r.first + i)) 32
          fieldLE e 0x1E 1 ≤ 3 && fieldLE e 0x1F 1 = 0
            && fieldLE e (0x0C + 6 * fieldLE e 0x1E 1) (18 - 6 * fieldLE e 0x1E 1) = 0)

/-! The command. -/

/-- One address field of a descriptor, `n` bytes at offset `a`: with bit 31 set it is relative to the base. -/
def rebase (base a n : Nat) (raw : List Byte) : List Byte :=
  let v := fieldLE raw a n
  if bits v 31 1 = 0 then raw else raw.take a ++ toLE n (base + v % 2 ^ 31) ++ raw.drop (a + n)

/-- A descriptor of a stage's list with its block-memory addresses taken relative to the base of the batch slot where bit 31 says so
(R275). Other commands have no base. -/
def relocate (base : Option Nat) (raw : List Byte) : List Byte :=
  match base with
  | none => raw
  | some base =>
    match fieldLE raw 0 1 with
    | 1 | 2 | 3 => [0x18, 0x1C, 0x20, 0x34].foldl (fun r a => rebase base a 4 r) raw
    | 4 =>
      let r := if bits (fieldLE raw 1 1) 0 4 = 0 then rebase base 8 8 raw else raw
      if bits (fieldLE raw 1 1) 4 4 = 0 then rebase base 0x10 8 r else r
    | _ => raw

/-- The bytes of the operation list, or the status of a list that lies elsewhere than R138 allows. -/
def opList (c : CheckCtx) (count list : Nat) (t0 : Bool) (base : Option Nat) : Except Status (List Desc) := do
  need (count ≤ 64)
  let n := 64 * count
  let raw ← if t0 then do
      let o ← c.d.objCheck c.dist (tierHandle c.dist list) c.held
      need (o.tier = 0 && tierOffset list + n ≤ o.size)
      pure (c.d.loadObj (bits list 36 20) (tierOffset list) n)
    else do
      need (c.win list n)
      pure (c.d.loadBm c.b list n)
  return (List.range count).map fun i => Desc.of (relocate base (sliceB raw (64 * i) 64))

/-- Every check of a command before it starts (R140): its descriptors in list order, then its records. -/
def command (c : CheckCtx) (x : Slot) : Except Status (List Desc) := do
  need (x.scaleHistory ≤ 16)
  let ops ← c.opList x.opCount x.opList x.listInT0 x.base
  for p in ops.zipIdx do c.op p.2 p.1
  c.scaleState x.scaleState x.scaleHistory ops
  c.route x.routeState
  c.gather x.pairGather
  return ops

end CheckCtx

/-- INDEX numbers of the objects a descriptor names (R355). -/
def Desc.names (dist : Nat) (x : Desc) : List Nat :=
  if x.empty then []
  else if x.isArray then [handleIndex x.handle]
  else if x.isDma then
    (if 2 ≤ x.srcTier then [handleIndex (tierHandle dist x.src)] else [])
      ++ (if 2 ≤ x.dstTier then [handleIndex (tierHandle dist x.dst)] else [])
  else []

/-- INDEX numbers of the objects a command names, each once. -/
def Slot.names (x : Slot) (d : Dev) (b : Nat) (ops : List Desc) : List Nat :=
  let pairs := if bits x.pairGather 31 1 = 1 then
      [handleIndex (CheckCtx.gatherOf d b (bits x.pairGather 0 23)).pairs] else []
  let l := (if x.listInT0 then [bits x.opList 36 20] else []) ++ ops.flatMap (Desc.names x.district) ++ pairs
  l.eraseDups.filter (· ≠ 0)

/-! Loading operands (R579). -/

namespace Dev

/-- The codes of `n` elements of a format at a block-memory address. -/
def codesAt (d : Dev) (b a : Nat) (f : Fmt) (n : Nat) : List Nat := unpack f.width n (d.loadBm b a (nbytes f n))

/-- The bank in use of a block. -/
def bankOf (d : Dev) (b : Nat) : Bank := if (d.block b).inUse = 0 then (d.block b).banks.1 else (d.block b).banks.2

end Dev

end Sys2Proof.Machine
end

