-- ==== Sys2Proof/Machine/Flags.lean ====
section
/-! DEFINITION. Sticky format flags (R94, R95), operation counters (R542, R543) and engine cycles (R133, R341). -/

namespace Sys2Proof.Machine

/-- Cycles and bytes an operation used, by engine. -/
structure Cost where
  array : Nat := 0
  vector : Nat := 0
  dma : Nat := 0
  bytes : Nat := 0
  deriving DecidableEq, Repr

namespace Dev

/-- Flags raised by an operation of a district (R94): they stay set until read. -/
def raiseFlags (d : Dev) (dist : Nat) (f : Flags) : Dev :=
  let a := Reg.CNT_FMT_FLAGS dist
  let d := if f.toBits = 0 then d else d.setReg a ((d.reg a).lor f.toBits)
  if f.satOps = 0 then d else d.fadd a Fld.CNT_FMT_FLAGS_SAT_COUNT f.satOps

/-- Run format arithmetic for a district: its value, and its flags raised. -/
def withFlags {α : Type} (d : Dev) (dist : Nat) (x : FM α) : α × Dev :=
  let (v, f) := x.run0
  (v, d.raiseFlags dist f)

/-- Operation counter i of a logical block, which wraps at 2^48 (R542, R543). -/
def opCount (d : Dev) (g i n : Nat) : Dev :=
  if n = 0 then d
  else d.fset (Reg.CNT_OP g i) Fld.CNT_OP_COUNT ((d.fget (Reg.CNT_OP g i) Fld.CNT_OP_COUNT + n) % 2 ^ 48)

/-- The counter of a class and a format code. -/
def countOp (d : Dev) (g cls fmt n : Nat) : Dev := d.opCount g (11 * cls + fmt) n

/-- The 55 counters of a logical block. -/
def opCounters (d : Dev) (g : Nat) : List Nat := (List.range 55).map fun i => d.fget (Reg.CNT_OP g i) Fld.CNT_OP_COUNT

/-- Engine cycles of a block charged to a district (R341, R342). -/
def charge (d : Dev) (b dist : Nat) (c : Cost) : Dev :=
  let d := d.addBasis b dist (c.array + c.vector + c.dma)
  let d := if c.array = 0 then d else d.fadd (Reg.CNT_DIST_ARRAY dist) Fld.CNT_DIST_ARRAY_CYCLES c.array
  let d := if c.vector = 0 then d else d.fadd (Reg.CNT_DIST_VECTOR dist) Fld.CNT_DIST_VECTOR_CYCLES c.vector
  if c.dma = 0 then d else d.fadd (Reg.CNT_DIST_DMA dist) Fld.CNT_DIST_DMA_CYCLES c.dma

end Dev

end Sys2Proof.Machine
end

