-- ==== Sys2Proof/Machine/Slots.lean ====
section
/-! DEFINITION. Block slots (R130, R131, R163, R319), command counter records (R544, R545, R548) and the end of a COMPUTE
command (R165, R340, R345). -/

namespace Sys2Proof.Machine

/-- A field of n bytes of a count that stops at its maximum. -/
def capLE (n v : Nat) : List Byte := toLE n (min v (2 ^ (8 * n) - 1))

/-- The engine cycles that a command has used (R133). -/
def Slot.used (x : Slot) : Nat := x.arrayCycles + x.vectorCycles + x.dmaCycles

namespace Dev

def slot (d : Dev) (b i : Nat) : Option Slot := AMap.look (d.block b).slots i

def modSlot (d : Dev) (b i : Nat) (f : Slot → Slot) : Dev := d.modBlock b fun x => { x with slots := AMap.upd x.slots i f }

/-- The running command of a block with its slot number. -/
def running (d : Dev) (b : Nat) : Option (Nat × Slot) := (d.block b).running.bind fun i => (d.slot b i).map fun x => (i, x)

/-- The source of a block's events: its logical number (R338). A block without one has none of its own; its physical
place stands in (only for blocks that no command reaches). -/
def srcOfBlock (d : Dev) (b : Nat) : Nat := srcBlock ((d.logicalOf b).getD (b % 256))

/-- The districts that may use a block (R131, R319): its home district and each with a window of non-zero length. -/
def usersOf (d : Dev) (b : Nat) : List Nat :=
  (List.range 16).filter fun x => x = (d.block b).home || 0 < (d.window b x).2

/-- A slot that is open to a district (R130, R319). -/
def freeSlot (d : Dev) (b dist : Nat) : Option Nat :=
  let x := d.block b
  let mine := (x.slots.filter fun s => s.2.district = dist).length
  if mine < 16 - ((d.usersOf b).length - 1) then (List.range 16).find? fun i => (AMap.look x.slots i).isNone else none

/-- The status half-word of R284: status code type and status code, as a completion entry lays them out. -/
def statusWord (st : Status) : List Byte := toLE 2 st.code

/-- The command counter record of R544, with the sequence number of the command's completion. -/
def counterRecord (d : Dev) (b : Nat) (x : Slot) (st : Status) (seq : Nat) : List Byte :=
  let (q, c) := match x.origin with
    | .host q c => (q, c)
    | _ => (0xFFFF, 0)
  let ends := match d.logicalOf b with
    | some g => d.opCounters g
    | none => x.startOps
  d.header (d.srcOfBlock b) 0x10 seq ++ toLE 2 q ++ toLE 2 c ++ toLE 1 x.district ++ toLE 1 x.opCount ++ statusWord st
    ++ toLE 8 x.startTime ++ capLE 4 x.arrayCycles ++ capLE 4 x.stalls ++ capLE 4 x.vectorCycles ++ toLE 4 0 ++ toLE 8 x.dmaBytes
    ++ toLE 8 0 ++ ((x.startOps.zip ends).flatMap fun p => toLE 6 p.1 ++ toLE 6 p.2) ++ List.replicate 44 0

/-- The counter record goes to the trace, every 2^n-th command of the block (R548). -/
def recordCommand (d : Dev) (b : Nat) (bytes : List Byte) (seq : Nat) : Dev :=
  let n := 2 ^ d.fget Reg.TRC_CTL Fld.TRC_CTL_COUNTER_SAMPLE
  let due := (d.block b).sampled % n = 0
  let d := d.modBlock b fun x => { x with sampled := x.sampled + 1 }
  if due then d.traceRecord (d.srcOfBlock b) 0x10 seq (bytes.drop 16) else d

/-- The WAITs of a slot leave the light store (R336). -/
def dropWaits (d : Dev) (b i : Nat) : Dev :=
  let mine := d.waits.filter fun w => w.block = b && w.slot = i
  let d := mine.foldl (fun d w => d.fset (Reg.LGT_CTL w.light) Fld.LGT_CTL_WAITERS
    (d.fget (Reg.LGT_CTL w.light) Fld.LGT_CTL_WAITERS - 1)) d
  { d with waits := d.waits.filter fun w => !(w.block = b && w.slot = i) }

/-- The prefetch streams of a slot close (R364). -/
def dropStreams (d : Dev) (b i : Nat) : Dev :=
  { d with place := { d.place with streams := d.place.streams.filter fun x => !(x.block = b && x.slot = i) } }

/-- The prefetch streams of one DMA of a slot close at its end (R364). -/
def dropStream (d : Dev) (b i op : Nat) : Dev :=
  { d with place := { d.place with streams := d.place.streams.filter fun x => !(x.block = b && x.slot = i && x.op = op) } }

/-- The slot is emptied: its waits, streams and asynchronous DMA end, and the objects it names are let go (R355). -/
def emptySlot (d : Dev) (b i : Nat) : Dev :=
  match d.slot b i with
  | none => d
  | some x =>
    let d := ((d.dropWaits b i).dropStreams b i).unhold x.held
    d.modBlock b fun y => { y with slots := AMap.drop y.slots i, running := if y.running = some i then none else y.running,
                                   dma := y.dma.filter fun a => a.slot != i }

/-- The cycles that a command used leave its district's deficit (R133). -/
def spend (d : Dev) (b : Nat) (x : Slot) : Dev :=
  d.modBlock b fun y => { y with deficits := AMap.put y.deficits x.district (AMap.get y.deficits x.district 0 - (x.used : Int)) }

/-- The command in slot i ends (R133, R134, R137, R140, R165, R340, R345, R544, R545). `started`: it had started, so that a
counter record exists. -/
def endCommand (d : Dev) (b i : Nat) (st : Status) (started : Bool) : Dev :=
  match d.slot b i with
  | none => d
  | some x =>
    let d := if started then d.spend b x else d
    let src := d.srcOfBlock b
    let (seq, d) := d.takeSeq src
    let bytes := d.counterRecord b x st seq
    let d := if started then d.recordCommand b bytes seq else d
    let d := match st with
      | .success => (d.fadd (Reg.BLK_CMDS b) Fld.BLK_CMDS_COMPLETED 1).fadd (Reg.CNT_DIST_CMDS x.district)
          Fld.CNT_DIST_CMDS_COMPLETED 1
      | .computeAborted => (d.fadd (Reg.BLK_CMDS b) Fld.BLK_CMDS_ABORTED 1).fadd (Reg.CNT_DIST_CMDS x.district)
          Fld.CNT_DIST_CMDS_ABORTED 1
      | _ => d
    let d := d.emptySlot b i
    match x.origin with
    | .host q c =>
      let d := if started && x.bufferLength = 768 then d.sendHost q c (.data q c bytes) else d
      d.finishWith q c st 0 (src + 2 ^ 16 * (seq % 2 ^ 16))
    | .stage _ => { d with batches := d.batches.map fun p =>
        if p.2.issued && p.2.block = b && p.2.seq = x.seq then (p.1, { p.2 with result := some st }) else p }
    | .job j =>
      let hit (y : Job) : Job :=
        { y with result := if y.ran = some (b, x.seq) then some st else y.result, cycles := y.cycles + x.used }
      { d with jobs := AMap.upd d.jobs j hit }
    | .ingest q c =>
      let hit (y : IngestRun) : IngestRun := if y.issued = some (b, x.seq) then { y with result := some st } else y
      { d with host := { d.host with inflight := d.host.inflight.map fun y =>
        if y.queue = q && y.cid = c then { y with encode := y.encode.map hit } else y } }

/-- The completion of a COMPUTE command that enters no slot: its source is the block it names (R340). One that completes successfully,
with an operation count of zero, is counted as completed (R138, R165). -/
def refuseCompute (d : Dev) (q c g : Nat) (st : Status) : Dev :=
  let d := match st, d.districtOf q, d.physOf g with
    | .success, some dist, some b => (d.fadd (Reg.BLK_CMDS b) Fld.BLK_CMDS_COMPLETED 1).fadd (Reg.CNT_DIST_CMDS dist) Fld.CNT_DIST_CMDS_COMPLETED 1
    | _, _, _ => d
  d.finishFrom (srcBlock g) q c st

/-- Every output range of a command is undefined (R325). -/
def undefineOutputs (d : Dev) (b : Nat) (x : Slot) : Dev :=
  x.ops.foldl (fun d raw =>
    let o := Desc.of raw
    match o.fmtOut with
    | none => d
    | some f =>
      if o.empty then d
      else if o.isArray then d.undefineBm b o.out (nbytes f (o.m * o.n))
      else if o.isVector || o.isSfu then d.undefineBm b o.out (nbytes f (CheckCtx.outCount o))
      else d) d

end Dev

end Sys2Proof.Machine
end

