-- ==== Sys2Proof/Machine/Lights.lean ====
section
/-! DEFINITION. The light store (R329 to R336) and the light operations of a command (R136, R331, R333, R334). -/

namespace Sys2Proof.Machine

namespace Dev

def lightValue (d : Dev) (l : Nat) : Nat := d.fget (Reg.LGT_VALUE l) Fld.LGT_VALUE_VALUE

/-- A light record (R547): operation, and the district and block of the command. -/
def lightRecord (d : Dev) (l op dist blk operand : Nat) : Dev :=
  d.traceEvent (srcPort (l % 2)) 0x14
    (toLE 2 l ++ toLE 1 op ++ toLE 1 dist ++ toLE 2 blk ++ toLE 2 0 ++ toLE 4 operand ++ toLE 4 (d.lightValue l)
      ++ List.replicate 32 0)

/-- A waiting slot becomes ready: its WAIT was satisfied (R332). -/
def releaseSlot (d : Dev) (b i : Nat) : Dev :=
  d.modSlot b i fun x => { x with state := .ready, wait := none, waited := x.ops.head? }

/-- Every WAIT on a light that its value satisfies is released (R332); one whose expiry lies in a beat before this one has expired
(R334). -/
def releaseWaits (d : Dev) (l : Nat) : Dev :=
  let v := d.lightValue l
  let met (w : Wait) : Bool := w.light = l && w.operand ≤ v && d.beat ≤ w.expiry
  let hit := d.waits.filter met
  let d := { d with waits := d.waits.filter fun w => !met w }
  let d := d.fset (Reg.LGT_CTL l) Fld.LGT_CTL_WAITERS (d.fget (Reg.LGT_CTL l) Fld.LGT_CTL_WAITERS - hit.length)
  hit.foldl (fun d w =>
    (d.releaseSlot w.block w.slot).lightRecord l 4 w.district ((d.logicalOf w.block).getD 0) w.operand) d

/-- SET and the releases it causes, one indivisible action (R331, R332). -/
def lightSet (d : Dev) (l v dist blk : Nat) : Dev :=
  ((d.fset (Reg.LGT_VALUE l) Fld.LGT_VALUE_VALUE v).lightRecord l 1 dist blk v).releaseWaits l

/-- ADD, which stops at 0xFFFF_FFFF and then sets SATURATED (R331). -/
def lightAdd (d : Dev) (l v dist blk : Nat) : Dev :=
  let n := d.lightValue l + v
  let d := d.fset (Reg.LGT_VALUE l) Fld.LGT_VALUE_VALUE (min n 0xFFFFFFFF)
  let d := if 0xFFFFFFFF ≤ n then d.fon (Reg.LGT_CTL l) Fld.LGT_CTL_SATURATED else d
  (d.lightRecord l 2 dist blk v).releaseWaits l

/-- A WAIT expires: its command completes with LIGHT_TIMEOUT (R334, R136). -/
def expireWait (d : Dev) (w : Wait) : Dev :=
  let d := d.fadd (Reg.LGT_CTL w.light) Fld.LGT_CTL_TIMEOUTS 1
  (d.lightRecord w.light 5 w.district ((d.logicalOf w.block).getD 0) w.operand).endCommand w.block w.slot .lightTimeout false

/-- A WAIT reaches the light store (R332, R334): released, expired at once with T = 0, or registered. -/
def registerWait (d : Dev) (b i l operand timeout dist : Nat) : Dev :=
  let w : Wait := ⟨l, operand, b, i, dist, d.beat, d.beat + timeout⟩
  let d := d.lightRecord l 3 dist ((d.logicalOf b).getD 0) operand
  if operand ≤ d.lightValue l then (d.releaseSlot b i).lightRecord l 4 dist ((d.logicalOf b).getD 0) operand
  else if timeout = 0 then d.expireWait w
  else
    let d := d.fset (Reg.LGT_CTL l) Fld.LGT_CTL_WAITERS (d.fget (Reg.LGT_CTL l) Fld.LGT_CTL_WAITERS + 1)
    let d := d.modSlot b i fun x => { x with wait := some (l, operand, w.expiry) }
    { d with waits := d.waits ++ [w] }

end Dev

/-- The LIGHT WAIT that stands first in a waiting command's list is issued (R136). -/
def lightWaitStep (d : Dev) (b i : Nat) : Dev :=
  match d.slot b i with
  | some x =>
    if x.state = .waiting && x.wait.isNone then
      match x.ops with
      | raw :: _ =>
        let o := Desc.of raw
        d.registerWait b i o.light o.value o.timeout x.district
      | [] => d
    else d
  | none => d

/-- The timeout beat of a registered WAIT starts (R334). -/
def lightExpiryStep (d : Dev) (b i : Nat) : Dev :=
  match d.waits.find? fun w => w.block = b && w.slot = i with
  | some w => if w.expiry ≤ d.beat then d.expireWait w else d
  | none => d

end Sys2Proof.Machine
end

