-- ==== Sys2Proof/Machine/Engines.lean ====
section
/-! DEFINITION. The engines of a block: which operation of the running command issues next and when (R138, R160), the shadow
load (R113 to R115, R191), array, vector, special-function, DMA and light operations on block memory. -/

namespace Sys2Proof.Machine

/-! Ranges and order (R160). -/

/-- A range that an operation reads or writes: a physical block's memory, or an object as 1,000 + INDEX. -/
structure Range where
  space : Nat
  at' : Nat
  len : Nat
  deriving DecidableEq, Repr

def Range.meets (a b : Range) : Bool := a.space = b.space && overlap a.at' a.len b.at' b.len

namespace Dev

def dmaRange (d : Dev) (b dist tier a n peer : Nat) : List Range :=
  match tier with
  | 0 => [⟨b, a, n⟩]
  | 1 => match d.physOf peer with
    | some p => [⟨p, a, n⟩]
    | none => []
  | _ => [⟨1000 + handleIndex (tierHandle dist a), tierOffset a, n⟩]

/-- The ranges an operation reads. -/
def opReads (d : Dev) (b dist : Nat) (o : Desc) : List Range :=
  if o.empty then []
  else match o.cls, o.fmtA, o.fmtW, o.fmtOut with
    | 4, _, _, _ => d.dmaRange b dist o.srcTier o.src (CheckCtx.span o.rows o.rowBytes o.srcStride) o.peer
    | 1, some a, _, some f =>
      let bound := match d.logicalOf b with
        | some g => match d.bindingOf g o.handle with
          | some x => [⟨b, x.bmOffset, x.length⟩]
          | none => []
        | none => []
      [⟨b, o.inA, nbytes a (o.m * o.k)⟩, ⟨b, o.aux, if o.bias then 4 * o.n else 0⟩,
        ⟨b, o.aux2, if o.residual then nbytes f (o.m * o.n) else 0⟩,
        ⟨b, o.scaleAt, if o.group = 0 then 0 else o.scaleBytes false⟩] ++ bound
    | 2, some a, some w, _ =>
      [⟨b, o.inA, nbytes a (o.m * o.k)⟩, ⟨b, o.aux, if CheckCtx.needsB o.mode then nbytes w (CheckCtx.bCount o) else 0⟩,
        ⟨b, o.aux2, if CheckCtx.needsC o.mode then nbytes w (o.m * o.k) else 0⟩]
    | 3, some a, _, _ => [⟨b, o.inA, nbytes a (o.m * o.k)⟩]
    | _, _, _, _ => []

/-- The ranges an operation writes. -/
def opWrites (d : Dev) (b dist : Nat) (o : Desc) : List Range :=
  if o.empty then []
  else match o.cls, o.fmtOut with
    | 4, _ => d.dmaRange b dist o.dstTier o.dst (CheckCtx.span o.rows o.rowBytes o.dstStride) o.peer
    | 1, some f => [⟨b, o.out, nbytes f (o.m * o.n)⟩]
    | 2, some f => [⟨b, o.out, nbytes f (CheckCtx.outCount o)⟩]
    | 3, some f => [⟨b, o.out, nbytes f (o.m * o.k)⟩]
    | _, _ => []

/-- A quarter is quiesced at quarter scope: requests to its stacks wait (R54). -/
def quarterQuiet (d : Dev) (q : Nat) : Bool :=
  d.plan.slots.any fun a => a.step = .quiescing && (match a.container with
    | some c => c.scope = ⟨.quarter, q⟩
    | none => false)

/-- An object has an extent in a stack whose requests wait. -/
def objStalled (d : Dev) (i : Nat) : Bool :=
  match AMap.look d.place.objs i with
  | some x => x.tier = 0 && x.extents.any fun e => d.quarterQuiet (regionStack (e / 512) / 3)
  | none => false

/-- A DMA operation reads or writes such an object (R54). -/
def dmaStalled (d : Dev) (dist : Nat) (o : Desc) : Bool :=
  o.isDma && !o.empty && ((decide (2 ≤ o.srcTier) && d.objStalled (handleIndex (tierHandle dist o.src))) ||
    (decide (2 ≤ o.dstTier) && d.objStalled (handleIndex (tierHandle dist o.dst))))

/-! Selection (R133, R135). -/

/-- Each district's oldest command, where it is ready, the district is not stopped and its list can be read (R54, R135, R321). -/
def readyOf (d : Dev) (b : Nat) : List (Nat × Nat) :=
  (List.range 16).filterMap fun dist =>
    let mine := (d.block b).slots.filter fun s => s.2.district = dist
    match mine.find? fun s => mine.all fun t => s.2.seq ≤ t.2.seq with
    | some (i, x) =>
      if (x.state = .ready || x.state = .preparing) && !d.stopsBlock b dist && !(x.listInT0 && d.objStalled (bits x.opList 36 20)) then
        some (dist, i)
      else none
    | none => none

/-- Rounds until a district's deficit is positive. -/
def roundsTo (deficit : Int) (weight : Nat) : Int := if 0 < deficit then 0 else -deficit / (64 * (weight : Int)) + 1

/-- The next command by deficit round robin (R24, R133): districts in ascending order while their deficit is positive; new
rounds credit every ready district; districts of weight zero take turns in what is left. -/
def pickNext (d : Dev) (b : Nat) : Option Nat × Dev :=
  let ready := d.readyOf b
  let weight (x : Nat) : Nat := (d.district x).blockWeight
  let keep := (d.block b).deficits.filter fun p => ready.any fun r => r.1 = p.1
  let d := d.modBlock b fun y => { y with deficits := keep }
  let pos := ready.filter fun r => 0 < weight r.1
  let cred (x : Nat) : Int := AMap.get keep x 0
  match ready, pos with
  | [], _ => (none, d)
  | r :: _, [] =>
    let next := (ready.find? fun t => (d.block b).lastZero < t.1).getD r
    (some next.2, d.modBlock b fun y => { y with lastZero := next.1 })
  | _, p :: ps =>
    let rounds := ps.foldl (fun n r => min n (roundsTo (cred r.1) (weight r.1))) (roundsTo (cred p.1) (weight p.1))
    let upd := pos.foldl (fun m r => AMap.put m r.1 (cred r.1 + rounds * (64 * (weight r.1 : Int)))) keep
    let d := d.modBlock b fun y => { y with deficits := upd }
    ((pos.find? fun r => 0 < AMap.get upd r.1 0).map (·.2), d)

/-- The next command as it stands while the running one goes on: the one that would start if that one ended now (R133, R134). -/
def nextCommand (d : Dev) (b : Nat) : Option (Nat × Slot) :=
  let d := match d.running b with
    | some (_, x) => d.spend b x
    | none => d
  ((d.pickNext b).1).bind fun i => (d.slot b i).map fun x => (i, x)

/-- An operation waits for an asynchronous DMA in flight (R160). -/
def waitsForDma (d : Dev) (b dist : Nat) (o : Desc) : Bool :=
  (d.block b).dma.any fun x =>
    let a := Desc.of x.op
    let its := match d.slot b x.slot with
      | some y => y.district
      | none => dist
    let src := d.opReads b its a
    let dst := d.opWrites b its a
    (d.opReads b dist o).any (fun r => dst.any r.meets)
      || (d.opWrites b dist o).any (fun r => src.any r.meets || dst.any r.meets)

/-- A DMA of the command in a slot is in flight. -/
def dmaOf (d : Dev) (b i : Nat) : Bool := (d.block b).dma.any fun x => x.slot = i

/-- The operation the running command issues next, with its slot, if nothing holds it back: the command has not failed, its
pair gather is done (R302), no DMA in flight touches its ranges, and no stack it reads or writes is held by a quiesce (R54). -/
def nextOp (d : Dev) (b : Nat) : Option (Nat × Slot × Desc) :=
  match d.running b with
  | none => none
  | some (i, x) =>
    if x.failed.isSome || (bits x.pairGather 31 1 = 1 && !x.gathered) then none
    else match x.ops[x.next]? with
      | none => none
      | some raw => let o := Desc.of raw
        if d.waitsForDma b x.district o || d.dmaStalled x.district o then none else some (i, x, o)

/-- The operation has been done: the next one follows, and its cycles are charged (R133, R341, R544). -/
def opDone (d : Dev) (b i dist : Nat) (c : Cost) : Dev :=
  let d := d.charge b dist c
  let d := if c.bytes = 0 then d else d.fadd (Reg.BLK_DMA_BYTES b) Fld.BLK_DMA_BYTES_BYTES c.bytes
  d.modSlot b i fun x =>
    { x with next := x.next + 1, arrayCycles := x.arrayCycles + c.array, vectorCycles := x.vectorCycles + c.vector,
             dmaCycles := x.dmaCycles + c.dma, dmaBytes := x.dmaBytes + c.bytes }

end Dev

/-- One operation of a block's running command, when it is of the wanted kind and can issue: `f` does it, or answers none
when the engine stalls. An operation with a zero count does nothing (R4). -/
def runOp (d : Dev) (b : Nat) (want : Desc → Bool) (f : Dev → Nat → Slot → Desc → Option (Dev × Cost)) : Dev :=
  match d.nextOp b with
  | none => d
  | some (i, x, o) =>
    if !want o then d
    else if o.empty then d.opDone b i x.district {}
    else match f d i x o with
      | some (d, c) => d.opDone b i x.district c
      | none => d

/-! ARRAY operations as a block runs them. -/

/-- Where an ARRAY operation's weights are bound in block memory. -/
def boundTo (d : Dev) (b : Nat) (o : Desc) : Option Binding := (d.logicalOf b).bind fun g => d.bindingOf g o.handle

/-- The bytes of the bound range of an ARRAY operation's weights. -/
def boundBytes (d : Dev) (b : Nat) (o : Desc) : List Byte :=
  match boundTo d b o with
  | some bd => d.loadBm b bd.bmOffset bd.length
  | none => []

/-- Cells in service with their numbers. -/
def inService (d : Dev) (b : Nat) : List (Nat × Cell) := ((d.block b).cells.zipIdx.filter fun c => !c.1.fenced).map fun c => (c.2, c.1)

/-- An ARRAY operation with its formats, its expansion record, its job and epilogue (R139, R146), and the tag that its weights
need, without what a segment covers. -/
structure ArrOp where
  a : Fmt
  w : Fmt
  f : Fmt
  exp : Option ExpRec
  j : ArrJob
  e : Epi
  key : BufKey

/-- The K positions that a segment covers of each of its columns. -/
def ArrJob.coverOf (j : ArrJob) (steps : List SegStep) : List (Nat × Nat × Nat) :=
  ((steps.flatMap fun s => s.columns).dedup).map fun c =>
    let ts := (steps.filter fun s => s.columns.contains c).map (·.tile)
    (c, (ts.foldl min (ts.headD 0)) * j.span, min j.k ((ts.foldl max 0 + 1) * j.span))

/-- The tag that a segment of the weights needs (R115). -/
def ArrOp.keyOf (x : ArrOp) (steps : List SegStep) : BufKey := { x.key with cover := x.j.coverOf steps }

/-- An ARRAY operation of a district under a subnormal mode, decoded (R89, R97, R110, R168). -/
def arrOpOf (d : Dev) (b dist : Nat) (keep : Bool) (o : Desc) : Option ArrOp :=
  match o.fmtA, o.fmtW, o.fmtOut with
  | some a, some w, some f =>
    let exp := if o.useTable then (d.bankOf b).exps.find? fun r => r.tableId = o.table else none
    let held := (exp.bind fun r => Fmt.ofCode r.target).getD w
    let pr := if o.mode ≤ 1 then (pairOf held a).getD (.integer, .r8)
      else (.integer, if w = .i4 then Rate.r4 else .r8)
    let bytes := boundBytes d b o
    let scaled := o.group ≠ 0 && bits (fieldLE (d.loadBm b o.scaleAt 16) 8 1) 0 1 = 0
    let j : ArrJob :=
      { mode := o.mode, path := pr.1, rate := pr.2, wHeld := held, wSigned := o.wSigned, aFmt := a, aSigned := o.aSigned,
        keep := keep, m := o.m, k := o.k, n := o.n, g := if o.group = 0 then o.k else o.group, zp := o.zpInt,
        sparse := if o.sparse then some (sparseHdr bytes).pattern else none, scaled := scaled,
        cells := (inService d b).map fun c => (c.1, c.2.quadrant) }
    let e : Epi :=
      { bias := o.bias, act := o.act, residual := o.residual, quantise := o.quantise, scaleA := o.scaleA, scaleB := o.scaleB,
        out := f, outSigned := o.foSigned, rnd := (Rnd.ofCode o.rnd).getD .rne, keep := keep }
    let key : BufKey :=
      { district := dist, handle := o.handle, bank := (d.block b).bankGen, table := if o.useTable then some o.table else none,
        keep := keep && exp.isSome, group := if scaled then o.group else 0, cover := [],
        data := bytes ++ (if scaled then d.loadBm b o.scaleAt (o.scaleBytes false) else []) }
    some ⟨a, w, f, exp, j, e, key⟩
  | _, _, _ => none

/-- The cells that take part in an ARRAY operation, each with its segments (R106, R172). -/
def takingPart (d : Dev) (b : Nat) (x : ArrOp) : List (Nat × Cell × List (List SegStep)) :=
  ((inService d b).map fun c => (c.1, c.2, x.j.segments c.1)).filter fun c => !c.2.2.isEmpty

/-! Weight buffers (R96, R113 to R116). -/

namespace Cell

/-- A buffer holds what a tag says (R115). -/
def holds (t : Option BufTag) (k : BufKey) : Bool :=
  match t with
  | some t => t.key = k
  | none => false

/-- The buffers exchange roles (R114). -/
def swapped (c : Cell) : Cell := { c with front := c.shadow, shadow := c.front }

/-- The front buffer after a pass used it. -/
def used (c : Cell) : Cell := { c with front := c.front.map fun t => { t with fresh := false } }

/-- The passes of the front buffer's segment run into the accumulators (R100, R118). -/
def runFront (c : Cell) : Cell :=
  match c.front with
  | none => c
  | some t => { c.used with acc := c.acc ++ [t], planes := t.tiles.drop (t.tiles.length - 2) }

/-- One pass boundary of an operation whose segments need `keys`: the segment due moves to the front if the shadow holds it; if it
is there and the next one's load is complete, its passes run and the buffers swap (R114). The last segment stays in front. A segment is
loaded once for all the chunks of M (DESIGN CHOICE, log entry 74: R106 and R172 do not say whether once or for each chunk). -/
def passBoundary (keys : List BufKey) (c : Cell) : Cell :=
  match keys[c.acc.length]? with
  | none => c
  | some k =>
    if holds c.front k then
      match keys[c.acc.length + 1]? with
      | some k' => if holds c.shadow k' then c.runFront.swapped else c
      | none => c
    else if holds c.shadow k then c.swapped else c

/-- The boundaries that can be passed now: the two buffers hold two segments at most. -/
def settled (keys : List BufKey) (c : Cell) : Cell := passBoundary keys (passBoundary keys (passBoundary keys c))

/-- The last segment of the operation is in front, its earlier ones have run. -/
def ready (keys : List BufKey) (c : Cell) : Bool :=
  decide (c.acc.length + 1 = keys.length) && (keys[c.acc.length]?).any fun k => holds c.front k

/-- The first of the tags wanted that no buffer holds, unless the shadow still waits to give one wanted before it (R113, R114). -/
def lacks (c : Cell) : List BufKey → Nat → Option Nat
  | [], _ => none
  | k :: ks, i => if holds c.front k then c.lacks ks (i + 1) else if holds c.shadow k then none else some i

end Cell

/-- The segments of a cell as tags. -/
def ArrOp.keys (x : ArrOp) (segs : List (List SegStep)) : List BufKey := segs.map x.keyOf

/-- A cell changed. -/
def Dev.modCell (d : Dev) (b c : Nat) (f : Cell → Cell) : Dev :=
  d.modBlock b fun y => { y with cells := y.cells.zipIdx.map fun x => if x.2 = c then f x.1 else x.1 }

/-- Loads of one cell skipped because a tag matched: segments that ran again on a buffer some pass had used before (R128). -/
def countReuse (d : Dev) (b c : Nat) (run : List BufTag) : Dev :=
  let n := (run.filter fun t => !t.fresh).length
  if n = 0 then d else d.fadd (Reg.CELL_LOADS b c) Fld.CELL_LOADS_REUSED n

/-- Every cell that takes part holds the last of its segments, and has run the others. -/
def weightsHere (d : Dev) (b : Nat) (x : ArrOp) : Bool :=
  (takingPart d b x).all fun c => (c.2.1.settled (x.keys c.2.2)).ready (x.keys c.2.2)

/-- The operation the running command issues next, when it is an ARRAY operation on data, decoded. -/
def nextArray (d : Dev) (b : Nat) : Option (Nat × Slot × Desc × ArrOp) :=
  match d.nextOp b with
  | none => none
  | some (i, x, o) => if !o.isArray || o.empty then none else (arrOpOf d b x.district x.keep o).map fun y => (i, x, o, y)

/-! Array operations. -/

/-- The stored codes of one column between two K positions, with their positions: of a dense tensor (R98) or a sparse one (R187). -/
def storedRun (x : Desc) (w : Fmt) (data : List Byte) : Nat → Nat → Nat → List (Nat × Nat) :=
  if x.sparse then
    let h := sparseHdr data
    let vals := leNat (data.drop h.valuesOff)
    let idx := leNat (data.drop h.indexOff)
    fun j lo hi => (sparseCol h.pattern x.k j w.width vals idx).filter fun p => decide (lo ≤ p.1) && decide (p.1 < hi)
  else
    let v := leNat data
    let kt := tileK w
    let ktiles := ceilDiv x.k kt
    fun j lo hi => (List.range (min hi x.k - lo)).map fun i => (lo + i, bits v (w.width * denseIndex kt ktiles (lo + i) j) w.width)

/-- The tiles of a segment as a cell holds them: expanded while they load (R90, R97, R113). -/
def loadTiles (x : Desc) (y : ArrOp) (data : List Byte) (steps : List SegStep) : FM (List Tile) :=
  let run := storedRun x y.w data
  steps.mapM fun s => s.columns.mapM fun c => do
    let codes := run c (s.tile * y.j.span) ((s.tile + 1) * y.j.span)
    match y.exp with
    | none => return (c, codes)
    | some r => return (c, ← codes.mapM fun p => do return (p.1, ← expandCode y.j.keep r p.2))

/-- The scale area of a segment: the group scales its tiles use, and the second-level scales of those groups (R109, R168, R172). -/
def loadScales (x : Desc) (y : ArrOp) (scale : List Byte) (steps : List SegStep) : AMap Nat × AMap Nat :=
  let gs := (steps.flatMap y.j.scaleIndices).eraseDups
  (gs.map fun g => (g, fieldLE scale (0x10 + g) 1),
   ((gs.map (· / 256)).eraseDups).map fun s => (s, fieldLE scale (roundUp (0x10 + x.groups) 4 + 4 * s) 4))

/-- What an ARRAY operation reads: its operands in block memory, and the segments that its cells hold. -/
structure ArrayIn where
  act : List Nat
  bias : List Nat
  res : List Nat
  held : List BufTag

/-- Scales by index, 1.0 where none is held. -/
def scaleArray (n : Nat) (l : List (Nat × Datum)) : Array Datum :=
  l.foldl (fun a p => if p.1 < n then a.setIfInBounds p.1 p.2 else a) (Array.replicate n (.ofInt 1))

/-- The weights of one column that the cells hold, with their K positions. -/
def heldColumn (held : List BufTag) (c : Nat) : List (Nat × Nat) :=
  held.flatMap fun t => t.tiles.flatMap fun tile => (tile.filter fun r => r.1 = c).flatMap (·.2)

/-- The operands of an ARRAY operation decoded: activations, the weights that the cells hold of each column, and scales. -/
structure ArrayVals where
  act : List Datum
  cols : List (List (Nat × Datum))
  gs : Array Datum
  ss : Array Datum

/-- Weights and scales as the buffers hold them, decoded whole: a stored subnormal weight of an ELEMWISE operation off the diagonal, which
enters no product (R112), raises FLUSH_IN as the others do (DESIGN CHOICE, log entry 74). -/
def arrayVals (x : Desc) (y : ArrOp) (act : List Nat) (held : List BufTag) : FM ArrayVals := do
  let keep := y.j.keep
  let acts ← decodeAll y.a (x.aSigned && x.mode ≠ 4) keep act
  let cols ← (List.range x.n).mapM fun c => (heldColumn held c).mapM fun p => do
    return (p.1, ← decode y.j.wHeld (y.exp.isNone && x.wSigned && x.mode ≠ 4) keep p.2)
  let gs ← ((held.flatMap (·.groupScales)).eraseDups).mapM fun p => do return (p.1, ← decode .f8e4 false keep (p.2 % 128))
  let ss := ((held.flatMap (·.secondScales)).eraseDups).map fun p => (p.1, dec32 p.2)
  return ⟨acts, cols, scaleArray (if y.j.scaled then x.groups else 0) gs, scaleArray (if y.j.scaled then x.seconds else 0) ss⟩

def ArrayVals.groupScale (v : ArrayVals) (g : Nat) : Datum := v.gs.getD g (.ofInt 1)
def ArrayVals.secondScale (v : ArrayVals) (s : Nat) : Datum := v.ss.getD s (.ofInt 1)

/-- The accumulator entries of some rows and columns once some steps have run: the K tiles of a column run in ascending order (R106). -/
def accFM (y : ArrOp) (v : ArrayVals) (steps : List SegStep) (rows cols : List Nat) : FM (List AccEntry) :=
  let acts := v.act.toArray
  (rows.flatMap fun m => cols.map fun c => (m, c)).mapM fun p => do
    let reach := (steps.filter fun s => s.columns.contains p.2).length * y.j.span
    let r ← accAfter y.j p.2 reach (v.cols.getD p.2 []) (fun k => acts.getD (p.1 * y.j.k + k) .zero)
      (fun kg => v.groupScale (p.2 * y.j.gk + kg)) (fun kg => v.secondScale ((p.2 * y.j.gk + kg) / 256))
    let acc := BitVec.ofNat 32 (enc32 r.1)
    let parity := match r.2 with
      | .fin n m q => Config.accParity acc n m q
      | _ => Config.accParity acc false 0 0
    return ⟨p.1, p.2, acc, r.2, parity⟩

/-- An ARRAY operation on its operands (R86, R110, R146, R166, R170, R171): weights and scales as the buffers hold them. -/
def arrayFM (bank : Bank) (x : Desc) (y : ArrOp) (inp : ArrayIn) : FM (List Nat × Obs × ArrStats) := do
  let v ← arrayVals x y inp.act inp.held
  let biasA := (inp.bias.map dec32).toArray
  let res ← decodeAll y.f x.foSigned y.j.keep inp.res
  let resA := res.toArray
  runArray bank y.j y.e v.act v.cols v.groupScale v.secondScale (fun i => biasA.getD i .zero) (fun i => resA.getD i .zero)

/-- The counters of an ARRAY operation on its cells and block (R128, R129, R193, R205). -/
def countArray (d : Dev) (b : Nat) (s : ArrStats) : Dev :=
  let d := s.passes.foldl (fun d p => d.fadd (Reg.CELL_PASSES b p.1) Fld.CELL_PASSES_PASSES p.2) d
  let d := s.rows.foldl (fun d p => d.fadd (Reg.CELL_ROWS b p.1) Fld.CELL_ROWS_ROWS p.2) d
  let d := d.fadd (Reg.BLK_ARRAY_BCAST b) Fld.BLK_ARRAY_BCAST_ROWS s.bcast
  let d := d.fadd (Reg.BLK_ARRAY_SKIP b) Fld.BLK_ARRAY_SKIP_ROWS s.skipped
  d.fadd (Reg.BLK_ARRAY_SPARSE b) Fld.BLK_ARRAY_SPARSE_PASSES s.sparsePasses

/-- Stall cycles of a command (R101, R118, R128): how many the spec does not say, so that each count is a free value of 16 bits. -/
def stallCells (d : Dev) (b i : Nat) (f : Fld) (cells : List Nat) : Dev :=
  cells.foldl (fun d c =>
    let (v, d) := d.draw
    let n := v.toNat % 2 ^ 16
    (d.fadd (Reg.CELL_STALL b c) f n).modSlot b i fun y => { y with stalls := y.stalls + n }) d

/-- Join a command's observation with an operation's (R179). -/
def Obs.join (a b : Obs) : Obs :=
  { count := a.count + b.count, maxMag := if lessNum a.maxMag b.maxMag then b.maxMag else a.maxMag,
    nonfinite := a.nonfinite + b.nonfinite, saturated := a.saturated + b.saturated }

def observe (d : Dev) (b i : Nat) (x : Slot) (o : Obs) : Dev :=
  if bits x.scaleState 31 1 = 1 then d.modSlot b i fun y => { y with obs := y.obs.join o } else d

/-- The last segments run, and the output tiles drain: the accumulator rows are free again (R114, R118). -/
def drainCells (d : Dev) (b : Nat) (cells : List Nat) : Dev :=
  cells.foldl (fun d c =>
    let d := match ((d.block b).cells[c]?).bind (·.front) with
      | some t => countReuse d b c [t]
      | none => d
    d.modCell b c fun x => { x.runFront with acc := [], accum := [] }) d

/-- What an ARRAY operation reads from block memory and from the buffers of the cells that take part. -/
def arrayIn (d : Dev) (b : Nat) (o : Desc) (y : ArrOp) : ArrayIn :=
  { act := d.codesAt b o.inA y.a (o.m * o.k), bias := if o.bias then d.codesAt b o.aux .b32 o.n else [],
    res := if o.residual then d.codesAt b o.aux2 y.f (o.m * o.n) else [],
    held := (takingPart d b y).flatMap fun c => c.2.1.acc ++ c.2.1.front.toList }

/-- Operation counts of an ARRAY operation (R205, R542). -/
def countArrayOps (d : Dev) (b : Nat) (o : Desc) (y : ArrOp) (st : ArrStats) : Dev :=
  match d.logicalOf b with
  | none => d
  | some g =>
    let d := match o.mode with
      | 0 => d.countOp g 0 o.fw st.products
      | 1 => d.countOp g 2 o.fa (o.m * min o.k o.n)
      | _ => d.countOp g 1 o.fw (o.m * o.k * o.n)
    -- an activation counts under the format it gives: FMT_OUT where steps 3 and 6 run as one (R146)
    let d := if o.act = 0 then d
      else d.countOp g 3 (if !y.e.quantise && !y.e.residual && y.e.rnd = .rne then o.fo else 1) (o.m * o.n)
    if y.f = .b32 then d else d.countOp g 4 o.fo (o.m * o.n)

/-- The accumulator memory of a cell after some of its segments have run: the output tile in progress, for the last chunk of rows
(R96, R118). -/
def accumOf (d : Dev) (b : Nat) (o : Desc) (y : ArrOp) (held : List BufTag) (steps : List SegStep) : List AccEntry :=
  let cols := match steps.getLast? with
    | some s => s.columns
    | none => []
  let rows := match y.j.chunks.getLast? with
    | some c => (List.range c.2).map (c.1 + ·)
    | none => []
  let run : FM (List AccEntry) := do accFM y (← arrayVals o y (d.codesAt b o.inA y.a (o.m * o.k)) held) steps rows cols
  run.run0.1

/-- The cells of the operation that issues next pass the boundaries they can (R114). -/
def settle (d : Dev) (b : Nat) (o : Desc) (x : ArrOp) : Dev :=
  (takingPart d b x).foldl (fun d c =>
    let y := c.2.1.settled (x.keys c.2.2)
    let n := y.acc.length
    let y := if n = c.2.1.acc.length then y else { y with accum := accumOf d b o x y.acc (c.2.2.take n).flatten }
    countReuse (d.modCell b c.1 fun _ => y) b c.1 (y.acc.drop c.2.1.acc.length)) d

/-- The output range of an operation whose sparse weights have a metadata error is undefined, and its command fails (R191). -/
def arrayFails (d : Dev) (b i : Nat) (o : Desc) (f : Fmt) : Dev :=
  (d.undefineBm b o.out (nbytes f (o.m * o.n))).modSlot b i fun y => { y with failed := some .invalidField }

/-- Has a cell run every pass before the load that found a metadata error (R191)? Its segment before that one may still stand in front. -/
def reaches (keys : List BufKey) (c : Cell) (seg : Nat) : Bool :=
  c.acc.length = seg || (c.acc.length + 1 = seg && (keys[c.acc.length]?).any fun k => Cell.holds c.front k)

/-- An operation reaches the pass whose load found a metadata error (R191): what the cells have run before it counts, its outputs are
undefined, and its command fails. None while no cell has come that far. -/
def arrayBadMeta (d : Dev) (b i : Nat) (x : Slot) (o : Desc) (y : ArrOp) (bad : List (Nat × Nat)) : Option (Dev × Cost) :=
  let d := settle d b o y
  let parts := takingPart d b y
  let due (c : Nat × Cell × List (List SegStep)) : Bool := bad.any fun p => p.1 = c.1 && reaches (y.keys c.2.2) c.2.1 p.2
  if !parts.any due then none
  else
    let run (c : Nat × Cell × List (List SegStep)) : List BufTag × List SegStep :=
      let front : Bool := due c && (bad.any fun p => p.1 = c.1 && p.2 = c.2.1.acc.length + 1)
      (c.2.1.acc ++ (if front then c.2.1.front.toList else []), (c.2.2.take (c.2.1.acc.length + front.toNat)).flatten)
    let runs := parts.map run
    let steps := runs.flatMap (·.2)
    let work : FM ArrStats := do
      let v ← arrayVals o y (d.codesAt b o.inA y.a (o.m * o.k)) (runs.flatMap (·.1))
      let _ ← accFM y v steps (List.range o.m) (steps.flatMap SegStep.columns).dedup
      let acts := v.act.toArray
      return arrStats y.j (fun m k => acts.getD (m * y.j.k + k) .zero) v.cols fun g t => steps.any fun s => s.tile = t && s.groups.contains g
    let (st, d) := d.withFlags x.district work
    let d := parts.foldl (fun d c => d.modCell b c.1 fun c => { c with acc := [], accum := [] }) (countArray d b st)
    some (arrayFails d b i o y.f, { array := st.cycles })

/-- One ARRAY operation: stalls until its last segment is in the buffers of every cell that takes part (R101, R114), and fails where
a load found a metadata error in its weights (R191). -/
def arrayOp (d : Dev) (b i : Nat) (x : Slot) (o : Desc) : Option (Dev × Cost) :=
  match arrOpOf d b x.district x.keep o with
  | none => none
  | some y =>
    let bad := (x.badMeta.filter fun m => m.1 = x.next).map (·.2)
    if !bad.isEmpty then arrayBadMeta d b i x o y bad
    else if (inService d b).isEmpty || !weightsHere d b y then none
    else
      let d := settle d b o y
      let inp := arrayIn d b o y
      let used := (takingPart d b y).map (·.1)
      let ((codes, obs, st), d) := d.withFlags x.district (arrayFM (d.bankOf b) o y inp)
      let d := countArrayOps (countArray (observe d b i x obs) b st) b o y st
      let d := stallCells (drainCells d b used) b i Fld.CELL_STALL_DRAIN used
      some (d.storeBm b o.out (packCodes y.f codes), { array := st.cycles })

/-! The shadow load (R113, R114, R191). -/

/-- Index order of the runs that a segment loads (R188, R191). -/
def indicesOk (x : Desc) (span : Nat) (data : List Byte) (steps : List SegStep) : Bool :=
  let h := sparseHdr data
  let idx := leNat (data.drop h.indexOff)
  steps.all fun s => s.columns.all fun j => runsOk h.pattern x.k j idx (s.tile * span) ((s.tile + 1) * span)

/-- A segment that a cell needs: the slot and place in its list of the operation, its decoded form, and the steps of the segment. -/
structure Want where
  slot : Nat
  ix : Nat
  o : Desc
  y : ArrOp
  seg : Nat
  steps : List SegStep

def Want.key (w : Want) : BufKey := w.y.keyOf w.steps

/-- The segments that one cell needs for the operations of a command from place `from'` on, in order; those of its first operation
that have run already are left out, and those from one that had a metadata error on (R191). -/
def wantsOf (d : Dev) (b i dist : Nat) (keep : Bool) (bad : List (Nat × Nat × Nat)) (ops : List Desc) (from' cell run : Nat) :
    List Want :=
  (ops.zipIdx.filter fun p => decide (from' ≤ p.2) && p.1.isArray && !p.1.empty).flatMap fun p =>
    match arrOpOf d b dist keep p.1 with
    | none => []
    | some y =>
      let all := (y.j.segments cell).zipIdx.map fun s => (⟨i, p.2, p.1, y, s.2, s.1⟩ : Want)
      (all.drop (if p.2 = from' then run else 0)).filter fun w =>
        !bad.any fun m => m.1 = p.2 && m.2.1 = cell && decide (m.2.2 ≤ w.seg)

/-- What the running command still needs of one cell. -/
def runningWants (d : Dev) (b : Nat) (c : Nat × Cell) : List Want :=
  match d.running b with
  | none => []
  | some (i, x) =>
    if x.failed.isSome then []
    else wantsOf d b i x.district x.keep x.badMeta (x.ops.map Desc.of) x.next c.1 c.2.acc.length

/-- What the next command needs of one cell (R134). -/
def readyWants (d : Dev) (b : Nat) (c : Nat × Cell) : List Want :=
  match d.nextCommand b with
  | none => []
  | some (i, x) =>
    let ctx : CheckCtx := ⟨d, b, (d.logicalOf b).getD 0, x.district, d.bankOf b, x.held, false⟩
    match ctx.command x with
    | .ok ops => wantsOf d b i x.district (d.district x.district).subnormalKeep [] ops 0 c.1 0
    | .error _ => []

/-- The segment that a cell's shadow load is for: the first that the running command lacks, or else the next command (R113,
R134). -/
def cellWants (d : Dev) (b : Nat) (c : Nat × Cell) : Option Want :=
  let l := runningWants d b c ++ readyWants d b c
  (c.2.lacks (l.map Want.key) 0).bind fun i => l[i]?

/-- The shadow loads in progress of a block: the earliest operation that a cell lacks weights for, with each cell's segment of it. -/
def loadWanted (d : Dev) (b : Nat) : List (Nat × Want) :=
  let all := (inService d b).filterMap fun c => (cellWants d b c).map fun w => (c.1, w)
  let mine (w : Want) : Bool := (d.block b).running = some w.slot
  let first := match all.filter fun p => mine p.2 with
    | [] => all
    | l => l
  match first with
  | [] => []
  | p :: ps =>
    let best := ps.foldl (fun (a : Nat × Want) q => if q.2.slot = a.2.slot && decide (q.2.ix < a.2.ix) then q else a) p
    first.filter fun q => q.2.slot = best.2.slot && q.2.ix = best.2.ix

/-- The load of one cell's segment completes in its shadow buffer (R113). -/
def loadCell (d : Dev) (b dist : Nat) (c : Nat × Want) : Dev :=
  let w := c.2
  let data := boundBytes d b w.o
  let (tiles, d) := d.withFlags dist (loadTiles w.o w.y data w.steps)
  let (gs, ss) := loadScales w.o w.y (d.loadBm b w.o.scaleAt (if w.y.j.scaled then w.o.scaleBytes false else 0)) w.steps
  (d.modCell b c.1 fun x => { x with shadow := some ⟨w.key, tiles, gs, ss, true⟩ }).fadd (Reg.CELL_LOADS b c.1) Fld.CELL_LOADS_LOADED 1

/-- A shadow load completes in every cell that has one in progress; where it finds a metadata error it sets no tag, which is counted if the
command runs (R113, R114, R191). A load that the running operation waits for stalled it (R101). -/
def loadDone (d : Dev) (b : Nat) : Dev :=
  match loadWanted d b with
  | [] => d
  | (c, w) :: rest =>
    match d.slot b w.slot with
    | none => d
    | some x =>
      let runs : Bool := x.state = .running
      let good (l : Nat × Want) : Bool := !l.2.o.sparse || indicesOk l.2.o l.2.y.j.span (boundBytes d b l.2.o) l.2.steps
      let loads := ((c, w) :: rest).filter good
      let bad := ((c, w) :: rest).filter fun l => !good l
      let d := if runs && !bad.isEmpty then
          (d.fadd (Reg.BLK_ARRAY_SPARSE b) Fld.BLK_ARRAY_SPARSE_META_ERR bad.length).modSlot b w.slot fun y =>
            { y with badMeta := y.badMeta ++ bad.map fun l => (l.2.ix, l.1, l.2.seg) }
        else d
      if loads.isEmpty then d
      else
        let d := loads.foldl (fun d l => loadCell d b x.district l) d
        let d := if runs && w.ix = x.next then stallCells d b w.slot Fld.CELL_STALL_SHADOW (loads.map (·.1)) else d
        d.modSlot b w.slot fun y => { y with loadedOp := some w.ix, state := if y.state = .ready then .preparing else y.state }

/-- SHADOW_LOAD_DONE: the cells pass the boundaries they can, which frees their shadow buffers, and the loads in progress complete. -/
def shadowLoad (d : Dev) (b : Nat) : Dev :=
  match nextArray d b with
  | some (_, _, o, y) => loadDone (settle d b o y) b
  | none => loadDone d b

/-- A cell has rows in its array: its block's next operation is an ARRAY operation in which it takes part, with the segment due in a
buffer (R125). -/
def passActive (d : Dev) (b c : Nat) : Option Desc :=
  match nextArray d b with
  | none => none
  | some (_, _, o, y) =>
    match (takingPart d b y).find? fun p => p.1 = c with
    | none => none
    | some (_, x, segs) =>
      match (y.keys segs)[x.acc.length]? with
      | none => none
      | some k => if Cell.holds x.front k || Cell.holds x.shadow k then some o else none

/-- Passes that the running command has not issued on one cell: each segment's steps once for each chunk of rows (R106, R129). -/
def passesLeft (d : Dev) (b c : Nat) : Nat :=
  ((inService d b).filter fun p => p.1 = c).foldl (fun n p =>
    n + ((runningWants d b p).map fun w => w.steps.length * w.y.j.chunks.length).sum) 0

/-- Does a cell's shadow buffer hold or load tiles that the running command still needs (R122)? -/
def shadowNeeded (d : Dev) (b c : Nat) : Bool :=
  ((inService d b).filter fun p => p.1 = c).any fun p =>
    let mine := runningWants d b p
    mine.any (fun w => Cell.holds p.2.shadow w.key) || (p.2.lacks (mine.map Want.key) 0).isSome

/-- Does it hold or load tiles for a command that has not started (R122)? -/
def shadowAhead (d : Dev) (b c : Nat) : Bool :=
  ((inService d b).filter fun p => p.1 = c).any fun p =>
    (readyWants d b p).any (fun w => Cell.holds p.2.shadow w.key) || (cellWants d b p).isSome

/-! The vector unit. -/

/-- Lanes of a format (R141): 128 of binary32 and INT32, 256 of 16 bits and of what is widened to them, 32 of binary64. -/
def lanes (f : Fmt) : Nat :=
  match f with
  | .b64 => 32
  | .b32 | .i32 => 128
  | _ => 256

/-- Busy cycles of a VECTOR operation (R142, R144, R145). The lane width is that of the first input's format, as widened on load
(DESIGN CHOICE, log entry 65: R141 does not say which operand sets the rate where formats differ). -/
def vectorCycles (x : Desc) (a : Fmt) : Nat :=
  let n := x.m * x.k
  match x.mode with
  | 0x04 => 4 * ceilDiv n (lanes a)
  | 0x12 => ceilDiv n 16
  | 0x13 => ceilDiv n 32
  | 0x14 => ceilDiv (2 * x.m) (lanes .b32)
  | 0x15 | 0x16 => x.m * ceilDiv (3 * x.k) 128
  | _ => ceilDiv n (lanes a)

/-- The index of the second operand's element for element i (R579). -/
def bIndex (x : Desc) (i : Nat) : Nat :=
  if bits x.flags 0 1 = 1 then 0 else if bits x.flags 1 1 = 1 then i % x.k else i

/-- A VECTOR operation on decoded operands: its output codes and what it observed. -/
def vectorFM (v : VecFmt) (x : Desc) (aCodes bCodes cCodes : List Nat) : FM (List Nat × Obs) := do
  let a ← decodeAll v.a v.aSigned v.keep aCodes
  let b ← decodeAll v.w v.wSigned v.keep bCodes
  let c ← decodeAll v.w v.wSigned v.keep cCodes
  let bA := b.toArray
  let cA := c.toArray
  let bAt (i : Nat) : Datum := bA.getD (bIndex x i) .zero
  let cAt (i : Nat) : Datum := cA.getD i .zero
  if x.mode ≤ 0xA then
    let (codes, obs) ← a.zipIdx.foldlM (init := (([] : List Nat), ({} : Obs))) fun (acc, obs) (e, i) => do
      let before ← get
      let y ← vecElem v x.scaleB x.mode e (bAt i) (cAt i)
      let after ← get
      return (y :: acc, if x.mode = 9 then obs.see e (before.satOps < after.satOps) else obs)
    return (codes.reverse, obs)
  else
    let codes ← vecRows v x.scaleA x.mode x.m x.k a bAt cAt
    return (codes, {})

/-- Operation counts of a VECTOR operation (R542). -/
def countVector (d : Dev) (b : Nat) (x : Desc) : Dev :=
  match d.logicalOf b with
  | none => d
  | some g =>
    let n := CheckCtx.outCount x
    let d := if x.mode = 8 || x.mode = 9 then d.countOp g 4 x.fo n else d.countOp g 2 x.fa n
    let chunks := ceilDiv x.k 128
    match x.mode with
    | 0x12 => d.countOp g 3 1 (x.m * (2 * x.k + chunks + 1))
    | 0x13 => d.countOp g 3 1 (x.m * (x.k + chunks))
    | 0x14 => d.countOp g 3 1 (2 * x.m)
    | _ => d

/-- One VECTOR operation. -/
def vectorOp (d : Dev) (b i : Nat) (x : Slot) (o : Desc) : Option (Dev × Cost) :=
  match o.fmtA, o.fmtW, o.fmtOut with
  | some a, some w, some f =>
    let v : VecFmt := ⟨a, o.aSigned, w, o.wSigned, f, o.foSigned, (Rnd.ofCode o.rnd).getD .rne, x.keep⟩
    let bs := if CheckCtx.needsB o.mode then d.codesAt b o.aux w (CheckCtx.bCount o) else []
    let cs := if CheckCtx.needsC o.mode then d.codesAt b o.aux2 w (o.m * o.k) else []
    let ((codes, obs), d) := d.withFlags x.district (vectorFM v o (d.codesAt b o.inA a (o.m * o.k)) bs cs)
    let d := countVector (observe d b i x obs) b o
    some (d.storeBm b o.out (packCodes f codes), { vector := vectorCycles o a })
  | _, _, _ => none

/-! Special functions. -/

/-- Busy cycles of an SFU operation (R152, R154). The rate of 32 or 64 results per cycle goes by the input format (DESIGN CHOICE, log
entry 65: R152 does not say which format sets it where they differ). -/
def sfuCycles (bank : Bank) (x : Desc) (a : Fmt) : Nat :=
  let n := x.m * x.k
  if x.mode = 1 then ceilDiv n 128
  else if x.mode < 0x80 then ceilDiv n (if a = .b32 then 32 else 64)
  else match bank.progs.find? fun p => p.code = x.mode with
    | some p => ceilDiv n 128 * (p.instrs.map fun w => if bits w 0 8 = 0x10 then 4 else 1).sum
    | none => 0

/-- One SFU operation: the function of each element (R148 to R154). -/
def sfuOp (d : Dev) (b : Nat) (x : Slot) (o : Desc) : Option (Dev × Cost) :=
  match o.fmtA, o.fmtOut with
  | some a, some f =>
    let bank := d.bankOf b
    let run : FM (List Nat) := do
      let xs ← decodeAll a o.aSigned x.keep (d.codesAt b o.inA a (o.m * o.k))
      xs.mapM fun e => applyFnTo bank o.mode f o.foSigned x.keep e
    let (codes, d) := d.withFlags x.district run
    let d := match d.logicalOf b with
      | some g => d.countOp g 3 o.fo (o.m * o.k)
      | none => d
    some (d.storeBm b o.out (packCodes f codes), { vector := sfuCycles bank o a })
  | _, _ => none

/-! DMA. -/

/-- Bytes at one end of a DMA row. -/
def dmaLoad (d : Dev) (b dist tier a n peer : Nat) : List Byte :=
  match tier with
  | 0 => d.loadBm b a n
  | 1 => match d.physOf peer with
    | some p => d.loadBm p a n
    | none => []
  | _ => d.loadObj (handleIndex (tierHandle dist a)) (tierOffset a) n

def dmaStore (d : Dev) (b dist tier a peer : Nat) (bytes : List Byte) : Dev :=
  match tier with
  | 0 => d.storeBm b a bytes
  | 1 => match d.physOf peer with
    | some p => d.storeBm p a bytes
    | none => d
  | _ => d.storeObj (handleIndex (tierHandle dist a)) (tierOffset a) bytes

/-- The first bytes of a DMA move, row by row in order (R159). -/
def dmaPart (d : Dev) (b dist : Nat) (o : Desc) (n : Nat) : Dev :=
  let d := (List.range o.rows).foldl (fun d r =>
    let m := min o.rowBytes (n - r * o.rowBytes)
    if m = 0 then d
    else dmaStore d b dist o.dstTier (o.dst + r * o.dstStride) o.peer
      (dmaLoad d b dist o.srcTier (o.src + r * o.srcStride) m o.peer)) d
  let d := if 2 ≤ o.srcTier then d.touchRead dist (handleIndex (tierHandle dist o.src)) n (tierOffset o.src) else d
  if 2 ≤ o.dstTier then d.touchWrite dist (handleIndex (tierHandle dist o.dst)) n (tierOffset o.dst) else d

/-- A DMA moves whole. -/
def dmaMove (d : Dev) (b dist : Nat) (o : Desc) : Dev := dmaPart d b dist o (o.rows * o.rowBytes)

/-- A transfer whose read met an uncorrectable error ends (R479): a free number of its first bytes stay written, and the rest of its
destination is undefined. -/
def breakDma (d : Dev) (b dist : Nat) (o : Desc) : Dev :=
  let (v, d) := d.draw
  let n := v.toNat % (o.rows * o.rowBytes + 1)
  (List.range o.rows).foldl (fun d r =>
    let m := min o.rowBytes (n - r * o.rowBytes)
    if m = o.rowBytes then d
    else
      let (bytes, d) := d.freeBytes (o.rowBytes - m)
      dmaStore d b dist o.dstTier (o.dst + r * o.dstStride + m) o.peer bytes) (dmaPart d b dist o n)

/-- The transfers of a slot that are under way end with an error: its asynchronous DMA, and the DMA operation that it runs. -/
def breakDmas (d : Dev) (b i : Nat) (x : Slot) : Dev :=
  let here := match d.nextOp b with
    | some (j, _, o) => if j = i && o.isDma then [o] else []
    | none => []
  (((d.block b).dma.filter fun a => a.slot = i).map (fun a => Desc.of a.op) ++ here).foldl (fun d o => breakDma d b x.district o) d

/-- The asynchronous DMA of a slot is cut off (R325): what its destination has accepted by then stays, a free number of its first bytes;
the rest is dropped. -/
def cutDma (d : Dev) (b i : Nat) (x : Slot) : Dev :=
  ((d.block b).dma.filter fun a => a.slot = i).foldl (fun d a =>
    let o := Desc.of a.op
    let (v, d) := d.draw
    dmaPart d b x.district o (v.toNat % (o.rows * o.rowBytes + 1))) d

/-- Read-ahead streams of a DMA from a T0 object with more than one row: one on each stack that holds its extents, while
one of the stack's 32 is free (R364). -/
def openStreams (d : Dev) (b i op dist : Nat) (o : Desc) : Dev :=
  if o.srcTier < 2 || o.rows ≤ 1 then d
  else match AMap.look d.place.objs (handleIndex (tierHandle dist o.src)) with
    | none => d
    | some x =>
      if x.tier ≠ 0 then d
      else ((x.extents.map fun e => regionStack (e / 512)).eraseDups).foldl (fun d s =>
        if (d.place.streams.filter fun t => t.stack = s).length < 32 then
          { d with place := { d.place with streams := d.place.streams ++ [Stream.mk s b i op] } }
        else d) d

/-- One DMA operation: without ASYNC it completes; with ASYNC it is in flight (R159, R160). -/
def dmaOperation (d : Dev) (b i : Nat) (x : Slot) (o : Desc) : Option (Dev × Cost) :=
  if o.isAsync then
    let d := openStreams d b i x.next x.district o
    some (d.modBlock b fun y => { y with dma := y.dma ++ [AsyncDma.mk i x.next o.raw] }, {})
  else
    let n := o.rows * o.rowBytes
    some (dmaMove d b x.district o, { dma := ceilDiv n 512, bytes := n })

/-- The first ASYNC DMA of the next command that can be issued ahead of its boundary (R134): one of those that begin its list, after a
WAIT that is over, with its place in the list. None is while a pair gather has still to run before the list (R302), nor while its ranges
meet those of an operation that the running command has not done (DESIGN CHOICE, log entry 67). -/
def aheadDma (d : Dev) (b : Nat) : Option (Nat × Slot × Nat × Desc) :=
  let left : List Desc := match d.running b with
    | some (_, x) => (x.ops.drop x.next).map Desc.of
    | none => []
  let dist := match d.running b with
    | some (_, x) => x.district
    | none => 0
  let ranges := left.flatMap fun o => d.opReads b dist o ++ d.opWrites b dist o
  match d.nextCommand b with
  | none => none
  | some (i, x) =>
    let ctx : CheckCtx := ⟨d, b, (d.logicalOf b).getD 0, x.district, d.bankOf b, x.held, false⟩
    match ctx.command x with
    | .error _ => none
    | .ok ops =>
      let skip := if x.waited.isSome && x.waited = ops.head?.map (·.raw) then 1 else 0
      match ops[skip + x.ahead.length]? with
      | some o =>
        let mine := d.opReads b x.district o ++ d.opWrites b x.district o
        if bits x.pairGather 31 1 = 0 && o.isDma && o.isAsync && !o.empty && !d.dmaStalled x.district o
            && decide (x.ahead = ((ops.drop skip).take x.ahead.length).map (·.raw)) && !(mine.any fun r => ranges.any r.meets) then
          some (i, x, skip + x.ahead.length, o)
        else none
      | none => none

/-- A DMA operation: the running command's next operation, or else one issued ahead for the next command (R134, R159). -/
def dmaStep (d : Dev) (b : Nat) : Dev :=
  match d.nextOp b with
  | some (_, _, o) => if o.isDma then runOp d b Desc.isDma fun d i x o => dmaOperation d b i x o else issueAhead d b
  | none => issueAhead d b
where
  issueAhead (d : Dev) (b : Nat) : Dev :=
    match aheadDma d b with
    | none => d
    | some (i, x, ix, o) =>
      let d := openStreams d b i ix x.district o
      (d.modBlock b fun y => { y with dma := y.dma ++ [AsyncDma.mk i ix o.raw] }).modSlot b i fun y =>
        { y with ahead := y.ahead ++ [o.raw], state := .preparing }

/-- The oldest asynchronous DMA of a block finishes (R160). -/
def dmaFinish (d : Dev) (b : Nat) : Dev :=
  match (d.block b).dma with
  | [] => d
  | a :: rest =>
    match d.slot b a.slot with
    | none => d.modBlock b fun y => { y with dma := rest }
    | some x =>
      let o := Desc.of a.op
      let n := o.rows * o.rowBytes
      let c : Cost := { dma := ceilDiv n 512, bytes := n }
      let d := (dmaMove d b x.district o).charge b x.district c
      let d := d.fadd (Reg.BLK_DMA_BYTES b) Fld.BLK_DMA_BYTES_BYTES n
      let d := (d.modBlock b fun y => { y with dma := rest }).dropStream b a.slot a.ix
      d.modSlot b a.slot fun y => { y with dmaCycles := y.dmaCycles + c.dma, dmaBytes := y.dmaBytes + n }

/-! Lights of a command. -/

/-- A LIGHT SET or ADD issues once every earlier write of its command is accepted, asynchronous DMA included (R333). -/
def lightOperation (add : Bool) (d : Dev) (b i : Nat) (x : Slot) (o : Desc) : Option (Dev × Cost) :=
  if d.dmaOf b i then none
  else
    let g := (d.logicalOf b).getD 0
    some (if add then d.lightAdd o.light o.value x.district g else d.lightSet o.light o.value x.district g, {})

end Sys2Proof.Machine
end

