-- ==== Sys2Proof/Machine/Sha.lean ====
section
/-! DEFINITION. SHA-256 of the Secure Hash Standard, which the spec names (R40, R65, R531) and does not spell out (PRESUMED,
log entry 55). -/

namespace Sys2Proof.Machine

/-- The largest `r` that extends the given one by `n` low bits and whose power does not exceed the radicand: its root, bit by bit. -/
def rootBits (power radicand : Nat) : Nat → Nat → Nat
  | 0, r => r
  | n + 1, r => rootBits power radicand n (if (r + 2 ^ n) ^ power ≤ radicand then r + 2 ^ n else r)

/-- The first 32 bits of the fractional part of a root of a small number. -/
def rootFraction (power x : Nat) : BitVec 32 := BitVec.ofNat 32 (rootBits power (x * 2 ^ (32 * power)) 37 0)

/-- The primes below 312, of which there are 64. -/
def shaPrimes : List Nat :=
  ((List.range 312).drop 2).filter fun n => [2, 3, 5, 7, 11, 13, 17].all fun m => n = m || n % m ≠ 0

/-- The standard's 64 round constants come from the cube roots of the primes. -/
def shaRounds : List (BitVec 32) := shaPrimes.map (rootFraction 3)

/-- The chaining value. -/
structure ShaState where
  a : BitVec 32
  b : BitVec 32
  c : BitVec 32
  d : BitVec 32
  e : BitVec 32
  f : BitVec 32
  g : BitVec 32
  h : BitVec 32

/-- The first chaining value comes from the square roots of the first eight primes. -/
def shaStart : ShaState :=
  let r (p : Nat) : BitVec 32 := rootFraction 2 p
  ⟨r 2, r 3, r 5, r 7, r 11, r 13, r 17, r 19⟩

/-- One round, for the sum of its constant and its schedule word. -/
def ShaState.round (s : ShaState) (kw : BitVec 32) : ShaState :=
  let s1 := s.e.rotateRight 6 ^^^ s.e.rotateRight 11 ^^^ s.e.rotateRight 25
  let ch := (s.e &&& s.f) ^^^ (~~~s.e &&& s.g)
  let t1 := s.h + s1 + ch + kw
  let s0 := s.a.rotateRight 2 ^^^ s.a.rotateRight 13 ^^^ s.a.rotateRight 22
  let maj := (s.a &&& s.b) ^^^ (s.a &&& s.c) ^^^ (s.b &&& s.c)
  ⟨t1 + (s0 + maj), s.a, s.b, s.c, s.d + t1, s.e, s.f, s.g⟩

/-- The rounds over a window of the next 16 schedule words. -/
def shaLoop : List (BitVec 32) → List (BitVec 32) → ShaState → ShaState
  | [], _, s => s
  | k :: ks, w, s =>
    let at' (i : Nat) : BitVec 32 := w.getD i 0
    let x := at' 1
    let y := at' 14
    let s0 := x.rotateRight 7 ^^^ x.rotateRight 18 ^^^ (x >>> 3)
    let s1 := y.rotateRight 17 ^^^ y.rotateRight 19 ^^^ (y >>> 10)
    shaLoop ks (w.drop 1 ++ [at' 0 + s0 + at' 9 + s1]) (s.round (k + at' 0))

/-- A big-endian number of bytes. -/
def beNat (l : List Byte) : Nat := leNat l.reverse

/-- The 16 words of a block of 64 bytes. -/
def shaWords (b : List Byte) : List (BitVec 32) :=
  (List.range 16).map fun i => BitVec.ofNat 32 (beNat (sliceB b (4 * i) 4))

/-- One block of 64 bytes. -/
def shaBlock (s : ShaState) (b : List Byte) : ShaState :=
  let t := shaLoop shaRounds (shaWords b) s
  ⟨s.a + t.a, s.b + t.b, s.c + t.c, s.d + t.d, s.e + t.e, s.f + t.f, s.g + t.g, s.h + t.h⟩

/-- The blocks of a padded message. -/
def shaBlocks : Nat → List Byte → ShaState → ShaState
  | 0, _, s => s
  | n + 1, m, s => shaBlocks n (m.drop 64) (shaBlock s (m.take 64))

/-- The message, a one bit, zeros, and the message's length in bits as 64 bits, to a multiple of 64 bytes. -/
def shaPadded (m : List Byte) : List Byte :=
  m ++ [0x80] ++ List.replicate ((119 - m.length % 64) % 64) 0 ++ (toLE 8 (8 * m.length)).reverse

/-- The digest of a byte string, as 32 bytes. -/
def sha256Bytes (m : List Byte) : List Byte :=
  let p := shaPadded m
  let s := shaBlocks (p.length / 64) p shaStart
  ([s.a, s.b, s.c, s.d, s.e, s.f, s.g, s.h].map fun w => (toLE 4 w.toNat).reverse).flatten

/-- The digest as a little-endian number, which is how the spec's fields hold it (R2). -/
def sha256 (m : List Byte) : Nat := leNat (sha256Bytes m)

end Sys2Proof.Machine
end

