-- ==== Sys2Proof/Machine/PlanCore.lean ====
section
/-! DEFINITION. The effective plan (R35), what it sets on each unit (R45, R61, R93, R102, R155), measurements (R531), and how
an amendment ends (R37, R53, R58, R59). -/

namespace Sys2Proof.Machine

/-! Measurements (R531). -/

/-- The 32 bytes of a digest. -/
def digestBytes (n : Nat) : List Byte := toLE 32 n

/-- A measured event extends its register and enters the log; the log keeps 1,024 entries, dropping the oldest of registers
3 to 7 (R532). The EVENT code of an entry is not in the spec: a free value. -/
def Dev.measure (d : Dev) (register digest : Nat) : Dev :=
  let (ev, d) := d.draw
  let s := d.sec
  let old := AMap.get s.measures register 0
  let e : MeasEntry := ⟨register, ev.toNat % 256, s.measSeq, d.beat, digest⟩
  let log := s.log ++ [e]
  let drop := if 1024 < log.length then log.findIdx? fun x => 3 ≤ x.register else none
  let log := match drop with
    | some i => log.eraseIdx i
    | none => log
  { d with sec := { s with measures := AMap.put s.measures register (sha256 (digestBytes old ++ digestBytes digest)),
                           log := log, measSeq := s.measSeq + 1, folded := s.folded + (if drop.isSome then 1 else 0) } }

/-! The effective plan. -/

/-- Section types of the quiesce class and of the double-banked class (R45). -/
def quiesceType (t : Nat) : Bool := t = 0x11 || t = 0x12 || t = 0x20 || t = 0x30 || t = 0x80
def bankedType (t : Nat) : Bool := t = 0x50 || t = 0x51

/-- Every section in force, earlier records first (R35). -/
def PlanState.sections (p : PlanState) : List Section :=
  p.standing.sections ++ (p.committed ++ p.uncommitted).flatMap (·.sections)

/-- The last section of a type at a scope. -/
def lastSection (secs : List Section) (type : Nat) (k : ScopeKind) (i : Nat) : Option Section :=
  (secs.filter fun s => s.type = type && s.scope.kind = k && s.scope.index = i).getLast?

def lastBody (secs : List Section) (type : Nat) (k : ScopeKind) (i : Nat) : Option SectionBody :=
  (lastSection secs type k i).map (·.body)

/-- The role the signed records give a block: block scope before quarter scope. -/
def planRole (secs : List Section) (b : Nat) : Option BlockEntry :=
  let at' (s : Option Section) : Option BlockEntry := s.bind fun s => match s.body with
    | .blockMap es => (es.find? fun e => e.1 = b).map (·.2)
    | _ => none
  match at' (lastSection secs 0x11 .block b) with
  | some e => some e
  | none => at' (lastSection secs 0x11 .quarter (b / 72))

/-- The role of a block under the annotations, which always decide (R35). -/
def roleOf (p : PlanState) (b : Nat) : BlockEntry :=
  let base := (planRole p.sections b).getD ⟨.retired, 0⟩
  p.annotations.foldl (fun e a => match a with
    | .retire x => if x = b then { e with role := .retired } else e
    | .activate x l dist => if x = b then ⟨.active l, dist⟩ else e
    | _ => e) base

/-- Quadrant and fence of a cell: cell scope before block scope before quarter scope; in `cellOf` annotations over all. -/
def groupingOf (secs : List Section) (b c : Nat) : Option (Bool × Bool) :=
  let at' (s : Option Section) : Option (Bool × Bool) := s.bind fun s => match s.body with
    | .cellGrouping es => (es.find? fun e => e.1 = 4 * b + c).map (·.2)
    | _ => none
  (at' (lastSection secs 0x12 .cell (4 * b + c)) <|> at' (lastSection secs 0x12 .block b)) <|>
    at' (lastSection secs 0x12 .quarter (b / 72))

def cellOf (p : PlanState) (b c : Nat) : Bool × Bool :=
  let base := (groupingOf p.sections b c).getD (false, false)
  (base.1, base.2 || p.annotations.contains (.fence b c))

/-- The records of a double-banked section type at one scope. -/
def sfRecords (secs : List Section) (k : ScopeKind) (i : Nat) : List TableRec × List ProgRec :=
  (secs.filter fun s => s.type = 0x50 && s.scope.kind = k && s.scope.index = i).foldl (fun acc s =>
    match s.body with
    | .sfTables ts ps => (acc.1 ++ ts, acc.2 ++ ps)
    | _ => acc) ([], [])

def expRecords (secs : List Section) (k : ScopeKind) (i : Nat) : List ExpRec :=
  (secs.filter fun s => s.type = 0x51 && s.scope.kind = k && s.scope.index = i).flatMap fun s =>
    match s.body with
    | .expansions es => es
    | _ => []

/-- A later record of the same key replaces an earlier one. -/
def mergeBy {α : Type} (key : α → Nat) (old new : List α) : List α :=
  new.foldl (fun acc r => acc.filter (fun x => key x != key r) ++ [r]) old

/-- A block's bank under a list of sections: of one code, only the record of the narrowest scope (R93, R155). -/
def bankUnder (secs : List Section) (b : Nat) : Bank :=
  let scopes : List (ScopeKind × Nat) := [(.device, 0), (.quarter, b / 72), (.block, b)]
  scopes.foldl (fun (k : Bank) s =>
    let (ts, ps) := sfRecords secs s.1 s.2
    { tables := mergeBy TableRec.code k.tables ts, progs := mergeBy ProgRec.code k.progs ps,
      exps := mergeBy ExpRec.tableId k.exps (expRecords secs s.1 s.2) }) {}

/-- Bytes of user tables and program instructions of a bank (R155). -/
def tableBytes (t : TableRec) : Nat := 32 + 12 * t.segs.length + 8 * t.corr.length
def bankFits (k : Bank) : Bool :=
  decide ((k.tables.map tableBytes).sum ≤ 98304) && decide ((k.progs.map fun p => p.instrs.length).sum ≤ 1024)
    && decide (k.exps.length ≤ 256)

/-- Namespaces of the effective plan: a later record of an NSID decides. -/
def nsUnder (secs : List Section) : List NsDef :=
  secs.foldl (fun acc s => match s.body with
    | .namespaces es => mergeBy NsDef.nsid acc es
    | _ => acc) []

/-- Entries of ECC_REGIONS, those of device scope first, so that the last one that names a region is that of the narrowest scope, and
among those the latest (R35). -/
def eccUnder (secs : List Section) : List EccEntry :=
  let of (k : ScopeKind) : List EccEntry := (secs.filter fun s => s.type = 0x20 && s.scope.kind = k).flatMap fun s => match s.body with
    | .ecc es => es
    | _ => []
  of .device ++ of .quarter

/-- The class of a region under entries of ECC_REGIONS. -/
def lightUnder (es : List EccEntry) (r : Nat) : Bool :=
  match (es.filter fun e => e.first ≤ r && r < e.first + e.count).getLast? with
  | some e => e.light
  | none => false

/-- The bytes of HOMING that cover a Kerb, or an Arcade at 48 + a: Kerb scope before device scope (R35, R45). The layout is not in the
spec. -/
def homingFor (secs : List Section) (u : Nat) : List Byte :=
  let raw (b : Option SectionBody) : Option (List Byte) := match b with
    | some (.homing raw) => some raw
    | _ => none
  match (if u < 48 then raw (lastBody secs 0x81 .kerb u) else none) with
  | some r => r
  | none => (raw (lastBody secs 0x81 .device 0)).getD []

/-- The link that the plan prefers for a Kerb or Arcade: 0 home, 1 second (R20). -/
def preferredLink (secs : List Section) (u : Nat) : Nat :=
  let raw := homingFor secs u
  if raw.isEmpty then 0 else (Config.secondPreferred raw u).toNat

/-- The live values of the plan (R45): districts, windows, caps, Kerb policies, and the sections kept as bytes. -/
def PlanState.refreshLive (p : PlanState) : PlanState :=
  let secs := p.sections
  let districts := match lastBody secs 0x10 .device 0 with
    | some (.districts es) => es.zipIdx.map fun (e, i) => if p.disabled.contains i then { e with enable := false } else e
    | _ => List.replicate 16 {}
  let windows := match lastBody secs 0x61 .device 0 with
    | some (.windows w) => w
    | _ => {}
  let caps := match lastBody secs 0x70 .device 0 with
    | some (.powerCaps c) => c
    | _ => {}
  let quarterCaps : AMap QuarterCaps := (List.range 4).filterMap fun q =>
    match lastBody secs 0x70 .quarter q with
    | some (.quarterCaps c) => some (q, c)
    | _ => none
  let policy (k : Nat) : KerbPolicy :=
    match lastBody secs 0x41 .kerb k with
    | some (.kerbPolicy x) => x
    | _ => match lastBody secs 0x41 .device 0 with
      | some (.kerbPolicy x) => x
      | _ => {}
  { p with districts := districts, windowsNext := if windows = p.windows then none else some windows,
           caps := caps, quarterCaps := quarterCaps, kerbPolicies := (List.range 48).map fun k => (k, policy k),
           rawSections := secs.filter fun s => s.type = 0x40 || s.type = 0x80 || s.type = 0x81 }

namespace Dev

/-- A digest that the spec does not give: 32 free bytes. -/
def freeDigest (d : Dev) : Nat × Dev :=
  let (a, d) := d.draw
  let (b, d) := d.draw
  let (c, d) := d.draw
  let (e, d) := d.draw
  (a.toNat + 2 ^ 64 * b.toNat + 2 ^ 128 * c.toNat + 2 ^ 192 * e.toNat, d)

/-- The home district's window on a block at its default, every other district's window empty (R132, R164). -/
def defaultWindows (d : Dev) (b home : Nat) : Dev :=
  (List.range 16).foldl (fun d x =>
    d.setReg (Reg.BLK_BMWIN b x) (if x = home then 0x8000 else 0)) d

def zeroBlock (d : Dev) (b : Nat) : Dev := { d with bmem := Mem.zero d.bmem (2 ^ 23 * b) (2 ^ 23) }

/-- Both banks of a block hold what the effective plan gives it, as a bank that no tag was set under. -/
def fillBanks (d : Dev) (b : Nat) : Dev :=
  let k := bankUnder d.plan.sections b
  d.modBlock b fun x => { x with banks := (k, k), bankGen := x.bankGen + 1, backWritten := none }

/-- A block takes the role of the effective plan. A new home district sets its windows and clears its memory (R132); a block that no
plan had made active has no home yet, so the role it takes gives it one. Its banks hold the plan's tables (R155), which a spare's do
already. A block whose spare is in self-test keeps its role until that ends (R62). -/
def takeRole (d : Dev) (b : Nat) : Dev :=
  let e := roleOf d.plan b
  let x := d.block b
  match e.role with
  | .active _ =>
    let d := d.setBlock b { x with role := e.role, home := e.district }
    match x.role with
    | .unset => d.defaultWindows b e.district
    | .active _ => if x.home ≠ e.district then (d.defaultWindows b e.district).zeroBlock b else d
    | .spare _ => (d.defaultWindows b e.district).zeroBlock b
    | .retired => ((d.defaultWindows b e.district).zeroBlock b).fillBanks b
  | r => if x.failing then d else d.setBlock b { x with role := r }

/-- A block's cells take the grouping and fences of the effective plan; a change discards a cell's tags, and the accumulators of
the operation in progress, whose columns then go to other places (R102, R106, R116). -/
def takeCells (d : Dev) (b : Nat) : Dev :=
  d.modBlock b fun x =>
    let same := x.cells.zipIdx.all fun (c, i) => decide ((c.quadrant, c.fenced) = cellOf d.plan b i)
    if same then x
    else { x with cells := x.cells.zipIdx.map fun (c, i) =>
        let (q, f) := cellOf d.plan b i
        if c.quadrant = q && c.fenced = f then { c with acc := [], accum := [] }
        else { c with quadrant := q, fenced := f, front := none, shadow := none, acc := [], accum := [] } }

/-- Commands of districts that no longer use a block complete with DISTRICT_NOT_RESIDENT without starting (R132). -/
def evictStrangers (d : Dev) (b : Nat) : Dev :=
  let users := d.usersOf b
  ((d.block b).slots.filter fun s => !users.contains s.2.district).foldl (fun d s => d.endCommand b s.1 .districtNotResident false) d

def modSlot' (d : Dev) (i : Nat) (f : AmendSlot → AmendSlot) : Dev :=
  { d with plan := { d.plan with slots := d.plan.slots.zipIdx.map fun (x, j) => if j = i then f x else x } }

def amend (d : Dev) (i : Nat) : AmendSlot := (d.plan.slots[i]?).getD {}

/-- PLAN_ERR takes the first failing check of a container (R59). -/
def planError (d : Dev) (cause sect : Nat) : Dev := d.setReg Reg.PLAN_ERR (cause + 2 ^ 16 * (sect % 2 ^ 16))

/-- Does a scope hold a block, or a Kerb (R43, R54)? A cell's scope holds its block. -/
def scopeHasBlock (s : Scope) (b : Nat) : Bool :=
  match s.kind with
  | .device => true
  | .quarter => s.index = b / 72
  | .block => s.index = b
  | .cell => s.index / 4 = b
  | .kerb => false

def scopeHasKerb (s : Scope) (k : Nat) : Bool :=
  match s.kind with
  | .device => true
  | .kerb => s.index = k
  | _ => false

/-- A scope that is a block or one of its cells, or lies in a quarter: it is out of service with that unit (R57). -/
def scopeInBlock (s : Scope) (b : Nat) : Bool := (s.kind = .block && s.index = b) || (s.kind = .cell && s.index / 4 = b)
def scopeInQuarter (s : Scope) (q : Nat) : Bool :=
  (s.kind = .quarter && s.index = q) || (s.kind = .block && s.index / 72 = q) || (s.kind = .cell && s.index / 288 = q)

/-- Another amendment than that of slot i quiesces a block: those of two cells of it may run at once (R54, R56). -/
def quietBut (d : Dev) (i b : Nat) : Bool := d.plan.slots.zipIdx.any fun (a, j) =>
  j ≠ i && a.step = .quiescing && a.container.any fun c => scopeHasBlock c.scope b

/-- The units of the scope of a slot's amendment stop admitting work, or admit it again. -/
def quiesceScope (d : Dev) (i : Nat) (s : Scope) (on : Bool) : Dev :=
  let d := (allBlocks.filter (scopeHasBlock s)).foldl (fun d b =>
    let still := on || d.quietBut i b
    d.modBlock b fun x => { x with quiesced := still }) d
  ((List.range 48).filter (scopeHasKerb s)).foldl (fun d k => d.modKerb k fun x => { x with quiesced := on }) d

/-- An amendment that ends without effect (R55, R57). The container of an APPLY counts as rejected; a REVERT carries none (R68). -/
def amendFails (d : Dev) (i : Nat) (st : Status) (cause : Nat) : Dev :=
  let a := d.amend i
  let d := (d.modSlot' i fun _ => {}).planError cause 0xFFFF
  let d := if a.reverting then d else d.fadd Reg.PLAN_CNT Fld.PLAN_CNT_REJECTED 1
  d.finishSquare a.queue a.cid st

/-- An amendment that has taken effect on every unit (R37, R53, R58, R531). -/
def amendDone (d : Dev) (i : Nat) : Dev :=
  let a := d.amend i
  match a.container with
  | none => d
  | some c =>
    let d := (d.modSlot' i fun _ => {}).fadd Reg.PLAN_CNT Fld.PLAN_CNT_APPLIED 1
    (d.measure 3 c.digest).finishSquare a.queue a.cid .success (c.sequence % 2 ^ 32)

/-- A block swaps its banks at a command boundary, when its back bank holds an amendment whose beat has come (R51). An
amendment that waits for this block alone is complete (R52). -/
def swapBank (d : Dev) (b : Nat) : Dev :=
  let x := d.block b
  let due := match x.backWritten with
    | some none => true
    | some (some beat) => decide (beat ≤ d.beat)
    | none => false
  if !due then d
  else
    let d := d.setBlock b { x with inUse := 1 - x.inUse, bankGen := x.bankGen + 1, backWritten := none }
    let d := d.fadd (Reg.BLK_BANK b) Fld.BLK_BANK_SWAPS 1
    (List.range 4).foldl (fun d i =>
      let a := d.amend i
      if a.step = .awaitingSwap && a.awaiting.contains b then
        let d := d.modSlot' i fun a => { a with awaiting := a.awaiting.filter (· ≠ b) }
        if (d.amend i).awaiting.isEmpty then d.amendDone i else d
      else d) d

end Dev

end Sys2Proof.Machine
end

