-- ==== Sys2Proof/Machine/Indexes.lean ====
section
/-! DEFINITION. Reading an index version: its directory, list heads, side and node records (R208 to R210, R245, R246, R256 to
R258), and passage records (R277, R427). -/

namespace Sys2Proof.Machine

/-- Bytes of a stripe unit (R209). -/
def unitBytes : Nat := 65536

namespace Dev

/-- The versions of a namespace. -/
def versionsOf (d : Dev) (ns : Nat) : List Version := d.versions.filter fun v => v.ns = ns

def versionOf (d : Dev) (ns n : Nat) : Option Version := d.versions.find? fun v => v.ns = ns && v.params.version = n

/-- The CURRENT version of a namespace's list or graph index (R241). -/
def currentOf (d : Dev) (ns : Nat) (graph : Bool) : Option Version :=
  d.versions.find? fun v => v.ns = ns && v.params.graph = graph && v.state = .current

def modVersion (d : Dev) (ns n : Nat) (f : Version → Version) : Dev :=
  { d with versions := d.versions.map fun v => if v.ns = ns && v.params.version = n then f v else v }

/-- The namespace byte offset of a list's head (R246). -/
def listAt (d : Dev) (v : Version) (l : Nat) : Nat := fieldLE (d.loadObj (handleIndex v.params.directory) (8 * l) 8) 0 8

def headAt (d : Dev) (v : Version) (l : Nat) : ListHead :=
  let a := d.listAt v l
  listHead (d.loadNs v.ns a (if v.params.dist = 3 then 4096 else headLengthOf v.params.dist v.params.dims))

/-- The byte offset of slot `i` of stripe `s` in a list's side pages (R208, R210). -/
def sideOffset (h : ListHead) (s i : Nat) : Nat := h.sideBase + s * h.sideStride + 128 * i

def sideAt (d : Dev) (v : Version) (h : ListHead) (s i : Nat) : Rec := sideRec (d.loadNs v.ns (sideOffset h s i) 128)

/-- A partition entry (R256). -/
structure Part where
  kerb : Nat
  base : Nat
  nodes : Nat
  at' : Nat

def partAt (d : Dev) (v : Version) (p : Nat) : Part :=
  let e := d.loadObj (handleIndex v.params.directory) (32 * p) 32
  ⟨fieldLE e 0 1, fieldLE e 8 8, fieldLE e 0x10 8, fieldLE e 0x18 8⟩

/-- The partition of an ID. -/
def partOf (d : Dev) (v : Version) (id : Nat) : Option (Nat × Part) :=
  ((List.range v.params.partitions).map fun p => (p, d.partAt v p)).find? fun x => x.2.base ≤ id && id < x.2.base + x.2.nodes

/-- The namespace byte offset of a node record (R256). -/
def nodeOffset (p : Part) (id : Nat) : Nat := p.at' + 2048 * (id - p.base)

def nodeAt (d : Dev) (v : Version) (p : Part) (id : Nat) : Node := nodeRec (d.loadNs v.ns (nodeOffset p id) 2048)

/-- The side records of a list version, with their lists, stripes and slots. -/
def sideRecords (d : Dev) (v : Version) : List (Nat × Nat × Nat × Rec) :=
  (List.range v.params.lists).flatMap fun l =>
    let h := d.headAt v l
    (List.range h.stripes).flatMap fun s => (List.range h.stripeVectors).map fun i => (l, s, i, d.sideAt v h s i)

/-- Where the passage record of an ID and generation stands: as INGEST noted it, else by the node or side record of the
CURRENT version of the namespace (DESIGN CHOICE, log entry 20). -/
def passagePlace (d : Dev) (ns id gen : Nat) : Option (Nat × Nat) :=
  match AMap.look d.texts (2 ^ 40 * d.idOwner ns + id) with
  | some p => some p
  | none =>
    let byGraph : Option (Nat × Nat) := (d.currentOf ns true).bind fun v => (d.partOf v id).bind fun p =>
      let n := d.nodeAt v p.2 id
      if n.r.id = id && n.r.gen = gen && n.r.valid then some (ns, 4096 * n.r.textLba) else none
    match byGraph with
    | some x => some x
    | none => (d.currentOf ns false).bind fun v =>
        ((d.sideRecords v).find? fun x => x.2.2.2.valid && x.2.2.2.id = id && x.2.2.2.gen = gen).map fun x =>
          (ns, 4096 * x.2.2.2.textLba)

/-- The token IDs of a passage record, at most `n` of them, with their offsets in the text (R427). -/
def passageTokens (d : Dev) (place : Nat × Nat) (n : Nat) : List (Nat × Nat) :=
  let count := fieldLE (d.loadNs place.1 (place.2 + 0x14) 4) 0 4
  let m := min n count
  let b := d.loadNs place.1 (place.2 + 0x20) (8 * m)
  (List.range m).map fun i => (fieldLE b (8 * i) 4, fieldLE b (8 * i + 4) 4)

/-- The text of a passage record. -/
def passageText (d : Dev) (place : Nat × Nat) : List Byte :=
  let h := d.loadNs place.1 place.2 0x20
  d.loadNs place.1 (place.2 + 0x20 + 8 * fieldLE h 0x14 4) (fieldLE h 0x18 4)

/-- Does an ID with a generation pass the tombstone check in force (R264)? -/
def idLive (d : Dev) (ns id gen : Nat) : Bool := d.idInRange ns id && idPasses (d.idState ns id) gen

end Dev

end Sys2Proof.Machine
end

