-- ==== Sys2Proof/Machine/Compute.lean ====
section
/-! DEFINITION. A block's queue and sequencer: slot entry (R130, R131, R319), selection and start (R133 to R136, R140), pair
gather (R302 to R305), expert dispatch (R195 to R201), the boundary (R134, R180, R181), and the meanings of the commands
that drive a block. -/

namespace Sys2Proof.Machine

namespace Dev

/-- Blocks accept and start commands: no compute abort, shutdown or flush, and arrays not gated (R324, R436). -/
def computeRuns (d : Dev) : Bool :=
  !d.contain.abortActive && d.contain.shutdown = 0 && !d.media.flushing && !d.media.down && decide (d.power.ps < 2)

/-! Slot entry. -/

/-- A COMPUTE cannot be dispatched yet: the blocks hold it, or no slot is open to its district (R130, R319, R324). -/
def computeWaits (d : Dev) (q g : Nat) : Bool :=
  match d.districtOf q, d.physOf g with
  | some dist, some b => !d.computeRuns || (d.freeSlot b dist).isNone
  | _, _ => !d.computeRuns

/-- A command enters a free slot of its block's queue (R130). A list that begins with a LIGHT WAIT is checked first, and the
slot then waits (R136, R140). -/
def enterSlot (d : Dev) (b i : Nat) (x : Slot) : Dev :=
  let seq := (d.block b).nextSeq
  let x := { x with seq := seq }
  let d := d.modBlock b fun y => { y with slots := AMap.put y.slots i x, nextSeq := seq + 1 }
  let c : CheckCtx := ⟨d, b, (d.logicalOf b).getD 0, x.district, d.bankOf b, [], true⟩
  match c.opList (min x.opCount 64) x.opList x.listInT0 x.base with
  | .error _ => d
  | .ok ops =>
    match ops with
    | o :: _ =>
      if o.isLight && o.mode = 3 then
        match c.command x with
        | .error st => d.endCommand b i st false
        | .ok ops =>
          let names := x.names d b ops
          (d.hold names).modSlot b i fun y => { y with state := .waiting, ops := ops.map (·.raw), held := names }
      else d
    | [] => d

/-- A COMPUTE command from a host queue (R130, R131, R138, R318, R424, R545). -/
def compute (d : Dev) (h : Hdr) (g count : Nat) (t0 : Bool) (hist list scale route gather buf : Nat) : Dev :=
  match d.districtOf h.queue with
  | none => d.refuseCompute h.queue h.cid g .districtNotResident
  | some dist =>
    if buf ≠ 0 && buf ≠ 768 then d.refuseCompute h.queue h.cid g .invalidField
    else match d.physOf g with
      | none => d.refuseCompute h.queue h.cid g .districtNotResident
      | some b =>
        if d.quarantined (g / 64) || !(d.usersOf b).contains dist then d.refuseCompute h.queue h.cid g .districtNotResident
        else if count = 0 then d.refuseCompute h.queue h.cid g .success
        else match d.freeSlot b dist with
          | none => d
          | some i => d.enterSlot b i
              { seq := 0, origin := .host h.queue h.cid, district := dist, opCount := count, opList := list, listInT0 := t0,
                scaleState := scale, scaleHistory := hist, routeState := route, pairGather := gather, bufferLength := buf,
                state := .ready }

/-! Start (R134, R140). -/

/-- The block may start a command. -/
def canStart (d : Dev) (b : Nat) : Bool :=
  let x := d.block b
  d.computeRuns && !x.quiesced && !x.failing && x.running.isNone && !d.contain.resettingBlocks.contains b
    && !d.contain.resettingQuarters.contains (b / 72) && !d.quarantined (b / 72)
    && (match x.role with
      | .active _ => true
      | _ => false)

/-- What was prepared for a command by asynchronous DMA is discarded, and will be done again (R134, R182). -/
def discardAhead (d : Dev) (b i : Nat) : Dev :=
  ((d.dropStreams b i).modBlock b fun y => { y with dma := y.dma.filter fun a => a.slot ≠ i }).modSlot b i fun y =>
    { y with ahead := [], state := if y.state = .preparing then .ready else y.state }

/-- The next command starts: checked whole, or rejected before it starts and another chosen (R134, R140). The plan values in
force now are its own (R50). What was issued ahead for it is not issued again, unless its list has changed since (R134). -/
def startNext (d : Dev) (b : Nat) : Nat → Dev
  | 0 => d
  | n + 1 =>
    match d.pickNext b with
    | (none, d) => d
    | (some i, d) =>
      match d.slot b i with
      | none => d
      | some x =>
        let g := (d.logicalOf b).getD 0
        let c : CheckCtx := ⟨d, b, g, x.district, d.bankOf b, x.held, false⟩
        match c.command x with
        | .error st => (d.endCommand b i st false).startNext b n
        | .ok ops =>
          let names := (x.names d b ops).filter fun o => !x.held.contains o
          let d := d.hold names
          let waits := match ops with
            | o :: _ => o.isLight && o.mode = 3
            | [] => false
          if waits && x.waited ≠ ops.head?.map (·.raw) then
            -- the list begins with a WAIT that the slot has not waited for (R136)
            (d.modSlot b i fun y => { y with state := .waiting, ops := ops.map (·.raw), held := x.held ++ names }).startNext b n
          else
            let first := if waits then 1 else 0
            let kept : Bool := x.ahead = ((ops.drop first).take x.ahead.length).map (·.raw)
            let d := if kept then d else d.discardAhead b i
            let done := if kept then x.ahead.length else 0
            let e := d.district x.district
            let d := d.modSlot b i fun y =>
              { y with state := .running, ops := ops.map (·.raw), next := first + done, held := x.held ++ names,
                       keep := e.subnormalKeep, hist := if y.scaleHistory = 0 then e.scaleHistory else y.scaleHistory,
                       startOps := d.opCounters g, startTime := d.time.ns }
            d.modBlock b fun y => { y with running := some i, cells := y.cells.map fun c => { c with acc := [], accum := [] } }

/-! The boundary (R134). -/

/-- The running command has made its last write: all of its DMA, and unless it failed every operation and its dispatch are done
(R134, R160). -/
def commandDone (d : Dev) (b i : Nat) (x : Slot) : Bool :=
  !d.dmaOf b i && (x.failed.isSome || (decide (x.ops.length ≤ x.next)
    && (bits x.routeState 31 1 = 0 || x.dispatched) && (bits x.pairGather 31 1 = 0 || x.gathered)))

/-- Preparation that has read a word which a write changes is discarded (R182). -/
def discardRead (d : Dev) (b : Nat) (ws : List (Nat × List Byte)) : Dev :=
  (d.block b).slots.foldl (fun d s =>
    let reads := s.2.ahead.flatMap fun raw => d.opReads b s.2.district (Desc.of raw)
    if s.2.state ≠ .running && ws.any (fun w => reads.any fun r => Range.meets r ⟨b, w.1, w.2.length⟩) then d.discardAhead b s.1
    else d) d

/-- The scale-state update, the command's last write (R180, R181), after which preparation that read one of its words is done again
(R182). -/
def updateScales (d : Dev) (b : Nat) (x : Slot) : Dev :=
  if bits x.scaleState 31 1 = 0 then d
  else
    let off := bits x.scaleState 0 23
    let ws := scaleUpdate (d.loadBm b off 128) off x.hist x.obs
    (ws.foldl (fun d w => d.storeBm b w.1 w.2) d).discardRead b ws

/-- The running command completes, when it is done. -/
def finishRunning (d : Dev) (b : Nat) : Dev :=
  match d.running b with
  | none => d
  | some (i, x) =>
    if !d.commandDone b i x then d
    else match x.failed with
      | some st => d.endCommand b i st true
      | none => (d.updateScales b x).endCommand b i .success true

/-- A command boundary: the running command completes, the bank swaps, and the next command starts. -/
def boundary (d : Dev) (b : Nat) : Dev :=
  let d := d.finishRunning b
  if (d.block b).running.isSome then d
  else
    let d := d.swapBank b
    if d.canStart b then d.startNext b 16 else d

/-! Pair gather (R302 to R305). -/

/-- One row of the gather (R304): tokens then PAD_TOKEN, its length word, and whether a passage slot was left empty. -/
def gatherRow (d : Dev) (r : CheckCtx.GatherRec) (e : List Byte) (s : Nat) : List Byte × Nat × Nat × Bool :=
  let id := fieldLE e (6 * s) 5
  let gen := fieldLE e (6 * s + 5) 1
  let pad (n : Nat) : List Byte := (List.replicate n (toLE 4 r.pad)).flatten
  if 2 + fieldLE e 0x1E 1 ≤ s then (pad r.seq, 0, 0, false)
  else if !d.idLive r.ns id gen then (pad r.seq, 0, 0, true)
  else match d.passagePlace r.ns id gen with
    | none => (pad r.seq, 0, 0, true)
    | some p =>
      let ts := (d.passageTokens p r.seq).map (·.1)
      (ts.flatMap (toLE 4) ++ pad (r.seq - ts.length), ts.length, 1, false)

/-- Where the passages of a gather lie, and how many of their tokens it takes: namespace, byte offset and tokens. -/
def gatherPlaces (d : Dev) (r : CheckCtx.GatherRec) : List (Nat × Nat × Nat) :=
  (List.range r.count).flatMap fun p =>
    let e := d.loadObj (handleIndex r.pairs) (32 * (r.first + p)) 32
    (List.range (min 5 (2 + fieldLE e 0x1E 1))).filterMap fun s =>
      let id := fieldLE e (6 * s) 5
      let gen := fieldLE e (6 * s + 5) 1
      if d.idLive r.ns id gen then (d.passagePlace r.ns id gen).map fun q => (q.1, q.2, (d.passageTokens q r.seq).length) else none

/-- The gather before a command's first operation, once its passages are read. -/
def pairGather (d : Dev) (b i : Nat) (x : Slot) : Dev :=
  let r := CheckCtx.gatherOf d b (bits x.pairGather 0 23)
  let d := d.modSlot b i fun y => { y with gathered := true, gatherWait := none }
  if r.count = 0 then d
  else
    let rows := (List.range r.count).flatMap fun p =>
      let e := d.loadObj (handleIndex r.pairs) (32 * (r.first + p)) 32
      (List.range 5).map fun s => (5 * p + s, d.gatherRow r e s)
    let n := (rows.map fun w => w.2.2.2.1).sum
    let bad := (rows.filter fun w => w.2.2.2.2).length
    let d := rows.foldl (fun d w =>
      (d.storeBm b (r.rows + w.1 * r.rowBytes) w.2.1).storeBm b (r.lens + 4 * w.1) (toLE 4 w.2.2.1)) d
    let d := d.touchRead x.district (handleIndex r.pairs) (32 * r.count) (32 * r.first)
    ((d.storeBm b (r.off + 0x28) (toLE 4 n)).storeBm b (r.off + 0x2C) (toLE 4 bad)).storeBm b (r.off + 0x30) (toLE 8 (r.step + 1))

/-! Expert dispatch (R195 to R201). -/

/-- The experts of a token, highest score first, ties to the lower index, NaN last (R198). -/
def expertOrder (d : Dev) (b : Nat) (r : CheckCtx.RouteRec) (t : Nat) : List Nat :=
  let s := (List.range r.experts).map fun x => (dec32 (fieldLE (d.loadBm b (r.scores + 4 * (t * r.experts + x)) 4) 0 4), x)
  (sortBy scoreBefore s).map (·.2)

/-- The section of one expert: its rows in assignment order, fill slots and header (R197). -/
def writeSection (d : Dev) (b g : Nat) (r : CheckCtx.RouteRec) (e : CheckCtx.Expert) (tokens : List Nat) : Dev :=
  match d.physOf e.peer with
  | none => d
  | some p =>
    let at' (s : Nat) : Nat := e.rows + (r.sourceIndex * r.capacity + s) * r.rowBytes
    let d := tokens.zipIdx.foldl (fun d t => d.storeBm p (at' t.2) (d.loadBm b (r.rowsAt + t.1 * r.rowBytes) r.rowBytes)) d
    let fill := (List.replicate (r.rowBytes / 4) (toLE 4 r.fill)).flatten
    let d := (List.range (r.capacity - tokens.length)).foldl (fun d s => d.storeBm p (at' (tokens.length + s)) fill) d
    d.storeBm p (e.header + 16 * r.sourceIndex) (toLE 4 tokens.length ++ toLE 2 g ++ toLE 2 0 ++ toLE 8 (r.step + 1))

/-- The route log (R198), written before the rows and headers of the sections (DESIGN CHOICE, log entry 74: R198 and R199 do not say
when). RANK and SLOT of a dropped choice are 0 (DESIGN CHOICE, log entry 65: R198 gives its EXPERT and SCORE
only). -/
def writeLog (d : Dev) (b : Nat) (r : CheckCtx.RouteRec) (cs : List Choice) : Dev :=
  ((List.range r.tokens).flatMap fun t => (List.range r.topk).map fun i => (t, i)).foldl (fun d (t, i) =>
    let e := match cs.find? fun c => c.token = t && c.choice = i with
      | some c => toLE 1 c.expert ++ toLE 1 c.rank ++ toLE 2 c.slot ++ d.loadBm b (r.scores + 4 * (t * r.experts + c.expert)) 4
      | none => toLE 1 0xFF ++ toLE 1 0 ++ toLE 2 0 ++ toLE 4 0
    d.storeBm b (r.log + 8 * (t * r.topk + i)) e) d

/-- The dispatch after a command's last operation. -/
def expertDispatch (d : Dev) (b i : Nat) (x : Slot) : Dev :=
  let r := CheckCtx.routeOf d b (bits x.routeState 0 23)
  let d := d.modSlot b i fun y => { y with dispatched := true }
  if r.tokens = 0 || r.topk = 0 then d
  else
    let g := (d.logicalOf b).getD 0
    let orders := (List.range r.tokens).map (d.expertOrder b r)
    let cs := assignExperts r.experts r.topk r.spillLimit r.tokens r.capacity (r.policy = 1) fun t => orders.getD t []
    let nan := ((List.range (r.tokens * r.experts)).filter fun k =>
      (dec32 (fieldLE (d.loadBm b (r.scores + 4 * k) 4) 0 4)).isNaN).length
    let es := (List.range r.experts).map (CheckCtx.expertOf d b r)
    let d := d.writeLog b r cs
    let d := es.zipIdx.foldl (fun d e =>
      d.writeSection b g r e.1 ((cs.filter fun c => c.expert = e.2).map (·.token))) d
    let d := es.foldl (fun d e => d.lightAdd e.light 1 x.district g) d
    let dropped := r.tokens * r.topk - cs.length
    let spilled := (cs.filter fun c => r.topk ≤ c.rank).length
    let d := (((d.storeBm b (r.off + 0x28) (toLE 8 (r.step + 1))).storeBm b (r.off + 0x30) (toLE 4 dropped)).storeBm b
      (r.off + 0x34) (toLE 4 spilled)).storeBm b (r.off + 0x38) (toLE 4 nan)
    let d := (d.fadd (Reg.BLK_ROUTE_TOKENS b) Fld.BLK_ROUTE_TOKENS_PLACED cs.length).fadd (Reg.BLK_ROUTE_TOKENS b)
      Fld.BLK_ROUTE_TOKENS_DROPPED dropped
    let d := (d.fadd (Reg.BLK_ROUTE_SPILL b) Fld.BLK_ROUTE_SPILL_SPILLED spilled).fadd (Reg.BLK_ROUTE_SPILL b)
      Fld.BLK_ROUTE_SPILL_NAN_SCORES nan
    let n := r.experts * r.capacity * r.rowBytes
    let c : Cost := { vector := r.tokens * ceilDiv r.experts 16, dma := ceilDiv n 512, bytes := n }
    let d := (d.charge b x.district c).fadd (Reg.BLK_DMA_BYTES b) Fld.BLK_DMA_BYTES_BYTES n
    d.modSlot b i fun y => { y with vectorCycles := y.vectorCycles + c.vector, dmaCycles := y.dmaCycles + c.dma,
                                    dmaBytes := y.dmaBytes + n }

end Dev

/-! The meanings of the commands that drive a block. -/

/-- The operation kinds each command runs. -/
def wantArray (mode : Nat) (o : Desc) : Bool := o.isArray && o.mode = mode
def wantVector (code : Nat) (o : Desc) : Bool := o.isVector && o.mode = code

def arrayStep (mode : Nat) (d : Dev) (b : Nat) : Dev := runOp d b (wantArray mode) fun d i x o => arrayOp d b i x o
def vectorStep (code : Nat) (d : Dev) (b : Nat) : Dev := runOp d b (wantVector code) fun d i x o => vectorOp d b i x o

def execArrayMac (b : Nat) (s : State) : Host.Outcome State Fault Refusal := effect (fun d => arrayStep 0 d b) s
def execArrayElemwise (b : Nat) (s : State) : Host.Outcome State Fault Refusal := effect (fun d => arrayStep 1 d b) s
def execArrayL1 (b : Nat) (s : State) : Host.Outcome State Fault Refusal := effect (fun d => arrayStep 2 d b) s
def execArrayL2 (b : Nat) (s : State) : Host.Outcome State Fault Refusal := effect (fun d => arrayStep 3 d b) s
def execArrayHamming (b : Nat) (s : State) : Host.Outcome State Fault Refusal := effect (fun d => arrayStep 4 d b) s
def execArrayMin (b : Nat) (s : State) : Host.Outcome State Fault Refusal := effect (fun d => arrayStep 5 d b) s
def execArrayMax (b : Nat) (s : State) : Host.Outcome State Fault Refusal := effect (fun d => arrayStep 6 d b) s

def execVecAdd (b : Nat) (s : State) : Host.Outcome State Fault Refusal := effect (fun d => vectorStep 0x01 d b) s
def execVecSub (b : Nat) (s : State) : Host.Outcome State Fault Refusal := effect (fun d => vectorStep 0x02 d b) s
def execVecMul (b : Nat) (s : State) : Host.Outcome State Fault Refusal := effect (fun d => vectorStep 0x03 d b) s
def execVecDiv (b : Nat) (s : State) : Host.Outcome State Fault Refusal := effect (fun d => vectorStep 0x04 d b) s
def execVecFma (b : Nat) (s : State) : Host.Outcome State Fault Refusal := effect (fun d => vectorStep 0x05 d b) s
def execVecMin (b : Nat) (s : State) : Host.Outcome State Fault Refusal := effect (fun d => vectorStep 0x06 d b) s
def execVecMax (b : Nat) (s : State) : Host.Outcome State Fault Refusal := effect (fun d => vectorStep 0x07 d b) s
def execVecCvt (b : Nat) (s : State) : Host.Outcome State Fault Refusal := effect (fun d => vectorStep 0x08 d b) s
def execVecQuant (b : Nat) (s : State) : Host.Outcome State Fault Refusal := effect (fun d => vectorStep 0x09 d b) s
def execVecSel (b : Nat) (s : State) : Host.Outcome State Fault Refusal := effect (fun d => vectorStep 0x0A d b) s
def execVecRowsum (b : Nat) (s : State) : Host.Outcome State Fault Refusal := effect (fun d => vectorStep 0x10 d b) s
def execVecRowmax (b : Nat) (s : State) : Host.Outcome State Fault Refusal := effect (fun d => vectorStep 0x11 d b) s
def execVecSoftmax (b : Nat) (s : State) : Host.Outcome State Fault Refusal := effect (fun d => vectorStep 0x12 d b) s
def execVecRowstats (b : Nat) (s : State) : Host.Outcome State Fault Refusal := effect (fun d => vectorStep 0x13 d b) s
def execVecMergestats (b : Nat) (s : State) : Host.Outcome State Fault Refusal := effect (fun d => vectorStep 0x14 d b) s
def execVecLayernorm (b : Nat) (s : State) : Host.Outcome State Fault Refusal := effect (fun d => vectorStep 0x15 d b) s
def execVecRmsnorm (b : Nat) (s : State) : Host.Outcome State Fault Refusal := effect (fun d => vectorStep 0x16 d b) s

/-- An SFU operation by a built-in function or a user table (R149). -/
def execSfuFunction (b : Nat) (s : State) : Host.Outcome State Fault Refusal :=
  effect (fun d => runOp d b (fun o => o.isSfu && o.mode < 0x80) fun d _ x o => sfuOp d b x o) s

/-- An SFU operation by a user micro-program (R154). -/
def execSfuMicroProgram (b : Nat) (s : State) : Host.Outcome State Fault Refusal :=
  effect (fun d => runOp d b (fun o => o.isSfu && 0x80 ≤ o.mode) fun d _ x o => sfuOp d b x o) s

/-- A DMA operation (R134, R159). -/
def execDmaOp (b : Nat) (s : State) : Host.Outcome State Fault Refusal :=
  effect (fun d => dmaStep d b) s

/-- An asynchronous DMA finishes (R160). -/
def execDmaAsyncDone (b : Nat) (s : State) : Host.Outcome State Fault Refusal := effect (fun d => dmaFinish d b) s

def execLightSet (b : Nat) (s : State) : Host.Outcome State Fault Refusal :=
  effect (fun d => runOp d b (fun o => o.isLight && o.mode = 1) fun d i x o => lightOperation false d b i x o) s

def execLightAdd (b : Nat) (s : State) : Host.Outcome State Fault Refusal :=
  effect (fun d => runOp d b (fun o => o.isLight && o.mode = 2) fun d i x o => lightOperation true d b i x o) s

def execLightWait (b i : Nat) (s : State) : Host.Outcome State Fault Refusal := effect (fun d => lightWaitStep d b i) s

def execLightExpiry (b i : Nat) (s : State) : Host.Outcome State Fault Refusal := effect (fun d => lightExpiryStep d b i) s

/-- A shadow weight buffer load completes (R114). -/
def execShadowLoadDone (b : Nat) (s : State) : Host.Outcome State Fault Refusal := effect (fun d => shadowLoad d b) s

/-- The dispatch of the running command to its experts, after its last operation (R195). -/
def execExpertDispatch (b : Nat) (s : State) : Host.Outcome State Fault Refusal :=
  effect (fun d => match d.running b with
    | some (i, x) =>
      if bits x.routeState 31 1 = 1 && !x.dispatched && x.failed.isNone && decide (x.ops.length ≤ x.next)
          && !d.dmaOf b i && (bits x.pairGather 31 1 = 0 || x.gathered) then d.expertDispatch b i x
      else d
    | none => d) s

end Sys2Proof.Machine
end

