-- ==== Sys2Proof/Machine/Dies.lean ====
section
/-! DEFINITION. Flash places and mapping generations (R374, R379, R380), the queries' views (R243), the page cache (R224,
R225), and the die queues of the Kerb crossing (R228, R229). -/

namespace Sys2Proof.Machine

/-! Places (R374). -/

/-- The Kerb and the local die index of a group's member, and the die's number on the device. -/
def kerbOf (group member : Nat) : Nat := 3 * member + group % 3
def localDie (group : Nat) : Nat := group / 3
def dieOf (group member : Nat) : Nat := 32 * kerbOf group member + localDie group

/-- The group and the member of a die. -/
def groupOfDie (die : Nat) : Nat := 3 * (die % 32) + die / 32 % 3
def memberOfDie (die : Nat) : Nat := die / 96

def UnitLoc.die (l : UnitLoc) : Nat := dieOf l.group l.member
def UnitLoc.kerb (l : UnitLoc) : Nat := kerbOf l.group l.member
/-- The key of a block group, and of a superblock. -/
def UnitLoc.bgKey (l : UnitLoc) : Nat := 2048 * l.die + l.bg
def sbKey (g b : Nat) : Nat := 2048 * g + b

/-- The 32-bit mapping entry of R379: MAPPED, MEMBER, BLOCK_GROUP, PAGE and, for MUTABLE, PLANE and PIECE. -/
def UnitLoc.entry (l : UnitLoc) (corpus : Bool) : Nat :=
  if corpus then 2 ^ 31 + 2 ^ 22 * l.member + 2 ^ 11 * l.bg + l.page
  else 2 ^ 31 + 2 ^ 26 * l.member + 2 ^ 15 * l.bg + 2 ^ 4 * l.page + 4 * l.plane + l.piece

/-- The place that an entry names in a unit's home group. -/
def entryPlace (group : Nat) (corpus : Bool) (x : Nat) : UnitLoc :=
  if corpus then ⟨group, bits x 22 4, bits x 11 11, bits x 0 11, 0, 0⟩
  else ⟨group, bits x 26 4, bits x 15 11, bits x 4 11, bits x 2 2, bits x 0 2⟩

/-- A read of the FOREGROUND or SWEEP class. -/
def DieOp.isSearch (o : DieOp) : Bool :=
  o.kind = .read && (o.cls = .foreground || o.cls = .speculative || o.cls = .sweep)

/-- A host read or a write of the WRITE class, which a quiescing Kerb does not start (R54). -/
def DieOp.isHost (o : DieOp) : Bool := o.cls = .write || (match o.purpose with
  | .hostRead _ => true
  | _ => false)

/-- Pieces that enter the page cache (R225): low, side, record, text and host-read pieces, and speculative ones. -/
def DieOp.cacheable (o : DieOp) : Bool := match o.purpose with
  | .hostRead _ | .side .. | .low .. | .record .. | .text .. | .gather .. | .passage .. | .speculate => true
  | _ => false

/-- The key of a mapping unit. -/
def unitKey (ns u : Nat) : Nat := 2 ^ 40 * ns + u

namespace Dev

def corpus (d : Dev) (ns : Nat) : Bool := match d.nsDef ns with
  | some n => !n.mutable
  | none => false

/-- The mapping unit of a piece (R379). -/
def unitOf (d : Dev) (ns piece : Nat) : Nat := if d.corpus ns then piece / 16 else piece

def unitSize (d : Dev) (ns : Nat) : Nat := if d.corpus ns then 65536 else 4096

def bg (d : Dev) (k : Nat) : BlockGroup := AMap.get d.media.bgs k {}
def modBg (d : Dev) (k : Nat) (f : BlockGroup → BlockGroup) : Dev :=
  { d with media := { d.media with bgs := AMap.put d.media.bgs k (f (d.bg k)) } }
def sb (d : Dev) (g b : Nat) : SuperBlock := AMap.get d.media.sbs (sbKey g b) {}
def modSb (d : Dev) (g b : Nat) (f : SuperBlock → SuperBlock) : Dev :=
  { d with media := { d.media with sbs := AMap.put d.media.sbs (sbKey g b) (f (d.sb g b)) } }

def mapOf (d : Dev) (ns u : Nat) : Option UnitLoc := AMap.look d.media.map (unitKey ns u)

/-- The word of the T1 FTL map region for a unit (R379); 0 where it is unmapped. Where in the region it lies is not in the spec. -/
def mapWord (d : Dev) (ns u : Nat) : Nat := match d.mapOf ns u with
  | some l => l.entry (d.corpus ns)
  | none => 0

/-! Views (R243): what a query sees of a unit or an ID that a later window close changed. -/

/-- The earliest superseded state of a unit that a query still sees. -/
def staleFor (d : Dev) (query ns u : Nat) : Option StaleUnit :=
  d.media.stale.find? fun s => s.ns = ns && s.unit = u && s.queries.contains query

def mapFor (d : Dev) (query ns u : Nat) : Option UnitLoc :=
  match d.staleFor query ns u with
  | some s => s.loc
  | none => d.mapOf ns u

/-- Bytes of a namespace as a query sees them: earlier states laid over, the earliest last. -/
def loadNsFor (d : Dev) (query ns o n : Nat) : List Byte :=
  let base := d.loadNs ns o n
  let sz := d.unitSize ns
  let mine := d.media.stale.filter fun s => s.ns = ns && s.queries.contains query && decide (s.unit * sz < o + n)
    && decide (o < s.unit * sz + sz)
  mine.reverse.foldl (fun bs s => bs.zipIdx.map fun (x, i) =>
    let a := o + i
    if s.unit * sz ≤ a && a < s.unit * sz + sz then s.bytes.getD (a - s.unit * sz) x else x) base

def idStateFor (d : Dev) (query ns id : Nat) : IdState :=
  let key := 2 ^ 40 * d.idOwner ns + id
  match d.staleIds.find? fun s => s.1 = key && s.2.2.contains query with
  | some s => s.2.1
  | none => d.idState ns id

/-! Mapping generations (R224, R380): the mapping entry and the erase epoch of the block group it names, with the profile and the home
group that its namespace and unit give. -/

def generationAt (d : Dev) (ns : Nat) (l : UnitLoc) : Nat :=
  ((128 * (d.corpus ns).toNat + l.group) * 2 ^ 32 + l.entry (d.corpus ns)) * 2 ^ 32 + (d.bg l.bgKey).epoch

/-- The place that a generation names, and its block group. -/
def placeOf (g : Nat) : UnitLoc := entryPlace (bits g 64 7) (bits g 71 1 = 1) (bits g 32 32)
def generationBg (g : Nat) : Nat := (placeOf g).bgKey

/-! The page cache of a Kerb (R224, R225). -/

def dropSpec (d : Dev) (k : Nat) (p : CachePiece) : Dev :=
  if p.speculative && !p.used then d.fadd (Reg.KERB_SPEC_WASTED k) Fld.KERB_SPEC_WASTED_READS 1 else d

/-- Cached pieces that meet a condition are discarded. -/
def cacheDropWhere (d : Dev) (k : Nat) (c : CachePiece → Bool) : Dev :=
  let gone := (d.kerb k).cache.filter c
  let d := d.modKerb k fun x => { x with cache := x.cache.filter fun p => !c p }
  gone.foldl (fun d p => d.dropSpec k p) d

/-- A piece is looked up: a hit is used; a piece of another generation is discarded. -/
def cacheLook (d : Dev) (k ns piece gen : Nat) : Bool × Dev :=
  match (d.kerb k).cache.find? fun p => p.ns = ns && p.piece = piece with
  | none => (false, d.fadd (Reg.KERB_CACHE_MISS k) Fld.KERB_CACHE_MISS_PIECES 1)
  | some p =>
    let d := d.modKerb k fun x => { x with cache := x.cache.filter fun q => !(q.ns = ns && q.piece = piece) }
    if p.generation = gen then
      let d := d.modKerb k fun x => { x with cache := x.cache ++ [{ p with used := true }] }
      (true, d.fadd (Reg.KERB_CACHE_HIT k) Fld.KERB_CACHE_HIT_PIECES 1)
    else
      let d := d.dropSpec k p
      (false, (d.fadd (Reg.KERB_CACHE k) Fld.KERB_CACHE_STALE_DROPS 1).fadd (Reg.KERB_CACHE_MISS k)
        Fld.KERB_CACHE_MISS_PIECES 1)

/-- The policy in force at a Kerb. -/
def policy (d : Dev) (k : Nat) : KerbPolicy := AMap.get d.plan.kerbPolicies k {}

/-- A piece enters the cache in place of an earlier copy of it; the oldest unused speculative pieces leave while those hold more than
CACHE_SPEC_PCT, and the least recently used piece leaves a full cache (R225, R227). -/
def cachePut (d : Dev) (k ns piece gen : Nat) (speculative : Bool) : Dev :=
  let d := d.cacheDropWhere k fun p => p.ns = ns && p.piece = piece
  let d := d.modKerb k fun x => { x with cache := x.cache ++ [⟨ns, piece, gen, speculative, false⟩] }
  let spec := (d.kerb k).cache.filter fun p => p.speculative && !p.used
  let excess := spec.take (spec.length - 16384 * (d.policy k).cacheSpecPct / 100)
  let d := d.cacheDropWhere k fun q => excess.contains q
  match (d.kerb k).cache with
  | p :: _ => if 16384 < (d.kerb k).cache.length then d.cacheDropWhere k fun q => q = p else d
  | [] => d

/-! The protected write buffer (R363, R383). -/

def dirtyUnits (d : Dev) : List ProgUnit :=
  d.media.unplaced ++ d.media.programs.flatMap (·.units) ++ d.media.partials.flatMap (·.2)

def dirtyBytes (d : Dev) : Nat := (d.dirtyUnits.map fun u => d.unitSize u.ns).sum

/-- Does the newest copy of a unit lie in the protected buffer (R230)? Relocations read flash. -/
def buffered (d : Dev) (ns u : Nat) : Bool :=
  d.media.clean.contains (unitKey ns u) || d.dirtyUnits.any fun x => x.ns = ns && x.unit = u && x.source.isNone

/-! Die queues (R228). -/

def die (d : Dev) (k j : Nat) : Die := AMap.get (d.kerb k).dies j {}
def modDie (d : Dev) (k j : Nat) (f : Die → Die) : Dev :=
  d.modKerb k fun x => { x with dies := AMap.put x.dies j (f (AMap.get x.dies j {})) }

/-- The weighted contenders of R228: FOREGROUND, SWEEP, WRITE, rebuild with the weight of WRITE (R393), BACKGROUND. -/
def contender (c : DieClass) : Nat := match c with
  | .foreground | .speculative => 0
  | .sweep => 1
  | .write => 2
  | .rebuild => 3
  | _ => 4

def contenderWeight (p : KerbPolicy) (i : Nat) : Nat := match i with
  | 0 => p.fg
  | 1 => p.sweep
  | 2 | 3 => p.write
  | _ => p.bg

/-- The oldest operation of a contender: demand reads before speculative reads. -/
def firstOf (q : List (DieOp × Nat)) (i : Nat) : Option Nat :=
  let own := q.filter fun x => contender x.1.cls = i
  match own.find? fun x => x.1.cls != .speculative with
  | some x => some x.2
  | none => own.head?.map (·.2)

/-- Weighted choice among contenders with work: each round grants every one its weight; those of weight zero take turns when
no other has work (R24). -/
def weighed (p : KerbPolicy) (credits : AMap Nat) (q : List (DieOp × Nat)) : Option (Nat × AMap Nat) :=
  let have' := (List.range 5).filter fun i => (firstOf q i).isSome
  let nz := have'.filter fun i => 0 < contenderWeight p i
  let give (i : Nat) (c : AMap Nat) : Option (Nat × AMap Nat) := (firstOf q i).map fun k => (k, c)
  match nz with
  | first :: _ =>
    match nz.find? fun i => 0 < AMap.get credits i 0 with
    | some i => give i (AMap.put credits i (AMap.get credits i 0 - 1))
    | none =>
      let c := nz.foldl (fun c i => AMap.put c i (contenderWeight p i)) credits
      give first (AMap.put c first (contenderWeight p first - 1))
  | [] =>
    let last := AMap.get credits 16 5
    match have'.find? (last < ·) with
    | some i => give i (AMap.put credits 16 i)
    | none => match have' with
      | i :: _ => give i (AMap.put credits 16 i)
      | [] => none

/-- The background activities that an operation of the BACKGROUND class serves (R228, R453): calibration, patrol and rewrites, or
reclaim; a block group that a rewrite was asked for is rewritten. -/
def activitiesOf (d : Dev) (k j : Nat) (o : DieOp) : List Nat :=
  let rewritten (key : Nat) : Nat := if d.media.rewrites.contains key then 1 else 6
  match o.purpose with
  | .calibrate => [2]
  | .patrol => [1]
  | .relocate _ => [rewritten (generationBg o.generation)]
  | .erase => [rewritten (2048 * (32 * k + j) + o.piece)]
  | _ => [1, 6]

/-- May an operation of the BACKGROUND class go now? Within its background slots (R228, R453); the reads and programs of a job that is
not confined to slots run under its DUTY_PERMILLE instead (R309; DEDUCED, log entry 25). -/
def backgroundMay (d : Dev) (k j : Nat) (o : DieOp) : Bool :=
  let jobMay (i : Nat) : Bool := match AMap.look d.jobs i with
    | some x => bits x.flags 0 1 = 0 || d.slotNames 10
    | none => true
  match o.purpose with
  | .passage i _ => jobMay i
  | .program => match (d.media.programs.find? fun p => kerbOf p.group p.member = k && localDie p.group = j && p.sb = o.ns
      && p.page = o.piece).bind fun p => p.units.findSome? jobUnit with
    | some i => jobMay i
    | none => (d.activitiesOf k j o).any d.slotNames
  | _ => (d.activitiesOf k j o).any d.slotNames

/-- The next operation of a die, as a place in its queue, and the grants that are left. An urgent WRITE goes before FOREGROUND and SWEEP
alone; the oldest read of those goes before the ninth WRITE in a row (R228). -/
def chooseOp (d : Dev) (k j : Nat) : Option (Nat × AMap Nat) :=
  let x := d.die k j
  let open' := x.queue.zipIdx.filter fun o =>
    (o.1.cls != .background || d.backgroundMay k j o.1) && (x.suspended.isNone || o.1.isSearch)
      && !((d.kerb k).quiesced && o.1.isHost)
  match open'.find? fun o => o.1.cls = .flush with
  | some o => some (o.2, x.credits)
  | none =>
    let urgent := 2 ^ 30 * (d.policy k).writeUrgentPct ≤ 100 * d.dirtyBytes && (firstOf open' 2).isSome
    if urgent then
      match (if 8 ≤ x.writeRun then open'.find? fun o => contender o.1.cls ≤ 1 else none) with
      | some o => some (o.2, x.credits)
      | none => weighed (d.policy k) x.credits (open'.filter fun o => 1 < contender o.1.cls)
    else weighed (d.policy k) x.credits open'

/-- May a queued read suspend the running operation (R229)? A FOREGROUND or SWEEP read an erase, a FOREGROUND read a program. -/
def mayStop (o r : DieOp) (now : Nat) : Bool :=
  ((r.kind = .erase && o.isSearch) || (r.kind = .program && o.isSearch && o.cls != .sweep))
    && decide (1000 * r.minRun ≤ now - r.since) && decide (r.suspends < r.maxSuspends)

/-- The running operation of a die is suspended when a queued read may (R229). -/
def suspendFor (d : Dev) (k j : Nat) : Dev :=
  let x := d.die k j
  match x.busy with
  | none => d
  | some r =>
    if x.suspended.isNone && x.queue.any (fun o => mayStop o r d.time.ns) then
      let f := if r.kind = .erase then Fld.KERB_SUSPEND_ERASE else Fld.KERB_SUSPEND_PROGRAM
      (d.modDie k j fun x => { x with busy := none, suspended := some { r with suspends := r.suspends + 1 } }).fadd
        (Reg.KERB_SUSPEND k) f 1
    else d

/-- A die takes its next operation: a running one may be suspended first; a suspended one goes on when it is due or when no search read
is queued (R229), else an operation is chosen by class. -/
def issue (d : Dev) (k j : Nat) : Dev :=
  let d := if (d.kerb k).resetting then d else d.suspendFor k j
  let x := d.die k j
  if x.busy.isSome || (d.kerb k).resetting then d
  else
    let back := match x.suspended with
      | some o => if x.resume || !(x.queue.any DieOp.isSearch) then some o else none
      | none => none
    match back with
    | some o => d.modDie k j fun x => { x with busy := some { o with since := d.time.ns }, suspended := none, resume := false }
    | none =>
      match d.chooseOp k j with
      | none => d
      | some (i, credits) =>
        match x.queue[i]? with
        | none => d
        | some o =>
          let p := d.policy k
          let o := { o with since := d.time.ns, minRun := p.minEraseRunUs, maxSuspends := p.maxSuspends }
          d.modDie k j fun x => { x with busy := some o, queue := x.queue.eraseIdx i, credits := credits,
                                         writeRun := if o.cls = .write then x.writeRun + 1 else 0 }

/-- An operation joins a die's queue. -/
def enqueue (d : Dev) (k j : Nat) (o : DieOp) : Dev :=
  (d.modDie k j fun x => { x with queue := x.queue ++ [o] }).issue k j

/-- An operation of a die at a place. -/
def enqueueAt (d : Dev) (l : UnitLoc) (o : DieOp) : Dev := d.enqueue l.kerb (localDie l.group) o

/-- Dies whose next operation may be chosen now that something else changed. -/
def issueAll (d : Dev) : Dev :=
  d.kerbs.foldl (fun d x => x.2.dies.foldl (fun d y => d.issue x.1 y.1) d) d

/-- Reads that a command no longer waits for go on without it. -/
def forgetReads (d : Dev) (tag : Nat) : Dev :=
  let f (o : DieOp) : DieOp := if o.purpose = .hostRead tag then { o with purpose := .speculate } else o
  let die (x : Die) : Die := { x with busy := x.busy.map f, suspended := x.suspended.map f, queue := x.queue.map f }
  { d with kerbs := d.kerbs.map (fun (k : Nat × Kerb) => (k.1, { k.2 with dies := k.2.dies.map (fun (x : Nat × Die) => (x.1, die x.2)) })) }

/-- Reads that a command still waits for. -/
def awaitsReads (d : Dev) (tag : Nat) : Bool :=
  d.kerbs.any fun k => k.2.dies.any fun x =>
    (x.2.queue ++ x.2.busy.toList ++ x.2.suspended.toList).any fun o => o.purpose = .hostRead tag

/-- Where the piece that a reader wants lies on flash: nowhere if it is unmapped, or if the protected buffer serves it (R230). -/
def flashOf (d : Dev) (query ns piece : Nat) : Option UnitLoc :=
  let u := d.unitOf ns piece
  if (d.staleFor query ns u).isNone && d.buffered ns u then none else d.mapFor query ns u

/-- A graph-record, text or host-read piece that a reader wants is counted at its Kerb (R239). -/
def countOther (d : Dev) (query ns piece : Nat) : Dev :=
  match d.flashOf query ns piece with
  | some l => d.fadd (Reg.KERB_PG_OTHER l.kerb) Fld.KERB_PG_OTHER_PIECES 1
  | none => d

/-- The 4 KiB pieces of a byte range. -/
def piecesOf (o n : Nat) : List Nat :=
  if n = 0 then [] else (List.range ((o + n - 1) / 4096 + 1 - o / 4096)).map fun i => o / 4096 + i

/-- A speculative read of the same copy that waits or is under way serves a demand in place of a second read (R261). -/
def takeOver (d : Dev) (l : UnitLoc) (o : DieOp) : Option Dev :=
  let same (x : DieOp) : Bool := x.purpose = .speculate && x.ns = o.ns && x.piece = o.piece && x.generation = o.generation
  let y := d.die l.kerb (localDie l.group)
  let turned (x : DieOp) : DieOp := if same x then { x with cls := o.cls, purpose := o.purpose } else x
  if y.queue.any same || y.busy.any same then
    some (d.modDie l.kerb (localDie l.group) fun x => { x with queue := x.queue.map turned, busy := x.busy.map turned })
  else none

/-- A piece that a reader needs: true when it is at hand (unmapped, in the protected buffer or in the cache), else its read
joins the die's queue (R224, R230, R381). `high`: a whole unit, read with one multi-plane read and never cached. -/
def needPiece (d : Dev) (query ns piece : Nat) (high : Bool) (cls : DieClass) (p : DiePurpose) : Bool × Dev :=
  match d.flashOf query ns piece with
  | none => (true, d)
  | some l =>
    let gen := d.generationAt ns l
    let (hit, d) := if high then (false, d) else d.cacheLook l.kerb ns piece gen
    let o : DieOp := { kind := .read, cls := cls, purpose := p, ns := ns, piece := piece, generation := gen }
    if hit then (true, d)
    else (false, (if high then none else d.takeOver l o).getD (d.enqueueAt l o))

/-- Pieces that one reader needs, counted at their Kerbs and, those read from flash, for the district that wants them (R239, R341): how many
are not at hand. -/
def needAll (d : Dev) (dist : Option Nat) (cls : DieClass) (ps : List (Nat × Nat × Nat × DiePurpose)) : Nat × Dev :=
  let (n, d) := ps.foldl (fun (acc : Nat × Dev) p =>
    let d := acc.2.countOther p.1 p.2.1 p.2.2.1
    let (here, d) := d.needPiece p.1 p.2.1 p.2.2.1 false cls p.2.2.2
    (if here then acc.1 else acc.1 + 1, d)) (0, d)
  match dist with
  | some x => (n, d.fadd (Reg.CNT_DIST_T2 x) Fld.CNT_DIST_T2_READ_PIECES n)
  | none => (n, d)

end Dev

end Sys2Proof.Machine
end

