-- ==== Sys2Proof/Machine/Xts.lean ====
section
/-! DEFINITION. AES-256-XTS on a data unit of 4 KiB (R382; PRESUMED: FIPS 197 and IEEE 1619, log entry 55). -/

namespace Sys2Proof.Machine.Aes

/-- Multiplication by x in GF(2^8). -/
def xtime (b : Byte) : Byte := (b <<< 1) ^^^ (if b.msb then 0x1B#8 else 0#8)

def gmul (a b : Byte) : Byte :=
  ((List.range 8).foldl (fun (acc : Byte × Byte) i => (if b.getLsbD i then acc.1 ^^^ acc.2 else acc.1, xtime acc.2)) (0#8, a)).1

/-- The inverse, b^254, and 0 for 0. -/
def inverse (b : Byte) : Byte := ((List.range 6).foldl (fun (acc : Byte × Byte) _ =>
  let sq := gmul acc.2 acc.2
  (gmul acc.1 sq, sq)) (gmul b b, gmul b b)).1

def sbox (b : Byte) : Byte :=
  let i := inverse b
  i ^^^ i.rotateLeft 1 ^^^ i.rotateLeft 2 ^^^ i.rotateLeft 3 ^^^ i.rotateLeft 4 ^^^ 0x63#8

def unbox (b : Byte) : Byte := inverse (b.rotateLeft 1 ^^^ b.rotateLeft 3 ^^^ b.rotateLeft 6 ^^^ 0x05#8)

def xorBytes (a b : List Byte) : List Byte := List.zipWith (· ^^^ ·) a b

/-- Word i of the key schedule from the words before it, the newest first. -/
def nextWord (ws : List (List Byte)) (i : Nat) (rcon : Byte) : List Byte :=
  let t := ws.headD []
  let t := if i % 8 = 0 then xorBytes ((t.drop 1 ++ t.take 1).map sbox) [rcon, 0, 0, 0] else if i % 8 = 4 then t.map sbox else t
  xorBytes (ws.getD 7 []) t

def pieces (n : Nat) : Nat → List Byte → List (List Byte)
  | 0, _ => []
  | k + 1, bs => bs.take n :: pieces n k (bs.drop n)

/-- The 15 round keys of a key of 32 bytes. -/
def roundKeys (key : List Byte) : List (List Byte) :=
  let ws := (List.range 52).foldl (fun (acc : List (List Byte) × Byte) j =>
    let w := nextWord acc.1 (j + 8) acc.2
    (w :: acc.1, if (j + 8) % 8 = 0 then xtime acc.2 else acc.2)) ((pieces 4 8 key).reverse, 1#8)
  pieces 16 15 ws.1.reverse.flatten

/-- Row r of the state moves left by r columns, or right. -/
def shiftRows (s : List Byte) : List Byte := (List.range 16).map fun i => s.getD ((i + 4 * (i % 4)) % 16) 0
def unshiftRows (s : List Byte) : List Byte := (List.range 16).map fun i => s.getD ((i + 12 * (i % 4)) % 16) 0

/-- Each column is multiplied by a circulant of the row given. -/
def mix (row : List Byte) (s : List Byte) : List Byte :=
  (List.range 16).map fun i => (List.range 4).foldl (fun x j =>
    x ^^^ gmul (row.getD ((j + 4 - i % 4) % 4) 0) (s.getD (4 * (i / 4) + j) 0)) 0#8

def encryptWith (ks : List (List Byte)) (block : List Byte) : List Byte :=
  match ks with
  | [] => block
  | k0 :: rest =>
    let s := xorBytes block k0
    let s := rest.dropLast.foldl (fun s k => xorBytes (mix [2, 3, 1, 1] (shiftRows (s.map sbox))) k) s
    xorBytes (shiftRows (s.map sbox)) (rest.getLastD [])

def decryptWith (ks : List (List Byte)) (block : List Byte) : List Byte :=
  match ks.reverse with
  | [] => block
  | k0 :: rest =>
    let s := (unshiftRows (xorBytes block k0)).map unbox
    let s := rest.dropLast.foldl (fun s k => (unshiftRows (mix [14, 11, 13, 9] (xorBytes s k))).map unbox) s
    xorBytes s (rest.getLastD [])

/-- The next tweak: multiplication by x in GF(2^128), the first byte the least significant. -/
def nextTweak (t : List Byte) : List Byte :=
  let carry := (t.getLastD 0).msb
  let t := t.zipIdx.map fun (b, i) => (b <<< 1) ^^^ (if i ≠ 0 && (t.getD (i - 1) 0).msb then 1#8 else 0#8)
  match t with
  | b :: r => (if carry then b ^^^ 0x87#8 else b) :: r
  | [] => []

/-- A data unit under a key of 64 bytes, data key first, with a tweak: every block of 16 bytes through one direction of the cipher. -/
def xts (decrypt : Bool) (key : BitVec 512) (tweak : Nat) (bytes : List Byte) : List Byte :=
  let ks := roundKeys ((toLE 64 key.toNat).take 32)
  let t0 := encryptWith (roundKeys ((toLE 64 key.toNat).drop 32)) (toLE 16 tweak)
  ((pieces 16 (bytes.length / 16) bytes).foldl (fun (acc : List (List Byte) × List Byte) p =>
    let x := xorBytes p acc.2
    let y := if decrypt then decryptWith ks x else encryptWith ks x
    (xorBytes y acc.2 :: acc.1, nextTweak acc.2)) ([], t0)).1.reverse.flatten

end Sys2Proof.Machine.Aes
end

