-- ==== Sys2Proof/Machine/Media.lean ====
section
/-! DEFINITION. Flash media (R373 to R400): placement, programs and parity, relocation, reclaim, erases, rewrites, retirement,
secure erasure, and the rows that drive them. -/

namespace Sys2Proof.Machine

namespace Dev

/-! Groups and superblocks (R374, R375, R386). -/

def modMedia (d : Dev) (f : MediaState → MediaState) : Dev := { d with media := f d.media }

/-! Dies and superblocks in service. -/

def dieOk (d : Dev) (die : Nat) : Bool := !d.media.retired.contains die

/-- Is block group b of a member in service? -/
def memberOk (d : Dev) (g b m : Nat) : Bool := d.dieOk (dieOf g m) && !(d.bg (2048 * dieOf g m + b)).bad

/-- Members of superblock b of group g that are in service. -/
def members (d : Dev) (g b : Nat) : List Nat := (List.range 16).filter (d.memberOk g b)

/-- The member that holds the parity (R375): b mod 16, or the next in ascending order that is in service. In a superblock in use it is the
one that held it when the superblock was opened, since the others hold data (DEDUCED, log entry 32). -/
def parityMember (d : Dev) (g b : Nat) : Option Nat :=
  if (d.sb g b).state = .free then
    let ms := d.members g b
    ((List.range 16).map fun i => (b + i) % 16).find? fun m => ms.contains m
  else (d.sb g b).parity

/-- The members in service that hold data of a superblock, or will. -/
def dataMembers (d : Dev) (g b : Nat) : List Nat :=
  let ms := if (d.sb g b).state = .free then d.members g b else (d.sb g b).members.filter (d.memberOk g b)
  ms.filter fun m => d.parityMember g b != some m

/-- A superblock enters use in a role, with the members that it has now. -/
def openIn (d : Dev) (g b : Nat) (state : SbState) : Dev :=
  let ms := d.members g b
  let p := d.parityMember g b
  d.modSb g b fun _ => { state := state, members := ms, parity := p }

/-- Free superblocks that can hold data. -/
def freeSbs (d : Dev) (g : Nat) : List Nat :=
  (List.range 2048).filter fun b => (d.sb g b).state = .free && decide (2 ≤ (d.members g b).length)

def retiredIn (d : Dev) (g : Nat) : Nat := ((List.range 16).filter fun m => !d.dieOk (dieOf g m)).length

/-- Does a group refuse writes (R394)? -/
def groupRefuses (d : Dev) (g : Nat) : Bool := 2 ≤ d.retiredIn g && (d.freeSbs g).length ≤ 2

/-- An FTL error bit, with MULTIPLE when another was set (R402). -/
def ftlError (d : Dev) (bit : Nat) : Dev :=
  let v := d.reg Reg.FTL_ERR
  d.setReg Reg.FTL_ERR ((v.lor (2 ^ bit)).lor (if bits v 0 6 = 0 then 0 else 64))

/-- FTL_GRPg.FULL and FTL_ERR.GROUP_FULL follow whether the group refuses writes. -/
def checkFull (d : Dev) (g : Nat) : Dev :=
  let was := d.fbit (Reg.FTL_GRP g) Fld.FTL_GRP_FULL
  if d.groupRefuses g then
    if was then d else (d.fon (Reg.FTL_GRP g) Fld.FTL_GRP_FULL).ftlError 5
  else if was then d.foff (Reg.FTL_GRP g) Fld.FTL_GRP_FULL else d

/-! The journal (R399). -/

/-- The first free superblock of each of two groups enters use in a role. -/
def openTwice (d : Dev) (j : Nat) (state : SbState) : Dev :=
  [j % 48, j % 48 + 48].foldl (fun d g =>
    match (d.freeSbs g).head? with
    | some b => ((d.openIn g b state).modSb g b fun s => { s with pair := j }).checkFull g
    | none => d) d

/-- Journal pair j opens in the first free superblock of each of its two groups. -/
def openPair (d : Dev) (j : Nat) : Dev := (d.modMedia fun m => { m with pair := j, pairBytes := 0 }).openTwice j .journal

/-- The bytes that each superblock of the present pair can hold: 128 MiB for each data block group (R373). -/
def pairRoom (d : Dev) : Nat :=
  (d.media.sbs.filter fun x => x.2.state = .journal && x.2.pair = d.media.pair).foldl (fun n x =>
    min n (2 ^ 27 * (d.dataMembers (x.1 / 2048) (x.1 % 2048)).length)) (2 ^ 31)

/-- The length of a record: 64 bytes (DESIGN CHOICE, log entry 32: the spec gives none). -/
def journalRecordBytes : Nat := 64

/-- The staged records are programmed to both superblocks of the pair; when it is full, the next pair opens. -/
def programJournal (d : Dev) : Dev :=
  let n := journalRecordBytes * d.media.staged.length
  let d := d.modMedia fun m => { m with journal := m.journal ++ m.staged, staged := [], pairBytes := m.pairBytes + n }
  if d.pairRoom ≤ d.media.pairBytes then d.openPair (d.media.pair + 1) else d

/-- A record is staged. At most 2 MiB stay unprogrammed, and in write-through mode none does (R398). -/
def journalPut (d : Dev) (r : JournalRec) : Dev :=
  let d := d.modMedia fun m => { m with staged := m.staged ++ [r], sinceCheckpoint := m.sinceCheckpoint + journalRecordBytes }
  if d.media.writeThrough || decide (2 ^ 21 < journalRecordBytes * d.media.staged.length) then d.programJournal else d

/-- The mapping that the newest checkpoint and the records after it give. -/
def journalledMap (d : Dev) : AMap UnitLoc :=
  (d.media.journal ++ d.media.staged).foldl (fun mp r => match r with
    | .map ns u (some l) => AMap.put mp (unitKey ns u) l
    | .map ns u none => AMap.drop mp (unitKey ns u)
    | _ => mp) d.media.checkpoint

/-! Placement (R379, R383, R387). -/

/-- The home group of a unit, and the one member of a bound slice. -/
def home (d : Dev) (ns u : Nat) : Nat × Option Nat :=
  match d.nsDef ns with
  | some n =>
    if n.mutable && n.kerbBind then
      let s := 4096 * u / (n.size / 48)
      (3 * (u % 32) + s % 3, some (s / 3))
    else (u % 96, none)
  | none => (u % 96, none)

/-- Programs pending on a member's die: those queued or running, parity included, and a page being filled. -/
def pendingOn (d : Dev) (g m : Nat) : Nat :=
  (d.media.programs.filter fun p => p.group = g && p.member = m).length
    + (if (AMap.look d.media.partials (16 * g + m)).isSome then 1 else 0)

/-- The members a unit may go to: any, or the bound one while its die is in service. -/
def allowed (d : Dev) (g : Nat) (bound : Option Nat) : List Nat :=
  match bound with
  | some m => if d.dieOk (dieOf g m) then [m] else List.range 16
  | none => List.range 16

/-- The data members of a superblock that have a page left. -/
def roomy (d : Dev) (g b : Nat) (ok : List Nat) : List Nat :=
  (d.dataMembers g b).filter fun m => ok.contains m && decide (AMap.get (d.sb g b).cursors m 0 < 2048)

/-- The open superblock of a group and profile with a page left. -/
def openSb (d : Dev) (g : Nat) (mutable' : Bool) (ok : List Nat) : Option Nat :=
  (d.media.sbs.find? fun x => x.1 / 2048 = g && x.2.state = .open && x.2.mutable = mutable'
    && !(d.roomy g (x.1 % 2048) ok).isEmpty).map fun x => x.1 % 2048

def meanEpoch (d : Dev) (g b : Nat) : Nat :=
  let ms := d.members g b
  2 ^ 16 * (ms.map fun m => (d.bg (2048 * dieOf g m + b)).epoch).sum / ms.length

/-- The free superblock a stream takes (R387): the longest free for CORPUS, the lowest mean erase epoch for MUTABLE. -/
def takeSb (d : Dev) (g : Nat) (mutable' : Bool) (ok : List Nat) : Option Nat :=
  let cs := (d.freeSbs g).filter fun b => (d.dataMembers g b).any fun m => ok.contains m
  let key (b : Nat) : Nat := if mutable' then d.meanEpoch g b else (d.sb g b).freedBeat
  cs.foldl (fun best b => match best with
    | none => some b
    | some a => if key b < key a then some b else some a) none

/-- May a unit be written while its group has only 2 free superblocks (R376, R386)? The writes of reclaim, of rebuild and of the
hold-up flush may. -/
def mayTakeLast (d : Dev) (u : ProgUnit) : Bool := d.media.flushing || (match u.source with
  | none => false
  | some l => (d.media.victims.any fun v => v.group = l.group && v.sb = l.bg) || d.media.rebuilding.contains l.die)

/-- An open superblock with a page left, opening one if need be; all but the writes named above wait at 2 free ones (R376, R386). -/
def ensureSb (d : Dev) (g : Nat) (mutable' last : Bool) (ok : List Nat) : Option Nat × Dev :=
  if !last && decide ((d.freeSbs g).length ≤ 2) then (none, d)
  else match d.openSb g mutable' ok with
    | some b => (some b, d)
    | none => match d.takeSb g mutable' ok with
      | none => (none, d)
      | some b => (some b, ((d.openIn g b .open).modSb g b fun s => { s with mutable := mutable' }).checkFull g)

/-- The class of a relocation's program: that of the reclaim or rebuild it belongs to, else BACKGROUND. -/
def relocationClass (d : Dev) (src : UnitLoc) : DieClass :=
  match d.media.victims.find? fun v => v.group = src.group && v.sb = src.bg with
  | some v => v.cls
  | none => if d.media.rebuilding.contains src.die then .rebuild else .background

/-- A job's programs fall in the BACKGROUND class (R309). -/
def unitClass (d : Dev) (u : ProgUnit) : DieClass := match u.source with
  | none => if (jobUnit u).isSome then .background else .write
  | some l => d.relocationClass l

/-- A program joins its die's queue. -/
def addProgram (d : Dev) (p : Program) (cls : DieClass) : Dev :=
  let d := d.modMedia fun m => { m with programs := m.programs ++ [p] }
  d.enqueue (kerbOf p.group p.member) (localDie p.group)
    { kind := .program, cls := cls, purpose := .program, ns := p.sb, piece := p.page }

/-- The mapping entry of a unit that a host write placed names its new copy. -/
def placed (d : Dev) (u : ProgUnit) : Dev :=
  let d := d.modSb u.loc.group u.loc.bg fun s => { s with copies := s.copies ++ [(unitKey u.ns u.unit, u.loc.member)] }
  match u.source with
  | none => d.modMedia fun m => { m with map := AMap.put m.map (unitKey u.ns u.unit) u.loc,
                                         clean := m.clean.filter (· ≠ unitKey u.ns u.unit) }
  | some _ => d

/-- One unit is placed (R383), if its home group has a member with room. -/
def placeUnit (d : Dev) (u : ProgUnit) : Option Dev :=
  let (g, bound) := d.home u.ns u.unit
  let mutable' := !d.corpus u.ns
  let ok := d.allowed g bound
  match d.ensureSb g mutable' (d.mayTakeLast u) ok with
  | (none, _) => none
  | (some b, d) =>
    let filling (m : Nat) : Bool := mutable' && (match AMap.look d.media.partials (16 * g + m) with
      | some (x :: _) => x.loc.bg = b
      | _ => false)
    let ms := ((d.dataMembers g b).filter fun m => ok.contains m).filter fun m =>
      filling m || (decide (d.pendingOn g m < 3) && decide (AMap.get (d.sb g b).cursors m 0 < 2048)
        && (!mutable' || (AMap.look d.media.partials (16 * g + m)).isNone))
    match d.pick ms with
    | (none, _) => none
    | (some m, d) =>
      let key := 16 * g + m
      let have' := if filling m then AMap.get d.media.partials key [] else []
      let cur := AMap.get (d.sb g b).cursors m 0
      let page := if have'.isEmpty then cur else cur - 1
      let d := if have'.isEmpty then d.modSb g b fun s => { s with cursors := AMap.put s.cursors m (cur + 1) } else d
      let i := have'.length
      let u := { u with loc := ⟨g, m, b, page, if mutable' then i / 4 else 0, if mutable' then i % 4 else 0⟩ }
      let d := d.placed u
      if mutable' && decide (have'.length < 15) then
        some (d.modMedia fun x => { x with partials := AMap.put x.partials key (have' ++ [u]) })
      else
        let d := d.modMedia fun x => { x with partials := AMap.drop x.partials key }
        some (d.addProgram ⟨g, m, b, page, false, false, have' ++ [u]⟩ (d.unitClass u))

/-- Units that wait are placed as room permits, in order. -/
def drainUnplaced (d : Dev) : Dev :=
  let waiting := d.media.unplaced
  let d := d.modMedia fun m => { m with unplaced := [] }
  waiting.foldl (fun d u =>
    match d.placeUnit u with
    | some d => d
    | none => d.modMedia fun m => { m with unplaced := m.unplaced ++ [u] }) d

/-- Commands whose data now lies in the protected buffer (in write-through mode: is programmed) complete (R383, R398). -/
def settleAcks (d : Dev) : Dev :=
  let held := if d.media.writeThrough then d.dirtyUnits else d.media.unplaced
  let waits (a : Ack) : Bool := held.any fun u => u.owner = some (a.queue, a.cid)
  let done := d.media.acks.filter fun a => !waits a
  let d := d.modMedia fun m => { m with acks := m.acks.filter waits }
  done.foldl (fun d a =>
    match a.command with
    | .write .. | .writeZeroes .. | .deallocate .. => d.finish a.queue a.cid .success
    | _ => (d.letGo a.held a.queue a.cid).finishPort a.queue a.cid .success) d

def putUnits (d : Dev) (us : List ProgUnit) : Dev := (d.modMedia fun m => { m with unplaced := m.unplaced ++ us }).drainUnplaced

/-- The units that a range of a namespace touches. -/
def unitsOf (d : Dev) (ns o n : Nat) : List Nat :=
  if n = 0 then [] else
    let sz := d.unitSize ns
    (List.range ((o + n - 1) / sz + 1 - o / sz)).map fun i => o / sz + i

/-- Bytes written to a namespace: whole new units are placed (R381, R383). Those of a host's command count as written for it (R403). -/
def writeNs (d : Dev) (owner : Option (Nat × Nat)) (ns o : Nat) (bytes : List Byte) : Dev :=
  let d := d.storeNs ns o bytes
  let d := if owner.any fun x => x.1 ≠ 0xFFFF then
      d.fadd Reg.FTL_HOST_WRITTEN Fld.FTL_HOST_WRITTEN_PIECES (ceilDiv bytes.length 4096)
    else d
  d.putUnits ((d.unitsOf ns o bytes.length).map fun u => ⟨ns, u, ⟨0, 0, 0, 0, 0, 0⟩, none, owner⟩)

/-- Is a group that a range's units are homed in refusing writes (R394)? -/
def refusesRange (d : Dev) (ns o n : Nat) : Bool := (d.unitsOf ns o n).any fun u => d.groupRefuses (d.home ns u).1

/-- The pieces, not wholly covered, of units that a write covers only in part (R381). -/
def partPieces (d : Dev) (ns o n : Nat) : List Nat :=
  let sz := d.unitSize ns / 4096
  (d.unitsOf ns o n).flatMap fun u => (List.range sz).filterMap fun i =>
    let p := sz * u + i
    if o ≤ 4096 * p && 4096 * p + 4096 ≤ o + n then none else some p

/-- Pieces of a namespace range that a host command needs are read in the FOREGROUND class; true when all are at hand. -/
def readPieces (d : Dev) (q cid ns : Nat) (ps : List Nat) : Bool × Dev :=
  let (n, d) := d.needAll (d.districtFor q cid) .foreground (ps.map fun p => (0, ns, p, .hostRead (65536 * q + cid)))
  (n = 0, d)

/-! Discard (R226, R395). -/

/-- Cached pieces of a range go from every Kerb. -/
def invalidate (d : Dev) (ns first count : Nat) : Dev :=
  (List.range 48).foldl (fun d k => d.cacheDropWhere k fun p => p.ns = ns && first ≤ p.piece && p.piece < first + count) d

def unmap (d : Dev) (ns u : Nat) : Dev :=
  if (d.mapOf ns u).isNone then d
  else (d.journalPut (.map ns u none)).modMedia fun m => { m with map := AMap.drop m.map (unitKey ns u) }

/-- A range of pieces is discarded: whole units are unmapped, covered pieces of other CORPUS units become zeros. -/
def discard (d : Dev) (owner : Option (Nat × Nat)) (ns first count : Nat) : Dev :=
  let sz := d.unitSize ns
  let o := 4096 * first
  let n := 4096 * count
  let us := d.unitsOf ns o n
  let whole (u : Nat) : Bool := o ≤ u * sz && u * sz + sz ≤ o + n
  let d := { d with nsMem := Mem.zero d.nsMem (2 ^ 49 * ns + o) n }
  let d := (us.filter whole).foldl (fun d u => d.unmap ns u) d
  let d := d.invalidate ns first count
  d.putUnits ((us.filter fun u => !whole u && (d.mapOf ns u).isSome).map fun u => ⟨ns, u, ⟨0, 0, 0, 0, 0, 0⟩, none, owner⟩)

/-- Copies of the units that a range touches leave the protected buffer (R396). -/
def dropBuffered (d : Dev) (ns first count : Nat) : Dev :=
  let us := d.unitsOf ns (4096 * first) (4096 * count)
  let hit (u : ProgUnit) : Bool := u.ns = ns && u.source.isNone && us.contains u.unit
  d.modMedia fun m =>
    { m with unplaced := m.unplaced.filter fun u => !hit u,
             programs := m.programs.map fun p => { p with units := p.units.filter fun u => !hit u },
             partials := m.partials.map fun p => (p.1, p.2.filter fun u => !hit u),
             clean := m.clean.filter fun k => !(k / 2 ^ 40 = ns && us.contains (k % 2 ^ 40)) }

/-- A secure erasure of ranges of a namespace starts: they are discarded, and no copy of them stays in the buffer (R396 steps 1
and 2). -/
def secureStart (d : Dev) (q cid ns : Nat) (ranges : List (Nat × Nat)) : Dev :=
  let e : Erasure := { queue := q, cid := cid, ns := ns, ranges := ranges }
  let d := ranges.foldl (fun d r => (d.dropBuffered ns r.1 r.2).discard none ns r.1 r.2) d
  d.modMedia fun m => { m with erasures := AMap.put m.erasures m.nextErasure e, nextErasure := m.nextErasure + 1 }

/-! Relocation (R384). -/

/-- A mapped unit is read so that it can be programmed elsewhere in its home group. -/
def relocate (d : Dev) (ns u : Nat) (cls : DieClass) : Dev :=
  match d.mapOf ns u with
  | none => d
  | some l =>
    if d.buffered ns u then d.putUnits [⟨ns, u, l, some l, none⟩]
    else d.enqueueAt l { kind := .read, cls := cls, purpose := .relocate u, ns := ns,
                         piece := if d.corpus ns then 16 * u else u, generation := d.generationAt ns l }

/-- Mapped units whose place meets a condition, as namespace and unit. -/
def mappedAt (d : Dev) (c : UnitLoc → Bool) : List (Nat × Nat) :=
  (d.media.map.filter fun x => c x.2).map fun x => (x.1 / 2 ^ 40, x.1 % 2 ^ 40)

/-! Erasing (R388). -/

def victimOf (d : Dev) (g b : Nat) : Option Victim := d.media.victims.find? fun v => v.group = g && v.sb = b

/-- Every block group of a superblock is journalled with its intent and its erase is queued. -/
def startErase (d : Dev) (v : Victim) : Dev :=
  let d := d.modMedia fun m => { m with victims := m.victims.map fun x =>
    if x.group = v.group && x.sb = v.sb then { x with erasing := true } else x }
  (d.members v.group v.sb).foldl (fun d m =>
    let die := dieOf v.group m
    let k := 2048 * die + v.sb
    let d := (d.modBg k fun x => { x with intent := true }).journalPut (.eraseIntent die v.sb (d.bg k).epoch)
    d.enqueue (kerbOf v.group m) (localDie v.group) { kind := .erase, cls := v.cls, purpose := .erase, ns := 0, piece := v.sb }) d

/-- A victim holds nothing that must be kept (R385, R386). -/
def victimEmpty (d : Dev) (v : Victim) : Bool :=
  let here (l : UnitLoc) : Bool := l.group = v.group && l.bg = v.sb
  (d.mappedAt here).isEmpty
    && !(d.media.stale.any fun s => match s.loc with
      | some l => here l
      | none => false)
    && !(d.media.programs.any fun p => p.group = v.group && p.sb = v.sb)

def driveVictims (d : Dev) : Dev :=
  d.media.victims.foldl (fun d v => if !v.erasing && d.victimEmpty v then d.startErase v else d) d

/-- An open superblock is closed; pieces of its MUTABLE pages that are not full are placed again. -/
def closeSb (d : Dev) (g b : Nat) : Dev :=
  if (d.sb g b).state ≠ .open then d
  else
    let d := d.modSb g b fun s => { s with state := .closed, closeBeat := d.beat, closeAge := d.media.age }
    let here (p : Nat × List ProgUnit) : Bool := p.1 / 16 = g && p.2.any fun u => u.loc.bg = b
    d.modMedia fun m => { m with partials := m.partials.filter fun p => !here p,
                                 unplaced := m.unplaced ++ (m.partials.filter here).flatMap (·.2) }

/-- A superblock becomes a victim: an open one is closed, its valid units are relocated, then it is erased. -/
def addVictim (d : Dev) (g b : Nat) (cls : DieClass) (erasures : List Nat) : Dev :=
  match d.victimOf g b with
  | some _ => d.modMedia fun m => { m with victims := m.victims.map fun x =>
      if x.group = g && x.sb = b then { x with erasures := x.erasures ++ erasures } else x }
  | none =>
    let d := d.closeSb g b
    let d := d.modMedia fun m => { m with victims := m.victims ++ [Victim.mk g b cls erasures false] }
    let d := (d.mappedAt fun l => l.group = g && l.bg = b).foldl (fun d x => d.relocate x.1 x.2 cls) d
    d.drainUnplaced.driveVictims

/-! Secure erasure (R396, R397). -/

/-- A unit lies in the ranges of an erasure; its namespace 0xFFFFFFFF stands for every namespace. -/
def covers (d : Dev) (e : Erasure) (ns u : Nat) : Bool :=
  e.ns = 0xFFFFFFFF || (ns = e.ns && e.ranges.any fun r =>
    let sz := d.unitSize e.ns / 4096
    decide (r.1 < u * sz + sz) && decide (u * sz < r.1 + r.2))

/-- A relocation of a unit of an erasure is still in flight (R397). -/
def relocating (d : Dev) (e : Erasure) : Bool :=
  let hit (o : DieOp) : Bool := match o.purpose with
    | .relocate u => d.covers e o.ns u
    | _ => false
  (d.dirtyUnits.any fun u => u.source.isSome && d.covers e u.ns u.unit) ||
    d.kerbs.any fun k => k.2.dies.any fun x => (x.2.queue ++ x.2.busy.toList ++ x.2.suspended.toList).any hit

/-- An erasure whose superblocks are all erased is journalled as complete and its command completes. -/
def erasureCheck (d : Dev) (i : Nat) : Dev :=
  match AMap.look d.media.erasures i with
  | none => d
  | some e =>
    if e.journalled && e.superblocks.isEmpty && !d.relocating e then
      let d := (d.journalPut (.secureDone i)).modMedia fun m => { m with erasures := AMap.drop m.erasures i }
      let d := if e.incomplete && !e.format then (d.fadd Reg.FTL_SECURE Fld.FTL_SECURE_INCOMPLETE 1).ftlError 4 else d
      let st := if e.incomplete then Status.internalError else .success
      if e.ended then d
      else match d.inflightOf e.queue e.cid with
        | some { command := .delete .., .. } => d.finishPort e.queue e.cid st
        | _ => d.finish e.queue e.cid st
    else d

/-- Steps 4 to 6 of R396: the erasure is journalled and every superblock with a copy is emptied and erased. -/
def eraseCopies (d : Dev) (i : Nat) (e : Erasure) : Dev :=
  let hit (c : Nat × Nat) : Bool := d.covers e (c.1 / 2 ^ 40) (c.1 % 2 ^ 40)
  let sbs := d.media.sbs.filter fun x => x.2.copies.any hit
  let lost := sbs.any fun x => x.2.copies.any fun c => hit c && !d.dieOk (dieOf (x.1 / 2048) c.2)
  let places := sbs.map fun x => (x.1 / 2048, x.1 % 2048)
  let e := { e with drained := true, journalled := true, superblocks := places, incomplete := lost }
  let d := (d.journalPut (.secureStart i)).modMedia fun m => { m with erasures := AMap.put m.erasures i e }
  -- the log names each die that accepts no erase; the code of the record is not in the spec (R397)
  let dies := (sbs.flatMap fun x => (x.2.copies.filter fun c => hit c && !d.dieOk (dieOf (x.1 / 2048) c.2)).map fun c =>
    dieOf (x.1 / 2048) c.2).dedup
  let d := dies.foldl (fun d die =>
    let (x, d) := d.draw
    d.logFault (srcChannel (die / 4)) (x.toNat % 2 ^ 16) 1 0 (die % 4)) d
  let d := places.foldl (fun d x => d.addVictim x.1 x.2 .write [i]) d
  d.erasureCheck i

/-- A relocated copy has ended stale: for every erasure of its unit, its superblock is emptied and erased too (R397). -/
def extendErasures (d : Dev) (u : ProgUnit) : Dev :=
  let x := (u.loc.group, u.loc.bg)
  d.media.erasures.foldl (fun d (i, e) =>
    if !e.journalled || e.format || e.superblocks.contains x || !d.covers e u.ns u.unit then d
    else (d.modMedia fun m => { m with erasures := AMap.upd m.erasures i fun e => { e with superblocks := e.superblocks ++ [x] } }).addVictim
      x.1 x.2 .write [i]) d

/-- Erasures that waited for a relocation in flight may be complete. -/
def checkErasures (d : Dev) : Dev := d.media.erasures.foldl (fun d x => d.erasureCheck x.1) d

/-- A superblock is free again (R388): its victims' erasures go on. -/
def freeSb (d : Dev) (v : Victim) : Dev :=
  let d := d.modSb v.group v.sb fun _ => { state := .free, freedBeat := d.beat }
  let d := d.modMedia fun m => { m with victims := m.victims.filter fun x => !(x.group = v.group && x.sb = v.sb) }
  let secure := v.erasures.any fun i => (AMap.look d.media.erasures i).any fun e => !e.format
  let d := if v.erasures.isEmpty then d.fadd Reg.FTL_RECLAIM Fld.FTL_RECLAIM_SUPERBLOCKS 1
    else if secure then d.fadd Reg.FTL_SECURE Fld.FTL_SECURE_SUPERBLOCKS 1 else d
  let d := v.erasures.foldl (fun d i =>
    (d.modMedia fun m => { m with erasures := AMap.upd m.erasures i fun e =>
      { e with superblocks := e.superblocks.filter (· ≠ (v.group, v.sb)) } }).erasureCheck i) d
  (d.checkFull v.group).drainUnplaced.settleAcks

/-! Rewrites and retirement (R391 to R393). -/

/-- A block group is scheduled for rewrite: its valid units are relocated in the BACKGROUND class. -/
def scheduleRewrite (d : Dev) (die b : Nat) (disturb : Bool) : Dev :=
  let k := 2048 * die + b
  if d.media.rewrites.contains k then d
  else
    let d := d.modMedia fun m => { m with rewrites := m.rewrites ++ [k] }
    let d := d.fadd Reg.FTL_REWRITE (if disturb then Fld.FTL_REWRITE_DISTURB else Fld.FTL_REWRITE_OTHER) 1
    let d := d.modSb (groupOfDie die) b fun s => { s with rewriteFirst := true }
    (d.mappedAt fun l => l.die = die && l.bg = b).foldl (fun d x => d.relocate x.1 x.2 .background) d

/-- Programs and erases on a retired die end: the units of its programs are placed again, and its block groups are not erased any more.
Secure erasures with a copy on it stay incomplete (R397). -/
def dropDieWork (d : Dev) (die : Nat) : Dev :=
  let g := groupOfDie die
  let m := memberOfDie die
  let mine (p : Program) : Bool := p.group = g && p.member = m
  let units := (d.media.programs.filter mine).flatMap (·.units) ++ AMap.get d.media.partials (16 * g + m) []
  let read (o : DieOp) : Bool := o.kind = .read
  let d := d.modDie (die / 32) (die % 32) fun x =>
    { x with busy := x.busy.filter read, suspended := none, resume := false, queue := x.queue.filter read }
  let erased (b : Nat) : Bool := (d.bg (2048 * die + b)).intent
  let due := d.media.victims.filter fun v => v.erasing && v.group = g && erased v.sb
  let lost (e : Erasure) : Bool := e.superblocks.any fun x => x.1 = g &&
    (d.sb g x.2).copies.any fun c => c.2 = m && d.covers e (c.1 / 2 ^ 40) (c.1 % 2 ^ 40)
  let d := d.modMedia fun s =>
    { s with programs := s.programs.filter fun p => !mine p, partials := AMap.drop s.partials (16 * g + m), unplaced := units ++ s.unplaced,
             bgs := s.bgs.map (fun (x : Nat × BlockGroup) => (x.1, if x.1 / 2048 = die then { x.2 with intent := false } else x.2)),
             erasures := s.erasures.map (fun (x : Nat × Erasure) => (x.1, if lost x.2 then { x.2 with incomplete := true } else x.2)) }
  let d := due.foldl (fun d v =>
    if (List.range 16).any fun m => (d.bg (2048 * dieOf g m + v.sb)).intent then d else d.freeSb v) d
  d.drainUnplaced

/-- A die is retired (R392, R393): logged, shown, reported; its units are rebuilt. A superblock in use whose parity it held has rows without
parity, takes no further data (DEDUCED, log entry 32) and is rewritten (R391). -/
def retireDie (d : Dev) (die : Nat) : Dev :=
  if d.media.retired.contains die || 1536 ≤ die then d
  else
    let g := groupOfDie die
    let m := memberOfDie die
    let held := d.media.sbs.filter fun x => x.1 / 2048 = g && (x.2.state = .closed || x.2.state = .open) && x.2.parity = some m
    let d := d.modMedia fun s => { s with retired := s.retired ++ [die], rebuilding := s.rebuilding ++ [die] }
    let a := Reg.FTL_DIE_RETIRED (die / 64)
    let d := (d.setReg a ((d.reg a).lor (2 ^ (die % 64)))).ftlError 3
    let d := d.logFault (srcChannel (die / 4)) 0x0314 2 0 (die % 4)
    let d := d.asyncAll .smartHealth 0x02 (some 2)
    let d := held.foldl (fun d x => (d.closeSb g (x.1 % 2048)).modSb g (x.1 % 2048) fun s => { s with unprotected := true }) d
    let d := d.dropDieWork die
    let d := (d.mappedAt fun l => l.die = die).foldl (fun d x => d.relocate x.1 x.2 .rebuild) d
    let d := held.foldl (fun d x =>
      (d.dataMembers g (x.1 % 2048)).foldl (fun d m => d.scheduleRewrite (dieOf g m) (x.1 % 2048) false) d) d
    d.checkFull g

/-- A die whose bad block groups exceed 64 is retired. -/
def badCheck (d : Dev) (die : Nat) : Dev :=
  if 64 < (d.media.bgs.filter fun x => x.1 / 2048 = die && x.2.bad).length then d.retireDie die else d

/-! Programs (R383, R384). -/

/-! Pages (R375, R382). -/

/-- The ciphertext of a unit: AES-256-XTS under its namespace's key, each 4 KiB piece with its logical number as tweak. -/
def sealed (d : Dev) (ns u : Nat) : List Byte :=
  let n := d.unitSize ns / 4096
  let slot := ((d.nsDef ns).map (·.keySlot)).getD 0
  let key := Config.namespaceKey slot (AMap.get d.sec.nsKeys slot 0)
  (List.range n).flatMap fun i => Aes.xts false key (n * u + i) (d.loadNs ns (4096 * (n * u + i)) 4096)

/-- The bytes of a unit, read back from its ciphertext. -/
def unsealed (d : Dev) (ns u : Nat) (bs : List Byte) : List Byte :=
  let n := d.unitSize ns / 4096
  let slot := ((d.nsDef ns).map (·.keySlot)).getD 0
  let key := Config.namespaceKey slot (AMap.get d.sec.nsKeys slot 0)
  (List.range n).flatMap fun i => Aes.xts true key (n * u + i) ((bs.drop (4096 * i)).take 4096)

/-- The XOR of the pages of a row on the members given; a page not programmed counts as zeros. -/
def rowXor (d : Dev) (g b page : Nat) (ms : List Nat) : List Byte :=
  ms.foldl (fun x m => match AMap.look (d.sb g b).pages (2048 * m + page) with
    | some y => Aes.xorBytes x y
    | none => x) (List.replicate 65536 0)

/-- What flash holds of a unit at a place: its ciphertext, rebuilt from the row where its die is retired (R390 step 4). -/
def copyAt (d : Dev) (ns : Nat) (l : UnitLoc) : Option (List Byte) :=
  let s := d.sb l.group l.bg
  match AMap.look s.pages (2048 * l.member + l.page) with
  | none => none
  | some y =>
    let y := if d.dieOk l.die then y else d.rowXor l.group l.bg l.page (s.members.filter (· ≠ l.member))
    some ((y.drop (4096 * (4 * l.plane + l.piece))).take (d.unitSize ns))

/-- The content of a program's page: the parity of its row, or the ciphertext of its units, which a relocation copies (R382). -/
def pageOf (d : Dev) (p : Program) : List Byte :=
  if p.parity then d.rowXor p.group p.sb p.page ((d.sb p.group p.sb).members.filter fun m => (d.sb p.group p.sb).parity ≠ some m)
  else p.units.foldl (fun page u =>
    let o := 4096 * (4 * u.loc.plane + u.loc.piece)
    let bs := match u.source with
      | none => d.sealed u.ns u.unit
      | some l => (d.copyAt u.ns l).getD (d.sealed u.ns u.unit)
    page.take o ++ bs ++ page.drop (o + bs.length)) (List.replicate 65536 0)

/-- A programmed unit: it is clean, its mapping change is journalled, and a relocated copy replaces the entry only if that
still names the copy that was read. -/
def unitProgrammed (d : Dev) (u : ProgUnit) : Dev :=
  let key := unitKey u.ns u.unit
  match u.source with
  | none =>
    if d.mapOf u.ns u.unit = some u.loc then
      (d.journalPut (.map u.ns u.unit (some u.loc))).modMedia fun m => { m with clean := m.clean ++ [key] }
    else d
  | some l =>
    let d := d.fadd Reg.FTL_MOVED Fld.FTL_MOVED_PIECES (d.unitSize u.ns / 4096)
    let d := if d.mapOf u.ns u.unit = some l then
        (d.journalPut (.map u.ns u.unit (some u.loc))).modMedia fun m => { m with map := AMap.put m.map key u.loc }
      else d.extendErasures u
    { d with media := { d.media with stale := d.media.stale.map fun s =>
        if s.ns = u.ns && s.unit = u.unit && s.loc = some l then { s with loc := some u.loc } else s } }

/-- Clean units leave the buffer, oldest first, when it would exceed 1 GiB. -/
def trimClean (d : Dev) : Dev :=
  let size (k : Nat) : Nat := d.unitSize (k / 2 ^ 40)
  let excess := d.dirtyBytes + (d.media.clean.map size).sum - 2 ^ 30
  let drop := d.media.clean.foldl (fun (acc : Nat × Nat) k => if acc.1 < excess then (acc.1 + size k, acc.2 + 1) else acc) (0, 0)
  if excess = 0 then d else d.modMedia fun m => { m with clean := m.clean.drop drop.2 }

/-- The parity of every complete row is programmed while the parity member has room; a superblock whose pages are all
programmed is closed. -/
def driveParity (d : Dev) (g b : Nat) (cls : DieClass) : Dev :=
  let s := d.sb g b
  let ms := d.dataMembers g b
  let full := ms.foldl (fun n m => min n (AMap.get s.programmed m 0)) 2048
  match (d.parityMember g b).filter (d.memberOk g b) with
  | none => d
  | some p =>
    let n := min (full - s.parityRows) (3 - d.pendingOn g p)
    let d := (List.range n).foldl (fun d i => d.addProgram ⟨g, p, b, s.parityRows + i, true, false, []⟩ cls) d
    let d := d.modSb g b fun s => { s with parityRows := s.parityRows + n }
    let s := d.sb g b
    if s.state = .open && full = 2048 && AMap.get s.programmed p 0 = 2048 then
      d.modSb g b fun s => { s with state := .closed, closeBeat := d.beat, closeAge := d.media.age }
    else d

/-- Rebuilding of a die ends when none of its units is mapped on it (R393). -/
def rebuildCheck (d : Dev) : Dev :=
  d.modMedia fun m => { m with rebuilding := m.rebuilding.filter fun die => m.map.any fun x => x.2.die = die }

/-- A program has ended well. -/
def programmed (d : Dev) (p : Program) (cls : DieClass) : Dev :=
  let d := d.modMedia fun m => { m with programs := m.programs.filter fun x =>
    !(x.group = p.group && x.member = p.member && x.sb = p.sb && x.page = p.page) }
  let page := d.pageOf p
  let d := d.modSb p.group p.sb fun s =>
    { s with programmed := AMap.put s.programmed p.member (AMap.get s.programmed p.member 0 + 1),
             pages := AMap.put s.pages (2048 * p.member + p.page) page }
  let d := p.units.foldl (fun d u => d.unitProgrammed u) d
  let d := (((d.driveParity p.group p.sb cls).drainUnplaced.rebuildCheck.trimClean).driveVictims).settleAcks
  if p.units.any fun u => u.source.isSome then d.checkErasures else d

/-! Reclaim (R386). -/

/-- Valid units of a superblock: mapped there, or kept for queries that see an earlier state. -/
def validUnits (d : Dev) (g b : Nat) : Nat :=
  (d.mappedAt fun l => l.group = g && l.bg = b).length + (d.media.stale.filter fun s => match s.loc with
    | some l => l.group = g && l.bg = b
    | none => false).length

/-- The victim of a group and profile: closed, not kept under R385; superblocks with a finished rewrite first, then the fewest
valid units, then the earlier close beat. -/
def chooseVictim (d : Dev) (g : Nat) (mutable' onlyRewrites : Bool) : Option Nat :=
  let keep (b : Nat) : Bool := d.media.stale.any fun s => match s.loc with
    | some l => l.group = g && l.bg = b
    | none => false
  let rewritten (b : Nat) (s : SuperBlock) : Bool := s.rewriteFirst &&
    (d.mappedAt fun l => l.group = g && l.bg = b && d.media.rewrites.contains l.bgKey).isEmpty
  let cs := d.media.sbs.filterMap fun x =>
    let b := x.1 % 2048
    if x.1 / 2048 = g && x.2.state = .closed && x.2.mutable = mutable' && !keep b && (d.victimOf g b).isNone
        && (!onlyRewrites || rewritten b x.2) then
      some (b, (if rewritten b x.2 then 0 else 1), d.validUnits g b, x.2.closeBeat)
    else none
  (cs.foldl (fun best c => match best with
    | none => some c
    | some a =>
      if c.2.1 < a.2.1 || (c.2.1 = a.2.1 && (c.2.2.1 < a.2.2.1 || (c.2.2.1 = a.2.2.1 && c.2.2.2 < a.2.2.2)))
      then some c else some a) none).map (·.1)

end Dev

/-! The meanings. -/

/-- A NAND program ends on a die. One that does not verify is repeated: its data is still in the protected buffer. -/
def nandProgramDone (d : Dev) (k j : Nat) (verified : Bool) : Dev :=
  let g := 3 * j + k % 3
  let m := k / 3
  match (d.die k j).busy with
  | some o =>
    if o.kind != .program || o.purpose != .program then d
    else
      let d := d.modDie k j fun x => { x with busy := none }
      let d := d.fadd (Reg.KERB_CH_PIECES k (j / 4)) Fld.KERB_CH_PIECES_PIECES 16
      let d := match d.media.programs.find? fun p => p.group = g && p.member = m && p.sb = o.ns && p.page = o.piece with
        | none => d
        | some p =>
          if verified then d.programmed p o.cls
          else d.modDie k j fun x => { x with queue := { o with since := 0, suspends := 0 } :: x.queue }
      d.issue k j
  | none => d

/-- A NAND erase ends on a die (R388): the epoch rises, cached pieces of the block group go, ERASE_DONE is journalled; one
that fails marks the block group bad. The superblock is free when its last block group is done. -/
def nandEraseDone (d : Dev) (k j : Nat) (verified : Bool) : Dev :=
  let die := 32 * k + j
  match (d.die k j).busy with
  | some o =>
    if o.kind != .erase then d
    else
      let d := d.modDie k j fun x => { x with busy := none }
      let key := 2048 * die + o.piece
      let d := if verified then
          let d := d.modBg key fun x => { x with epoch := (x.epoch + 1) % 2 ^ 32, intent := false, reads := 0 }
          (d.cacheDropWhere k fun p => Dev.generationBg p.generation = key).journalPut (.eraseDone die o.piece)
        else (d.modBg key fun x => { x with bad := true, intent := false }).badCheck die
      let d := d.modMedia fun m => { m with rewrites := m.rewrites.filter (· ≠ key) }
      let g := groupOfDie die
      let d := match d.victimOf g o.piece with
        | some v =>
          if v.erasing && !((List.range 16).any fun m => (d.bg (2048 * dieOf g m + o.piece)).intent) then d.freeSb v else d
        | none => d
      d.issue k j
  | none => d

/-- A MUTABLE row open for 100 ms is completed with zero pieces (R383). -/
def mutableRowTimeout (d : Dev) (g : Nat) : Dev :=
  let opens := (d.media.sbs.filter fun x => x.1 / 2048 = g && x.2.state = .open && x.2.mutable).map fun x => x.1 % 2048
  opens.foldl (fun d b =>
    let top := (d.dataMembers g b).foldl (fun n m => max n (AMap.get (d.sb g b).cursors m 0)) 0
    (d.dataMembers g b).foldl (fun d m =>
      let cur := AMap.get (d.sb g b).cursors m 0
      let part := match AMap.look d.media.partials (16 * g + m) with
        | some (x :: r) => if x.loc.bg = b then x :: r else []
        | _ => []
      let pad := if part.isEmpty then 0 else 16 - part.length
      let d := if part.isEmpty then d else
        let d := d.modMedia fun x => { x with partials := AMap.drop x.partials (16 * g + m) }
        d.addProgram ⟨g, m, b, cur - 1, false, false, part⟩ .write
      let n := min (top - cur) (3 - d.pendingOn g m)
      let d := (List.range n).foldl (fun d i => d.addProgram ⟨g, m, b, cur + i, false, false, []⟩ .write) d
      let d := d.modSb g b fun s => { s with cursors := AMap.put s.cursors m (cur + n) }
      let d := d.modMedia fun x => { x with padded := AMap.put x.padded g (AMap.get x.padded g 0 + pad + 16 * n) }
      d.fset (Reg.FTL_GRP g) Fld.FTL_GRP_PADDED (min (AMap.get d.media.padded g 0 / 1024) 0xFFF)) d) d

/-- A group short of free superblocks reclaims its victim of a profile (R386; 1 CORPUS, 2 MUTABLE). -/
def reclaimVictim (d : Dev) (g profile : Nat) : Dev :=
  let n := (d.freeSbs g).length
  let only := decide (32 ≤ n)
  let cls : DieClass := if 12 ≤ n then .background else .write
  if 12 ≤ n && (d.fbit Reg.FTL_CTL Fld.FTL_CTL_RECLAIM_HOLD || !d.slotNames 6) then d
  else match d.chooseVictim g (profile = 2) only with
    | some b => d.addVictim g b cls []
    | none => d

/-- The checkpoint of R399, in a slot that names activity [11], once more than 4 GiB were journalled since the last one: the mapping is
written twice, and the journal older than it goes, but for what it does not hold: job checkpoints and secure erasures in progress. The
superblocks of the earlier pairs and of the checkpoint before are reclaimed. Where a checkpoint lies is not in the spec: in the first free
superblock of each of the two groups of the present pair (DESIGN CHOICE, log entry 32). -/
def journalCheckpoint (d : Dev) : Dev :=
  let kept (r : JournalRec) : Bool := match r with
    | .jobCheckpoint .. => true
    | .secureStart i => (AMap.look d.media.erasures i).isSome
    | _ => false
  if !d.slotNames 11 || decide (d.media.sinceCheckpoint ≤ 2 ^ 32) then d
  else
    let d := d.programJournal
    let old := (d.media.sbs.filter fun x => x.2.state = .checkpoint || (x.2.state = .journal && x.2.pair ≠ d.media.pair)).map fun x =>
      (x.1 / 2048, x.1 % 2048)
    let table := d.journalledMap
    let d := d.modMedia fun m => { m with checkpoint := table, journal := m.journal.filter kept, sinceCheckpoint := 0 }
    let d := (d.openTwice d.media.pair .checkpoint).fadd Reg.FTL_JOURNAL Fld.FTL_JOURNAL_CHECKPOINTS 1
    old.foldl (fun d x => d.addVictim x.1 x.2 .background []) d

/-- No query sees an earlier state of a secure erasure's ranges any more (R396 steps 3 to 6). -/
def secureDrained (d : Dev) (i : Nat) : Dev :=
  match AMap.look d.media.erasures i with
  | none => d
  | some e =>
    if e.journalled || (d.media.stale.any fun s => d.covers e s.ns s.unit) then d else d.eraseCopies i e

def execMutableRowTimeout (group : Nat) (s : State) : Host.Outcome State Fault Refusal :=
  effect (fun d => mutableRowTimeout d group) s

def execReclaimVictim (group profile : Nat) (s : State) : Host.Outcome State Fault Refusal :=
  effect (fun d => reclaimVictim d group profile) s

def execJournalCheckpoint (s : State) : Host.Outcome State Fault Refusal := effect (fun d => journalCheckpoint d) s

def execSecureDeallocDrained (erasure : Nat) (s : State) : Host.Outcome State Fault Refusal :=
  effect (fun d => secureDrained d erasure) s

/-- A suspended operation is due to resume after 1 ms (R229). -/
def execSuspendTimeout (kerb die : Nat) (s : State) : Host.Outcome State Fault Refusal :=
  effect (fun d => (d.modDie kerb die fun x => { x with resume := x.suspended.isSome }).issue kerb die) s

end Sys2Proof.Machine
end

