-- ==== Sys2Proof/Machine/Services.lean ====
section
/-! DEFINITION. Service records (R273 to R276), query descriptors (R279), result records (R283 to R287), and how a query and
its command end (R26, R287, R297, R546). -/

namespace Sys2Proof.Machine

/-! Service records (R274). -/

def stageAt (b : List Byte) (o : Nat) : StageEntry :=
  { first := fieldLE b o 2, count := fieldLE b (o + 2) 2, opList := fieldLE b (o + 4) 4, opCount := fieldLE b (o + 8) 1 }

def cascadeAt (b : List Byte) (i : Nat) : StageEntry :=
  let o := 0x50 + 16 * i
  { stageAt b o with keep := fieldLE b (o + 0xA) 2, exitBelow := fieldLE b (o + 0xC) 4 }

def serviceOf (object : Nat) (b : List Byte) : Service :=
  let stages := fieldLE b 7 1
  { object := object, id := fieldLE b 4 2, district := fieldLE b 6 1, stages := stages, ns := fieldLE b 8 4,
    graph := fieldLE b 0xC 1 = 2, generate := bits stages 4 1 = 1 && fieldLE b 0xD 1 = 1, maxK := fieldLE b 0xE 2,
    candidates := fieldLE b 0x10 2, chunkTokens := fieldLE b 0x12 2, decodePerPass := fieldLE b 0x14 2,
    textMax := fieldLE b 0x16 2, maxTokens := fieldLE b 0x18 2, cascadeStages := fieldLE b 0x1A 1,
    contextEntries := fieldLE b 0x1B 1, endToken := fieldLE b 0x1C 4, encode := stageAt b 0x20, route := stageAt b 0x30,
    extract := stageAt b 0x40, cascade := (List.range 8).map (cascadeAt b) }

def Service.encodes (s : Service) : Bool := bits s.stages 0 1 = 1
def Service.fetches (s : Service) : Bool := bits s.stages 2 1 = 1
def Service.reranks (s : Service) : Bool := bits s.stages 3 1 = 1
def Service.extracts (s : Service) : Bool := bits s.stages 4 1 = 1

/-- The search depth (R282). -/
def Service.depth (s : Service) (k : Nat) : Nat := if s.reranks then s.candidates else k

/-- A query has completed: its results, if it has any, are acknowledged. -/
def Query.over (q : Query) : Bool := q.phase = .done && !q.unacked

def allZero (b : List Byte) : Bool := b.all (· == 0)

/-- Stage entries that the service runs. -/
def Service.entries (s : Service) : List StageEntry :=
  (if s.encodes then [s.encode] else []) ++ [s.route] ++ (if s.extracts then [s.extract] else [])
    ++ (if s.reranks then s.cascade.take s.cascadeStages else [])

def StageEntry.blocks (e : StageEntry) : List Nat := (List.range e.count).map (e.first + ·)

def between (v lo hi : Nat) : Bool := lo ≤ v && v ≤ hi

namespace Dev

/-- Does a global logical block lie in a district under BLOCK_MAP (R275)? -/
def blockInDistrict (d : Dev) (g dist : Nat) : Bool := match d.physOf g with
  | some b => (d.block b).home = dist
  | none => false

/-- The checks of R274 and R275 on a record of a district. -/
def serviceOk (d : Dev) (dist : Nat) (b : List Byte) : Bool :=
  let s := serviceOf 0 b
  let ks := (s.cascade.take s.cascadeStages).map (·.keep)
  b.length = 512 && fieldLE b 0 4 = 0x43565253 && s.id ≤ 1023 && s.district = dist && s.stages < 32
    && bits s.stages 1 1 = 1 && (!(s.reranks || s.extracts) || s.fetches)
    && between (fieldLE b 0xC 1) 1 2 && fieldLE b 0xD 1 ≤ 1 && between s.maxK 1 4096
    && (if s.reranks then between s.candidates s.maxK 4096 && between s.cascadeStages 1 8
        else s.candidates = 0 && s.cascadeStages = 0)
    && between s.chunkTokens 256 1024 && between s.decodePerPass 1 64 && between s.textMax 1 16 && between s.maxTokens 1 4096
    && (if s.generate then between s.contextEntries 1 16 else s.contextEntries = 0)
    && (s.encodes || allZero (sliceB b 0x20 16)) && (s.extracts || allZero (sliceB b 0x40 16))
    && allZero (sliceB b 0x29 7) && allZero (sliceB b 0x39 7) && allZero (sliceB b 0x49 7)
    && ((List.range 8).all fun i => fieldLE b (0x59 + 16 * i) 1 = 0)
    && allZero (sliceB b (0x50 + 16 * s.cascadeStages) (16 * (8 - s.cascadeStages)))
    && allZero (sliceB b 0xD0 304)
    && s.entries.all (fun e => 1 ≤ e.count && between e.opCount 1 64 && e.blocks.all fun g => d.blockInDistrict g dist)
    && (ks.all fun k => s.maxK ≤ k) && ((ks.zip ks.tail).all fun p => p.2 ≤ p.1)
    && (match ks with
      | k :: _ => k ≤ s.candidates
      | [] => true)

/-- The service of an ID: the placed one, or else one whose release takes effect at the next close (R273; DESIGN CHOICE, log entry 24: a
record placed again before that close is in force at once). -/
def serviceById (d : Dev) (id : Nat) : Option Service :=
  (d.services.find? fun s => s.id = id && !s.gone).or (d.services.find? fun s => s.id = id)

/-- The refusals of R276. -/
def serviceFor (d : Dev) (dist id : Nat) : Except Status Service :=
  match d.serviceById id with
  | none => .error .invalidField
  | some s =>
    if s.district ≠ dist then .error .invalidField
    else if (s.entries.flatMap StageEntry.blocks).any fun g => (d.physOf g).isNone || d.quarantined (g / 64) then
      .error .districtNotResident
    else .ok s

end Dev

/-! Query descriptors (R279). -/

def qdescOf (b : List Byte) : QDesc :=
  let flags := fieldLE b 2 2
  { service := fieldLE b 0 2, flags := flags, ns := fieldLE b 4 4, version := fieldLE b 8 4, k := fieldLE b 0xC 2,
    probes := fieldLE b 0xE 2, filter := fieldLE b 0x10 2, budget := fieldLE b 0x12 2, payloadKind := fieldLE b 0x14 1,
    extractTokens := fieldLE b 0x16 2, payloadAddr := fieldLE b 0x18 8, payloadLength := fieldLE b 0x20 4,
    payloadKey := fieldLE b 0x24 4, resultAddr := fieldLE b 0x28 8, resultLength := fieldLE b 0x30 4,
    resultKey := fieldLE b 0x34 4, params := (List.range 8).map fun i => fieldLE b (0x38 + 4 * i) 4,
    targetBeat := fieldLE b 0x58 8, tag := fieldLE b 0x60 4,
    reservedZero := flags < 32 && fieldLE b 0x15 1 = 0 && bits (fieldLE b 0x10 2) 8 7 = 0 && allZero (sliceB b 0x64 156)
      && (bits flags 3 1 = 1 || fieldLE b 0x58 8 = 0)
      && (bits (fieldLE b 0x10 2) 15 1 = 1 || (fieldLE b 0x10 2 = 0 && allZero (sliceB b 0x38 32))) }

def QDesc.noWiden (q : QDesc) : Bool := bits q.flags 0 1 = 1
def QDesc.streams (q : QDesc) : Bool := bits q.flags 1 1 = 1
def QDesc.sweep (q : QDesc) : Bool := bits q.flags 2 1 = 1
def QDesc.atBeat (q : QDesc) : Bool := bits q.flags 3 1 = 1
def QDesc.returnText (q : QDesc) : Bool := bits q.flags 4 1 = 1

namespace Dev

/-! Queries. -/

def queryOf (d : Dev) (i : Nat) : Option Query := AMap.look d.queries i
def modQuery (d : Dev) (i : Nat) (f : Query → Query) : Dev := { d with queries := AMap.upd d.queries i f }

/-- The queries of a command, by index. -/
def queriesOf (d : Dev) (q cid : Nat) : List Query := (d.queries.map (·.2)).filter fun x => x.queue = q && x.cid = cid

/-- The time since the last mark goes to a stage: 0 ENCODE, 1 SEARCH, 2 FETCH, 3 RERANK, 4 EXTRACT, 5 RETURN. -/
def mark (d : Dev) (i stage : Nat) : Dev :=
  d.modQuery i fun q => { q with spent := AMap.put q.spent stage (AMap.get q.spent stage 0 + (d.time.ns - q.since)),
                                 since := d.time.ns }

/-- Bytes that a port carried for a district (R341). -/
def countPort (d : Dev) (port dist : Nat) (out : Bool) (n : Nat) : Dev :=
  match port, out with
  | 0, false => d.fadd (Reg.CNT_DIST_P0IN dist) Fld.CNT_DIST_P0IN_BYTES n
  | 0, true => d.fadd (Reg.CNT_DIST_P0OUT dist) Fld.CNT_DIST_P0OUT_BYTES n
  | _, false => d.fadd (Reg.CNT_DIST_P1IN dist) Fld.CNT_DIST_P1IN_BYTES n
  | _, true => d.fadd (Reg.CNT_DIST_P1OUT dist) Fld.CNT_DIST_P1OUT_BYTES n

/-! Result records (R283 to R287). -/

/-- The flags of a header: HOLDOVER, WALK_LIMIT and OVER_BUDGET from the query, the others as given. -/
def headerFlags (d : Dev) (q : Query) (short final truncated : Bool) : Nat :=
  short.toNat + 2 * (q.holdover || d.holdover).toNat + 4 * (!final).toNat + 8 * final.toNat + 16 * truncated.toNat
    + 32 * q.walkLimit.toNat + 64 * (decide (q.arrivalBeat + q.desc.budget < d.beat)).toNat

/-- The header of R284. -/
def headerBytes (d : Dev) (q : Query) (count : Nat) (short final truncated : Bool) (seq : Nat) (st : Status) : List Byte :=
  toLE 2 count ++ toLE 2 (d.headerFlags q short final truncated) ++ toLE 2 (if short then q.desc.k - count else 0)
    ++ capLE 1 q.rounds ++ capLE 1 q.levels ++ toLE 8 d.beat ++ toLE 8 q.resolveBeat ++ toLE 4 q.version ++ toLE 4 q.desc.tag
    ++ capLE 4 q.counts.high ++ capLE 4 q.counts.low ++ capLE 4 q.counts.side ++ capLE 4 q.counts.other
    ++ capLE 8 q.counts.prunes ++ capLE 4 q.counts.filtered ++ toLE 2 seq ++ toLE 2 st.code

/-- An entry of R285. -/
def entryBytes (c : Cand) (span : Option (Nat × Nat)) (text : Nat) : List Byte :=
  let (a, z) := span.getD (0, c.info.textLength)
  toLE 5 c.info.id ++ toLE 1 c.info.gen ++ toLE 1 c.source ++ toLE 1 0 ++ toLE 4 (enc32 c.score) ++ toLE 4 (enc32 c.bound)
    ++ toLE 4 c.info.docId ++ toLE 4 a ++ toLE 4 z ++ toLE 4 text

/-- Bytes written into a query's result buffer by RDMA. -/
def putResult (d : Dev) (q : Query) (o : Nat) (bytes : List Byte) : Dev :=
  if bytes.isEmpty then d
  else (d.emit (.rdmaWrite q.queue q.desc.resultKey (q.desc.resultAddr + o) bytes)).countPort (d.portOf q.queue) q.district
    true bytes.length

/-- Where the passage record of a candidate stands: the namespace INGEST noted, else the index's, and the byte offset. -/
def textPlace (d : Dev) (q : Query) (c : Cand) : Nat × Nat :=
  match AMap.look d.texts (2 ^ 40 * d.idOwner q.desc.ns + c.info.id) with
  | some p => if p.2 = 4096 * c.info.textLba then p else (q.desc.ns, 4096 * c.info.textLba)
  | none => (q.desc.ns, 4096 * c.info.textLba)

/-- The text of a candidate's passage, as the query sees it. -/
def textOf (d : Dev) (q : Query) (c : Cand) : List Byte :=
  let p := d.textPlace q c
  let tokens := fieldLE (d.loadNsFor q.id p.1 p.2 0x20) 0x14 4
  d.loadNsFor q.id p.1 (p.2 + 0x20 + 8 * tokens) c.info.textLength

/-- The answer block and the texts that fit (R283, R286): answer bytes, each entry's text offset and bytes, truncation. -/
def layTail (d : Dev) (q : Query) (es : List Cand) (answer : Bool) : List Byte × List (Nat × List Byte) × Bool :=
  let start := roundUp (64 + 32 * es.length) 64
  let full := if answer then toLE 4 q.answer.length ++ toLE 4 q.stop ++ q.answer.flatMap (toLE 4) else []
  let room := q.desc.resultLength - start
  let ans := if full.length ≤ room then full else if room < 8 then [] else full.take (8 + (room - 8) / 4 * 4)
  let cut := ans.length < full.length
  if !q.desc.returnText then (ans, es.map fun _ => (0xFFFFFFFF, []), cut)
  else
    let (_, texts, cut) := es.foldl (fun (acc : Nat × List (Nat × List Byte) × Bool) c =>
      let o := roundUp acc.1 64
      let t := d.textOf q c
      if acc.2.2 || q.desc.resultLength < o + t.length then (acc.1, acc.2.1 ++ [(0xFFFFFFFF, [])], true)
      else (o + t.length, acc.2.1 ++ [(o, t)], false)) (start + full.length, [], cut)
    (ans, texts, cut)

/-- The final record of a query is written: entries, answer and text, then the header (R287). -/
def writeFinal (d : Dev) (i : Nat) : Dev :=
  match d.queryOf i with
  | none => d
  | some q =>
    let es := q.cands.take q.desc.k
    let short := decide (es.length < q.desc.k)
    let (ans, texts, cut) := d.layTail q es (q.service.generate && q.desc.extractTokens ≠ 0)
    let entries := es.zipIdx.flatMap fun (c, n) =>
      entryBytes c q.spans[n]? ((texts[n]?).getD (0xFFFFFFFF, [])).1
    let held := q.holdover || d.holdover
    let d := d.putResult q 64 entries
    let d := d.putResult q (roundUp (64 + 32 * es.length) 64) ans
    let d := texts.foldl (fun d t => if t.1 = 0xFFFFFFFF then d else d.putResult q t.1 t.2) d
    let d := d.putResult q 0 (d.headerBytes q es.length short true cut 0 .success)
    d.modQuery i fun q => { q with phase := .returning, unacked := true, finalWaits := false, shortfall := q.shortfall || short,
                                   heldShown := q.heldShown || held }

/-- The end of a query's path: its final record, once every provisional record has been acknowledged (R291). -/
def finalRecord (d : Dev) (i : Nat) : Dev :=
  match d.queryOf i with
  | none => d
  | some q =>
    if q.streaming then d.modQuery i fun q => { q with phase := .returning, unacked := true, finalWaits := true } else d.writeFinal i

/-- A provisional record (R291), when it fits its half of the buffer. -/
def provisionalRecord (d : Dev) (i : Nat) : Dev :=
  match d.queryOf i with
  | none => d
  | some q =>
    let half := q.desc.resultLength / 2 / 64 * 64
    if !q.desc.streams then d
    else if half < 64 + 32 * q.desc.k then d
    else
      let seq := q.provisional + 1
      let o := if seq % 2 = 1 then 0 else half
      let es := q.cands.take q.desc.k
      let held := q.holdover || d.holdover
      let d := d.putResult q (o + 64) (es.flatMap fun c => entryBytes c none 0xFFFFFFFF)
      let short := decide (es.length < q.desc.k)
      let d := d.putResult q o (d.headerBytes q es.length short false false seq .success)
      d.modQuery i fun q => { q with provisional := seq, streaming := true, shortfall := q.shortfall || short,
                                     heldShown := q.heldShown || held }

/-! The end of a query and of its command. -/

/-- A retired version gives its flash space to reclaim (R241). -/
def retireSpace (d : Dev) (v : Version) : Dev :=
  let drop (d : Dev) (o n : Nat) : Dev := d.discard none v.ns (o / 4096) (n / 4096)
  if v.params.graph then
    let others := (d.versionsOf v.ns).filter fun w => w.params.graph && w.state ≠ .retired
    (List.range v.params.partitions).foldl (fun d p =>
      let x := d.partAt v p
      let kept := others.any fun w => (List.range w.params.partitions).any fun q => (d.partAt w q).at' = x.at'
      if kept then d else drop d x.at' (2048 * x.nodes)) d
  else
    (List.range v.params.lists).foldl (fun d l =>
      let h := d.headAt v l
      if !headOk v.params.dist h || h.version ≠ v.params.version || h.listId ≠ l then d
      else drop (drop (drop (drop d h.highBase (65536 * h.capacity)) h.lowBase (65536 * h.capacity)) h.sideBase
        (h.sideStride * h.capacity)) (d.listAt v l) h.headLength) d

/-- DRAINING versions that no query is resolved to any more, nor any pass has still to read, are RETIRED (R241, R255). -/
def retireIdle (d : Dev) : Dev :=
  let idle (v : Version) : Bool := v.state = .draining
    && !(d.queries.any fun q => q.2.resolved && q.2.desc.ns = v.ns && q.2.version = v.params.version && !q.2.over)
    && !d.passes.any fun p => p.ns = v.ns && p.versions.contains v.params.version
  let gone := d.versions.filter idle
  let d := { d with versions := d.versions.map fun v => if idle v then { v with state := .retired } else v }
  gone.foldl (fun d v => d.retireSpace v) d

/-- Nothing keeps an earlier state for the queries any more (R243, R385). -/
def forget (d : Dev) (qs : List Nat) : Dev :=
  let left (l : List Nat) : List Nat := l.filter fun q => !qs.contains q
  let ids := (d.staleIds.map fun s => (s.1, s.2.1, left s.2.2)).filter fun s => !s.2.2.isEmpty
  let units := (d.media.stale.map fun s => { s with queries := left s.queries }).filter fun s => !s.queries.isEmpty
  ({ d with staleIds := ids, media := { d.media with stale := units } } : Dev).driveVictims

/-- The query counter record of R546, from the port of the Gate of arrival. -/
def queryRecord (d : Dev) (q : Query) : Dev :=
  let us (s : Nat) : List Byte := capLE 4 (AMap.get q.spent s 0 / 1000)
  d.traceEvent (srcPort (d.portOf q.queue)) 0x11
    (toLE 4 q.desc.tag ++ toLE 2 q.service.id ++ toLE 2 (q.failed.getD .success).code ++ toLE 8 q.arrivalNs
      ++ toLE 8 q.resolveBeat ++ (List.range 6).flatMap us ++ (List.range 8).flatMap (fun s => capLE 2 (q.exits.getD s 0))
      ++ toLE 1 q.rounds ++ toLE 1 q.levels ++ toLE 2 0 ++ toLE 4 q.kerbs.length ++ List.replicate 40 0)

/-- The command of the queries completes, when every one of them has ended and no final record is unacknowledged (R287). A query that has
ended keeps no earlier state and no version (R241, R243). -/
def settleQuery (d : Dev) (queue cid : Nat) : Dev :=
  let qs := d.queriesOf queue cid
  let d := (d.forget ((qs.filter Query.over).map (·.id))).retireIdle
  if !(qs.all fun q => (q.phase = .done || q.phase = .returning) && !q.unacked) || qs.isEmpty then d
  else
    let bad := qs.filter fun q => q.failed.isSome
    let st := match bad.foldl (fun (b : Option Query) q => match b with
        | some x => if q.index < x.index then some q else b
        | none => some q) none with
      | some q => q.failed.getD .success
      | none => .success
    let dw0 := bad.length + 2 ^ 16 * (qs.any (·.shortfall)).toNat + 2 ^ 17 * (qs.any (·.heldShown)).toNat
    let d := qs.foldl (fun d q => d.queryRecord q) d
    let ids := qs.map (·.id)
    let d := { d with queries := d.queries.filter fun q => !ids.contains q.1 }
    ((d.forget ids).retireIdle).finishPort queue cid st dw0

/-- A query leaves its batch; its Kerbs at their next stripe or hop boundary (R235), and a pass that has started at the boundary of its
list (R255). -/
def dropQuery (d : Dev) (i : Nat) : Dev :=
  let batch (b : Batch) : Batch :=
    { b with queries := b.queries.filter (· ≠ i), decodes := b.decodes.filter (· ≠ i),
             chunk := match b.chunk with
               | some (r, n) => if (b.reqs[r]?).map (·.query) = some i then none else some (r, n)
               | none => none }
  let pass (p : Pass) : Pass :=
    if p.started then p else { p with queries := p.queries.filter (· ≠ i), left := p.left.filter (· ≠ i) }
  let gone (q : QbQuery) : QbQuery := if q.query = i then { q with gone := true } else q
  let qblock (b : QBlock) : QBlock :=
    { b with queries := if b.admitted then b.queries.map gone else b.queries.filter fun q => q.query ≠ i }
  let kerb (k : Kerb) : Kerb := { k with qblocks := k.qblocks.map qblock }
  { d with batches := d.batches.map fun b => (b.1, batch b.2),
           sweepLeft := d.sweepLeft.filter (· ≠ i),
           passes := d.passes.map pass,
           kerbs := d.kerbs.map fun k => (k.1, kerb k.2) }

/-- A query fails (R287): with its failure header where one is written. -/
def failQuery (d : Dev) (i : Nat) (st : Status) (header : Bool) : Dev :=
  match d.queryOf i with
  | none => d
  | some q =>
    if q.failed.isSome || q.phase = .returning || q.phase = .done then d
    else
      let d := d.dropQuery i
      let d := if header && 64 ≤ q.desc.resultLength then d.putResult q 0 (d.headerBytes q 0 false true false 0 st) else d
      let wrote := header && 64 ≤ q.desc.resultLength
      let d := d.modQuery i fun q =>
        { q with failed := some st, phase := .done, unacked := wrote, heldShown := q.heldShown || (wrote && (q.holdover || d.holdover)) }
      d.settleQuery q.queue q.cid

/-! The reads of a pair gather (R305). -/

/-- The passage records of a gather are read through the Kerbs in the FOREGROUND class; once all are at hand it runs. -/
def startGather (d : Dev) (b i : Nat) (x : Slot) : Dev :=
  let r := CheckCtx.gatherOf d b (bits x.pairGather 0 23)
  let ps := ((d.gatherPlaces r).flatMap fun p => (piecesOf p.2.1 (0x20 + 8 * p.2.2)).map fun n => (p.1, n)).dedup
  let (n, d) := d.needAll (some x.district) .foreground (ps.map fun p => (0, p.1, p.2, .gather b x.seq))
  if n = 0 then d.pairGather b i x else d.modSlot b i fun y => { y with gatherWait := some n }

/-- A read of a gather has ended. One that stays unreadable ends the command with Unrecovered Read Error, at the block's next command
boundary: no operation of it runs. -/
def gatherRead (d : Dev) (b seq : Nat) (bad : Bool) : Dev :=
  match d.running b with
  | none => d
  | some (i, x) => match x.gatherWait with
    | none => d
    | some n =>
      if x.seq ≠ seq then d
      else if bad then d.modSlot b i fun y => { y with gatherWait := none, failed := some (y.failed.getD .unrecoveredReadError) }
      else if 1 < n then d.modSlot b i fun y => { y with gatherWait := some (n - 1) }
      else d.pairGather b i x

end Dev

/-- The gather of the running command's pair list starts (R304, R305). -/
def execPairGather (b : Nat) (s : State) : Host.Outcome State Fault Refusal :=
  effect (fun d => match d.running b with
    | some (i, x) =>
      if bits x.pairGather 31 1 = 1 && !x.gathered && x.gatherWait.isNone && x.failed.isNone then d.startGather b i x else d
    | none => d) s

end Sys2Proof.Machine
end

