-- ==== Sys2Proof/Machine/Kerbs.lean ====
section
/-! DEFINITION. Query blocks at the Kerbs: admission (R222, R317), list heads (R211), stripes (R218), graph walks (R258 to
R261), prefetch (R227), and Kerb resets (R234, R255). -/

namespace Sys2Proof.Machine

/-- A block of a pass that is not done. -/
def QBlock.sweeping (b : QBlock) (ns : Nat) : Bool := b.sweep && b.ns = ns && b.phase ≠ .done && !b.queries.isEmpty

namespace Dev

/-! Query blocks. -/

def qblock (d : Dev) (k id : Nat) : Option QBlock := (d.kerb k).qblocks.find? fun b => b.id = id
def modQb (d : Dev) (k id : Nat) (f : QBlock → QBlock) : Dev :=
  d.modKerb k fun x => { x with qblocks := x.qblocks.map fun b => if b.id = id then f b else b }

/-- The Kerb that holds a query block. -/
def kerbOfBlock (d : Dev) (id : Nat) : Option Nat :=
  (d.kerbs.find? fun k => k.2.qblocks.any fun b => b.id = id).map (·.1)

def kerbOnline (d : Dev) (k : Nat) : Bool := (d.kerb k).homeUp || (d.kerb k).secondUp

/-- A query block joins a Kerb; it waits there for admission. -/
def addQb (d : Dev) (k : Nat) (b : QBlock) : Dev :=
  let d := d.modKerb k fun x => { x with qblocks := x.qblocks ++ [{ b with id := d.nextBlock }] }
  { d with nextBlock := d.nextBlock + 1 }

/-- An interactive query has a heap at a Kerb, which waits there for the merge, or a walk in one of its partitions. -/
def heldAt (d : Dev) (k : Nat) (q : Query) : Bool :=
  let walked : Bool := match d.versionOf q.desc.ns q.version with
    | some v => v.params.graph && (List.range v.params.partitions).any fun i =>
        decide ((d.partAt v i).kerb = k) && ((AMap.look q.walks i).isSome || (AMap.look q.heaps (1000 + i)).isSome)
    | none => false
  !q.desc.sweep && q.phase = .search && ((AMap.look q.heaps k).isSome || walked)

/-- The queries resident at a Kerb: those of admitted blocks, and interactive ones whose heap waits there for the merge. -/
def residents (d : Dev) (k : Nat) : List Query :=
  let inBlocks := ((d.kerb k).qblocks.filter (·.admitted)).flatMap fun b => b.queries.map (·.query)
  (d.queries.map (·.2)).filter fun q => inBlocks.contains q.id || d.heldAt k q

/-- Room for more of a resource of which `total` exist, in 1/1,024 shares held by district (R317): used places by district,
with the new ones added, fit their reservations and what is unreserved. -/
def fitsShares (d : Dev) (total : Nat) (used : Nat → Nat) : Bool :=
  let share (x : Nat) : Nat := total * (d.district x).kerbShare / 1024
  let reserved := ((List.range 16).map share).sum
  let beyond := ((List.range 16).map fun x => used x - share x).sum
  decide (beyond ≤ total - reserved)

/-- The districts of a block's queries, ascending, each with how many of them are its own. -/
def blockDistricts (d : Dev) (b : QBlock) : List (Nat × Nat) :=
  let ds := b.queries.filterMap fun q => (d.queryOf q.query).map (·.district)
  if ds.isEmpty then [(b.district, 1)] else ((List.range 16).filter ds.contains).map fun x => (x, ds.count x)

/-- Work for a block is split among its districts in proportion to their queries; the remainder goes to the lowest-numbered one (R341). -/
def splitWork (d : Dev) (b : QBlock) (n : Nat) : List (Nat × Nat) :=
  let ds := d.blockDistricts b
  let total := (ds.map (·.2)).sum
  let parts := ds.map fun x => (x.1, n * x.2 / total)
  let left := n - (parts.map (·.2)).sum
  match parts with
  | [] => []
  | x :: rest => (x.1, x.2 + left) :: rest

/-- A waiting block may be admitted (R206, R215, R222, R317, R321): every district whose queries it holds has room, and none is stopped
(DEDUCED, log entry 19, of a block with queries of several districts). A query's entries of the query-block SRAM are taken once, however
many of its blocks are resident (DESIGN CHOICE, log entry 74); they hold two coefficient sets, so that a query has at most two list blocks
at a Kerb. -/
def canAdmit (d : Dev) (k : Nat) (b : QBlock) : Bool :=
  let x := d.kerb k
  let now := d.residents k
  let new := b.queries.filterMap fun q => if now.any fun r => r.id = q.query then none else d.queryOf q.query
  let all := now ++ new
  let depth (q : Query) : Nat := q.service.depth q.desc.k
  let mine (dist : Nat) : List Query := all.filter fun q => q.district = dist
  let share (dist total : Nat) : Nat := total * (d.district dist).kerbShare / 1024
  let dists := (d.blockDistricts b).map (·.1)
  let reserved := dists.all fun x => (mine x).length ≤ share x 256 && ((mine x).map depth).sum ≤ share x 262144
  let earlier := x.qblocks.any fun o => !o.admitted && o.id < b.id
  -- the dimension entries of the queries of admitted blocks and of this one (R206, R215)
  let held := ((x.qblocks.filter fun o => o.admitted || o.id = b.id).flatMap fun o =>
    o.queries.map fun q => (q.query, match d.versionOf o.ns o.version with
      | some v => dPad v.params.dims
      | none => 0)).dedup
  let lists (q : Nat) : Nat := (x.qblocks.filter fun o => o.admitted && o.phase ≠ .seeds && o.phase ≠ .level &&
    o.queries.any fun p => p.query = q).length
  let sets := b.phase = .seeds || b.phase = .level || b.queries.all fun q => lists q.query < 2
  !x.resetting && !x.quiesced && sets && d.kerbOnline k && !(dists.any d.stopsKerb) && !d.media.down
    && d.contain.shutdown = 0
    && (reserved || !earlier)
    && all.length ≤ 256 && (all.map depth).sum ≤ 262144 && (held.map (·.2)).sum ≤ 262144
    && d.fitsShares 256 (fun x => (mine x).length) && d.fitsShares 262144 fun x => ((mine x).map depth).sum

/-! Counters and thresholds. -/

def countQ (d : Dev) (q : Nat) (f : QCounts → QCounts) : Dev := d.modQuery q fun x => { x with counts := f x.counts }

def countQs (d : Dev) (qs : List Nat) (f : QCounts → QCounts) : Dev := qs.foldl (fun d q => d.countQ q f) d

/-- θ in force for a query at a Kerb (R217, R219). -/
def thetaAt (_d : Dev) (k kind : Nat) (q : Query) : Datum :=
  let own := thetaOf kind (q.service.depth q.desc.k) (AMap.get q.heaps k [])
  match AMap.look q.thetas k with
  | some t => thetaBest kind own t
  | none => own

/-- Distance-engine cycles of a block at a Kerb (R206, R341, R342). -/
def chargeKerb (d : Dev) (k : Nat) (b : QBlock) (n : Nat) : Dev :=
  (d.splitWork b n).foldl (fun d x => (d.addBasis (288 + k) x.1 x.2).fadd (Reg.CNT_DIST_KERB x.1) Fld.CNT_DIST_KERB_CYCLES x.2) d

/-! Reads. -/

/-- The copies of a piece that queries see, each with one of them: they differ where a change took effect between the window closes that
the queries resolved at (R243). -/
def copiesOf (d : Dev) (ns piece : Nat) (qs : List Nat) : List Nat :=
  let u := d.unitOf ns piece
  qs.foldl (fun acc q => if acc.any fun p =>
    d.mapFor p ns u = d.mapFor q ns u && (d.staleFor p ns u).isSome = (d.staleFor q ns u).isSome then acc else acc ++ [q]) []

/-- The reads of pieces that a step of a block needs, each with the queries that need it: those not at hand join the die queues, and how
many reads to wait for. What is wanted of flash counts in a page counter of the Kerb and for each query, whether the cache serves it or not
(R239; DESIGN CHOICE, log entry 74); what is read counts for the districts (R341). -/
def needPieces (d : Dev) (k : Nat) (b : QBlock) (ps : List (Nat × List Nat)) (high : Bool) (page : Nat × Fld)
    (count : Nat → QCounts → QCounts) (purpose : Nat → DiePurpose) : Nat × Dev :=
  let size := if high then 16 else 1
  let d := ps.foldl (fun d p => p.2.foldl (fun d q => if (d.flashOf q b.ns p.1).isSome then d.countQ q (count size) else d) d) d
  let cs := ps.flatMap fun p => (d.copiesOf b.ns p.1 p.2).map fun q => (p.1, q)
  let d := d.fadd page.1 page.2 (size * (cs.filter fun c => (d.flashOf c.2 b.ns c.1).isSome).length)
  let (n, d) := cs.foldl (fun (acc : Nat × Dev) c =>
    let (here, d) := acc.2.needPiece c.2 b.ns c.1 high (if b.sweep then .sweep else .foreground) (purpose c.1)
    (if here then acc.1 else acc.1 + 1, d)) (0, d)
  let d := (d.splitWork b (size * n)).foldl (fun d x =>
    (d.addBasis (288 + k) x.1 x.2).fadd (Reg.CNT_DIST_T2 x.1) Fld.CNT_DIST_T2_READ_PIECES x.2) d
  (n, d)

/-- Each page counter of a query (R284). -/
def countSide (n : Nat) (c : QCounts) : QCounts := { c with side := c.side + n }
def countHigh (n : Nat) (c : QCounts) : QCounts := { c with high := c.high + n }
def countLow (n : Nat) (c : QCounts) : QCounts := { c with low := c.low + n }
def countRest (n : Nat) (c : QCounts) : QCounts := { c with other := c.other + n }

/-- Pieces with the queries that need them. -/
def piecesFor (qs : List (Nat × List Nat)) : List (Nat × List Nat) :=
  ((qs.flatMap (·.2)).dedup).map fun p => (p, (qs.filter fun q => q.2.contains p).map (·.1))

def versionFor (d : Dev) (b : QBlock) : Option Version := d.versionOf b.ns b.version

/-- The head of a block's list as a query sees it (R243). -/
def headFor (d : Dev) (q : Nat) (b : QBlock) (v : Version) : ListHead :=
  listHead (d.loadNsFor q b.ns (d.listAt v b.unit) (if v.params.dist = 3 then 4096 else headLengthOf v.params.dist v.params.dims))

/-- The slots of a stripe that hold vectors, by the head as a query sees it. -/
def slotsIn (h : ListHead) (s : Nat) : Nat := if s < h.stripes then min h.stripeVectors (h.vectors - s * h.stripeVectors) else 0

/-- The side record of a slot, as a query sees it. -/
def sideFor (d : Dev) (q : Nat) (b : QBlock) (h : ListHead) (s i : Nat) : Rec :=
  sideRec (d.loadNsFor q b.ns (sideOffset h s i) 128)

/-- A candidate passes the tombstone check and the query's filter (R223, R264, R269). -/
def accepts (d : Dev) (q : Query) (r : Rec) : Bool :=
  d.idInRange q.desc.ns r.id && idPasses (d.idStateFor q.id q.desc.ns r.id) r.gen
    && (match q.filter with
      | none => true
      | some p => filterRun p r.attr q.desc.params)

/-! The steps of a list block (R211, R218). -/

/-- The head's pieces are read. -/
def startHead (d : Dev) (k : Nat) (b : QBlock) (v : Version) : Dev :=
  let qs := b.queries.map (·.query)
  let len := if v.params.dist = 3 then 4096 else headLengthOf v.params.dist v.params.dims
  let ps := piecesOf (d.listAt v b.unit) len
  let (wait, d) := d.needPieces k b (ps.map fun p => (p, qs)) false (Reg.KERB_PG_SIDE k, Fld.KERB_PG_SIDE_PIECES) countSide fun _ => .head b.id
  let d := d.touchRead (((d.blockDistricts b).map (·.1)).headD b.district) (handleIndex v.params.directory) 8 (8 * b.unit)
  d.modQb k b.id fun b => { b with phase := .head, pending := wait }

/-- The high unit of a stripe is read for the queries that see vectors in it; the reads to wait for (R218 step 1). -/
def readHigh (d : Dev) (k : Nat) (b : QBlock) (v : Version) (s : Nat) : Nat × Dev :=
  let qs := b.queries.filterMap fun q =>
    let h := d.headFor q.query b v
    if slotsIn h s = 0 then none else some (q.query, [(h.highBase + 65536 * s) / 4096])
  d.needPieces k b (piecesFor qs) true (Reg.KERB_PG_HIGH k, Fld.KERB_PG_HIGH_PIECES) countHigh fun _ => .high b.id

/-- The bounds of a stripe are compared with each query's θ of now (R218 step 1): the survivors of each query. VALID and NORM of the slots
are taken from the side records, of which nothing is read at this step (DESIGN CHOICE, log entry 74: R218 does not say where step 1 has
them from). -/
def compareHigh (d : Dev) (k : Nat) (b : QBlock) (v : Version) (s : Nat) : List (List Surv) × Dev :=
  b.queries.foldl (fun (acc : List (List Surv) × Dev) q =>
    let d := acc.2
    let h := d.headFor q.query b v
    let slots := slotsIn h s
    match d.queryOf q.query with
    | none => (acc.1 ++ [[]], d)
    | some x =>
      let high := d.loadNsFor q.query b.ns (h.highBase + 65536 * s) 65536
      let side (i : Nat) : Rec := d.sideFor q.query b h s i
      let (sv, n) := highPass q.coef (d.thetaAt k b.kind x) h.dims slots (fun i => (side i).norm) (fun i => (side i).valid) high
      let d := d.fadd (Reg.KERB_PRUNE k) Fld.KERB_PRUNE_PAIRS n
      let d := d.fadd (Reg.KERB_MAC4 k) Fld.KERB_MAC4_MACS (slots * h.dims)
      (acc.1 ++ [sv], d.countQ q.query fun c => { c with prunes := c.prunes + n })) ([], d)

/-- Distance-engine cycles of the high pass of a stripe: the widest of its queries' views (R206). -/
def chargeHigh (d : Dev) (k : Nat) (b : QBlock) (v : Version) (s : Nat) : Dev :=
  let n := b.queries.foldl (fun m q => let h := d.headFor q.query b v; max m (slotsIn h s * dPad h.dims)) 0
  d.chargeKerb k b (ceilDiv n 32)

/-- Queries that have ended leave the block (R235): at its stripe and hop boundaries. -/
def dropGone (d : Dev) (k id : Nat) : Dev :=
  d.modQb k id fun b => { b with queries := b.queries.filter fun q => !q.gone }

/-- The next stripe begins: its high unit is read, unless that was done ahead; without one the block is done. -/
def startStripe (d : Dev) (k id : Nat) (v : Version) : Dev :=
  let d := d.dropGone k id
  match d.qblock k id with
  | none => d
  | some b => match b.stripes, b.ahead with
    | [], _ => d.modQb k id fun b => { b with phase := .done, pending := 0 }
    | s :: _, none =>
      if b.queries.isEmpty then d.modQb k id fun b => { b with phase := .done, pending := 0 }
      else
        let (wait, d) := d.readHigh k b v s
        d.modQb k id fun b => { b with phase := .high, pending := wait }
    | _ :: _, some 0 => d.modQb k id fun b =>
        { b with phase := .passed, pending := 0, ahead := none, queries := b.queries.map fun q => { q with surv := q.ahead, ahead := [] } }
    | _ :: _, some n => d.modQb k id fun b => { b with phase := .high, pending := n, ahead := none }

def nextStripe (d : Dev) (k id : Nat) (v : Version) : Dev :=
  (d.modQb k id fun b => { b with stripes := b.stripes.tail }).startStripe k id v

/-- The list head is checked and the coefficients derived, as each query sees it (R211, R213). -/
def headStep (d : Dev) (k : Nat) (b : QBlock) (v : Version) : Dev :=
  let fits (q : QbQuery) : Bool :=
    let h := d.headFor q.query b v
    headOk b.kind h && h.version = b.version && (match d.queryOf q.query with
      | some x => x.vector.length = h.dims
      | none => true)
  let bad := b.queries.filter fun q => !fits q
  let derive (q : QbQuery) : QbQuery :=
    let h := d.headFor q.query b v
    match d.queryOf q.query with
    | some x => { q with coef := coefOf b.kind x.vector h.offsets h.scales (x.vector.map fun e => hammingByte e) }
    | none => q
  let good := (b.queries.filter fits).map derive
  let d := match bad with
    | [] => d
    | q :: _ => d.logError (srcKerb k) 0x40 0x0320 1 0 (srcKerb k) none (d.listAt v b.unit) (d.headFor q.query b v).listId 0xFFFFFFFF
  let d := d.modQb k b.id fun x => { x with queries := good, phase := .ready, pending := 0 }
  bad.foldl (fun d q => d.failQuery q.query .invalidField true) d
where
  /-- The byte of a HAMMING query's element. -/
  hammingByte (e : Datum) : Nat := match e with
    | .fin n m x => let (v, _) := roundAt .rne n m 1 x 0; (if n then 256 - v % 256 else v) % 256
    | _ => 0

/-- A sweep block may run: every block of its pass before it is done at every Kerb (R252). -/
def turnOpen (d : Dev) (b : QBlock) : Bool :=
  !b.sweep || !d.kerbs.any fun k => k.2.qblocks.any fun o => o.sweep && o.ns = b.ns && o.turn < b.turn && o.phase ≠ .done

/-- The block begins its first stripe, from the heaps of now (R252, R255). -/
def beginStripes (d : Dev) (k : Nat) (b : QBlock) (v : Version) : Dev :=
  let start (q : QbQuery) : QbQuery := { q with start := match d.queryOf q.query with
    | some x => AMap.get x.heaps k []
    | none => [] }
  (d.modQb k b.id fun b => { b with queries := b.queries.map start }).startStripe k b.id v

/-- The high unit of a stripe is here: its bounds are compared. -/
def highStep (d : Dev) (k : Nat) (b : QBlock) (v : Version) (s : Nat) : Dev :=
  let (sv, d) := (d.chargeHigh k b v s).compareHigh k b v s
  d.modQb k b.id fun b =>
    { b with phase := .passed, queries := (b.queries.zip sv).map fun x => { x.1 with surv := x.2 } }

/-- Every read of the next stripe's high unit is here: its bounds are compared with the θ of now (R218). -/
def aheadStep (d : Dev) (k id : Nat) : Dev :=
  match d.qblock k id with
  | none => d
  | some b => match b.ahead, b.stripes, d.versionFor b with
    | some 0, _ :: s :: _, some v =>
      let (sv, d) := (d.chargeHigh k b v s).compareHigh k b v s
      d.modQb k id fun b => { b with queries := (b.queries.zip sv).map fun x => { x.1 with ahead := x.2 } }
    | _, _, _ => d

/-- The next stripe's high unit is read while the steps 2 to 5 of this one go on (R218). -/
def readAhead (d : Dev) (k : Nat) (b : QBlock) (v : Version) : Dev :=
  match b.stripes with
  | _ :: s :: _ =>
    let (wait, d) := d.readHigh k b v s
    (d.modQb k b.id fun b => { b with ahead := some wait }).aheadStep k b.id
  | _ => d

/-- The side pieces of a stripe's survivors, by query. -/
def sidePieces (d : Dev) (b : QBlock) (v : Version) (s : Nat) : List (Nat × List Nat) :=
  b.queries.map fun q =>
    let h := d.headFor q.query b v
    (q.query, (q.surv.map fun t => sideOffset h s t.slot / 4096).dedup)

/-- The bounds of a stripe are compared: its side pieces are read, and the next stripe's high unit (R218 step 2). -/
def passedStep (d : Dev) (k : Nat) (b : QBlock) (v : Version) (s : Nat) : Dev :=
  let d := d.readAhead k b v
  let ps := d.sidePieces b v s
  if ps.all fun p => p.2.isEmpty then d.nextStripe k b.id v
  else
    let (wait, d) := d.needPieces k b (piecesFor ps) false (Reg.KERB_PG_SIDE k, Fld.KERB_PG_SIDE_PIECES) countSide fun p => .side b.id p
    d.modQb k b.id fun b => { b with phase := .side, pending := wait }

/-- The low pieces of a slot, and of a stripe's survivors, by query. -/
def lowPieces (h : ListHead) (s slot : Nat) : List Nat :=
  let half := dPad h.dims / 2
  piecesOf (h.lowBase + 65536 * s + slot * half) half

def lowPiecesOf (d : Dev) (b : QBlock) (v : Version) (s : Nat) : List (Nat × List Nat) :=
  b.queries.map fun q =>
    let h := d.headFor q.query b v
    (q.query, (q.surv.flatMap fun t => lowPieces h s t.slot).dedup)

/-- The filter unit (R218 steps 3 and 4). -/
def sideStep (d : Dev) (k : Nat) (b : QBlock) (v : Version) (s : Nat) : Dev :=
  let (qs, d) := b.queries.foldl (fun (acc : List QbQuery × Dev) q =>
    match acc.2.queryOf q.query with
    | none => (acc.1 ++ [{ q with surv := [] }], acc.2)
    | some x =>
      let d := acc.2
      let h := d.headFor q.query b v
      let keep := q.surv.filter fun t => d.accepts x (d.sideFor q.query b h s t.slot)
      let n := q.surv.length - keep.length
      let d := d.fadd (Reg.KERB_FILTERED k) Fld.KERB_FILTERED_PAIRS n
      (acc.1 ++ [{ q with surv := keep }], d.countQ q.query fun c => { c with filtered := c.filtered + n })) ([], d)
  let b := { b with queries := qs }
  let d := d.modQb k b.id fun x => { x with queries := qs }
  let ps := d.lowPiecesOf b v s
  if ps.all fun p => p.2.isEmpty then d.nextStripe k b.id v
  else
    let (wait, d) := d.needPieces k b (piecesFor ps) false (Reg.KERB_PG_LOW k, Fld.KERB_PG_LOW_PIECES) countLow fun p => .low b.id p
    d.modQb k b.id fun b => { b with phase := .low, pending := wait }

/-- The low pass: exact scores are offered to the heaps (R218 step 5, R221). How long survivors wait for a top-k unit is not in the spec:
a free number of cycles (R222). -/
def lowStep (d : Dev) (k : Nat) (b : QBlock) (v : Version) (s : Nat) : Dev :=
  let d := b.queries.foldl (fun d q =>
    match d.queryOf q.query with
    | none => d
    | some x =>
      let h := d.headFor q.query b v
      let low := d.loadNsFor q.query b.ns (h.lowBase + 65536 * s) 65536
      let heap := q.surv.foldl (fun hp t => offer b.kind (x.service.depth x.desc.k)
        (lowCand q.coef h.dims s t (d.sideFor q.query b h s t.slot) low) hp) (AMap.get x.heaps k [])
      d.modQuery q.query fun x => { x with heaps := AMap.put x.heaps k heap }) d
  let pairs := (b.queries.map fun q => q.surv.length).sum
  let d := d.fadd (Reg.KERB_MAC4 k) Fld.KERB_MAC4_MACS (pairs * v.params.dims)
  let d := d.chargeKerb k b (ceilDiv (pairs * dPad v.params.dims) 32)
  let (x, d) := d.draw
  let d := d.fadd (Reg.KERB_QUERY k) Fld.KERB_QUERY_HEAP_STALLS (x.toNat % 2 ^ 16)
  d.nextStripe k b.id v

/-! The steps of a graph walk (R258 to R261). -/

/-- The seeds of a ranking: the entries of its first ENTRY_PROBES lists. The entry table stands behind the partition table in
the DIRECTORY object (DESIGN CHOICE, log entry 21: the spec does not say where it lies). -/
def seedsOf (d : Dev) (v : Version) (ranking : List Nat) : List (Nat × Nat) :=
  (ranking.take v.params.entryProbes).flatMap fun l =>
    let e := d.loadObj (handleIndex v.params.directory) (32 * v.params.partitions + 32 * l) 32
    (List.range v.params.entriesPerList).map fun i => (fieldLE e (6 * i) 5, fieldLE e (6 * i + 5) 1)

/-- The SCALES tables of a version: D offsets, then D scales. -/
def scalesOf (d : Dev) (v : Version) : List Datum × List Datum :=
  let b := d.loadObj (handleIndex v.params.scales) 0 (8 * v.params.dims)
  (table32 b 0 v.params.dims, table32 b (4 * v.params.dims) v.params.dims)

def inPart (p : Part) (id : Nat) : Bool := p.base ≤ id && id < p.base + p.nodes

/-- A node record of a partition, as a query sees it: its vector cut to DIMS. -/
def nodeFor (d : Dev) (q : Nat) (v : Version) (p : Part) (id : Nat) : Option Node :=
  if !inPart p id then none
  else
    let n := nodeRec (d.loadNsFor q v.ns (nodeOffset p id) 2048)
    some { n with vector := n.vector.take v.params.dims }

/-- The IDs whose records the walk's next step reads. -/
def walkWants (p : Part) (expand : Nat) (w : Walk) : List Nat :=
  if w.full then []
  else (((w.beam.filter fun b => !b.expanded).take expand).flatMap fun b => (b.node.edges.take b.node.neighbours).map (·.1)).filter
    fun id => inPart p id && !w.visited.contains id

/-- Records of a walk's next step are read; malformed ones are logged (R257; the code is not in the spec: a free value). -/
def wantRecords (d : Dev) (k : Nat) (b : QBlock) (q : Query) (v : Version) (p : Part) (ids : List Nat) : Dev :=
  let ps := (ids.map fun id => nodeOffset p id / 4096).dedup
  let bad := ids.filter fun id => match d.nodeFor q.id v p id with
    | some n => !nodeOk v.params.version v.params.degree id n
    | none => false
  let d := bad.foldl (fun d id =>
    let (c, d) := d.draw
    d.logError (srcKerb k) 0x40 (c.toNat % 65536) 1 0 (srcKerb k) none (nodeOffset p id) id 0xFFFFFFFF) d
  let (wait, d) := d.needPieces k b (ps.map fun p => (p, [q.id])) false (Reg.KERB_PG_OTHER k, Fld.KERB_PG_OTHER_PIECES) countRest
    fun piece => .record b.id piece
  d.modQb k b.id fun b => { b with pending := wait }

/-- The records of a walk's seeds are read. -/
def startWalk (d : Dev) (k : Nat) (b : QBlock) (q : Query) (v : Version) : Dev :=
  let p := d.partAt v b.unit
  match AMap.look q.walks b.unit with
  | some w =>
    (d.modQb k b.id fun b => { b with phase := .level }).wantRecords k b q v p (walkWants p v.params.expand w)
  | none =>
    let ids := ((d.seedsOf v q.ranking).map (·.1)).filter (inPart p)
    (d.modQb k b.id fun b => { b with phase := .seeds }).wantRecords k b q v p ids

/-- Speculative reads of the neighbours of the best unexpanded beam entries beyond those that the next level expands, whose records are
demanded already (R227, R261). -/
def prefetch (d : Dev) (k : Nat) (q : Query) (v : Version) (p : Part) (w : Walk) : Dev :=
  let pol := d.policy k
  let later := (w.beam.filter fun b => !b.expanded).drop v.params.expand
  let ids := ((later.flatMap fun b => (b.node.edges.take b.node.neighbours).map (·.1)).filter
    fun id => inPart p id && !w.visited.contains id).take pol.prefetchDepth
  (ids.map fun id => nodeOffset p id / 4096).dedup.foldl (fun d piece =>
    let flying := ((d.kerb k).dies.map fun x => (x.2.queue.filter fun o => o.cls = .speculative).length
      + (if (x.2.busy.map (·.cls)) = some .speculative then 1 else 0)).sum
    let queued := (d.kerb k).dies.any fun x => (x.2.queue ++ x.2.busy.toList).any fun o =>
      o.kind = .read && o.ns = v.ns && o.piece = piece
    let cached := (d.kerb k).cache.any fun c => c.ns = v.ns && c.piece = piece
    match d.mapFor q.id v.ns (d.unitOf v.ns piece) with
    | none => d
    | some l =>
      if pol.prefetchInflight ≤ flying || queued || cached || d.buffered v.ns (d.unitOf v.ns piece) then d
      else
        let d := d.fadd (Reg.KERB_SPEC_ISSUED k) Fld.KERB_SPEC_ISSUED_READS 1
        d.enqueueAt l { kind := .read, cls := .speculative, purpose := .speculate, ns := v.ns, piece := piece,
                        generation := d.generationAt v.ns l }) d

/-- A walk's records have come: the seeds are scored, or a level is walked (R259). A walk that has no further level resumes with the beam
width of its next round (R271), and gives its heap after the last. -/
def walkStep (d : Dev) (k : Nat) (b : QBlock) (q : Query) (qq : QbQuery) (v : Version) : Dev :=
  let p := d.partAt v b.unit
  let w := AMap.get q.walks b.unit {}
  let beam := b.beams.headD q.probes
  let read (id : Nat) : Option Node := d.nodeFor q.id v p id
  let w' := if b.phase = .seeds then
      Walk.seed qq.coef beam v.params.version v.params.degree read ((d.seedsOf v q.ranking).filter fun s => inPart p s.1)
    else Walk.step qq.coef beam v.params.expand v.params.version v.params.degree read w
  let scored := w'.scored.length - (if b.phase = .seeds then 0 else w.scored.length)
  let d := d.fadd (Reg.KERB_MAC8 k) Fld.KERB_MAC8_MACS (scored * v.params.dims)
  let d := d.chargeKerb k b (ceilDiv (scored * v.params.dims) 16)
  let stale := w'.stale - (if b.phase = .seeds then 0 else w.stale)
  let d := d.modVersion v.ns v.params.version fun v => { v with staleEdges := v.staleEdges + stale }
  let left := if b.phase = .seeds then b.levels else b.levels - 1
  let ended := w'.done || left = 0 || (w'.beam.all (·.expanded))
  let again := ended && !w'.full && 1 < b.beams.length
  let w' : Walk := { w' with done := ended && !again }
  let left := if again then v.params.maxLevels else left
  let d := d.modQuery q.id fun q =>
    { q with walks := AMap.put q.walks b.unit w', levels := max q.levels w'.level, walkLimit := q.walkLimit || w'.full }
  let beams := if again then b.beams.tail else b.beams
  let d := d.modQb k b.id fun b => { b with phase := .level, levels := left, beams := beams }
  if w'.done then
    let (heap, bad) := Walk.result b.kind (q.service.depth q.desc.k) (d.accepts q) w'
    let d := d.fadd (Reg.KERB_FILTERED k) Fld.KERB_FILTERED_PAIRS bad
    let d := d.countQ q.id fun c => { c with filtered := c.filtered + bad }
    let d := d.modQuery q.id fun q => { q with heaps := AMap.put q.heaps (1000 + b.unit) heap }
    d.modQb k b.id fun b => { b with phase := .done, pending := 0 }
  else
    (d.wantRecords k { b with phase := .level, levels := left, beams := beams } q v p (walkWants p v.params.expand w')).prefetch k q v p w'

/-! Driving a block. -/

/-- One step of a block that waits for no read. -/
def qbStep (d : Dev) (k id : Nat) : Dev :=
  let done (d : Dev) : Dev := d.modQb k id fun b => { b with phase := .done, pending := 0 }
  match d.qblock k id with
  | none => d
  | some b => match d.versionFor b with
    | none => done d
    | some v =>
      match b.phase, b.stripes, b.queries with
      | .head, _, _ => d.headStep k b v
      | .ready, _, _ => if d.turnOpen b then d.beginStripes k b v else d
      | .high, s :: _, _ => d.highStep k b v s
      | .passed, s :: _, _ => d.passedStep k b v s
      | .side, s :: _, _ => d.sideStep k b v s
      | .low, s :: _, _ => d.lowStep k b v s
      | .seeds, _, qq :: _ => match d.queryOf qq.query with
        | some q => if qq.gone then done d else d.walkStep k b q qq v
        | none => done d
      | .level, _, qq :: _ => match d.queryOf qq.query with
        | some q => if qq.gone then done d else d.walkStep k b q qq v
        | none => done d
      | _, _, _ => done d

/-- A block goes on while it waits for no read, and for no turn. -/
def qbRun (d : Dev) (k id : Nat) : Nat → Dev
  | 0 => d
  | n + 1 => match d.qblock k id with
    | none => d
    | some b =>
      if b.phase = .done || 0 < b.pending || !b.admitted || (b.phase = .ready && !d.turnOpen b) then d
      else (d.qbStep k id).qbRun k id n

/-- Steps that a block can take at most without a read. -/
def qbFuel (d : Dev) (k id : Nat) : Nat := match d.qblock k id with
  | some b => 5 * b.stripes.length + (b.levels + 64) * (b.beams.length + 1) + 8
  | none => 0

/-- Blocks that are done, or whose queries have all ended, leave their Kerb. -/
def clearQbs (d : Dev) (k : Nat) : Dev :=
  d.modKerb k fun x => { x with qblocks := x.qblocks.filter fun b => b.phase ≠ .done && !b.queries.isEmpty }

/-! Making blocks. -/

/-- The Kerbs that hold stripes of a list, each with its stripes, as a query sees them (R250): the Kerb of the high unit. A list without
stripes, or whose head fails, goes to the Kerb of its head, which reads it. -/
def kerbsSeen (d : Dev) (v : Version) (l q : Nat) : List (Nat × Nat) × Nat :=
  let place (o : Nat) : Nat :=
    let u := d.unitOf v.ns (o / 4096)
    match d.mapFor q v.ns u with
    | some x => x.kerb
    | none => kerbOf (d.home v.ns u).1 0
  let a := d.listAt v l
  let h := listHead (d.loadNsFor q v.ns a (if v.params.dist = 3 then 4096 else headLengthOf v.params.dist v.params.dims))
  (if headOk v.params.dist h then (List.range h.stripes).map fun s => (place (h.highBase + 65536 * s), s) else [], place a)

/-- The Kerbs of a list for the queries of a block, each with the stripes that one of them sees there. -/
def kerbsOfList (d : Dev) (qs : List Nat) (v : Version) (l : Nat) : List (Nat × List Nat) :=
  let seen := qs.map (d.kerbsSeen v l)
  let ss := (seen.flatMap (·.1)).dedup
  let ks := (ss.map (·.1)).dedup
  if ks.isEmpty then (seen.head?.toList).map fun x => (x.2, [])
  else (sortBy (· < ·) ks).map fun k => (k, sortBy (· < ·) ((ss.filter fun x => x.1 = k).map (·.2)))

/-- Queries in groups of at most so many, and of a sum of k at most so large. -/
def cutBlocks (n kmax : Nat) (depth : Nat → Nat) (qs : List Nat) : List (List Nat) :=
  let r := qs.foldl (fun (acc : List (List Nat) × List Nat) q =>
    if acc.2.isEmpty || (acc.2.length < n && (acc.2.map depth).sum + depth q ≤ kmax) then (acc.1, acc.2 ++ [q])
    else (acc.1 ++ [acc.2], [q])) ([], [])
  if r.2.isEmpty then r.1 else r.1 ++ [r.2]

/-- A block of queries on one list goes to every Kerb that holds stripes of it. Whether an index holds replicas of a list on other Kerbs is
not in the spec: none is looked for (DESIGN CHOICE, log entry 65; R21). -/
def sendListBlock (d : Dev) (v : Version) (l : Nat) (qs : List Nat) (sweep : Bool) (turn : Nat) : Dev :=
  match qs with
  | [] => d
  | first :: _ =>
    let dist := match d.queryOf first with
      | some q => q.district
      | none => 0
    (d.kerbsOfList qs v l).foldl (fun d (k, ss) =>
      if !d.kerbOnline k then qs.foldl (fun d q => d.failQuery q .internalError true) d
      else
        let live := qs.filter fun q => match d.queryOf q with
          | some x => x.failed.isNone
          | none => false
        let d := live.foldl (fun d q => d.modQuery q fun x =>
          { x with kerbs := if x.kerbs.contains k then x.kerbs else x.kerbs ++ [k] }) d
        if live.isEmpty then d
        else d.addQb k { id := 0, district := dist, ns := v.ns, version := v.params.version, kind := v.params.dist, sweep := sweep,
                         unit := l, stripes := ss, queries := live.map fun q => { query := q }, turn := turn }) d

/-- Blocks of a group of interactive queries on a list, at most 256 queries each, and no more than the query SRAM holds
(R215, R250). -/
def sendList (d : Dev) (v : Version) (l : Nat) (qs : List Nat) : Dev :=
  let n := min 256 (262144 / dPad v.params.dims)
  (cutBlocks n 262144 (fun i => match d.queryOf i with
    | some q => q.service.depth q.desc.k
    | none => 0) qs).foldl (fun d g => d.sendListBlock v l g false 0) d

/-- A walk of a query in a partition goes to its Kerb, with the beam widths of its rounds. -/
def sendWalk (d : Dev) (v : Version) (q : Query) (i : Nat) (beams : List Nat) : Dev :=
  let (offs, scs) := d.scalesOf v
  let p := d.partAt v i
  let d := d.modQuery q.id fun x => { x with kerbs := if x.kerbs.contains p.kerb then x.kerbs else x.kerbs ++ [p.kerb] }
  let d := (d.touchRead q.district (handleIndex v.params.directory) 32 (32 * i)).touchRead q.district (handleIndex v.params.scales)
    (8 * v.params.dims)
  d.addQb p.kerb { id := 0, district := q.district, ns := v.ns, version := v.params.version, kind := v.params.dist, sweep := false,
                   unit := i, phase := .seeds, queries := [{ query := q.id, coef := coefOf v.params.dist q.vector offs scs [] }],
                   levels := v.params.maxLevels, beams := beams }

/-- The walks of a graph query: one in each partition that receives a seed, or that has a walk to resume (R258, R271). The seeds of a
partition whose Kerb is offline are dropped and the query ends (R21, R261); whether a service holds a replica of a partition is not in the
spec: none is looked for (DESIGN CHOICE, log entry 65). -/
def sendGraph (d : Dev) (v : Version) (q : Query) : Dev :=
  let seeds := d.seedsOf v q.ranking
  let d := (q.ranking.take v.params.entryProbes).foldl (fun d l =>
    d.touchRead q.district (handleIndex v.params.directory) 32 (32 * v.params.partitions + 32 * l)) d
  (List.range v.params.partitions).foldl (fun d i =>
    let p := d.partAt v i
    if !(seeds.any fun s => inPart p s.1) then d
    else if !d.kerbOnline p.kerb then d.failQuery q.id .internalError true
    else d.sendWalk v q i [q.probes]) d

/-- Has any Kerb work left for a query? -/
def searching (d : Dev) (i : Nat) : Bool :=
  d.kerbs.any fun k => k.2.qblocks.any fun b => b.phase ≠ .done && b.queries.any fun q => q.query = i

/-! Sweep passes (R252). -/

/-- The lists that a query probes in this round. -/
def roundLists (q : Query) : List Nat := (q.ranking.drop q.probed).take (q.probes - q.probed)

/-- A query that has not ended. -/
def alive (d : Dev) (i : Nat) : Bool := match d.queryOf i with
  | some q => q.failed.isNone
  | none => false

/-- The queries of a list's turn of a pass that go into one block (R252): of one version, in pass order. -/
def nextCut (d : Dev) (p : Pass) : Option (Version × List Nat) :=
  match p.left.findSome? d.queryOf with
  | none => none
  | some q0 => (d.versionOf p.ns q0.version).bind fun v =>
    let same := p.left.filter fun i => match d.queryOf i with
      | some q => q.version = q0.version
      | none => false
    let depth (i : Nat) : Nat := match d.queryOf i with
      | some q => q.service.depth q.desc.k
      | none => 0
    (cutBlocks (min 256 (262144 / dPad v.params.dims)) 131072 depth same).head?.map fun g => (v, g)

/-- The next blocks of a pass: one while the block before is past its head, whose coefficient set is then derived ahead (R215, R252).
Queries that have ended leave the pass at the boundary of a list (R255). -/
def passNext (d : Dev) (ns : Nat) : Nat → Dev
  | 0 => d
  | n + 1 =>
    match d.passes.find? fun p => p.ns = ns && p.started with
    | none => d
    | some p =>
      let open' := d.kerbs.flatMap fun k => k.2.qblocks.filter fun b => b.sweeping ns
      let upd (d : Dev) (f : Pass → Pass) : Dev :=
        { d with passes := d.passes.map fun x => if x.ns = ns && x.started then f x else x }
      if (open'.any fun b => b.phase = .head) || 1 < ((open'.map (·.turn)).dedup).length then d
      else match p.lists with
        | [] => d
        | l :: rest =>
          if p.left.isEmpty then
            let queries := p.queries.filter d.alive
            let left := match rest with
              | [] => []
              | m :: _ => queries.filter fun i => match d.queryOf i with
                | some q => (roundLists q).contains m
                | none => false
            (upd d fun x => { x with lists := rest, read := x.read + 1, queries := queries, left := left }).passNext ns n
          else match d.nextCut { p with left := p.left.filter d.alive } with
            | none => (upd d fun x => { x with left := [] }).passNext ns n
            | some (v, g) =>
              let d := d.sendListBlock v l g true p.turn
              let again := (p.left.filter d.alive).length ≠ g.length
              (upd d fun x => { x with left := x.left.filter fun i => !g.contains i, turn := x.turn + 1,
                                       rereads := x.rereads + (if again then 1 else 0) }).passNext ns n

/-- A pass goes on: finished blocks leave every Kerb, further blocks are sent, and those whose turn has come begin. -/
def passOn (d : Dev) (ns : Nat) : Nat → Dev
  | 0 => d
  | n + 1 =>
    let d := (List.range 48).foldl (fun d k => if ((d.kerb k).qblocks.any fun b => b.sweep && b.ns = ns) then d.clearQbs k else d) d
    let d := d.passNext ns 4096
    let due := d.kerbs.flatMap fun k => (k.2.qblocks.filter fun b =>
      b.sweeping ns && b.admitted && b.pending = 0 && b.phase = .ready && d.turnOpen b).map fun b => (k.1, b.id)
    if due.isEmpty then d else (due.foldl (fun d x => d.qbRun x.1 x.2 (d.qbFuel x.1 x.2)) d).passOn ns n

/-- After a step at a Kerb: finished blocks leave, and passes go on. -/
def afterKerb (d : Dev) (k : Nat) : Dev :=
  let nss := (((d.kerb k).qblocks.filter fun b => b.sweep).map (·.ns)).dedup
  nss.foldl (fun d ns => d.passOn ns 4096) (d.clearQbs k)

/-! Reads that come back for a block. -/

/-- The queries of a block that needed the copy of a piece that a read brought (R220, R243). -/
def needers (d : Dev) (b : QBlock) (o : DieOp) : List Nat :=
  let all := b.queries.map (·.query)
  let wanted := match d.versionFor b, b.stripes with
    | some v, s :: _ =>
      match o.purpose with
      | .side _ p => ((d.sidePieces b v s).filter fun (x : Nat × List Nat) => x.2.contains p).map Prod.fst
      | .low _ p => ((d.lowPiecesOf b v s).filter fun (x : Nat × List Nat) => x.2.contains p).map Prod.fst
      | _ => all
    | _, _ => all
  wanted.filter fun q => match d.mapFor q o.ns (d.unitOf o.ns o.piece) with
    | some l => d.generationAt o.ns l = o.generation
    | none => false

/-- A read of a block has ended, well or not: one of its present step, or of the next stripe's high unit. -/
def blockRead (d : Dev) (id : Nat) (o : DieOp) (bad : Bool) : Dev :=
  match d.kerbOfBlock id with
  | none => d
  | some k => match d.qblock k id with
    | none => d
    | some b =>
      let d := if bad then (d.needers b o).foldl (fun d q => d.failQuery q .unrecoveredReadError true) d else d
      let early := b.ahead.isSome && o.purpose = .high id
      if early then (d.modQb k id fun b => { b with ahead := b.ahead.map (· - 1) }).aheadStep k id
      else
        let d := d.modQb k id fun b => { b with pending := b.pending - 1 }
        (d.qbRun k id (d.qbFuel k id)).afterKerb k

end Dev

/-! Meanings. -/

/-- A query block is admitted at its Kerb when there is room (R222); its first reads start. -/
def queryBlockAdmit (d : Dev) (k id : Nat) : Dev :=
  match d.qblock k id with
  | none => d
  | some b =>
    if b.admitted || !d.canAdmit k b then d
    else match d.versionFor b, b.queries with
      | some v, qq :: _ =>
        let d := d.modQb k id fun b => { b with admitted := true }
        let b := { b with admitted := true }
        let d := if b.phase = .seeds || b.phase = .level then
            match d.queryOf qq.query with
            | some q => d.startWalk k b q v
            | none => d
          else d.startHead k b v
        (d.qbRun k id (d.qbFuel k id)).afterKerb k
      | _, _ => (d.modQb k id fun b => { b with phase := .done }).afterKerb k

/-- Every 50 µs a Kerb sends its θ of each query searched on several Kerbs to the Gate of arrival, which keeps the best (R219). -/
def thetaShare (d : Dev) (k : Nat) : Dev :=
  if !(d.policy k).thresholdShare then d
  else (d.residents k).foldl (fun d q =>
    if q.kerbs.length < 2 then d
    else match d.versionOf q.desc.ns q.version with
      | some v =>
        let t := thetaOf v.params.dist (q.service.depth q.desc.k) (AMap.get q.heaps k [])
        let best := match q.gateTheta with
          | some g => thetaBest v.params.dist g t
          | none => t
        (d.modQuery q.id fun q => { q with gateTheta := some best }).emit (.theta q.id k (enc32 t))
      | none => d) d

/-- The Gate returns the best θ that it received, and no other (log entry 6); the Kerb adopts it where it is better than its own (R219). -/
def thetaReturn (d : Dev) (k i : Nat) (theta : BitVec 32) : Dev :=
  match d.queryOf i with
  | none => d
  | some q => match d.versionOf q.desc.ns q.version, q.gateTheta with
    | some v, some t =>
      if theta = BitVec.ofNat 32 (enc32 t) && betterScore v.params.dist t (d.thetaAt k v.params.dist q) then
        d.modQuery i fun q => { q with thetas := AMap.put q.thetas k t }
      else d
    | _, _ => d

def execQueryBlockAdmit (kerb qblock : Nat) (s : State) : Host.Outcome State Fault Refusal :=
  effect (fun d => queryBlockAdmit d kerb qblock) s

def execThetaShare (kerb : Nat) (s : State) : Host.Outcome State Fault Refusal := effect (fun d => thetaShare d kerb) s

def execThetaReturn (kerb query : Nat) (theta : BitVec 32) (s : State) : Host.Outcome State Fault Refusal :=
  effect (fun d => thetaReturn d kerb query theta) s

end Sys2Proof.Machine
end

