-- ==== Sys2Proof/Machine/Append.lean ====
section
/-! DEFINITION. Writing an index: appended vectors (R209, R210, R247, R309, R310), inserted nodes (R311), repair (R265), and
deferred changes to namespaces (R243, R385). -/

namespace Sys2Proof.Machine

open Dev (sideOffset Part nodeOffset inPart)

/-- Bytes of an object that a change to an index reads or writes, for a district: INDEX, offset, length. -/
structure Touch where
  write : Bool
  district : Nat
  object : Nat
  offset : Nat
  length : Nat

/-- Changes being made to an index: the device with every write so far, the writes (namespace, offset, bytes), the accesses to objects and
the district that they are for, and where an INGEST has come to in what its stages gave (`Config.stageValue`). -/
structure Staged where
  dev : Dev
  writes : List (Nat × Nat × List Byte) := []
  touches : List Touch := []
  district : Nat := 0
  seed : Nat × Nat := (0, 0)

/-- A write to a namespace, seen by the ones after it. -/
def Staged.put (s : Staged) (ns o : Nat) (bytes : List Byte) : Staged :=
  { s with dev := s.dev.storeNs ns o bytes, writes := s.writes ++ [(ns, o, bytes)] }

/-- An access to an object is noted. -/
def Staged.touch (s : Staged) (write : Bool) (object offset length : Nat) : Staged :=
  { s with touches := s.touches ++ [⟨write, s.district, object, offset, length⟩] }

/-- The next n values that the stages of an INGEST gave. -/
def Staged.take (s : Staged) (n : Nat) : List (BitVec 32) × Staged :=
  ((List.range n).map fun i => Config.stageValue s.seed.1 (s.seed.2 + i), { s with seed := (s.seed.1, s.seed.2 + n) })

/-- A write to an object. -/
def Staged.putObj (s : Staged) (object offset : Nat) (bytes : List Byte) : Staged :=
  { s with dev := s.dev.storeObj object offset bytes }.touch true object offset bytes.length

/-- The accesses count for their districts and objects (R341, R362). -/
def Dev.applyTouches (d : Dev) (ts : List Touch) : Dev :=
  ts.foldl (fun d t => if t.write then d.touchWrite t.district t.object t.length t.offset
    else d.touchRead t.district t.object t.length t.offset) d

/-- The changed index over the rewrites that wait for a window close. -/
def Dev.staged (d : Dev) : Staged :=
  { dev := d.changes.foldl (fun d c => match c with
      | .rewrite ns o b _ => d.storeNs ns o b
      | _ => d) d }

/-- The high or low nibbles of stored bytes, padded to D_pad (R209). -/
def packNibbles (high : Bool) (dims : Nat) (u : List Nat) : List Byte :=
  let nib (i : Nat) : Nat := let x := u.getD i 0; if high then x / 16 % 16 else x % 16
  (List.range (dPad dims / 2)).map fun j => BitVec.ofNat 8 (nib (2 * j) + 16 * nib (2 * j + 1))

/-- A binary32 vector as stored bytes, and how many were clamped (R309 step 4). -/
def quantise (offs scs vec : List Datum) : List Nat × Nat :=
  let r := ((vec.zip offs).zip scs).map fun p => storedByte p.1.1 p.1.2 p.2
  (r.map (·.1), (r.filter (·.2)).length)

/-- The value of stored bytes, each rounded once to binary32. -/
def dequantise (offs scs : List Datum) (u : List Nat) : List Datum :=
  ((offs.zip scs).zip u).map fun p =>
    match p.1.1, p.1.2 with
    | .fin n1 m1 e1, .fin n2 m2 e2 => v32 (num32 .rne (addFin false n1 m1 e1 n2 (m2 * p.2) e2))
    | _, _ => .zero

/-! Lists. -/

/-- The stripe being filled of a job's list lies in its staging object: high unit, low unit, side block. -/
def stagingAt (v : Version) (l : Nat) : Nat :=
  let vn := 131072 / dPad v.params.dims
  l * (131072 + sideStrideOf vn)

/-- A stripe built in staging is written to its place. -/
def Staged.flushStripe (s : Staged) (v : Version) (h : ListHead) (st obj base : Nat) : Staged :=
  let d := s.dev
  let s := s.touch false obj base (131072 + h.sideStride)
  ((s.put v.ns (h.highBase + 65536 * st) (d.loadObj obj base 65536)).put v.ns (h.lowBase + 65536 * st)
    (d.loadObj obj (base + 65536) 65536)).put v.ns (h.sideBase + st * h.sideStride) (d.loadObj obj (base + 131072) h.sideStride)

/-- Stored bytes and their side record at the end of a list (R247). `staging`: the object in which a job builds open
stripes. -/
def appendList (s : Staged) (v : Version) (l : Nat) (r : Rec) (u : List Nat) (staging : Option Nat) : Except Status Staged :=
  let a := s.dev.listAt v l
  let h := s.dev.headAt v l
  let n := h.vectors
  let st := n / h.stripeVectors
  let sl := n % h.stripeVectors
  let half := dPad h.dims / 2
  if !headOk v.params.dist h then .error .invalidField
  else if h.capacity * h.stripeVectors ≤ n then .error .capacityExceeded
  else
    let s := s.touch false (handleIndex v.params.directory) (8 * l) 8
    let hi := packNibbles true h.dims u
    let lo := packNibbles false h.dims u
    let fill (b : List Byte) (m : Nat) : List Byte := if sl = 0 then b ++ List.replicate (m - b.length) 0 else b
    let s : Staged := match staging with
      | none => ((s.put v.ns (h.highBase + 65536 * st + sl * half) (fill hi 65536)).put v.ns
          (h.lowBase + 65536 * st + sl * half) (fill lo 65536)).put v.ns (sideOffset h st sl) (fill (sideBytes r) h.sideStride)
      | some obj =>
        let base := stagingAt v l
        let s := ((s.putObj obj (base + sl * half) (fill hi 65536)).putObj obj (base + 65536 + sl * half)
          (fill lo 65536)).putObj obj (base + 131072 + 128 * sl) (fill (sideBytes r) h.sideStride)
        if sl + 1 < h.stripeVectors then s else s.flushStripe v h st obj base
    .ok (s.put v.ns (a + 0x10) (toLE 8 (n + 1) ++ toLE 4 (ceilDiv (n + 1) h.stripeVectors)))

/-- A partly filled stripe of a job's list is written to its place (R310, R314). -/
def flushList (s : Staged) (v : Version) (l obj : Nat) : Staged :=
  let h := s.dev.headAt v l
  if !headOk v.params.dist h || h.vectors % h.stripeVectors = 0 then s
  else s.flushStripe v h (h.vectors / h.stripeVectors) obj (stagingAt v l)

/-- The open stripe of a list is read back into staging (R314). -/
def readBack (d : Dev) (v : Version) (l dist obj : Nat) : Dev :=
  let h := d.headAt v l
  if !headOk v.params.dist h || h.vectors % h.stripeVectors = 0 then d
  else
    let st := h.vectors / h.stripeVectors
    let base := stagingAt v l
    (((d.storeObj obj base (d.loadNs v.ns (h.highBase + 65536 * st) 65536)).storeObj obj (base + 65536)
      (d.loadNs v.ns (h.lowBase + 65536 * st) 65536)).storeObj obj (base + 131072)
      (d.loadNs v.ns (h.sideBase + st * h.sideStride) h.sideStride)).touchWrite dist obj (131072 + h.sideStride) base

/-! Graphs. -/

/-- Every entry of a version's entry table. -/
def allSeeds (d : Dev) (v : Version) : List (Nat × Nat) :=
  (List.range v.params.lists).flatMap fun l =>
    let e := d.loadObj (handleIndex v.params.directory) (32 * v.params.partitions + 32 * l) 32
    (List.range v.params.entriesPerList).map fun i => (fieldLE e (6 * i) 5, fieldLE e (6 * i + 5) 1)

/-- A node record of a partition, its vector cut to DIMS. -/
def nodeIn (d : Dev) (v : Version) (p : Part) (id : Nat) : Option Node :=
  if !inPart p id then none
  else
    let n := d.nodeAt v p id
    some { n with vector := n.vector.take v.params.dims }

/-- The score of node x against the vector of node n. -/
def scoreAgainst (v : Version) (offs scs : List Datum) (n x : Node) : Datum :=
  let c := coefOf v.params.dist (dequantise offs scs n.vector) offs scs []
  scoreAt c x.r.norm (sumByte c x.vector)

/-- One back edge (R311 step 3). -/
def backEdge (d : Dev) (v : Version) (p : Part) (offs scs : List Datum) (new n : Node) : Node :=
  let own := n.edges.take n.neighbours
  let e := (new.r.id, new.r.gen)
  if n.neighbours < v.params.degree then { n with neighbours := n.neighbours + 1, edges := own ++ [e] }
  else
    let score (x : Nat × Nat) : Datum := match nodeIn d v p x.1 with
      | some y => scoreAgainst v offs scs n y
      | none => thetaInit v.params.dist
    let worst := own.zipIdx.foldl (fun (w : Option (Nat × Datum)) x => match w with
      | some y => if betterScore v.params.dist y.2 (score x.1) then some (x.2, score x.1) else w
      | none => some (x.2, score x.1)) none
    match worst with
    | some (i, sc) => if betterScore v.params.dist (scoreAgainst v offs scs n new) sc then { n with edges := own.set i e } else n
    | none => n

/-- A node is inserted with its neighbours and their back edges (R311). -/
def insertNode (s : Staged) (v : Version) (r : Rec) (vec : List Datum) (u : List Nat) (w : Nat) : Staged :=
  match s.dev.partOf v r.id with
  | none => s
  | some (_, p) =>
    let d := s.dev
    let s := (s.touch false (handleIndex v.params.directory) 0 (32 * v.params.partitions + 32 * v.params.lists)).touch false
      (handleIndex v.params.scales) 0 (8 * v.params.dims)
    let (offs, scs) := d.scalesOf v
    let coef := coefOf v.params.dist vec offs scs []
    let seeds := (allSeeds d v).filter fun x => inPart p x.1
    let walk := Walk.run coef w v.params.expand v.params.version v.params.degree (nodeIn d v p) v.params.maxLevels
      (Walk.seed coef w v.params.version v.params.degree (nodeIn d v p) seeds)
    let live (x : Rec) : Bool := let st := d.idState v.ns x.id; x.id ≠ r.id && !(st.tomb && st.gen = x.gen)
    let ns := pickNeighbours v.params.dist v.params.degree live walk
    let node : Node := { r := r, magic := 0x45444F4E, version := v.params.version, neighbours := ns.length,
                         edges := ns.map fun b => (b.node.r.id, b.node.r.gen), vector := u }
    let s := s.put v.ns (nodeOffset p r.id) (nodeBytes node)
    ns.foldl (fun s b =>
      match nodeIn s.dev v p b.node.r.id with
      | some n => s.put v.ns (nodeOffset p n.r.id) (nodeBytes (backEdge s.dev v p offs scs node n))
      | none => s) s

/-! Repair (R265). -/

/-- One neighbour of a tombstoned node: its edge to x is replaced by the best of x's other neighbours, or removed. A record that R257 calls
bad is invalid: it is neither rewritten nor chosen. -/
def repairEdge (s : Staged) (v : Version) (p : Part) (offs scs : List Datum) (x : Node) (e : Nat × Nat) : Staged :=
  match nodeIn s.dev v p e.1 with
  | none => s
  | some n =>
    let own := n.edges.take n.neighbours
    match own.findIdx? fun y => y.1 = x.r.id with
    | none => s
    | some i =>
      if !nodeOk v.params.version v.params.degree e.1 n || !n.r.valid || n.r.gen ≠ e.2 then s
      else
        let cands := ((x.edges.take x.neighbours).filter fun y => y.1 ≠ e.1).filterMap fun y =>
          match nodeIn s.dev v p y.1 with
          | some c =>
            let st := s.dev.idState v.ns y.1
            if nodeOk v.params.version v.params.degree y.1 c && c.r.valid && c.r.gen = y.2 && !(st.tomb && st.gen = y.2) && !st.free && st.gen = y.2 && y.1 ≠ n.r.id
                && !(own.any fun z => z.1 = y.1) then
              some (scoreAgainst v offs scs n c, y)
            else none
          | none => none
        let best := cands.foldl (fun (b : Option (Datum × Nat × Nat)) c => match b with
          | some y => if betterScore v.params.dist c.1 y.1 || (cmpNum c.1 y.1 = 0 && c.2.1 < y.2.1) then some c else b
          | none => some c) none
        let n := match best with
          | some c => { n with edges := own.set i c.2 }
          | none => { n with neighbours := n.neighbours - 1, edges := own.eraseIdx i }
        s.put v.ns (nodeOffset p n.r.id) (nodeBytes n)

/-- Repair of one ID in one graph version, if it has a record there. -/
def repairId (s : Staged) (v : Version) (id : Nat) : Staged × Bool :=
  match s.dev.partOf v id with
  | none => (s, false)
  | some (_, p) =>
    match nodeIn s.dev v p id with
    | none => (s, false)
    | some x =>
      if !nodeOk v.params.version v.params.degree id x || !x.r.valid then (s, false)
      else
        let (offs, scs) := s.dev.scalesOf v
        let s := (x.edges.take x.neighbours).foldl (fun s e => repairEdge s v p offs scs x e) s
        (s.put v.ns (nodeOffset p id) (nodeBytes { x with r := { x.r with valid := false } }), true)

namespace Dev

/-- Changes wait for the next gather window close (R243). -/
def defer (d : Dev) (cs : List Deferred) : Dev := { d with changes := d.changes ++ cs }

def deferWrites (d : Dev) (owner : Option (Nat × Nat)) (ws : List (Nat × Nat × List Byte)) : Dev :=
  d.defer (ws.map fun w => .rewrite w.1 w.2.1 w.2.2 owner)

/-- Flash pieces written for a district's work on an index (R341). -/
def countWrites (d : Dev) (dist : Nat) (ws : List (Nat × Nat × List Byte)) : Dev :=
  d.fadd (Reg.CNT_DIST_T2W dist) Fld.CNT_DIST_T2W_WRITE_PIECES
    ((ws.flatMap fun w => (piecesOf w.2.1 w.2.2.length).map fun p => (w.1, p)).dedup.length)

/-- Writes made at once, in an index version that no query sees. -/
def writeNow (d : Dev) (owner : Option (Nat × Nat)) (ws : List (Nat × Nat × List Byte)) : Dev :=
  ws.foldl (fun d w => d.writeNs owner w.1 w.2.1 w.2.2) d

/-- Queries resolved on a namespace whose results are still to come: on an index whose ID table it shares, or whose passages it holds. -/
def viewers (d : Dev) (ns : Nat) : List Nat :=
  let owners := (d.texts.filter fun x => x.2.1 = ns).map fun x => x.1 / 2 ^ 40
  (d.queries.filter fun q => q.2.resolved && q.2.phase ≠ .done
    && (d.idOwner q.2.desc.ns = d.idOwner ns || owners.contains (d.idOwner q.2.desc.ns))).map (·.1)

/-- The earlier state of every unit of a range stays for the queries that see it (R385). -/
def keepEarlier (d : Dev) (ns o n : Nat) : Dev :=
  let sz := d.unitSize ns
  let qs := d.viewers ns
  if qs.isEmpty then d else (d.unitsOf ns o n).foldl (fun d u =>
    let s : StaleUnit := ⟨ns, u, d.mapOf ns u, d.loadNs ns (u * sz) sz, qs⟩
    { d with media := { d.media with stale := d.media.stale ++ [s] } }) d

/-- A deferred write takes effect. -/
def applyRewrite (d : Dev) (owner : Option (Nat × Nat)) (ns o : Nat) (bytes : List Byte) : Dev :=
  (d.keepEarlier ns o bytes.length).writeNs owner ns o bytes

/-- An ID's state changes at a window close; queries resolved before keep seeing the earlier one. -/
def changeId (d : Dev) (ns id : Nat) (f : IdState → IdState) : Dev :=
  let old := d.idState ns id
  let qs := d.viewers ns
  let d := if qs.isEmpty then d else { d with staleIds := d.staleIds ++ [(2 ^ 40 * d.idOwner ns + id, old, qs)] }
  d.setId ns id (f old)

end Dev

end Sys2Proof.Machine
end

