-- ==== Sys2Proof/Machine/IndexMaint.lean ====
section
/-! DEFINITION. INDEX_MAINT (R240 to R247, R265 to R269), DELETE (R263, R429) and INGEST (R426 to R428, R312). -/

namespace Sys2Proof.Machine

namespace Dev

/-- Lists by their scores under the distance kind, best first, ties to the lower list, NaN last (R248, R258). -/
def rankLists (kind : Nat) (scores : List (BitVec 32)) : List Nat :=
  let key (x : Datum) : Datum := if kind = 0 || kind = 2 then x else x.negate
  (sortBy scoreBefore ((scores.map fun x => key (dec32 x.toNat)).zipIdx)).map (·.2)

/-- The base that the sequencer assigns to a batch slot (R275): a free place in the district's window where every address of the list that
is relative to it fits (DESIGN CHOICE, log entry 72). -/
def batchBase (d : Dev) (b dist count list : Nat) : Nat × Dev :=
  let w := d.window b dist
  let c : CheckCtx := ⟨d, b, (d.logicalOf b).getD 0, dist, d.bankOf b, [], true⟩
  match c.opList (min count 64) list false (some (2 ^ 31)) with
  | .error _ => (w.1, d)
  | .ok ops =>
    let far := ops.flatMap fun o => (d.opReads b dist o ++ d.opWrites b dist o).filter fun r => 2 ^ 31 ≤ r.at'
    let span := far.foldl (fun m r => max m (r.at' - 2 ^ 31 + r.len)) 0
    let (x, d) := d.draw
    (if w.2 < span then w.1 else w.1 + 64 * (x.toNat % ((w.2 - span) / 64 + 1)), d)

/-! Jobs that touch an index. -/

/-- The live job of a namespace: RUNNING, PAUSED or FOLLOWING (R312). -/
def liveJob (d : Dev) (ns : Nat) : Option Job :=
  (d.jobs.find? fun j => j.2.ns = ns && (j.2.state = .running || j.2.state = .paused || j.2.state = .following)).map (·.2)

def modJob (d : Dev) (i : Nat) (f : Job → Job) : Dev := { d with jobs := AMap.upd d.jobs i f }

/-- Jobs whose target is a version. -/
def jobsOn (d : Dev) (ns n : Nat) : List Job := (d.jobs.map (·.2)).filter fun j => j.ns = ns && j.target = n

def jobCode (s : JobState) : Nat := match s with
  | .idle => 0
  | .running => 1
  | .paused => 2
  | .following => 3
  | .done => 4
  | .cancelled => 5

/-- The device's fields of a job's record (R306), a write that counts for the job's district (R341, R362). -/
def writeJob (d : Dev) (i : Nat) : Dev :=
  match AMap.look d.jobs i with
  | none => d
  | some j =>
    let b := toLE 1 (jobCode j.state) ++ toLE 1 0 ++ toLE 2 ((j.failStatus.getD .success).code)
      ++ capLE 4 j.retries ++ toLE 8 j.nextId ++ toLE 8 j.embedded ++ toLE 8 j.skipped ++ toLE 8 j.saturated
      ++ toLE 8 j.dualWrites ++ toLE 8 j.startBeat ++ toLE 8 j.followBeat
    (d.storeObj j.object 0x58 b).touchWrite j.district j.object b.length 0x58

def setJob (d : Dev) (i : Nat) (f : Job → Job) : Dev := (d.modJob i f).writeJob i

/-! CREATE (R240, R245). -/

def paramsOf (b : List Byte) : IndexParams :=
  { version := fieldLE b 0 4, graph := fieldLE b 4 1 = 2, dist := fieldLE b 5 1, dims := fieldLE b 6 2, lists := fieldLE b 8 4,
    degree := fieldLE b 0xC 1, expand := fieldLE b 0xD 1, maxLevels := fieldLE b 0xE 1, entryProbes := fieldLE b 0xF 1,
    partitions := fieldLE b 0x10 1, entriesPerList := fieldLE b 0x11 1, sweepLimit := fieldLE b 0x14 4,
    idBase := fieldLE b 0x18 8, idCount := fieldLE b 0x20 8, centroids := fieldLE b 0x28 8, directory := fieldLE b 0x30 8,
    scales := fieldLE b 0x38 8 }

/-- The ranges of INDEX_PARAMS. -/
def paramsOk (b : List Byte) : Bool :=
  let p := paramsOf b
  b.length = 64 && between p.version 1 0xFFFFFFFE && between (fieldLE b 4 1) 1 2 && fieldLE b 0x12 2 = 0
    && 1 ≤ p.idCount && p.idBase + p.idCount ≤ 2 ^ 40
    && (if p.graph then
          p.dist ≤ 2 && between p.dims 64 1536 && between p.lists 1 65536 && between p.degree 1 64 && between p.expand 1 16
            && between p.maxLevels 1 64 && between p.entryProbes 1 64 && between p.partitions 1 48
            && between p.entriesPerList 1 4 && p.sweepLimit = 0
        else
          p.dist ≤ 3 && between p.dims 64 4096 && between p.lists 1 1048576 && p.degree = 0 && p.expand = 0 && p.maxLevels = 0
            && p.entryProbes = 0 && p.partitions = 0 && p.entriesPerList = 0 && between p.sweepLimit 1 4194304)

/-- The checks of CREATE, in order. -/
def createCheck (d : Dev) (dist ns : Nat) (b : List Byte) : Except Status IndexParams := do
  let p := paramsOf b
  let some n := d.nsDef ns | .error .invalidField
  need (paramsOk b)
  need (n.mutable = p.graph)
  need ((d.versionOf ns p.version).isNone)
  let some o := d.nsDef (d.idOwner ns) | .error .invalidField
  need (decide (o.idBase ≤ p.idBase) && decide (p.idBase + p.idCount ≤ o.idBase + o.idCount))
  let _ ← d.objCheck dist p.centroids
  let dir ← d.objCheck dist p.directory
  need (dir.tier = 1)
  need ((d.objCheck dist p.scales).isOk || (p.dist = 3 && p.scales = 0))
  need (((d.versionsOf ns).filter fun v => v.params.graph = p.graph && v.state ≠ .retired).length < 4) .capacityExceeded
  return p

/-- INDEX_MAINT CREATE. -/
def createCmd (d : Dev) (h : Hdr) (ns : Nat) (b : List Byte) : Dev :=
  match d.districtOf h.queue with
  | none => d.finishPort h.queue h.cid .districtNotResident
  | some dist => match d.createCheck dist ns b with
    | .error st => d.finishPort h.queue h.cid st
    | .ok p => ({ d with versions := d.versions ++ [{ ns := ns, params := p, state := .building }] } : Dev).finishPort
        h.queue h.cid .success

/-! SEAL (R244, R315). -/

/-- A partition table entry is sound (R256, R378): its Kerb's slice holds GRAPH_BASE, and its IDs lie in the version's. -/
def partOk (d : Dev) (v : Version) (i : Nat) : Bool :=
  let p := d.partAt v i
  let e := d.loadObj (handleIndex v.params.directory) (32 * i) 32
  p.kerb < 48 && allZero (sliceB e 1 7) && p.at' % 4096 = 0 && v.params.idBase ≤ p.base
    && p.base + p.nodes ≤ v.params.idBase + v.params.idCount
    && (match d.nsDef v.ns with
      | some n => n.kerbBind && p.at' / (n.size / 48) = p.kerb && (p.nodes = 0 || (p.at' + 2048 * p.nodes - 1) / (n.size / 48) = p.kerb)
      | none => false)

def sealOk (d : Dev) (v : Version) : Bool :=
  if v.params.graph then (List.range v.params.partitions).all (d.partOk v)
  else (List.range v.params.lists).all fun l =>
    let h := d.headAt v l
    headOk v.params.dist h && h.dims = v.params.dims && h.listId = l && h.version = v.params.version

def sealCmd (d : Dev) (h : Hdr) (ns n : Nat) : Dev :=
  let out (st : Status) : Dev := d.finishPort h.queue h.cid st
  match d.districtOf h.queue, d.versionOf ns n with
  | none, _ => out .districtNotResident
  | _, none => out .invalidField
  | _, some v =>
    if v.state ≠ .building then out .invalidField
    else if (d.jobsOn ns n).any fun j => j.state = .idle || j.state = .running || j.state = .paused then out .scopeBusy
    else if !d.sealOk v then out .invalidField
    else (d.modVersion ns n fun v => { v with state := .ready }).finishPort h.queue h.cid .success

/-! SWITCH (R242, R315). -/

def switchCmd (d : Dev) (h : Hdr) (ns n beat : Nat) : Dev :=
  let out (st : Status) : Dev := d.finishPort h.queue h.cid st
  match d.districtOf h.queue, d.versionOf ns n with
  | none, _ => out .districtNotResident
  | _, none => out .invalidField
  | _, some v => if v.state ≠ .ready then out .invalidField else d.defer [.switch ns n beat h.queue h.cid]

/-- A switch takes effect: the version is CURRENT, the one before returns to READY, and a job that follows it is DONE. -/
def switchNow (d : Dev) (ns n queue cid : Nat) : Dev :=
  match d.versionOf ns n with
  | none => d.finishPort queue cid .invalidField
  | some v =>
    if v.state ≠ .ready then d.finishPort queue cid .invalidField
    else
      let move (x : Version) : Version :=
        if x.ns = ns && x.params.version = n then { x with state := .current }
        else if x.ns = ns && x.params.graph = v.params.graph && x.state = .current then { x with state := .ready } else x
      let d : Dev := { d with versions := d.versions.map move }
      let d := ((d.jobsOn ns n).filter fun j => j.state = .following).foldl (fun d j =>
        d.setJob j.id fun j => { j with state := .done }) d
      d.finishPort queue cid .success

/-! RETIRE (R241, R244, R313). -/

def retireCmd (d : Dev) (h : Hdr) (ns n : Nat) : Dev :=
  let out (st : Status) : Dev := d.finishPort h.queue h.cid st
  match d.districtOf h.queue, d.versionOf ns n with
  | none, _ => out .districtNotResident
  | _, none => out .invalidField
  | _, some v =>
    if v.state ≠ .building && v.state ≠ .ready then out .invalidField
    else
      let d := d.modVersion ns n fun v => { v with state := .draining }
      let d := ((d.jobsOn ns n).filter fun j => j.state ≠ .done && j.state ≠ .cancelled).foldl (fun d j =>
        d.setJob j.id fun j => { j with state := .cancelled, batch := [], embed := [], stage := 0, ran := none, result := none }) d
      d.retireIdle.finishPort h.queue h.cid .success

/-! FILTER_LOAD (R267 to R269). -/

/-- The program records of the data buffer: each a head and its instructions. -/
def filterPrograms : Nat → List Byte → Option (List (List Nat))
  | 0, b => if b.isEmpty then some [] else none
  | n + 1, b =>
    let len := fieldLE b 0 2
    let code := (List.range len).map fun i => fieldLE b (4 + 8 * i) 8
    if b.length < 4 + 8 * len || !between len 1 32 || fieldLE b 2 2 ≠ 0 || !code.all filterInstrOk then none
    else (filterPrograms n (b.drop (4 + 8 * len))).map (code :: ·)

def filterLoadCmd (d : Dev) (h : Hdr) (first count : Nat) (b : List Byte) : Dev :=
  let out (st : Status) : Dev := d.finishPort h.queue h.cid st
  match d.districtOf h.queue with
  | none => out .districtNotResident
  | some dist =>
    if count = 0 then out .success
    else if 256 < first + count then out .invalidField
    else match filterPrograms count b with
      | none => out .invalidField
      | some ps => d.defer ((ps.zipIdx.map fun (c, i) => .filterLoad dist (first + i) c) ++ [.done h.queue h.cid .success 0])

/-! Repair (R265). -/

/-- Tombstoned IDs of a namespace's ID table. -/
def tombstoned (d : Dev) (ns : Nat) : List Nat :=
  let o := d.idOwner ns
  (d.ids.filter fun x => x.1 / 2 ^ 40 = o && x.2.tomb).map fun x => x.1 % 2 ^ 40

/-- Graph versions that repair works on, over every namespace that shares the ID table. -/
def repairVersions (d : Dev) (ns : Nat) : List Version :=
  d.versions.filter fun v => d.idOwner v.ns = d.idOwner ns && v.params.graph
    && (v.state = .ready || v.state = .current || v.state = .building)

/-- Repair of every tombstoned ID in every such version; an ID whose repair has finished everywhere is to be freed. -/
def repairAll (d : Dev) (ns : Nat) : Dev :=
  (d.tombstoned ns).foldl (fun d id =>
    if d.changes.any fun c => match c with
        | .freeNext n i | .free n i => d.idOwner n = d.idOwner ns && i = id
        | _ => false
    then d
    else
      let todo := (d.repairVersions ns).filter fun v => !v.repaired.contains id
      let d := todo.foldl (fun d v =>
        let (s, did) := repairId d.staged v id
        (d.deferWrites none s.writes).modVersion v.ns v.params.version fun v =>
          { v with repaired := v.repaired ++ [id], repairs := v.repairs + (if did then 1 else 0) }) d
      d.defer [.freeNext ns id]) d

def repairCmd (d : Dev) (h : Hdr) (ns : Nat) : Dev :=
  match d.districtOf h.queue, d.nsDef ns with
  | none, _ => d.finishPort h.queue h.cid .districtNotResident
  | _, none => d.finishPort h.queue h.cid .invalidField
  | _, some _ => (d.repairAll ns).finishPort h.queue h.cid .success

/-! STATS (R245, R425). -/

/-- The codes of a version's state in the record: the spec names the states and gives no codes (DESIGN CHOICE, log entry 74). -/
def versionState (s : VState) : Nat := match s with
  | .building => 0
  | .ready => 1
  | .current => 2
  | .draining => 3
  | .retired => 4

/-- The 80-byte record of a version: state, units, stripes or nodes, tombstoned IDs that this version has not repaired yet, IDs freed and
exhausted, stale edges, repairs, passes, lists re-read. IDs that were freed are those whose generation has moved on. -/
def statsRecord (d : Dev) (v : Version) : List Byte :=
  let o := d.idOwner v.ns
  let own := d.ids.filter fun x => x.1 / 2 ^ 40 = o && v.params.idBase ≤ x.1 % 2 ^ 40
    && x.1 % 2 ^ 40 < v.params.idBase + v.params.idCount
  let body := if v.params.graph then ((List.range v.params.partitions).map fun i => (d.partAt v i).nodes).sum
    else ((List.range v.params.lists).map fun l => (d.headAt v l).stripes).sum
  toLE 4 v.params.version ++ toLE 1 (if v.params.graph then 2 else 1) ++ toLE 1 (versionState v.state) ++ toLE 2 0
    ++ toLE 8 (if v.params.graph then v.params.partitions else v.params.lists) ++ toLE 8 body
    ++ toLE 8 (own.filter fun x => x.2.tomb && !v.repaired.contains (x.1 % 2 ^ 40)).length ++ toLE 8 (own.map fun x => x.2.gen).sum
    ++ toLE 8 (own.filter fun x => x.2.exhausted).length ++ capLE 8 v.staleEdges ++ capLE 8 v.repairs ++ capLE 8 v.passes
    ++ capLE 8 v.reread

def statsCmd (d : Dev) (h : Hdr) (ns len : Nat) : Dev :=
  let vs := sortBy (fun (a b : Version) => decide (a.params.version < b.params.version))
    ((d.versionsOf ns).filter fun v => v.state ≠ .retired)
  match d.districtOf h.queue, d.nsDef ns with
  | none, _ => d.finishPort h.queue h.cid .districtNotResident
  | _, none => d.finishPort h.queue h.cid .invalidField
  | _, some _ =>
    if len ≠ 80 * vs.length then d.finishPort h.queue h.cid .invalidField
    else (d.sendHost h.queue h.cid (.data h.queue h.cid (vs.flatMap d.statsRecord))).finishPort h.queue h.cid .success

/-! DELETE (R263, R429). -/

/-- TEXT_NSID 0 names the same namespace. -/
def textNs (ns text : Nat) : Nat := if text = 0 then ns else text

def deleteCmd (d : Dev) (h : Hdr) (ns id gen : Nat) (secure : Bool) (text lba blocks : Nat) : Dev :=
  match d.nsDef ns with
  | none => d.finishPort h.queue h.cid .invalidField
  | some _ =>
    if !secure && (text ≠ 0 || lba ≠ 0 || blocks ≠ 0) then d.finishPort h.queue h.cid .invalidField
    else if secure && blocks = 0 then d.finishPort h.queue h.cid .success
    else if !d.idInRange ns id then d.finishPort h.queue h.cid .lbaOutOfRange
    else
      let s := d.idState ns id
      if s.gen ≠ gen || s.tomb || s.free then d.finishPort h.queue h.cid .success
      else if secure && (match d.nsDef (textNs ns text) with
          | some n => n.size < 4096 * (lba + blocks)
          | none => true) then d.finishPort h.queue h.cid .lbaOutOfRange
      else if secure then
        (d.takeEffect h.queue h.cid).defer [.tomb ns id gen, .secure h.queue h.cid (textNs ns text) lba blocks]
      else (d.takeEffect h.queue h.cid).defer [.tomb ns id gen, .done h.queue h.cid .success 0]

/-! INGEST (R426 to R428). -/

/-- An entry of R426 with the bytes of its passage record. -/
structure IngestEntry where
  id : Nat
  gen : Nat
  doc : Nat
  lba : Nat
  list : Nat
  attr : List Byte
  record : List Byte
  vector : List Datum

def ingestEntry (b : List Byte) (given : Bool) (dims i : Nat) : IngestEntry :=
  let e := sliceB b (128 * i) 128
  { id := fieldLE e 0 5, gen := fieldLE e 5 1, doc := fieldLE e 8 4, lba := fieldLE e 0x10 8, list := fieldLE e 0x20 4,
    attr := sliceB e 0x40 64, record := sliceB b (fieldLE e 0x18 4) (fieldLE e 0xC 4),
    vector := if given then table32 b (fieldLE e 0x1C 4) dims else [] }

/-- A passage record agrees with R427 and with its entry. -/
def recordOk (b : List Byte) (i : Nat) (e : IngestEntry) (given : Bool) : Bool :=
  let raw := sliceB b (128 * i) 128
  let r := e.record
  let n := fieldLE r 0x14 4
  let len := fieldLE r 0x18 4
  let offs := (List.range n).map fun t => fieldLE r (0x24 + 8 * t) 4
  fieldLE raw 6 2 = 0 && allZero (sliceB raw 0x24 28) && fieldLE raw 0x18 4 % 64 = 0 && r.length = fieldLE raw 0xC 4
    && (given || fieldLE raw 0x1C 4 = 0) && (given || e.list = 0xFFFFFFFF)
    && fieldLE r 0 4 = 0x45475350 && fieldLE r 4 2 = 1 && fieldLE r 6 2 = 0 && fieldLE r 8 5 = e.id && fieldLE r 0xD 1 = e.gen
    && fieldLE r 0xE 2 = 0 && fieldLE r 0x10 4 = e.doc && n ≤ 65536 && fieldLE r 0x1C 4 = 0 && r.length = 32 + 8 * n + len
    && offs.all (fun o => o < len) && ((offs.zip offs.tail).all fun p => p.1 ≤ p.2)

/-- The side or node record of an entry (R210, R257, R427). -/
def entryRec (e : IngestEntry) (norm : Nat) : Rec :=
  { id := e.id, gen := e.gen, valid := true, norm := norm, docId := e.doc, textLba := e.lba,
    textLength := fieldLE e.record 0x18 4, attr := e.attr }

/-- Stored bytes of a vector under a version's tables; code bytes for HAMMING. -/
def storedBytes (v : Version) (offs scs vec : List Datum) : List Nat × Nat :=
  if v.params.dist = 3 then (vec.map headStep.hammingByte, 0) else quantise offs scs vec

/-- A vector goes to a list of a list version, with the tables of that list's head. -/
def appendTo (s : Staged) (v : Version) (l : Nat) (e : IngestEntry) (vec : List Datum) (staging : Option Nat) :
    Except Status Staged :=
  let h := s.dev.headAt v l
  let (u, _) := storedBytes v h.offsets h.scales vec
  appendList s v l (entryRec e (if v.params.dist = 1 then normOf h.offsets h.scales u else 0)) u staging

def insertInto (s : Staged) (v : Version) (e : IngestEntry) (vec : List Datum) (w : Nat) : Staged :=
  let (offs, scs) := s.dev.scalesOf v
  let (u, _) := quantise offs scs vec
  insertNode s v (entryRec e (if v.params.dist = 1 then normOf offs scs u else 0)) vec u w

/-- The next vector that an ENCODE stage gave, of n elements. -/
def nextVector (s : Staged) (n : Nat) : List Datum × Staged := let (x, s) := s.take n; (x.map fun c => dec32 c.toNat, s)

/-- The list that a ROUTE stage gave for the next vector: the first of its ranking. -/
def nextList (s : Staged) (v : Version) : Nat × Staged :=
  let (x, s) := s.take v.params.lists
  (((rankLists v.params.dist x).head?).getD 0, s)

/-- The largest DIMS of a namespace's CURRENT versions. -/
def currentDims (d : Dev) (ns : Nat) : Nat :=
  ([d.currentOf ns false, d.currentOf ns true].filterMap id).foldl (fun m v => max m v.params.dims) 0

/-- The job that an INGEST into a namespace also writes for, with its target version (R312). -/
def jobTarget (d : Dev) (ns : Nat) : Option (Job × Version) :=
  (d.liveJob ns).bind fun j => (d.versionOf ns j.target).map fun v => (j, v)

/-- The passage goes to the target version of a live job, and its ID into COVERAGE (R312). -/
def ingestJob (s : Staged) (e : IngestEntry) (j : Job) (v : Version) : Except Status Staged := do
  let dist := s.district
  let (vec, s) := nextVector { s with district := j.district } v.params.dims
  let s ← if v.params.graph then .ok (insertInto s v e vec j.buildBeam)
    else
      let (l, s) := nextList s v
      appendTo s v l e vec (if j.state = .following then none else some (handleIndex j.staging))
  let at' := e.id - j.idFirst
  let c := handleIndex j.coverage
  let s := if j.idFirst ≤ e.id && e.id < j.idFirst + j.idCount then
      (s.touch false c (at' / 8) 1).putObj c (at' / 8) [BitVec.ofNat 8 ((leNat (s.dev.loadObj c (at' / 8) 1)).lor (2 ^ (at' % 8)))]
    else s
  return { s with district := dist }

/-- One entry: its vector is appended to the CURRENT list version, inserted into the CURRENT graph version, and what the job's stages gave
for it goes to the job's target (R428, R312). -/
def ingestOne (s : Staged) (ns w : Nat) (given : Bool) (e : IngestEntry) : Except Status Staged := do
  let (vec, s) := if given then (e.vector, s) else nextVector s (s.dev.currentDims ns)
  let s ← match s.dev.currentOf ns false with
    | some v =>
      let (l, s) := if e.list = 0xFFFFFFFF then nextList s v else (e.list, s)
      appendTo s v l e (vec.take v.params.dims) none
    | none => .ok s
  let s := match s.dev.currentOf ns true with
    | some v => insertInto s v e (vec.take v.params.dims) w
    | none => s
  match s.dev.jobTarget ns with
  | some (j, v) => ingestJob s e j v
  | none => .ok s

/-- The checks of R428 on entry i. -/
def ingestCheck (d : Dev) (ns text i : Nat) (given routed : Bool) (b : List Byte) (e : IngestEntry) : Except Status Unit := do
  need (d.idInRange ns e.id) .lbaOutOfRange
  let s := d.idState ns e.id
  need (s.free && s.gen = e.gen)
  need (recordOk b i e given)
  need (match d.nsDef text with
    | some n => 4096 * e.lba + e.record.length ≤ n.size
    | none => false) .lbaOutOfRange
  match d.currentOf ns false with
  | some v =>
    need (e.list = 0xFFFFFFFF || e.list < v.params.lists)
    need (e.list ≠ 0xFFFFFFFF || routed)
  | none => pure ()
  need (!d.refusesRange text (4096 * e.lba) e.record.length) .capacityExceeded

/-! The runs of an INGEST's stages. -/

/-- The commands of an INGEST: runs of at most 512 rows on the blocks of a stage in turn, as for queries (R278). ENCODE of its service where
no vectors are given, ROUTE where an entry has no list and a list version is CURRENT, then ENCODE of a live job, and its ROUTE for a list
target (R312, R428; DEDUCED, log entry 74). -/
def ingestRuns (d : Dev) (ns : Nat) (given : Bool) (es : List IngestEntry) (service : Option Service) : List (StageEntry × Nat × Nat) :=
  let runs (e : StageEntry) (rows dist : Nat) : List (StageEntry × Nat × Nat) :=
    (List.range (ceilDiv rows 512)).map fun i => (e, e.first + i % max e.count 1, dist)
  let routed := (es.filter fun e => e.list = 0xFFFFFFFF).length
  let own := match service with
    | some s => (if given then [] else runs s.encode es.length s.district)
        ++ if (d.currentOf ns false).isSome then runs s.route routed s.district else []
    | none => []
  own ++ match d.jobTarget ns with
    | some (j, v) => runs j.encode es.length j.district ++ if v.params.graph then [] else runs j.route es.length j.district
    | none => []

def modEncode (d : Dev) (q cid : Nat) (f : Option IngestRun → Option IngestRun) : Dev :=
  { d with host := { d.host with inflight := d.host.inflight.map fun x =>
      if x.queue = q && x.cid = cid then { x with encode := f x.encode } else x } }

/-- The next run of an INGEST is issued as a COMPUTE command of its district, once a slot is open (R319). -/
def issueEncode (d : Dev) (q cid : Nat) : Dev :=
  match (d.inflightOf q cid).bind (·.encode) with
  | none => d
  | some r => match r.todo with
    | [] => d
    | (e, g, dist) :: _ =>
      if r.issued.isSome || !d.computeRuns then d
      else match d.physOf g with
        | none => d.finishPort q cid .districtNotResident
        | some p =>
          if d.quarantined (g / 64) then d.finishPort q cid .districtNotResident
          else match d.freeSlot p dist with
            | none => d
            | some sl =>
              let (base, d) := d.batchBase p dist e.opCount e.opList
              let seq := (d.block p).nextSeq
              (d.modEncode q cid fun r => r.map fun r => { r with issued := some (p, seq), result := none }).enterSlot p sl
                { seq := 0, origin := .ingest q cid, district := dist, opCount := e.opCount, opList := e.opList, listInT0 := false,
                  scaleState := 0, scaleHistory := 0, routeState := 0, pairGather := 0, bufferLength := 0, state := .ready,
                  base := some base }

/-- An INGEST that passed its checks takes effect, at the next gather window close (R243, R428): its records and its index writes, the
states of its IDs, and its completion. -/
def ingestEffect (d : Dev) (q cid ns text : Nat) (dist : Option Nat) (es : List IngestEntry) (s : Staged)
    (ws : List (Nat × Nat × List Byte)) : Dev :=
  let d := d.takeEffect q cid
  let d := ({ d with objMem := s.dev.objMem }).applyTouches s.touches
  let d := match d.jobTarget ns with
    | some (j, _) => d.setJob j.id fun j => { j with dualWrites := j.dualWrites + es.length }
    | none => d
  let d := match dist with
    | some x => d.countWrites x ws
    | none => d
  (d.deferWrites (some (q, cid)) ws).defer ((es.map fun e => .assign ns e.id text (4096 * e.lba)) ++ [.written q cid])

/-- INGEST: every check, the runs of its stages, the reads of partly covered units (R381), then every effect. The checks are made again
when its stages have run. `ready`: the pieces have been read. -/
def ingestCmd (d : Dev) (h : Hdr) (ns count : Nat) (given : Bool) (service text0 : Nat) (b : List Byte) (ready : Bool) : Dev :=
  let dist := d.districtFor h.queue h.cid
  let encode := (d.inflightOf h.queue h.cid).bind (·.encode)
  let d := match dist with
    | some x => if encode.isNone && !ready then d.countPort (d.portOf h.queue) x false b.length else d
    | none => d
  let out (st : Status) (i : Nat) : Dev := d.finishPort h.queue h.cid st i
  let text := textNs ns text0
  let served := if service = 0xFFFF then none else (d.serviceById service).filter fun s => some s.district = dist
  if count = 0 then out .success 0
  else if dist.isNone then out .districtNotResident 0
  else if (d.nsDef ns).isNone || (d.nsDef text).isNone || 4096 < count || b.length < 128 * count then out .invalidField 0
  else if service = 0xFFFF && !given then out .invalidField 0
  else if service ≠ 0xFFFF && served.isNone then out .invalidField 0
  else if !given && !(served.any fun s => s.encodes) then out .invalidField 0
  else
    let blocked := match d.liveJob ns with
      | some j => (j.encode.blocks ++ j.route.blocks).any fun g => (d.physOf g).isNone || d.quarantined (g / 64)
      | none => false
    if blocked then out .districtNotResident 0
    else
      let es := (List.range count).map fun i => ingestEntry b given (d.currentDims ns) i
      let bad := es.zipIdx.findSome? fun (e, i) =>
        match d.ingestCheck ns text i given (service ≠ 0xFFFF) b e with
        | .error st => some (st, i)
        | .ok _ => none
      -- the lists of the entries before the first bad one are checked as well, so that the first failing entry is named
      let upTo := match bad with
        | some (_, i) => es.take i
        | none => es
      let runs := if encode.isSome then [] else d.ingestRuns ns given es served
      if bad.isNone && !runs.isEmpty then (d.modEncode h.queue h.cid fun _ => some { todo := runs }).issueEncode h.queue h.cid
      else
        let beam := (dist.map fun x => (d.district x).defaultBeam).getD 64
        let ticket := (encode.bind (·.seed)).getD 0
        let r := (if runs.isEmpty then upTo else []).zipIdx.foldl (fun (acc : Except (Status × Nat) Staged) (e, i) =>
          match acc with
          | .error x => .error x
          | .ok s => match ingestOne s ns (max 1 beam) given e with
            | .error st => .error (st, i)
            | .ok s => .ok s) (.ok { d.staged with district := dist.getD 0, seed := (ticket, 0) })
        match r, bad with
        | .error (st, i), _ => out st i
        | .ok _, some (st, i) => out st i
        | .ok s, none =>
          let ws := (es.map fun e => (text, 4096 * e.lba, e.record)) ++ s.writes
          if ws.any fun w => d.refusesRange w.1 w.2.1 w.2.2.length then out .capacityExceeded 0
          else
            let parts := (ws.flatMap fun w => (d.partPieces w.1 w.2.1 w.2.2.length).map fun p => (w.1, p)).dedup
            let (here, d) := if ready then (true, d)
              else parts.foldl (fun (acc : Bool × Dev) p =>
                let (here, d) := acc.2.readPieces h.queue h.cid p.1 [p.2]
                (acc.1 && here, d)) (true, d)
            if !here then d else d.ingestEffect h.queue h.cid ns text dist es s ws

/-- A run of an INGEST has ended, or a slot may be open for its next one. A run that an abort ended is repeated (R327); one that failed
ends the INGEST with its status; after the last one the INGEST goes on with what they gave. -/
def driveIngest (d : Dev) (x : Inflight) : Dev :=
  match x.encode with
  | none => d
  | some r => match r.result with
    | none => d.issueEncode x.queue x.cid
    | some .computeAborted =>
      (d.modEncode x.queue x.cid fun r => r.map fun r => { r with issued := none, result := none }).issueEncode x.queue x.cid
    | some .success =>
      let seed := if r.todo.tail.isEmpty then some d.drawn else none
      let d := d.modEncode x.queue x.cid fun _ => some { todo := r.todo.tail, seed := seed }
      if !r.todo.tail.isEmpty then d.issueEncode x.queue x.cid
      else
        let d := { d with drawn := d.drawn + 1 }
        match x.command with
        | .ingest h ns n given service text b => d.ingestCmd h ns n given service text b false
        | _ => d
    | some st => d.finishPort x.queue x.cid st

def driveIngests (d : Dev) : Dev := d.host.inflight.foldl driveIngest d

end Dev

end Sys2Proof.Machine
end

