-- ==== Sys2Proof/Machine/Queries.lean ====
section
/-! DEFINITION. The path of a query (R25, R276 to R297), windows (R242, R243, R251, R451), passes (R251 to R255), widening
(R270, R271) and their rows. -/

namespace Sys2Proof.Machine

namespace Dev

/-! Windows (R451). -/

/-- The beat of the first gather close at or after the start of a beat, and of the first sweep close. -/
def gatherBeatFrom (d : Dev) (b : Nat) : Nat := roundUp b d.plan.windows.gatherBeats
def sweepBeatFrom (d : Dev) (b : Nat) : Nat :=
  let w := d.plan.windows
  let o := w.sweepOffset % w.sweepBeats
  b + (w.sweepBeats - (b + w.sweepBeats - o) % w.sweepBeats) % w.sweepBeats

/-- The instant of a gather close: the latest one that has passed and was not carried out, else the next one. -/
def gatherAt (d : Dev) : Nat :=
  let w := d.plan.windows
  let at' (b : Nat) : Nat := b * d.period + 1000 * w.gatherPhaseUs
  let b := (d.time.ns - 1000 * w.gatherPhaseUs) / d.period
  let last := at' (b - b % w.gatherBeats)
  if last ≤ d.time.ns && d.time.lastGather < last then last
  else if d.time.ns < at' 0 then at' 0
  else at' (d.gatherBeatFrom (b + 1))

/-- The instant of a sweep close, likewise. -/
def sweepAt (d : Dev) : Nat :=
  let w := d.plan.windows
  let at' (b : Nat) : Nat := b * d.period + 1000 * w.sweepPhaseUs
  let b := (d.time.ns - 1000 * w.sweepPhaseUs) / d.period
  let last := at' (b - (b + w.sweepBeats - w.sweepOffset % w.sweepBeats) % w.sweepBeats)
  if last ≤ d.time.ns && d.time.lastSweep < last then last
  else if d.time.ns < at' (d.sweepBeatFrom 0) then at' (d.sweepBeatFrom 0)
  else at' (d.sweepBeatFrom (b + 1))

/-- The slots in which the present beat lies (R453). -/
def slotsNow (d : Dev) : List Nat :=
  let w := d.plan.windows
  (w.slots.zipIdx.filter fun x => (d.beat % w.slotCycle + w.slotCycle - x.1.start) % w.slotCycle < x.1.length).map (·.2)

/-- The stacks that are present, of some. -/
def stacksOf (d : Dev) (which : Nat → Bool) : List Nat :=
  ((List.range 12).filter which).filter fun s => d.fbit (Reg.STK_STAT s) Fld.STK_STAT_PRESENT

/-- Stacks are in training (R372). -/
def trainStacks (d : Dev) (which : Nat → Bool) : Dev :=
  (d.stacksOf which).foldl (fun d s => d.fon (Reg.STK_STAT s) Fld.STK_STAT_TRAINING) d

/-- Stacks have been trained again, after the training of start-up (R372). -/
def retrainStacks (d : Dev) (which : Nat → Bool) : Dev :=
  (d.stacksOf which).foldl (fun d s =>
    (d.foff (Reg.STK_STAT s) Fld.STK_STAT_TRAINING).fadd (Reg.STK_STAT s) Fld.STK_STAT_RETRAINS 1) d

/-- The open slots are others: a stack whose retraining ran in one of them (R453) is trained as none of them names it any more. -/
def putSlots (d : Dev) (ss : List Nat) : Dev :=
  let d : Dev := { d with time := { d.time with openSlots := ss } }
  if d.slotNames 4 then d
  else d.retrainStacks fun s => d.fbit (Reg.STK_STAT s) Fld.STK_STAT_TRAINING && !d.contain.resettingQuarters.contains (s / 3)

/-- Superblocks whose weighted age exceeds 90 days are scheduled for rewrite (R391). -/
def retentionRewrites (d : Dev) : Dev :=
  (d.media.sbs.filter fun x => x.2.state = .closed && !x.2.rewriteFirst
    && decide (x.2.closeAge + 90 * 86400 * 1000000000 < d.media.age)).foldl
    (fun d x => (d.members (x.1 / 2048) (x.1 % 2048)).foldl
      (fun d m => d.scheduleRewrite (dieOf (x.1 / 2048) m) (x.1 % 2048) false) d) d

/-- A slot begins: its stacks are retrained, which ones the spec does not say: a free value (log entry 9); and blocks of old data are
scheduled for rewrite. -/
def slotBegins (d : Dev) (i : Nat) : Dev :=
  match d.plan.windows.slots[i]? with
  | none => d
  | some e =>
    let (x, d) := d.draw
    let d := if bits e.activities 4 1 = 1 && d.slotNames 4 then d.trainStacks fun s => bits x.toNat s 1 = 1 else d
    if bits e.activities 1 1 = 1 && d.slotNames 1 then d.retentionRewrites else d

/-- The open slots are those in which the present beat lies, and the ones that were not open begin (R446, R452, R453). -/
def enterSlots (d : Dev) : Dev :=
  let fresh := d.slotsNow.filter fun i => !d.time.openSlots.contains i
  fresh.foldl slotBegins (d.putSlots d.slotsNow)

/-- At the start of a slot cycle the slot fields accepted before take effect (R452). -/
def adoptSlots (d : Dev) : Dev :=
  match d.plan.windowsNext with
  | none => d
  | some n =>
    let w := { d.plan.windows with slotCycle := n.slotCycle, slots := n.slots }
    let d := { d with plan := { d.plan with windows := w, windowsNext := if w = n then none else some n } }
    d.enterSlots

/-- How fast retention ages at the hottest NAND package: each 10 °C above 40 °C doubles it (R391; log entry 33). -/
def ageFactor (d : Dev) : Nat :=
  let t := (d.regs.filter fun x => Reg.PWR_TEMP 128 ≤ x.1 && x.1 ≤ Reg.PWR_TEMP 223).foldl
    (fun m x => max m (toSigned 16 (bits x.2 Fld.PWR_TEMP_TEMP.lo Fld.PWR_TEMP_TEMP.width))) 640
  2 ^ ((t - 640) / 160).toNat

/-- Device time reaches an instant: operations of the dies may now be suspended, or start (R229). -/
def reach (d : Dev) (ns : Nat) : Dev :=
  if ns ≤ d.time.ns then d
  else
    let cycle := d.beat / d.plan.windows.slotCycle
    let d := { d with media := { d.media with age := d.media.age + (ns - d.time.ns) * d.ageFactor } }
    let d := { d with time := { d.time with ns := ns } }
    let d := if cycle < d.beat / d.plan.windows.slotCycle then d.adoptSlots else d
    d.issueAll

/-- The close that resolves an AT_BEAT query (R294), as a time. -/
def closeTime (d : Dev) (sweep : Bool) (target : Nat) : Nat :=
  let w := d.plan.windows
  if sweep then d.sweepBeatFrom target * d.period + 1000 * w.sweepPhaseUs
  else d.gatherBeatFrom target * d.period + 1000 * w.gatherPhaseUs

/-! Arrival (R276, R279 to R281, R294). -/

/-- The checks of a descriptor, after the zero cases of R281. -/
def queryCheck (d : Dev) (queue : Nat) (q : QDesc) : Except Status Service := do
  let some dist := d.districtOf queue | .error .districtNotResident
  let s ← d.serviceFor dist q.service
  need (q.ns = s.ns && q.k ≤ s.maxK && 64 + 32 * q.k ≤ q.resultLength)
  need (!(q.sweep && s.graph))
  need (s.generate || q.extractTokens = 0)
  need (q.payloadKind ≤ 2 && (q.payloadKind = 0) = s.encodes)
  need (q.payloadKind ≠ 0 || (q.payloadLength % 4 = 0 && q.payloadLength ≤ 4 * s.maxTokens))
  need (if s.graph then q.probes ≤ 1024 else q.probes ≤ 16384)
  if q.atBeat then
    need (d.time.ns < d.closeTime q.sweep q.targetBeat) .commandInterrupted
    need (q.targetBeat ≤ d.beat + 65536)
  return s

def noService : Service :=
  let e : StageEntry := ⟨0, 0, 0, 0, 0, 0⟩
  ⟨0, 0, 0, 0, 0, false, false, 0, 0, 0, 0, 0, 0, 0, 0, 0, e, e, e, [], false⟩

/-- One descriptor arrives: it fails, is done at once, or its payload is fetched. -/
def acceptQuery (d : Dev) (h : Hdr) (index : Nat) (raw : List Byte) : Dev :=
  let q := qdescOf raw
  let id := d.nextQuery
  let fresh (s : Service) : Query :=
    { id := id, queue := h.queue, cid := h.cid, index := index, district := (d.districtOf h.queue).getD 0, desc := q,
      service := s, entry := d.district ((d.districtOf h.queue).getD 0), arrivalNs := d.time.ns, arrivalBeat := d.beat, phase := .fetching, since := d.time.ns }
  let add (x : Query) : Dev := { d with queries := AMap.put d.queries id x, nextQuery := id + 1 }
  let failed (st : Status) : Dev := add { fresh noService with phase := .done, failed := some st }
  if !q.reservedZero then failed .invalidField
  else if q.k = 0 || q.payloadLength = 0 || q.resultLength = 0 then
    let x : Query := { fresh ((d.serviceById q.service).getD noService) with phase := .done }
    if q.resultLength < 64 then add x
    else (add { x with unacked := true, holdover := d.holdover }).putResult x 0 (d.headerBytes x 0 false true false 0 .success)
  else match d.queryCheck h.queue q with
    | .error st => failed st
    | .ok s =>
      (add (fresh s)).emit (.rdmaRead h.queue q.payloadKey q.payloadAddr q.payloadLength)

/-- QUERY: its descriptors are pulled and checked (R280, R410, R425); when they cannot be read no query exists (R297). -/
def queryCmd (d : Dev) (h : Hdr) (count : Nat) (data : Fetch) : Dev :=
  match data with
  | .unreadable => d.finishPort h.queue h.cid .dataTransferError
  | .bytes data =>
  let rdma := match AMap.look d.host.assocs (d.assocOf h.queue) with
    | some a => a.rdma
    | none => true
  if !rdma || 256 < count || data.length ≠ 256 * count then d.finishPort h.queue h.cid .invalidField
  else if count = 0 then d.finishPort h.queue h.cid .success
  else
    let d := match d.districtOf h.queue with
      | some x => d.countPort (d.portOf h.queue) x false (256 * count)
      | none => d
    let d := (List.range count).foldl (fun d i => d.acceptQuery h i (sliceB data (256 * i) 256)) d
    d.settleQuery h.queue h.cid

/-! Batches (R278). -/

/-- How far a phase lies along the path. -/
def phaseRank (p : QPhase) : Nat := match p with
  | .fetching | .waiting => 0
  | .encode => 1
  | .route => 2
  | .search => 3
  | .fetchText => 4
  | .rerank s => 5 + s
  | .extract => 20
  | .returning | .done => 30

/-- Queries that share a batch at each block stage: one service, one gather close (R278). -/
def groupOf (d : Dev) (q : Query) : List Query :=
  (d.queries.map (·.2)).filter fun x => x.service.id = q.service.id && x.closeBeat = q.closeBeat && x.phase ≠ .done
    && x.phase ≠ .returning && x.closeBeat ≠ 0

/-- The kind, cascade stage and stage entry of a batch at a phase. -/
def stageOf (s : Service) (p : QPhase) : Option (Nat × Nat × StageEntry) := match p with
  | .encode => some (1, 0, s.encode)
  | .route => some (2, 0, s.route)
  | .rerank i => (s.cascade[i]?).map fun e => (3, i, e)
  | .extract => some (4, 0, s.extract)
  | _ => none

def batchOf (d : Dev) (i : Nat) : Option (Nat × Batch) := d.batches.find? fun b => b.2.queries.contains i

/-- The tokens of a passage as a query sees them: their offsets in the text, and its length (R427). -/
def tokensOf (d : Dev) (q : Query) (c : Cand) : List Nat :=
  let p := d.textPlace q c
  let n := min 65536 (fieldLE (d.loadNsFor q.id p.1 p.2 0x20) 0x14 4)
  let b := d.loadNsFor q.id p.1 (p.2 + 0x20) (8 * n)
  (List.range n).map fun i => fieldLE b (8 * i + 4) 4

/-- The sequences of a query at a stage (R277, R288): RERANK has the query's tokens and a passage's for each candidate; EXTRACT has one
context of the first entries' passages and its decode steps, or one context for each returned entry. -/
def requestsOf (d : Dev) (kind : Nat) (q : Query) : List Request :=
  let own := if q.desc.payloadKind = 0 then q.payload.length / 4 else 0
  let tokens (c : Cand) : Nat := (d.tokensOf q c).length
  if kind = 3 then q.cands.zipIdx.map fun c => ⟨q.id, c.2, own + tokens c.1, 0, 0⟩
  else if kind = 4 && q.service.generate then
    [⟨q.id, 0, ((q.cands.take q.service.contextEntries).map tokens).sum, 0, q.desc.extractTokens⟩]
  else if kind = 4 then (q.cands.take q.desc.k).zipIdx.map fun c => ⟨q.id, c.2, tokens c.1, 0, 0⟩
  else []

/-- The rows of the next pass (R289): the decode steps of the oldest sequences that are prefilled, then the next chunk of the oldest one
that is not. -/
def nextPass (b : Batch) : Batch :=
  let live := b.reqs.zipIdx.filter fun r => b.queries.contains r.1.query
  let decodes := ((live.filter fun r => r.1.filled = r.1.tokens && 0 < r.1.steps).map fun r => r.1.query).take b.decodePerPass
  let chunk := (live.find? fun r => r.1.filled < r.1.tokens).map fun r => (r.2, min b.chunkTokens (r.1.tokens - r.1.filled))
  { b with decodes := decodes, chunk := chunk }

/-- The runs of a stage: at most 512 rows each for ENCODE and ROUTE, on the blocks of the stage in turn; one run for each pass of RERANK
and EXTRACT, whose requests join those that are pending there (R289). -/
def makeBatches (d : Dev) (s : Service) (kind cascade : Nat) (e : StageEntry) (qs : List Nat) : Dev :=
  let reqsOf (g : List Nat) : List Request := (g.filterMap d.queryOf).flatMap (d.requestsOf kind)
  let pending := if kind ≤ 2 then none else d.batches.find? fun x => x.2.service = s.id && x.2.kind = kind && x.2.cascade = cascade
    && x.2.glb = e.first && x.2.opList = e.opList && x.2.district = s.district
  match pending with
  | some (bi, _) =>
    let join (b : Batch) : Batch :=
      let b := { b with queries := b.queries ++ qs, reqs := b.reqs ++ reqsOf qs }
      if b.issued then b else nextPass b
    { d with batches := AMap.upd d.batches bi join }
  | none =>
  let runs := if kind ≤ 2 then cutBlocks 512 0xFFFFFFFF (fun _ => 0) qs else [qs]
  runs.zipIdx.foldl (fun d (g, i) =>
    let reqs := reqsOf g
    let b : Batch := { service := s.id, kind := kind, cascade := cascade, queries := g, district := s.district, reqs := reqs,
                       chunkTokens := s.chunkTokens, decodePerPass := s.decodePerPass,
                       glb := e.first + i % (max e.count 1), opList := e.opList, opCount := e.opCount }
    { d with batches := AMap.put d.batches d.nextBatch (nextPass b), nextBatch := d.nextBatch + 1 }) d

/-- A group whose queries have all come to a stage forms its batch (R278). -/
def formBatch (d : Dev) (q : Query) : Dev :=
  match stageOf q.service q.phase with
  | none => d
  | some (kind, cascade, e) =>
    let g := d.groupOf q
    let here := g.filter fun x => x.phase = q.phase && (d.batchOf x.id).isNone
    if here.isEmpty || (g.any fun x => phaseRank x.phase < phaseRank q.phase) then d
    else d.makeBatches q.service kind cascade e (here.map (·.id))

/-- The present pass of a batch has run: its chunk is prefilled (R288). -/
def chunkDone (b : Batch) : Batch := match b.chunk with
  | some (r, n) => { b with chunk := none, reqs := b.reqs.modify r fun x => { x with filled := min x.tokens (x.filled + n) } }
  | none => b

/-- Every chunk of a query's sequences is prefilled (R288). -/
def prefilled (b : Batch) (i : Nat) : Bool := b.reqs.all fun r => r.query ≠ i || r.filled = r.tokens

/-- The present pass of a batch has run (R289): where no decode step waits for its token the next pass forms. -/
def advance (b : Batch) : Batch :=
  let b := chunkDone b
  if !b.decodes.isEmpty then b
  else
    let next := nextPass b
    if next.decodes.isEmpty && next.chunk.isNone then b else { next with issued := false, result := none }

/-- Batches whose runs have ended go on, or their queries end with the run's status. -/
def advanceBatches (d : Dev) : Dev :=
  d.batches.foldl (fun d (i, b) =>
    match b.result with
    | some .success => if b.kind ≤ 2 then d else { d with batches := AMap.upd d.batches i advance }
    | some st =>
      let d := { d with batches := AMap.drop d.batches i }
      b.queries.foldl (fun d q => d.failQuery q st true) d
    | none => d) d

/-- Batches that have no slot yet are issued, in order, as COMPUTE commands of their district (R278, R319). -/
def issueBatches (d : Dev) : Dev :=
  d.batches.foldl (fun d (i, b) =>
    if b.issued || b.queries.isEmpty || !d.computeRuns then d
    else match d.physOf b.glb with
      | none => b.queries.foldl (fun d q => d.failQuery q .districtNotResident true) d
      | some p =>
        if d.quarantined (b.glb / 64) then b.queries.foldl (fun d q => d.failQuery q .districtNotResident true) d
        else match d.freeSlot p b.district with
          | none => d
          | some sl =>
            let (base, d) := d.batchBase p b.district b.opCount b.opList
            let seq := (d.block p).nextSeq
            let d := { d with batches := AMap.put d.batches i { b with issued := true, block := p, seq := seq } }
            d.enterSlot p sl
              { seq := 0, origin := .stage i, district := b.district, opCount := b.opCount, opList := b.opList,
                listInT0 := false, scaleState := 0, scaleHistory := 0, routeState := 0, pairGather := 0, bufferLength := 0,
                state := .ready, base := some base }) d

/-- Interactive queries whose ROUTE is done are sent to the Kerbs: a graph query at once, the list queries of one district, namespace and
window when all of them have come so far, list by list in order of arrival (R250). -/
def sendReady (d : Dev) (q : Query) : Dev :=
  if q.desc.sweep || q.phase ≠ .search || q.probed ≠ 0 || !q.resolved then d
  else if q.service.graph then
    match d.versionOf q.desc.ns q.version with
    | some v => (d.modQuery q.id fun x => { x with probed := 1 }).sendGraph v q
    | none => d
  else
    let window := (d.queries.map (·.2)).filter fun x => !x.desc.sweep && !x.service.graph && x.closeBeat = q.closeBeat
      && x.district = q.district && x.desc.ns = q.desc.ns && x.phase ≠ .done && x.phase ≠ .returning
    if window.any fun x => phaseRank x.phase < 3 then d
    else
      let ready := window.filter fun x => x.phase = .search && x.probed = 0 && x.resolved
      let d := ((ready.map (·.version)).dedup).foldl (fun d n => match d.versionOf q.desc.ns n with
        | none => d
        | some v =>
          let mine := ready.filter fun x => x.version = n
          let ls := sortBy (· < ·) ((mine.flatMap roundLists).dedup)
          ls.foldl (fun d l => d.sendList v l ((mine.filter fun x => (roundLists x).contains l).map (·.id))) d) d
      ready.foldl (fun d x => d.modQuery x.id fun x => { x with probed := x.probes }) d

/-- Runs that ended are followed up, every group that is ready forms its batch or goes to the Kerbs, and batches are issued. -/
def driveStages (d : Dev) : Dev :=
  let d := d.advanceBatches
  let d := d.queries.foldl (fun d (i, _) => match d.queryOf i with
    | some q => (d.formBatch q).sendReady q
    | none => d) d
  d.issueBatches

/-! Resolution at a window close (R242, R243, R273, R294). -/

def programOf (d : Dev) (dist handle : Nat) : Option (Option (List Nat)) :=
  if bits handle 15 1 = 0 then some none
  else (AMap.look d.filters (256 * dist + bits handle 0 8)).map some

def versionPick (d : Dev) (ns n : Nat) (graph : Bool) : Except Status Version :=
  if n = 0xFFFFFFFF then
    match d.currentOf ns graph with
    | some v => .ok v
    | none => .error .invalidField
  else match d.versionOf ns n with
    | none => .error .invalidField
    | some v =>
      if v.params.graph ≠ graph then .error .invalidField
      else match v.state with
        | .building => .error .invalidField
        | .ready | .current => .ok v
        | .draining | .retired => .error .indexVersionRetired

def finiteAll (v : List Datum) : Bool := v.all isFinite

/-- The lists, or entry lists, that ROUTE keeps for a query from the scores it gave, under the version that the query resolved to (R248,
R258). -/
def rankFor (d : Dev) (q : Query) : List Nat :=
  match d.versionOf q.desc.ns q.version with
  | some v => (rankLists v.params.dist (q.scores.take v.params.lists)).take
      (if v.params.graph then v.params.entryProbes else q.probes * 2 ^ q.entry.widenLimit)
  | none => []

/-- A query resolves its version, its service record and its filter, or fails. What ROUTE gave before is ranked now. -/
def resolve (d : Dev) (i : Nat) : Dev :=
  match d.queryOf i with
  | none => d
  | some q =>
    if q.desc.atBeat && d.holdover then d.failQuery i .timeHoldover false
    else
      let d := d.modQuery i fun q => { q with holdover := d.holdover, resolveBeat := d.beat }
      match d.serviceFor q.district q.desc.service with
      | .error st => d.failQuery i st true
      | .ok s => match d.versionPick q.desc.ns q.desc.version s.graph with
        | .error st => d.failQuery i st true
        | .ok v => match d.programOf q.district q.desc.filter with
          | none => d.failQuery i .invalidField true
          | some prog =>
            let e := q.entry
            let p := if q.desc.probes = 0 then (if s.graph then e.defaultBeam else e.defaultProbes) else q.desc.probes
            let d := d.modQuery i fun q =>
              { q with service := s, resolved := true, version := v.params.version, filter := prog,
                       probes := if s.graph then p else min p v.params.lists, beams := if s.graph then [p] else [] }
            let d := d.modQuery i fun q => { q with ranking := d.rankFor q }
            if q.paid && q.desc.payloadKind ≠ 0 && q.vector.length ≠ v.params.dims then d.failQuery i .invalidField false
            else if q.paid && q.desc.payloadKind ≠ 0 && !finiteAll q.vector then d.failQuery i .invalidField true
            else d

/-- A query leaves its batch, which ends with its last query. -/
def leaveBatch (d : Dev) (bi i : Nat) : Dev :=
  let d := { d with batches := AMap.upd d.batches bi fun b => { b with queries := b.queries.filter (· ≠ i),
                                                                       decodes := b.decodes.filter (· ≠ i) } }
  match AMap.look d.batches bi with
  | some b => if b.queries.isEmpty then { d with batches := AMap.drop d.batches bi } else d
  | none => d

/-- A query whose payload is here and whose window has closed starts its first stage, or goes on from what the stage of its service has
encoded before the close (R470). -/
def startStages (d : Dev) (i : Nat) : Dev :=
  match d.queryOf i with
  | none => d
  | some q =>
    if q.phase ≠ .waiting then d
    else if q.service.encodes && q.ahead = some q.service.encode then
      if (d.batchOf i).isSome then d.modQuery i fun q => { q with phase := .encode }
      else d.modQuery i fun q => { q with phase := .route, since := d.time.ns }
    else
      let d := match d.batchOf i with
        | some (b, _) => d.leaveBatch b i
        | none => d
      d.modQuery i fun q => { q with phase := if q.service.encodes then .encode else .route, since := d.time.ns, ahead := none }

/-! After SEARCH. -/

/-- The end of the path: the final record. -/
def returnQuery (d : Dev) (i : Nat) : Dev := d.finalRecord i

/-- EXTRACT runs: in generate mode when tokens are asked for, in span mode when there are entries. -/
def extractOrReturn (d : Dev) (i : Nat) : Dev :=
  match d.queryOf i with
  | none => d
  | some q =>
    if q.service.extracts && (if q.service.generate then q.desc.extractTokens ≠ 0 else !q.cands.isEmpty) then
      d.modQuery i fun q => { q with phase := .extract }
    else d.returnQuery i

def rerankOr (d : Dev) (i : Nat) : Dev :=
  match d.queryOf i with
  | none => d
  | some q =>
    if q.service.reranks && !q.cands.isEmpty then d.modQuery i fun q => { q with phase := .rerank 0 } else d.extractOrReturn i

/-- The text pieces of the candidates (R277), at most TEXT_MAX for each: namespace, piece, candidate. -/
def textWants (d : Dev) (q : Query) : List (Nat × Nat × Nat) :=
  q.cands.zipIdx.flatMap fun (c, n) =>
    let p := d.textPlace q c
    let tokens := fieldLE (d.loadNsFor q.id p.1 p.2 0x20) 0x14 4
    ((piecesOf p.2 (0x20 + 8 * tokens + c.info.textLength)).take q.service.textMax).map fun x => (p.1, x, n)

/-- The blocks that a query's passages go to: those of RERANK's stages and of EXTRACT (R25, R277). -/
def textBlocks (d : Dev) (s : Service) : List Nat :=
  let es := (if s.reranks then s.cascade.take s.cascadeStages else []) ++ (if s.extracts then [s.extract] else [])
  ((es.flatMap (·.blocks)).filterMap d.physOf).dedup

/-- The passage pages go to block memory (R25, R165): the spec does not say where, a free place in the district's window (DESIGN CHOICE,
log entry 72). -/
def deliverTexts (d : Dev) (i : Nat) : Dev :=
  match d.queryOf i with
  | none => d
  | some q =>
    let pages := d.textWants q
    (d.textBlocks q.service).foldl (fun d b =>
      let w := d.window b q.district
      if w.2 < 4096 then d
      else pages.foldl (fun d p =>
        let (x, d) := d.draw
        (d.storeBm b (w.1 + 4096 * (x.toNat % (w.2 / 4096))) (d.loadNsFor i p.1 (4096 * p.2.1) 4096)).fadd (Reg.BLK_DMA_BYTES b)
          Fld.BLK_DMA_BYTES_BYTES 4096) d) d

/-- The text pieces of the candidates are read. -/
def fetchTexts (d : Dev) (i : Nat) : Dev :=
  match d.queryOf i with
  | none => d
  | some q =>
    if !q.service.fetches then d.rerankOr i
    else
      let d := d.modQuery i fun q => { q with phase := .fetchText }
      let wants := d.textWants q
      let flash := wants.filter fun w => (d.flashOf i w.1 w.2.1).isSome
      let d := d.countQ i fun c => { c with other := c.other + flash.length }
      let (n, d) := d.needAll (some q.district) .foreground (wants.map fun w => (i, w.1, w.2.1, .text i w.2.2))
      let d := d.modQuery i fun q => { q with texts := n }
      if n = 0 then ((d.deliverTexts i).mark i 2).rerankOr i else d

/-- A text read has ended. -/
def textRead (d : Dev) (i : Nat) (bad : Bool) : Dev :=
  match d.queryOf i with
  | none => d
  | some q =>
    if q.phase ≠ .fetchText then d
    else if bad then (d.failQuery i .unrecoveredReadError true).driveStages
    else
      let d := d.modQuery i fun q => { q with texts := q.texts - 1 }
      if q.texts = 1 then (((d.deliverTexts i).mark i 2).rerankOr i).driveStages else d

/-- The effective widening limit of a query: its district's as the query was accepted (R50), lowered by the WIDEN loop of now (R271,
R471). -/
def widenLimitOf (d : Dev) (q : Query) : Nat :=
  let w := q.entry.widenLimit
  if q.desc.sweep then w else min w (AMap.get d.power.widenLimit q.district w)

/-- May a widening round start (R271)? -/
def widens (d : Dev) (q : Query) (v : Version) : Bool :=
  let deadline := q.arrivalBeat + q.desc.budget
  !q.desc.noWiden && q.rounds < d.widenLimitOf q
    && (if v.params.graph then q.probes < 1024 else q.probes < v.params.lists)
    && (if q.desc.sweep then d.sweepAt < deadline * d.period else d.beat < deadline)

/-- The heaps of a query from every Kerb, merged in the order of R221 (R292). -/
def mergedHeap (q : Query) (kind : Nat) : List Cand :=
  (sortBy (candBefore kind) (q.heaps.flatMap (·.2))).take (q.service.depth q.desc.k)

/-- A query's search round is over: the merge, then a widening round or the next stage. -/
def merge (d : Dev) (i : Nat) : Dev :=
  match d.queryOf i with
  | none => d
  | some q => match d.versionOf q.desc.ns q.version with
    | none => d
    | some v =>
      let cs := mergedHeap q v.params.dist
      let d := d.modQuery i fun q => { q with cands := cs }
      if cs.length < q.service.depth q.desc.k && d.widens q v then
        let d := d.modQuery i fun q => { q with rounds := q.rounds + 1 }
        if v.params.graph then
          let d := d.modQuery i fun q =>
            { q with probes := min 1024 (2 * q.probes), beams := q.beams ++ [min 1024 (2 * q.probes)],
                     walks := q.walks.map fun w => (w.1, { w.2 with done := w.2.full }) }
          match d.queryOf i with
          | some q => d.sendGraph v q
          | none => d
        else
          let d := d.modQuery i fun q => { q with probes := min (2 * q.probes) v.params.lists }
          match d.queryOf i with
          | some q =>
            if q.desc.sweep then { d with sweepLeft := d.sweepLeft ++ [i] }
            else
              let d := (roundLists q).foldl (fun d l => d.sendList v l [i]) d
              d.modQuery i fun q => { q with probed := q.probes }
          | none => d
      else
        let d := (d.mark i 1).modQuery i fun q => { q with heaps := [], thetas := [], walks := [] }
        (d.provisionalRecord i).fetchTexts i

/-! Sweep windows (R251 to R253). -/

/-- How many queries of a list fit one pass: the index's limit, and the heap store (R251, R253). -/
def passCut (d : Dev) (ns : Nat) (qs : List Nat) : Nat :=
  let limit := match d.currentOf ns false with
    | some v => v.params.sweepLimit
    | none => match (d.versionsOf ns).find? fun v => !v.params.graph with
      | some v => v.params.sweepLimit
      | none => 0
  let r := qs.foldl (fun (acc : Nat × Nat × Bool) i =>
    let k := match d.queryOf i with
      | some q => q.service.depth q.desc.k
      | none => 0
    let bytes := acc.2.1 + 48 * 16 * k
    if acc.2.2 || acc.1 = limit || 16 * 2 ^ 30 < bytes then (acc.1, acc.2.1, true) else (acc.1 + 1, bytes, false)) (0, 0, false)
  r.1

/-- The queries of a window form a pass of their index; the rest join the next. -/
def formPass (d : Dev) (ns : Nat) (fresh : List Nat) : Dev :=
  let mine (i : Nat) : Bool := match d.queryOf i with
    | some q => q.desc.ns = ns
    | none => false
  let all := (d.sweepLeft.filter mine) ++ fresh
  let n := d.passCut ns all
  let d := { d with sweepLeft := (d.sweepLeft.filter fun i => !mine i) ++ all.drop n }
  if n = 0 then d
  else { d with passes := d.passes ++ [{ ns := ns, queries := all.take n, windowBeat := d.beat, started := false, startNs := 0, lists := [],
                                              left := [], rereads := 0, read := 0, readyNs := d.time.ns,
                                              versions := (((all.take n).filterMap d.queryOf).map (·.version)).dedup }] }

end Dev

/-! Meanings. -/

namespace Dev

/-- The loops 0 to 7 hold their settings (R466). -/
def frozen (d : Dev) : Bool := d.fbit Reg.PWR_CTL Fld.PWR_CTL_LOOPS_FREEZE

/-- The setting of GATHER_FILL within its bounds (R465, R470). -/
def earlyRows (d : Dev) : Nat := max d.plan.caps.earlyMin (min d.plan.caps.earlyMax d.power.earlyRows)

/-- A query of the open gather window whose payload is here and is not encoded yet. -/
def encodable (d : Dev) (q : Query) : Bool :=
  q.phase = .waiting && q.closeBeat = 0 && q.service.encodes && q.ahead.isNone
    && (q.desc.sweep || !q.desc.atBeat || decide (q.desc.targetBeat ≤ d.gatherAt / d.period))

/-- GATHER_FILL encodes queries of a service's open window in batches of as many rows as its setting says (R470; DESIGN CHOICE, log entry
24: the spec does not say when a batch is formed). -/
def encodeAhead (d : Dev) (s : Service) : Dev :=
  let n := d.earlyRows
  let here := (d.queries.map (·.2)).filter fun q => q.service = s && d.encodable q
  if n = 0 || here.length < n then d
  else
    let ids := (here.take n).map (·.id)
    let d := ids.foldl (fun d i => d.modQuery i fun q => { q with ahead := some s.encode }) d
    (d.makeBatches s 1 0 s.encode ids).driveStages

/-- GATHER_FILL is evaluated at every gather close (R467): the rows that it prefers are a free value, and count a conflict where its
bounds do not hold them (R465). -/
def gatherFill (d : Dev) : Dev :=
  if d.frozen then d
  else
    let (x, d) := d.draw
    let c := d.plan.caps
    let outside := decide (x.toNat < c.earlyMin) || decide (c.earlyMax < x.toNat)
    let d := d.fadd (Reg.PWR_LOOP 2) Fld.PWR_LOOP_CONFLICTS outside.toNat
    { d with power := { d.power with earlyRows := x.toNat } }

end Dev

/-- A payload has come, or its read failed (R280, R297). -/
def payloadFetched (d : Dev) (i : Nat) (p : Fetch) : Dev :=
  match d.queryOf i with
  | none => d
  | some q =>
    if q.phase ≠ .fetching then d
    else match p with
      | .unreadable => (d.failQuery i .dataTransferError false).driveStages
      | .bytes b =>
        let d := d.countPort (d.portOf q.queue) q.district false b.length
        let size := if q.desc.payloadKind = 1 then 4 else 2
        if q.desc.payloadKind ≠ 0 && b.length % size ≠ 0 then d.failQuery i .invalidField false
        else
          let v := match q.desc.payloadKind with
            | 1 => table32 b 0 (b.length / 4)
            | 2 => (unpack 16 (b.length / 2) b).map fun c => (decodeFloat .b16 true c {}).1
            | _ => []
          let d := d.modQuery i fun q => { q with payload := b, vector := v, paid := true, phase := .waiting }
          let dims := match d.versionOf q.desc.ns q.version with
            | some v => v.params.dims
            | none => 0
          if q.resolved && q.desc.payloadKind ≠ 0 && v.length ≠ dims then d.failQuery i .invalidField false
          else if q.resolved && q.desc.payloadKind ≠ 0 && !Dev.finiteAll v then d.failQuery i .invalidField true
          else if q.closeBeat = 0 then d.encodeAhead q.service
          else (d.startStages i).driveStages

namespace Dev

/-- One change of R243 takes effect at a gather window close. -/
def applyChange (d : Dev) (c : Deferred) : Dev :=
  match c with
  | .tomb ns id gen => d.changeId ns id fun s => if s.gen = gen then { s with tomb := true } else s
  | .secure queue cid ns first count =>
    (d.keepEarlier ns (4096 * first) (4096 * count)).secureStart queue cid ns [(first, count)]
  | .assign ns id text offset =>
    ({ d with texts := AMap.put d.texts (2 ^ 40 * d.idOwner ns + id) (text, offset) }).changeId ns id fun s =>
      { s with free := false, tomb := false }
  | .written queue cid => match d.inflightOf queue cid with
    | some x => (d.modMedia fun m => { m with acks := m.acks ++ [Ack.mk queue cid x.command []] }).settleAcks
    | none => d
  | .done queue cid st dw0 => d.finishPort queue cid st dw0
  | .switch ns n beat queue cid => if beat ≤ d.beat then d.switchNow ns n queue cid else d.defer [c]
  | .filterLoad dist prog code => { d with filters := AMap.put d.filters (256 * dist + prog) code }
  | .service s =>
    if d.services.any fun x => x.object = s.object && !x.gone then
      { d with services := d.services.map fun x => if x.object = s.object && !x.gone then s else x }
    else d
  | .serviceGone id object => { d with services := d.services.filter fun x => !(x.id = id && x.object = object && x.gone) }
  | .freeNext ns id => d.defer [.free ns id]
  | .free ns id =>
    let clear (v : Version) : Version :=
      if d.idOwner v.ns = d.idOwner ns then { v with repaired := v.repaired.filter (· ≠ id) } else v
    let d := { d with versions := d.versions.map clear }
    d.changeId ns id fun s =>
      if s.gen = 255 then { s with tomb := false, exhausted := true } else { s with gen := s.gen + 1, tomb := false, free := true }
  | .rewrite ns o b owner => d.applyRewrite owner ns o b

/-- A gather record for each service whose queries a close held, with how many of them were encoded before it (R547). -/
def gatherRecord (d : Dev) (service n early port : Nat) : Dev :=
  d.traceEvent (srcPort port) 0x12 (toLE 2 service ++ toLE 2 0 ++ toLE 4 n ++ toLE 8 d.beat ++ toLE 4 early ++ List.replicate 28 0)

/-- Window fields accepted before are in force after the close of their window (R452). -/
def adoptGather (d : Dev) : Dev :=
  match d.plan.windowsNext with
  | none => d
  | some n =>
    let w := { d.plan.windows with gatherBeats := n.gatherBeats, gatherPhaseUs := n.gatherPhaseUs, tracePost := n.tracePost }
    { d with plan := { d.plan with windows := w, windowsNext := if w = n then none else some n } }

def adoptSweep (d : Dev) : Dev :=
  match d.plan.windowsNext with
  | none => d
  | some n =>
    let w := { d.plan.windows with sweepBeats := n.sweepBeats, sweepOffset := n.sweepOffset, sweepPhaseUs := n.sweepPhaseUs }
    { d with plan := { d.plan with windows := w, windowsNext := if w = n then none else some n } }

end Dev

/-- A gather window closes (R243, R451): deferred changes take effect, the window's queries resolve and start, and GATHER_FILL is
evaluated. The stages before SEARCH of a SWEEP query start at the first gather close after it has come, whether its sweep window has closed
or not (R278, R296). -/
def gatherClose (d : Dev) : Dev :=
  let d := d.reach d.gatherAt
  let changes := d.changes
  let d := changes.foldl (fun d c => d.applyChange c) { d with changes := [] }
  let due := (d.queries.map (·.2)).filter fun q =>
    !q.desc.sweep && !q.resolved && (q.phase = .fetching || q.phase = .waiting) && decide (q.arrivalNs < d.time.ns)
      && (!q.desc.atBeat || decide (q.desc.targetBeat ≤ d.beat))
  let d := due.foldl (fun d q => (d.resolve q.id).modQuery q.id fun q => { q with closeBeat := d.beat + 1 }) d
  let sweeps := (d.queries.map (·.2)).filter fun q =>
    q.desc.sweep && q.closeBeat = 0 && (q.phase = .fetching || q.phase = .waiting) && decide (q.arrivalNs < d.time.ns)
  let d := sweeps.foldl (fun d q => d.modQuery q.id fun q => { q with closeBeat := d.beat + 1 }) d
  let services := ((due ++ sweeps).map fun q => q.service.id).dedup
  let d := services.foldl (fun d s =>
    let mine := (due ++ sweeps).filter fun q => q.service.id = s
    let port := match mine with
      | q :: _ => d.portOf q.queue
      | [] => 0
    d.gatherRecord s mine.length (mine.filter fun q => q.ahead.isSome).length port) d
  let d := (due ++ sweeps).foldl (fun d q => d.startStages q.id) d
  let d := { d with time := { d.time with lastGather := d.time.ns } }
  d.adoptGather.driveStages.gatherFill

/-- A sweep window closes (R242, R251): switches whose beat has come are in effect for its queries, which resolve and form the passes of
their indexes. -/
def sweepClose (d : Dev) : Dev :=
  let d := d.reach d.sweepAt
  let due (c : Deferred) : Bool := match c with
    | .switch _ _ beat _ _ => beat ≤ d.beat
    | _ => false
  let d := (d.changes.filter due).foldl (fun d c => d.applyChange c) { d with changes := d.changes.filter fun c => !due c }
  let due := (d.queries.map (·.2)).filter fun q =>
    q.desc.sweep && !q.resolved && q.phase ≠ .done && q.phase ≠ .returning && decide (q.arrivalNs < d.time.ns)
      && (!q.desc.atBeat || decide (q.desc.targetBeat ≤ d.beat))
  let d := due.foldl (fun d q => d.resolve q.id) d
  let live := due.filter fun q => match d.queryOf q.id with
    | some x => x.resolved && x.failed.isNone
    | none => false
  let left := d.sweepLeft.filterMap fun i => (d.queryOf i).map fun q => q.desc.ns
  let nss := ((live.map fun q => q.desc.ns) ++ left).dedup
  let d := nss.foldl (fun d ns => d.formPass ns ((live.filter fun q => q.desc.ns = ns).map (·.id))) d
  let d := { d with time := { d.time with lastSweep := d.time.ns } }
  d.adoptSweep

/-- A pass starts once the one before has ended (R251), and its first read waits for its ROUTE (R296). -/
def passStart (d : Dev) (ns : Nat) : Dev :=
  if (d.passes.any fun p => p.ns = ns && p.started) then d
  else match d.passes.find? fun p => p.ns = ns with
    | none => d
    | some p =>
      let qs := (p.queries.filter d.alive).filterMap d.queryOf
      if (qs.any fun q => phaseRank' q.phase < 3) then d
      else
        let ls := sortBy (· < ·) ((qs.flatMap Dev.roundLists).dedup)
        let left := match ls with
          | [] => []
          | l :: _ => (qs.filter fun q => (Dev.roundLists q).contains l).map (·.id)
        let first : Option Nat := d.passes.findIdx? fun (p : Pass) => p.ns = ns
        let begin1 (p : Pass × Nat) : Pass :=
          if some p.2 = first then { p.1 with started := true, startNs := d.time.ns, lists := ls, left := left } else p.1
        let d := { d with passes := d.passes.zipIdx.map begin1 }
        d.passNext ns 4096
where
  phaseRank' (p : QPhase) : Nat := Dev.phaseRank p

/-- A pass has read every probed list (R252): the Gate merges each query's heaps, and the pass record is written. It holds how long the
first list read waited for ROUTE alone (R296). -/
def passEnd (d : Dev) (ns : Nat) : Dev :=
  match d.passes.find? fun p => p.ns = ns && p.started with
  | none => d
  | some p =>
    let busy := d.kerbs.any fun k => k.2.qblocks.any fun b => b.sweeping ns
    if busy || !p.lists.isEmpty then d
    else
      let version := match p.queries.findSome? d.queryOf with
        | some q => q.version
        | none => 0
      let d := d.traceEvent d.srcSquare 0x13 (toLE 4 version ++ capLE 4 p.queries.length ++ toLE 8 p.windowBeat
        ++ capLE 4 p.read ++ capLE 4 p.rereads ++ capLE 4 ((p.routeNs - p.readyNs) / 1000)
        ++ capLE 4 ((d.time.ns - p.startNs) / 1000000) ++ List.replicate 16 0)
      let d := d.modVersion ns version fun v => { v with passes := v.passes + 1, reread := v.reread + p.rereads }
      let d := { d with passes := d.passes.filter fun x => !(x.ns = ns && x.started) }
      let next : Option Nat := d.passes.findIdx? fun (x : Pass) => x.ns = ns
      let free (x : Pass × Nat) : Pass := if next = some x.2 then { x.1 with readyNs := max x.1.readyNs d.time.ns } else x.1
      let d := { d with passes := d.passes.zipIdx.map free }
      let d := (p.queries.filter d.alive).foldl (fun d i => (d.modQuery i fun q => { q with probed := q.probes }).merge i) d
      d.retireIdle.driveStages

namespace Dev

/-- The token of highest score, ties to the lower ID, NaN last (R290). -/
def bestToken (scores : List (BitVec 32)) : Option Nat := (rankLists 0 scores).head?

/-- The span of highest summed score (R290): at most 64 tokens, ties to the lower start and then the lower end. The sum is rounded once to
binary32, and a NaN sum comes last (DESIGN CHOICE, log entry 71). -/
def bestSpan (starts ends : List (BitVec 32)) : Option (Nat × Nat) :=
  let sums := (starts.zipIdx).flatMap fun s => ((ends.zipIdx.drop s.2).take 64).map fun e =>
    (kadd (dec32 s.1.toNat) (dec32 e.1.toNat), s.2, e.2)
  let better (a b : Datum × Nat × Nat) : Bool := !a.1.isNaN && (b.1.isNaN || cmpNum a.1 b.1 > 0)
  (sums.foldl (fun (m : Option (Datum × Nat × Nat)) x => match m with
    | none => some x
    | some y => if better x y then some x else some y) none).map (·.2)

/-- The bytes of a span's tokens in the passage text, by the token offsets of the passage record. -/
def spanBytes (d : Dev) (q : Query) (c : Cand) (scores : List (BitVec 32) × List (BitVec 32)) : Nat × Nat :=
  let ts := d.tokensOf q c
  match bestSpan (scores.1.take ts.length) (scores.2.take ts.length) with
  | some (a, z) => (ts.getD a 0, ts.getD (z + 1) c.info.textLength)
  | none => (0, c.info.textLength)

/-- The run of a batch has ended: its command completes where it is the one that runs on its block, and what the run prefilled stands. -/
def runEnded (d : Dev) (bi : Nat) (b : Batch) : Dev :=
  let slot := if b.issued then (d.running b.block).filter fun s => s.2.seq = b.seq && s.2.origin = .stage bi else none
  let d := match slot with
    | some (sl, _) => d.endCommand b.block sl .success true
    | none => d
  { d with batches := AMap.upd d.batches bi fun b => if b.result = some .success then chunkDone b else b }

/-- Survivors of a cascade stage are compacted into contiguous rows, by DMA at 512 bytes a cycle (R204). The spec gives neither the bytes
of a row nor its place: a free value, and no byte of the model's memory moves (log entry 74). -/
def compact (d : Dev) (b : Batch) (rows : Nat) : Dev :=
  let (x, d) := d.draw
  let n := rows * x.toNat
  (d.charge b.block b.district { dma := ceilDiv n 512 }).fadd (Reg.BLK_DMA_BYTES b.block) Fld.BLK_DMA_BYTES_BYTES n

/-- A decode step of a query gave the scores of the tokens (R290): its token ends the answer, or another step is pending. -/
def decodeStep (d : Dev) (bi i : Nat) (q : Query) (scores : List (BitVec 32)) : Dev :=
  let token := bestToken scores
  let ends := token = some q.service.endToken || token.isNone
  let answer := if ends then q.answer else q.answer ++ token.toList
  let d := d.modQuery i fun q => { q with answer := answer, stop := if ends then 0 else 1 }
  if ends || q.desc.extractTokens ≤ answer.length then (((d.leaveBatch bi i).mark i 4).returnQuery i).driveStages
  else
    let step (r : Request) : Request := if r.query = i then { r with filled := r.tokens, steps := r.steps - 1 } else r
    let d := { d with batches := AMap.upd d.batches bi fun b =>
      { b with reqs := b.reqs.map step, decodes := b.decodes.filter (· ≠ i) } }
    d.driveStages

/-- What a stage's operations gave for a query (R277, R202, R290): where they leave it is not in the spec (log entry 71). -/
def stageOutput (d : Dev) (bi i : Nat) (b : Batch) (q : Query) (out : StageOutput) : Dev :=
  let failed (st : Status) : Dev := ((d.leaveBatch bi i).failQuery i st true).driveStages
  match q.phase, out with
  | .waiting, .vector es =>
    let v := es.map fun x => dec32 x.toNat
    if !Dev.finiteAll v then failed .invalidField
    else (((d.leaveBatch bi i).mark i 0).modQuery i fun q => { q with vector := v }).driveStages
  | .encode, .vector es =>
    let v := es.map fun x => dec32 x.toNat
    if !Dev.finiteAll v then failed .invalidField
    else (((d.leaveBatch bi i).mark i 0).modQuery i fun q => { q with vector := v, phase := .route }).driveStages
  | .route, .ranking scores =>
    let d := (d.leaveBatch bi i).modQuery i fun q => { q with scores := scores, phase := .search }
    let d := d.modQuery i fun q => { q with ranking := d.rankFor q }
    let routed (p : Pass) : Pass := if p.queries.contains i then { p with routeNs := d.time.ns } else p
    ({ d with passes := d.passes.map routed } : Dev).driveStages
  | .rerank s, .scores vs =>
    let cs := (q.cands.zip (vs.map fun x => dec32 x.toNat)).map fun (c, x) => { c with score := x, source := s + 1 }
    let e := (q.service.cascade[s]?).getD ⟨0, 0, 0, 0, 0, 0⟩
    let keep := cascadeExit e.keep q.desc.k e.exitBelow cs
    let d := (d.leaveBatch bi i).modQuery i fun q => { q with cands := keep, exits := q.exits ++ [cs.length - keep.length] }
    let d := d.provisionalRecord i
    if s + 1 < q.service.cascadeStages && !keep.isEmpty then
      ((d.compact b keep.length).modQuery i fun q => { q with phase := .rerank (s + 1) }).driveStages
    else ((d.mark i 3).extractOrReturn i).driveStages
  | .extract, .step scores => if q.service.generate then d.decodeStep bi i q scores else failed .internalError
  | .extract, .spans es =>
    if q.service.generate then failed .internalError
    else
      let spans := ((q.cands.take q.desc.k).zip es).map fun x => d.spanBytes q x.1 x.2
      ((((d.leaveBatch bi i).modQuery i fun q => { q with spans := spans }).mark i 4).returnQuery i).driveStages
  | _, .failed => failed .computeAborted
  | _, _ => failed .internalError

/-- A batch has done what a query waits for: its ENCODE or ROUTE run, every chunk of its sequences, or the pass that took its decode step
(R288, R289). -/
def servedIn (b : Batch) (i : Nat) (q : Query) : Bool :=
  if b.kind ≤ 2 then b.result = some .success
  else if b.kind = 4 && q.service.generate then b.result = some .success && b.decodes.contains i
  else prefilled b i

end Dev

/-- A stage run of a query's batch has completed, with what it gave for the query. While no run of the batch has, or the query's sequences
are not prefilled, there is nothing for the query yet. -/
def stageRunDone (d : Dev) (i : Nat) (out : StageOutput) : Dev :=
  match d.queryOf i, d.batchOf i with
  | some q, some (bi, b) =>
    if 3 ≤ b.kind && b.result.isNone && Dev.servedIn b i q then d.stageOutput bi i b q out
    else
      let d := d.runEnded bi b
      match AMap.look d.batches bi with
      | none => d
      | some b => match b.result with
        | none => d
        | some .success => if Dev.servedIn b i q then d.stageOutput bi i b q out else d.driveStages
        | some st => ((d.leaveBatch bi i).failQuery i st true).driveStages
  | _, _ => d

/-- The Gate of arrival merges the heaps of a query whose Kerbs have all finished (R292). -/
def gateMerge (d : Dev) (i : Nat) : Dev :=
  match d.queryOf i with
  | none => d
  | some q => if q.phase ≠ .search || q.desc.sweep || q.probed = 0 || d.searching i then d else (d.merge i).driveStages

/-- What the acknowledgement of a command's writes does to one of its queries (R26, R291, R297). `bad`: a write of it failed. -/
def ackQuery (d : Dev) (q : Query) (bad : Bool) : Dev :=
  if q.phase ≠ .returning && q.phase ≠ .done then
    if bad && q.streaming then d.failQuery q.id .dataTransferError false
    else d.modQuery q.id fun q => { q with streaming := false }
  else if bad && (q.unacked || q.streaming) then
    d.modQuery q.id fun q => { q with failed := some (q.failed.getD .dataTransferError), phase := .done, unacked := false,
                                      streaming := false, finalWaits := false }
  else if q.finalWaits then (d.modQuery q.id fun q => { q with streaming := false }).writeFinal q.id
  else if q.unacked then (d.mark q.id 5).modQuery q.id fun q => { q with unacked := false, streaming := false, phase := .done }
  else d

/-- The writes of a command are acknowledged, but for those of the queries at some indexes, which failed (R26, R297). -/
def writeAck (d : Dev) (queue cid : Nat) (failed : List Nat) : Dev :=
  let d := (d.queriesOf queue cid).foldl (fun d q => ackQuery d q (failed.contains q.index)) d
  ((d.settleQuery queue cid).ackEnd queue cid !failed.isEmpty).driveStages

def execPayloadFetchDone (query : Nat) (payload : Fetch) (s : State) : Host.Outcome State Fault Refusal :=
  effect (fun d => payloadFetched d query payload) s

def execGatherWindowClose (s : State) : Host.Outcome State Fault Refusal := effect (fun d => gatherClose d) s
def execSweepWindowClose (s : State) : Host.Outcome State Fault Refusal := effect (fun d => sweepClose d) s
def execSweepPassStart (nsid : Nat) (s : State) : Host.Outcome State Fault Refusal := effect (fun d => passStart d nsid) s
def execSweepPassEnd (nsid : Nat) (s : State) : Host.Outcome State Fault Refusal := effect (fun d => passEnd d nsid) s

def execStageRunDone (query : Nat) (output : StageOutput) (s : State) : Host.Outcome State Fault Refusal :=
  effect (fun d => stageRunDone d query output) s

def execGateMerge (query : Nat) (s : State) : Host.Outcome State Fault Refusal := effect (fun d => gateMerge d query) s

def execRdmaWriteAck (queue : Nat) (ack : WriteAck) (s : State) : Host.Outcome State Fault Refusal :=
  effect (fun d => writeAck d queue ack.cid ack.failed) s

/-- In a background slot that names activity [8], repair runs (R265, R453). -/
def execRepairBackground (nsid : Nat) (s : State) : Host.Outcome State Fault Refusal :=
  effect (fun d => if d.slotNames 8 then d.repairAll nsid else d) s

end Sys2Proof.Machine
end

