-- ==== Sys2Proof/Machine/Jobs.lean ====
section
/-! DEFINITION. Re-embedding jobs (R306 to R315), and the boundary of a block's command, after which the device issues what
waits for a slot. -/

namespace Sys2Proof.Machine

def Job.slotsOnly (j : Job) : Bool := bits j.flags 0 1 = 1
def Job.resumes (j : Job) : Bool := bits j.flags 1 1 = 1

namespace Dev

/-! The job record (R306, R307). -/

/-- The record that an object holds. -/
def jobOf (object : Nat) (b : List Byte) : Job :=
  { object := object, id := fieldLE b 4 1, district := fieldLE b 5 1, control := fieldLE b 6 1, flags := fieldLE b 7 1,
    ns := fieldLE b 8 4, target := fieldLE b 0xC 4, idFirst := fieldLE b 0x10 8, idCount := fieldLE b 0x18 8,
    encode := stageAt b 0x20, route := stageAt b 0x30, seqTokens := fieldLE b 0x40 2, batchRows := fieldLE b 0x42 2,
    duty := fieldLE b 0x44 2, buildBeam := fieldLE b 0x46 2, staging := fieldLE b 0x48 8, coverage := fieldLE b 0x50 8,
    state := .idle, nextId := fieldLE b 0x10 8 }

/-- A stage entry of a job: reserved bytes zero, blocks of the district. -/
def jobStageOk (d : Dev) (dist : Nat) (b : List Byte) (o : Nat) : Bool :=
  let e := stageAt b o
  1 ≤ e.count && between e.opCount 1 64 && allZero (sliceB b (o + 9) 7) && e.blocks.all fun g => d.blockInDistrict g dist

/-- The last checkpoint of a version (R314). -/
def checkpointOf (d : Dev) (ns version : Nat) : Option (Nat × List Nat × List Nat) :=
  (d.media.journal ++ d.media.staged).reverse.findSome? fun r => match r with
    | .jobCheckpoint n v next counters fills => if n = ns && v = version then some (next, counters, fills) else none
    | _ => none

/-- The checks of R306 on a record of a district, all but those on what other jobs are placed. -/
def jobOk (d : Dev) (dist : Nat) (b : List Byte) : Bool :=
  let j := jobOf 0 b
  b.length = 256 && fieldLE b 0 4 = 0x424D4552 && j.id ≤ 15 && j.district = dist && between j.control 1 3 && j.flags < 4
    && between j.seqTokens 1 4096 && between j.batchRows 1 512 && j.duty ≤ 1000
    && (j.idCount = 0 || (d.idInRange j.ns j.idFirst && d.idInRange j.ns (j.idFirst + j.idCount - 1)))
    && d.jobStageOk dist b 0x20 && allZero (sliceB b 0x98 104) && fieldLE b 0x59 1 = 0
    && (match d.objCheck dist j.coverage with
      | .ok o => decide (ceilDiv j.idCount 8 ≤ o.size)
      | .error _ => false)
    && (match d.versionOf j.ns j.target with
      | none => false
      | some v => v.state = .building
        && (if v.params.graph then
              allZero (sliceB b 0x30 16) && between j.buildBeam 1 1024 && j.staging = 0
            else
              d.jobStageOk dist b 0x30 && j.buildBeam = 0 && (match d.objCheck dist j.staging with
                | .ok o => decide (v.params.lists * (131072 + sideStrideOf (131072 / dPad v.params.dims)) ≤ o.size)
                | .error _ => false)))

/-- The list version a job builds, if its target is one. -/
def listTarget (d : Dev) (j : Job) : Option Version :=
  (d.versionOf j.ns j.target).bind fun v => if v.params.graph then none else some v

/-- Writes of a job to its target version: at once, or after the writes that wait for a window close. -/
def writeTarget (d : Dev) (i : Nat) (ws : List (Nat × Nat × List Byte)) : Dev :=
  if d.changes.any fun c => (match c with
    | .rewrite .. => true
    | _ => false) then d.deferWrites (some (0xFFFF, i)) ws else d.writeNow (some (0xFFFF, i)) ws

/-- Every open stripe of a job is written to its final place (R310, R314). -/
def flushStripes (d : Dev) (j : Job) : Dev :=
  match d.listTarget j with
  | none => d
  | some v =>
    let s := (List.range v.params.lists).foldl (fun s l => flushList s v l (handleIndex j.staging))
      { d.staged with district := j.district }
    ((d.writeTarget j.id s.writes).countWrites j.district s.writes).applyTouches s.touches

/-- A job takes a checkpoint (R314). -/
def checkpoint (d : Dev) (i : Nat) : Dev :=
  match AMap.look d.jobs i with
  | none => d
  | some j =>
    let d := d.flushStripes j
    let seen := d.staged.dev
    let fills := match d.listTarget j with
      | some v => (List.range v.params.lists).map fun l => (seen.headAt v l).vectors
      | none => []
    d.journalPut (.jobCheckpoint j.ns j.target j.nextId [j.retries, j.embedded, j.skipped, j.saturated, j.dualWrites] fills)

/-- A job whose NEXT_ID has passed its range follows (R308). -/
def follow (d : Dev) (i : Nat) : Dev :=
  match AMap.look d.jobs i with
  | none => d
  | some j =>
    if j.state = .running && j.stage = 0 && j.idFirst + j.idCount ≤ j.nextId then
      (d.flushStripes j).setJob i fun j => { j with state := .following, followBeat := d.beat }
    else d

/-- CONTROL takes effect at a batch boundary (R307, R308, R314). -/
def jobBoundary (d : Dev) (i : Nat) : Dev :=
  match AMap.look d.jobs i with
  | none => d
  | some j =>
    let live := j.state = .idle || j.state = .running || j.state = .paused || j.state = .following
    if j.stage ≠ 0 then d
    else match j.control with
      | 1 => if j.state = .idle || j.state = .paused then (d.setJob i fun j => { j with state := .running }).follow i else d.follow i
      | 2 => if j.state = .running then (d.checkpoint i).setJob i fun j => { j with state := .paused } else d
      | _ => if live then d.setJob i fun j => { j with state := .cancelled } else d

/-- A record placed with RESUME takes its values from the checkpoint and reads the open stripes back (R314). -/
def resumeJob (d : Dev) (i : Nat) : Dev :=
  match AMap.look d.jobs i with
  | none => d
  | some j => match d.checkpointOf j.ns j.target with
    | none => d
    | some (next, cs, fills) =>
      let d := d.setJob i fun j =>
        { j with nextId := next, retries := cs.getD 0 0, embedded := cs.getD 1 0, skipped := cs.getD 2 0,
                 saturated := cs.getD 3 0, dualWrites := cs.getD 4 0 }
      match d.listTarget j with
      | none => d
      | some v => fills.zipIdx.foldl (fun d (n, l) =>
          let h := d.headAt v l
          if !headOk v.params.dist h then d
          else
            let d := d.writeNs none v.ns (d.listAt v l + 0x10) (toLE 8 n ++ toLE 4 (ceilDiv n h.stripeVectors))
            readBack d v l j.district (handleIndex j.staging)) d

/-- Whether a record may be placed beside the jobs there are (R306, R307, R314). -/
def jobFits (d : Dev) (b : List Byte) : Bool :=
  let j := jobOf 0 b
  (AMap.look d.jobs j.id).isNone && !(d.jobs.any fun x => x.2.ns = j.ns)
    && (j.resumes || (d.checkpointOf j.ns j.target).isNone)

/-- A placed record makes a job (R306, R308). -/
def placeJob (d : Dev) (object : Nat) (b : List Byte) : Dev :=
  let j := jobOf object b
  let d := { d with jobs := AMap.put d.jobs j.id j }
  let d := if j.resumes then d.resumeJob j.id else d
  let d := if j.idCount = 0 && j.control ≠ 3 then
      d.setJob j.id fun j => { j with state := .following, followBeat := d.beat }
    else d
  (d.setJob j.id fun j => j).jobBoundary j.id

/-- The fields that COPY_IN may change (R307). -/
def jobSame (old new : List Byte) : Bool :=
  let mask (b : List Byte) : List Byte := b.zipIdx.map fun (x, i) =>
    if i = 6 || i = 0x44 || i = 0x45 then 0 else if i = 7 then x &&& 0xFE#8 else x
  mask old == mask new

/-- A changed record (R307). -/
def changeJob (d : Dev) (i : Nat) (b : List Byte) : Dev :=
  let n := jobOf 0 b
  (d.modJob i fun j => { j with control := n.control, flags := n.flags, duty := n.duty }).jobBoundary i

/-! Batches (R309, R313). -/

/-- IDs from `next` up, at most `n`, that COVERAGE does not hold, and the ID after them. -/
def takeIds (d : Dev) (j : Job) : Nat → Nat → Nat → List Nat × Nat
  | 0, _, next => ([], next)
  | _ + 1, 0, next => ([], next)
  | left + 1, n + 1, next =>
    let at' := next - j.idFirst
    let covered := bits (leNat (d.loadObj (handleIndex j.coverage) (at' / 8) 1)) (at' % 8) 1 = 1
    if covered then takeIds d j left (n + 1) (next + 1)
    else
      let (ids, after) := takeIds d j left n (next + 1)
      (next :: ids, after)

/-- A job stops (R313): it is PAUSED, or CANCELLED where CONTROL says so by then (R307). -/
def stopJob (d : Dev) (i : Nat) (st : Status) : Dev :=
  d.setJob i fun j => { j with state := if j.control = 3 then .cancelled else .paused, failStatus := some st, batch := [], embed := [],
                               stage := 0, ran := none, result := none }

/-- A batch is discarded and will be repeated from its first ID (R313): a batch boundary, at which CONTROL takes effect (R307). -/
def repeatBatch (d : Dev) (i : Nat) : Dev :=
  (d.setJob i fun j =>
    { j with retries := satAdd 32 j.retries 1, batch := [], embed := [], stage := 0, ran := none, result := none }).jobBoundary i

/-- A stage block of a job is vacant or quarantined. -/
def jobBlocked (d : Dev) (j : Job) : Bool :=
  (j.encode.blocks ++ (if (d.listTarget j).isSome then j.route.blocks else [])).any fun g =>
    (d.physOf g).isNone || d.quarantined (g / 64)

/-- Cycles of a job's stage blocks in a beat. -/
def stageCycles (d : Dev) (j : Job) : Nat :=
  ((j.encode.blocks ++ j.route.blocks).dedup.map fun g =>
    d.fget (Reg.PWR_QTR (g / 64)) Fld.PWR_QTR_FREQ_MHZ * d.plan.timeBase.periodUs).sum

/-- One run of a job's batch as a COMPUTE command of its district, when a slot is open (R309, R319). -/
def issueRun (d : Dev) (i : Nat) (j : Job) (e : StageEntry) (next : Nat) : Dev :=
  match d.physOf (e.first + j.nextId / max j.batchRows 1 % max e.count 1) with
  | none => d.stopJob i .districtNotResident
  | some p =>
    let mine := (d.block p).slots.filter fun s => s.2.origin = .job i
    match d.freeSlot p j.district with
    | none => d
    | some sl =>
      if 4 ≤ mine.length then d
      else (d.modJob i fun j => { j with stage := next, ran := some (p, (d.block p).nextSeq), result := none }).enterSlot p sl
        { seq := 0, origin := .job i, district := j.district, opCount := e.opCount, opList := e.opList, listInT0 := false,
          scaleState := 0, scaleHistory := 0, routeState := 0, pairGather := 0, bufferLength := 0, state := .ready }

/-- The runs of INGEST (R312, R319), and those of the jobs' batches: ENCODE, then ROUTE for a list target; a batch whose command failed is repeated after a
compute abort, and otherwise stops the job. -/
def driveJobs (d : Dev) : Dev :=
  d.jobs.foldl (fun d (i, _) => match AMap.look d.jobs i with
    | none => d
    | some j =>
      let d := match j.result with
        | some .success =>
          let next := if j.stage = 2 && (d.listTarget j).isSome then 3 else 5
          if j.stage = 2 || j.stage = 4 then d.modJob i fun j => { j with stage := next, ran := none, result := none } else d
        | some .computeAborted => if j.state = .running && j.stage ≠ 0 then d.repeatBatch i else d
        | some st => if j.stage = 0 then d else d.stopJob i st
        | none => d
      match AMap.look d.jobs i with
      | none => d
      | some j =>
        if !d.computeRuns then d
        else match j.stage with
          | 1 => d.issueRun i j j.encode 2
          | 3 => d.issueRun i j j.route 4
          | _ => d) d.driveIngests

end Dev

namespace Dev

/-- A job's passages are at hand: those that stayed unreadable are left out (R309, R313). -/
def passagesRead (d : Dev) (i : Nat) : Dev :=
  (d.modJob i fun j =>
    let embed := j.embed.filter fun id => !j.lost.contains id
    { j with embed := embed, reads := 0, stage := if embed.isEmpty then 5 else 1 }).driveJobs

/-- The pieces of a passage record that hold its first SEQ_TOKENS tokens: namespace and piece. -/
def passagePieces (d : Dev) (j : Job) (id : Nat) : List (Nat × Nat) :=
  match d.passagePlace j.ns id (d.idState j.ns id).gen with
  | none => []
  | some q => (piecesOf q.2 (0x20 + 8 * (d.passageTokens q j.seqTokens).length)).map fun p => (q.1, p)

/-- A batch's passages are read in the BACKGROUND class (R309 step 3). -/
def readPassages (d : Dev) (i : Nat) : Dev :=
  match AMap.look d.jobs i with
  | none => d
  | some j =>
    let ps := (j.embed.flatMap (d.passagePieces j)).dedup
    let (n, d) := d.needAll (some j.district) .background (ps.map fun p => (0, p.1, p.2, .passage i j.turn))
    if n = 0 then d.passagesRead i else d.modJob i fun j => { j with reads := n }

/-- A read of a batch's passages has ended. An ID whose passage stays unreadable will be skipped (R313). -/
def passageRead (d : Dev) (i turn ns piece : Nat) (bad : Bool) : Dev :=
  match AMap.look d.jobs i with
  | none => d
  | some j =>
    if j.stage ≠ 6 || j.turn ≠ turn then d
    else
      let hit := if bad then j.embed.filter fun id => (d.passagePieces j id).contains (ns, piece) else []
      let d := d.modJob i fun j => { j with reads := j.reads - 1, lost := j.lost ++ hit }
      if j.reads ≤ 1 then d.passagesRead i else d

end Dev

/-- A RUNNING job starts a batch (R309 steps 1 to 3, R313). -/
def jobBatchStart (d : Dev) (i : Nat) : Dev :=
  match AMap.look d.jobs i with
  | none => d
  | some j =>
    let due := decide (1000 * j.cycles < j.duty * d.stageCycles j) && (!j.slotsOnly || d.slotNames 10)
    if j.state ≠ .running || j.stage ≠ 0 || 4 ≤ d.power.ps || !due then d
    else if d.jobBlocked j then d.stopJob i .districtNotResident
    else
      let (ids, after) := d.takeIds j (j.idFirst + j.idCount - j.nextId) j.batchRows j.nextId
      let c := handleIndex j.coverage
      let d := if j.nextId < after then d.touchRead j.district c (ceilDiv (after - j.nextId) 8) ((j.nextId - j.idFirst) / 8) else d
      let usable (id : Nat) : Bool := let s := d.idState j.ns id; !s.free && !s.tomb && !s.exhausted
      let start := if j.begun then j.startBeat else d.beat
      (d.setJob i fun j =>
        { j with batch := ids, embed := ids.filter usable, after := after, startBeat := start, begun := true, stage := 6,
                 turn := j.turn + 1, reads := 0, lost := [], result := none }).readPassages i

namespace Dev

/-- The record of an ID in a namespace's CURRENT version, which carries its attributes (DESIGN CHOICE, log entry 22). -/
def currentRec (d : Dev) (ns id gen : Nat) : Option Rec :=
  let byGraph : Option Rec := (d.currentOf ns true).bind fun v => (d.partOf v id).bind fun p =>
    let n := d.nodeAt v p.2 id
    if n.r.id = id && n.r.gen = gen && n.r.valid then some n.r else none
  match byGraph with
  | some r => some r
  | none => (d.currentOf ns false).bind fun v =>
      ((d.sideRecords v).find? fun x => x.2.2.2.valid && x.2.2.2.id = id && x.2.2.2.gen = gen).map (·.2.2.2)

/-- What a job knows of a passage, in the shape of an INGEST entry. -/
def passageEntry (d : Dev) (ns id : Nat) : IngestEntry :=
  let gen := (d.idState ns id).gen
  let place := (d.passagePlace ns id gen).getD (ns, 0)
  let r := d.loadNs place.1 place.2 32
  { id := id, gen := gen, doc := fieldLE r 0x10 4, lba := place.2 / 4096, list := 0xFFFFFFFF,
    attr := match d.currentRec ns id gen with
      | some x => x.attr
      | none => List.replicate 64 0,
    record := r, vector := [] }

/-- One vector of a batch goes into the target version (R309 steps 4 to 6, R310, R311), with the bytes clamped so far. -/
def embedOne (acc : Except Status (Staged × Nat)) (j : Job) (v : Version) (x : Nat × List Datum × Nat) :
    Except Status (Staged × Nat) := do
  let (s, sat) ← acc
  let (offs, scs) := s.dev.scalesOf v
  let (u, n) := storedBytes v offs scs (x.2.1.take v.params.dims)
  let r := entryRec (s.dev.passageEntry j.ns x.1) (if v.params.dist = 1 then normOf offs scs u else 0)
  if v.params.graph then return (insertNode s v r (x.2.1.take v.params.dims) u j.buildBeam, sat + n)
  else
    let s ← appendList s v x.2.2 r u (some (handleIndex j.staging))
    return (s, sat + n)

end Dev

/-- A batch finishes once its runs are done: its vectors are appended in ascending ID order, each to the first list of its ranking, and
NEXT_ID passes it (R309 to R311, R313, R314). What ENCODE and ROUTE gave for each ID, its vector and the scores of the lists, is an operand
(log entry 71); an ID for which they gave nothing is skipped as one whose passage is unreadable is. -/
def jobBatchEnd (d : Dev) (i : Nat) (vectors : List (Nat × List (BitVec 32) × List (BitVec 32))) : Dev :=
  match AMap.look d.jobs i with
  | none => d
  | some j =>
    if j.stage ≠ 5 || j.state ≠ .running then d
    else
      match d.versionOf j.ns j.target with
      | none => d.stopJob i .invalidField
      | some v =>
        let list (scores : List (BitVec 32)) : Nat := ((Dev.rankLists v.params.dist (scores.take v.params.lists)).head?).getD 0
        let vec (id : Nat) : Option (Nat × List Datum × Nat) := (vectors.find? fun x => x.1 = id).map fun x =>
          (id, x.2.1.map fun c => dec32 c.toNat, if v.params.graph then 0 else list x.2.2)
        let have' := j.embed.filterMap vec
        let lost := j.lost ++ j.embed.filter fun id => (vec id).isNone
        match have'.foldl (fun acc x => Dev.embedOne acc j v x) (.ok ({ d.staged with district := j.district }, 0)) with
        | .error st => d.stopJob i st
        | .ok (s, sat) =>
          if s.writes.any fun w => d.refusesRange w.1 w.2.1 w.2.2.length then d.stopJob i .capacityExceeded
          else
          let d := ({ d with objMem := s.dev.objMem }).applyTouches s.touches
          let d := (d.writeTarget i s.writes).countWrites j.district s.writes
          let d := lost.foldl (fun d id =>
            let (code, d) := d.draw
            d.logError d.srcSquare 0x40 (code.toNat % 2 ^ 16) 1 0 d.srcSquare (some j.district) 0 id 0xFFFFFFFF) d
          let d := d.setJob i fun j =>
            { j with nextId := j.after, embedded := j.embedded + have'.length,
                     skipped := j.skipped + (j.batch.length - have'.length),
                     saturated := j.saturated + sat, batch := [], embed := [], lost := [], stage := 0, ran := none, result := none }
          let d := if j.nextId / 2 ^ 28 < j.after / 2 ^ 28 then d.checkpoint i else d
          ((d.jobBoundary i).follow i).driveJobs

def execJobBatchStart (job : Nat) (s : State) : Host.Outcome State Fault Refusal := effect (fun d => jobBatchStart d job) s

def execJobBatchEnd (job : Nat) (vectors : List (Nat × List (BitVec 32) × List (BitVec 32))) (s : State) :
    Host.Outcome State Fault Refusal := effect (fun d => jobBatchEnd d job vectors) s

end Sys2Proof.Machine
end

