-- ==== Sys2Proof/Machine/Copies.lean ====
section
/-! DEFINITION. The placement descriptor (R352), and how a PLACE copy in flight ends (R355, R356, R367, R407, R479). -/

namespace Sys2Proof.Machine

/-- The placement descriptor (R352). -/
structure PlaceDesc where
  handle : Nat
  size : Nat
  tier : Nat
  kind : Nat
  ecc : Nat
  flags : Nat
  region : Nat
  moveTiers : Nat
  moveT1 : Nat
  moveT0 : Nat
  sourceKind : Nat
  rsv : Nat
  key : Nat
  addr : Nat
  length : Nat
  copyHandle : Nat
  offset : Nat
  deriving DecidableEq, Repr

def placeDesc (b : List Byte) : PlaceDesc :=
  { handle := fieldLE b 0 8, size := fieldLE b 8 8, tier := fieldLE b 0x10 1, kind := fieldLE b 0x11 1, ecc := fieldLE b 0x12 1,
    flags := fieldLE b 0x13 1, region := fieldLE b 0x14 2, moveTiers := fieldLE b 0x16 1, moveT1 := fieldLE b 0x17 1,
    moveT0 := fieldLE b 0x18 2, sourceKind := fieldLE b 0x1A 1, rsv := fieldLE b 0x1B 1, key := fieldLE b 0x1C 4,
    addr := fieldLE b 0x20 8, length := fieldLE b 0x28 8, copyHandle := fieldLE b 0x30 8, offset := fieldLE b 0x38 8 }

def PlaceDesc.movable (p : PlaceDesc) : Bool := bits p.flags 0 1 = 1
def PlaceDesc.resident (p : PlaceDesc) : Bool := bits p.flags 1 1 = 1

/-- Fields of a copy are clear: SOURCE_KIND, SOURCE_KEY, SOURCE_ADDR, LENGTH and OFFSET. -/
def PlaceDesc.noSource (p : PlaceDesc) : Bool := p.sourceKind = 0 && p.key = 0 && p.addr = 0

/-- Fields that only ALLOCATE uses are clear. -/
def PlaceDesc.noObject (p : PlaceDesc) : Bool :=
  p.size = 0 && p.tier = 0 && p.kind = 0 && p.ecc = 0 && p.region = 0 && p.copyHandle = 0 && p.rsv = 0

def PlaceDesc.noMove (p : PlaceDesc) : Bool := p.moveTiers = 0 && p.moveT1 = 0 && p.moveT0 = 0

namespace Dev

/-- INDEX numbers that a copy names. -/
def copyNames (dist : Nat) (i : Nat) (p : PlaceDesc) : List Nat :=
  if p.sourceKind = 3 then [i, handleIndex (tierHandle dist p.addr)] else [i]

/-- Completion of a PLACE command, letting its objects go. -/
def placeDone (d : Dev) (h : Hdr) (held : List Nat) (st : Status) (dw0 : Nat := 0) : Dev :=
  let tag := 65536 * h.queue + h.cid
  let d := { d with place := { d.place with placing := AMap.drop d.place.placing tag } }
  (d.letGo held h.queue h.cid).finishPort h.queue h.cid st dw0

/-- A copy into an object ends with an error. Where the source could not be read (R356), was lost while the copy was in flight (R368,
R370) or the port on its way was reset (R407), the object stays allocated and the range is undefined. A new object whose record fails its checks goes (R273, R306); its INDEX
had been assigned, so that the next assignment carries the next GEN (DESIGN CHOICE, log entry 31). -/
def copyFails (d : Dev) (h : Hdr) (i : Nat) (p : PlaceDesc) (fresh : Bool) (lets : List Nat) (st : Status) (dw0 : Nat) : Dev :=
  let lost := st = .dataTransferError || st = .unrecoveredReadError || st = .leaseRevoked || st = .districtNotResident
    || st = .transientTransportError
  if lost then (d.undefineObj i p.offset p.length).placeDone h lets st dw0
  else if fresh then
    match AMap.look d.place.objs i with
    | none => d.placeDone h lets st dw0
    | some o =>
      let place := { d.place with objs := AMap.drop d.place.objs i, gens := AMap.put d.place.gens i ((o.gen + 1) % 256) }
      ({ d with place := place } : Dev).placeDone h (lets.filter (· ≠ i)) st dw0
  else d.placeDone h lets st dw0

/-- A copy out of an object fails while it is in flight: its destination is undefined (R356, R368, R407). -/
def outLost (d : Dev) (dist : Nat) (p : PlaceDesc) : Dev :=
  match p.sourceKind with
  | 2 =>
    let (bs, d) := d.freeBytes p.length
    d.writeNs none p.key p.addr bs
  | 3 => d.undefineObj (handleIndex (tierHandle dist p.addr)) (tierOffset p.addr) p.length
  | _ => d

/-- The descriptor of a PLACE copy with the object that it is of, and whether it copies out of it. -/
def copyOf (d : Dev) (x : Inflight) : Option (PlaceDesc × Nat × Bool) :=
  let fresh := AMap.get d.place.placing (65536 * x.queue + x.cid) 0
  match x.command with
  | .allocate _ desc _ => some (placeDesc desc, fresh, false)
  | .copyIn _ desc _ => some (placeDesc desc, handleIndex (placeDesc desc).handle, false)
  | .copyOut _ desc => some (placeDesc desc, handleIndex (placeDesc desc).handle, true)
  | _ => none

/-- A PLACE copy in flight ends with an error: it waits no longer, lets its objects go, and its destination is undefined. -/
def endCopy (d : Dev) (x : Inflight) (h : Hdr) (st : Status) : Dev :=
  match d.copyOf x with
  | none => d
  | some (p, i, out) =>
    let dist := x.district.getD 0
    let lets := copyNames dist i p
    let rest := d.place.t3.filter fun c => !(c.queue = x.queue && c.cid = x.cid)
    let d := ({ d with place := { d.place with t3 := rest } } : Dev).modMedia fun m =>
      { m with acks := m.acks.filter fun a => !(a.queue = x.queue && a.cid = x.cid) }
    if out then (d.outLost dist p).placeDone h lets st
    else
      let (fresh, handle) := match x.command, AMap.look d.place.objs i with
        | .allocate .., some o => (true, handleOf i dist o.gen)
        | _, _ => (false, 0)
      d.copyFails h i p fresh lets st handle

end Dev

end Sys2Proof.Machine
end

