-- ==== Sys2Proof/Machine/Flash.lean ====
section
/-! DEFINITION. The Squares' states and configuration flash (R503 to R514): sectors, write sets, erases, forward copies. -/

namespace Sys2Proof.Machine

def SqState.code : SqState → Nat
  | .active => 0
  | .standby => 1
  | .updating => 2
  | .outOfService => 3

/-- Sectors that hold so many bytes (R507). -/
def sectorsFor (bytes : Nat) : Nat := ceilDiv bytes 4064

namespace Dev

/-- The state of a Square: 0 A, 1 B. -/
def sqState (d : Dev) (s : Nat) : SqState := if s = 0 then d.squares.a else d.squares.b

def setSquare (d : Dev) (s : Nat) (x : SqState) : Dev :=
  let d := { d with squares := if s = 0 then { d.squares with a := x } else { d.squares with b := x } }
  d.fset Reg.DEV_SQ (if s = 0 then Fld.DEV_SQ_A_STATE else Fld.DEV_SQ_B_STATE) x.code

def activeSq (d : Dev) : Nat := if d.squares.activeB then 1 else 0

/-- The standby, if one is in service (R503, R505): one that writes its flash still is. -/
def standby (d : Dev) : Option Nat :=
  let s := 1 - d.activeSq
  if d.sqState s = .standby || d.sqState s = .updating then some s else none

def flash (d : Dev) (s : Nat) : CfgFlash := if s = 0 then d.squares.flash0 else d.squares.flash1

def liveSectors (d : Dev) (s : Nat) : Nat := ((d.flash s).sectors.filter fun x => x.2.live).length

/-- DEV_CFGs_STAT and DEV_CFGs_WEAR (R523). -/
def showFlash (d : Dev) (s : Nat) : Dev :=
  let f := d.flash s
  let a := Reg.DEV_CFG_STAT s
  let d := (d.fset a Fld.DEV_CFG_STAT_BASE f.base).fset a Fld.DEV_CFG_STAT_LIVE (d.liveSectors s)
  let d := (d.fset a Fld.DEV_CFG_STAT_BUSY f.erasing.isSome.toNat).fset a Fld.DEV_CFG_STAT_SUSPENDED f.suspended.toNat
  let d := d.fset a Fld.DEV_CFG_STAT_BAD (min 63 f.bad.length)
  let d := d.fset (Reg.DEV_CFG_WEAR s) Fld.DEV_CFG_WEAR_GENERATIONS (min f.generation (2 ^ 32 - 1))
  d.fset (Reg.DEV_CFG_WEAR s) Fld.DEV_CFG_WEAR_MAX_ERASES (f.erases.foldl (fun m x => max m x.2) 0)

def modFlash (d : Dev) (s : Nat) (g : CfgFlash → CfgFlash) : Dev :=
  let x := g (d.flash s)
  ({ d with squares := if s = 0 then { d.squares with flash0 := x } else { d.squares with flash1 := x } } : Dev).showFlash s

/-- The erases of configuration flash are abandoned at once; their sectors stay half-erased (R513). -/
def abandonErases (d : Dev) : Dev :=
  (List.range 2).foldl (fun d s => d.modFlash s fun f => { f with erasing := none, suspended := false, copying := none }) d

/-- The head passes bad sectors (R514). -/
def skipBad (f : CfgFlash) : Nat → CfgFlash
  | 0 => f
  | n + 1 => if f.bad.contains ((f.base + 3072) % 4096) then skipBad { f with base := (f.base + 1) % 4096 } n else f

/-- The oldest live sector that the next advance of the base takes out of the window, or that the head's passing of bad sectors (at most
64, R514) has taken out already. -/
def leaving (f : CfgFlash) : Option Nat :=
  ((List.range 65).map fun l => (f.base + 4032 + l) % 4096).find? fun p => match AMap.look f.sectors p with
    | some x => x.live
    | none => false

/-- One more sector at the head, of an object (R508). -/
def appendOne (f : CfgFlash) (k : Nat × Nat) : CfgFlash :=
  let f := skipBad f 4096
  let head := (f.base + 3072) % 4096
  { f with sectors := AMap.put f.sectors head ⟨f.generation + 1, k.1, k.2, true⟩, base := (f.base + 1) % 4096,
           generation := f.generation + 1, erases := AMap.put f.erases head (AMap.get f.erases head 0 + 1) }

/-- Live sectors that would leave the window are copied forward (R509). -/
def forwardLeaving : Nat → CfgFlash → CfgFlash
  | 0, f => f
  | n + 1, f =>
    let f := skipBad f 4096
    match leaving f with
    | none => f
    | some p => match AMap.look f.sectors p with
      | none => f
      | some x => forwardLeaving n (appendOne { f with sectors := AMap.put f.sectors p { x with live := false } } (x.kind, x.object))

/-- The erase of the sector at the head begins, journalled with its intent (R508, R513). The sector that leaves the window is
copied forward first when it is live (R509). -/
def beginErase (d : Dev) (s : Nat) (copy : Option Nat) : Dev :=
  let d := d.modFlash s fun f =>
    let f := skipBad f 4096
    let head := (f.base + 3072) % 4096
    { f with erasing := some (head, 0), suspended := false, copying := if copy.isSome then copy else leaving f, half := f.half ++ [head] }
  d.setSquare s .updating

/-- The Square that writes now for a write set: the standby first (R510). -/
def writer (d : Dev) (w : WriteSet) : Option Nat :=
  let left (s : Nat) : Nat := if s = 0 then w.left0 else w.left1
  let a := d.activeSq
  if left (1 - a) ≠ 0 then some (1 - a) else if left a ≠ 0 then some a else none

/-- The next sector with a replaced key on a Square in service (R535). -/
def keyEraseNext (d : Dev) : Option (Nat × Nat) := d.sec.keyErases.find? fun x => d.sqState x.1 ≠ .outOfService

/-- The erase of a sector that the head has not reached begins, journalled with its intent (R513, R535). -/
def beginSectorErase (d : Dev) (s p : Nat) : Dev :=
  (d.modFlash s fun f => { f with erasing := some (p, 0), suspended := false, copying := none, half := f.half ++ [p] }).setSquare s
    .updating

/-- What configuration flash does next, if no erase runs: a sector with a replaced key is erased, after its live records are copied
forward (R535), and then the first write set goes on. -/
def driveWrites (d : Dev) : Dev :=
  if (d.flash 0).erasing.isSome || (d.flash 1).erasing.isSome then d
  else match d.keyEraseNext, d.squares.writeSets with
    | some (s, p), _ => match AMap.look (d.flash s).sectors p with
      | some x => if x.live then d.beginErase s (some p) else d.beginSectorErase s p
      | none => d.beginSectorErase s p
    | none, w :: _ => match d.writer w with
      | some s => d.beginErase s none
      | none => d
    | none, [] => d

/-- Step 4 of R535 is complete: the Format completes, or the second phase of a Crypto Erase ends. -/
def keysDone (d : Dev) : Dev :=
  match d.host.wipe with
  | some w =>
    if !w.sanitize then d.finish w.queue w.cid .success
    else if w.failed then d
    else { d with host := { d.host with wipe := some { w with phase := 3, sprog := 61440 } } }
  | none => d

/-- Where the last sector with a replaced key has gone, step 4 of R535 is complete. -/
def settleKeys (d : Dev) (was : Bool) : Dev := if was && d.keyEraseNext.isNone then d.keysDone else d

/-- Sectors of a new write set on a Square: none on one that is out of service. -/
def sectorsOn (d : Dev) (s n : Nat) : Nat := if d.sqState s = .outOfService then 0 else n

/-- A command starts a write set, unless the live set would grow above 3,072 sectors (R509, R510). -/
def addWriteSet (d : Dev) (q cid kind n : Nat) (e : WriteEffect) : Dev :=
  if 3072 < max (d.liveSectors 0) (d.liveSectors 1) + n then d.finishSquare q cid .capacityExceeded
  else
    let o := d.squares.nextObject
    let w : WriteSet := ⟨some (q, cid), kind, o, d.sectorsOn 0 n, d.sectorsOn 1 n, n, e⟩
    ({ d with squares := { d.squares with writeSets := d.squares.writeSets ++ [w], nextObject := o + 1 } } : Dev).driveWrites

/-- Sectors that match are dead. -/
def killSectors (d : Dev) (c : Sector → Bool) : Dev :=
  let dead (x : Sector) : Sector := if c x then { x with live := false } else x
  (List.range 2).foldl (fun d s => d.modFlash s fun f =>
    { f with sectors := f.sectors.map (fun (x : Nat × Sector) => (x.1, dead x.2)) }) d

/-- The kind of an object's sectors changes. -/
def rekindSectors (d : Dev) (o n : Nat) : Dev :=
  let kind (x : Sector) : Sector := if x.kind = o && x.live then { x with kind := n } else x
  (List.range 2).foldl (fun d s => d.modFlash s fun f =>
    { f with sectors := f.sectors.map (fun (x : Nat × Sector) => (x.1, kind x.2)) }) d

/-- A Square whose flash is no longer busy serves in its own role again. -/
def serve (d : Dev) (s : Nat) : Dev :=
  if d.sqState s ≠ .updating then d else d.setSquare s (if s = d.activeSq then .active else .standby)

/-- A Square goes out of service: its part of every write set goes. -/
def sqOut (d : Dev) (s : Nat) : Dev :=
  let was := d.keyEraseNext.isSome
  let d := (d.modFlash s fun f => { f with erasing := none, suspended := false, copying := none }).setSquare s .outOfService
  let cut (w : WriteSet) : WriteSet := if s = 0 then { w with left0 := 0 } else { w with left1 := 0 }
  (({ d with squares := { d.squares with writeSets := d.squares.writeSets.map cut } } : Dev).driveWrites).settleKeys was

/-- The erase of a sector completes: the next sector is programmed (R508, R513). One that does not verify is bad (DEDUCED from
R514), and a Square with more than 64 is out of service. -/
def flashDone (d : Dev) (s : Nat) (verified : Bool) : Dev :=
  match (d.flash s).erasing with
  | none => d
  | some (head, _) =>
    if (d.flash s).suspended then d
    else
      let d := d.modFlash s fun f => { f with erasing := none, half := f.half.filter (· ≠ head),
                                              erases := AMap.put f.erases head (AMap.get f.erases head 0 + 1) }
      let keyOnly := d.sec.keyErases.contains (s, head) && (d.flash s).copying.isNone
      let d := { d with sec := { d.sec with keyErases := d.sec.keyErases.filter (· ≠ (s, head)) } }
      if !verified then
        let d := d.modFlash s fun f => { f with bad := f.bad ++ [head], copying := none }
        if 64 < (d.flash s).bad.length then d.sqOut s else (d.serve s).driveWrites
      else if keyOnly then ((d.modFlash s fun f => { f with sectors := AMap.drop f.sectors head }).serve s).driveWrites
      else
        let f := d.flash s
        let (kind, object) := match f.copying with
          | some p => match AMap.look f.sectors p with
            | some x => (x.kind, x.object)
            | none => (7, 0)
          | none => match d.squares.writeSets with
            | w :: _ => (w.kind, w.object)
            | [] => (7, 0)
        let gone := match f.copying with
          | some p => AMap.upd f.sectors p fun x => { x with live := false }
          | none => f.sectors
        let count (w : WriteSet) : WriteSet := if s = 0 then { w with left0 := w.left0 - 1 } else { w with left1 := w.left1 - 1 }
        let sets := if f.copying.isSome then d.squares.writeSets else match d.squares.writeSets with
          | w :: t => count w :: t
          | [] => []
        let d := d.modFlash s fun f => { f with sectors := AMap.put gone head ⟨f.generation + 1, kind, object, true⟩, copying := none,
                                                base := (f.base + 1) % 4096, generation := f.generation + 1 }
        ((({ d with squares := { d.squares with writeSets := sets } } : Dev).serve s)).driveWrites

/-- An erase of a sector ends, and with the last sector that held a replaced key step 4 of R535. -/
def sectorErased (d : Dev) (s : Nat) (verified : Bool) : Dev := (d.flashDone s verified).settleKeys d.keyEraseNext.isSome

/-- One more sector of an object at the head of a Square's log. -/
def appendSector (d : Dev) (s : Nat) (k : Nat × Nat) : Dev :=
  d.modFlash s fun f => appendOne (forwardLeaving 4096 f) k

/-- A fetch outside the resident set suspends the erase of the Square that serves it, at most 8 times (R511). -/
def suspendErase (d : Dev) (s : Nat) : Dev :=
  match (d.flash s).erasing with
  | some (head, n) =>
    if (d.flash s).suspended || 8 ≤ n then d
    else
      let d := d.modFlash s fun f => { f with erasing := some (head, n + 1), suspended := true }
      d.fadd (Reg.DEV_CFG_STAT s) Fld.DEV_CFG_STAT_SUSPENDS 1
  | none => d

/-! Namespace keys. -/

/-- A namespace key of the next generation, measured under register 6 by its slot and generation (R531, R535). -/
def nextKey (d : Dev) (slot : Nat) : Dev :=
  let (x, d) := d.freeDigest
  let g := AMap.get d.sec.nsKeys slot 0 + 1
  ({ d with sec := { d.sec with nsKeys := AMap.put d.sec.nsKeys slot g } } : Dev).measure 6 x

/-- The wrapped pairs of key slots stand in the record sectors of an object. The sectors that held their older pairs are to be erased on
both Squares; what else is live in them is copied forward first (R534, step 4 of R535). -/
def keysIn (d : Dev) (slots : List Nat) (object : Nat) : Dev :=
  let old := (slots.filterMap fun k => AMap.look d.sec.keyObjects k).dedup
  let objects := slots.foldl (fun m k => AMap.put m k object) d.sec.keyObjects
  let d := d.killSectors fun x => x.kind = 7 && old.contains x.object && !(objects.any fun y => y.2 = x.object)
  let held (s : Nat) : List (Nat × Nat) :=
    ((d.flash s).sectors.filter fun x => x.2.kind = 7 && old.contains x.2.object).map fun x => (s, x.1)
  { d with sec := { d.sec with keyObjects := objects, keyErases := (d.sec.keyErases ++ held 0 ++ held 1).dedup } }

/-- Keys of the next generation, whose wrapped pairs start-up writes at once on the Squares in service. -/
def startKeys (d : Dev) (slots : List Nat) : Dev :=
  if slots.isEmpty then d
  else
    let o := d.squares.nextObject
    let d := slots.foldl nextKey { d with squares := { d.squares with nextObject := o + 1 } }
    ([0, 1].foldl (fun d s => if d.sqState s = .outOfService then d else d.appendSector s (7, o)) d).keysIn slots o

end Dev

/-- A suspended erase resumes (R511). -/
def configResume (d : Dev) (s : Nat) : Dev := if 2 ≤ s then d else d.modFlash s fun f => { f with suspended := false }

/-- The oldest live sector among those before the window's newest 2,048: of its oldest 1,024, and what bad sectors have taken out. -/
def oldestLive (f : CfgFlash) : Option Nat :=
  ((List.range 1088).map fun l => (f.base + 4032 + l) % 4096).find? fun p => match AMap.look f.sectors p with
    | some x => x.live
    | none => false

/-- In idle time a live sector is copied forward out of the oldest part of the window (R509). -/
def copyForward (d : Dev) (s : Nat) : Dev :=
  if 2 ≤ s || d.sqState s = .outOfService || (d.flash 0).erasing.isSome || (d.flash 1).erasing.isSome || !d.squares.writeSets.isEmpty
  then d
  else match oldestLive (d.flash s) with
    | some p => d.beginErase s (some p)
    | none => d

def execConfigEraseResume (square : Nat) (s : State) : Host.Outcome State Fault Refusal := effect (fun d => configResume d square) s
def execConfigCopyForward (square : Nat) (s : State) : Host.Outcome State Fault Refusal := effect (fun d => copyForward d square) s

end Sys2Proof.Machine
end

