-- ==== Sys2Proof/Machine/Amend.lean ====
section
/-! DEFINITION. How an amendment takes effect (R45, R50 to R57), with what it touches on the units: the links of Kerbs and Arcades
(R19, R20), ECC buckets (R485), namespace keys and banks. -/

namespace Sys2Proof.Machine

/-- A container has a section of the quiesce class, or of the double-banked class (R45). -/
def quiesces (c : Container) : Bool := c.sections.any fun s => quiesceType s.type
def banked (c : Container) : Bool := c.sections.any fun s => bankedType s.type

namespace Dev

/-! The links of the Kerbs (0 to 47) and the Arcades (48 to 55) (R19, R20). -/

def arcadeLinkUp (d : Dev) (a : Nat) (second : Bool) : Bool := bits (AMap.get d.contain.arcDown a 0) second.toNat 1 = 0

/-- The quarter of a Kerb or an Arcade, and the units of a quarter. -/
def linkQuarter (u : Nat) : Nat := if u < 48 then u / 12 else (u - 48) / 2
def linkUnits (q : Nat) : List Nat := (List.range 12).map (12 * q + ·) ++ [48 + 2 * q, 49 + 2 * q]

/-- The quarter that a second link leads to (R19). -/
def secondQuarter (u : Nat) : Nat := (linkQuarter u + (if u % 2 = 0 then 1 else 3)) % 4

def linkUp (d : Dev) (u : Nat) (second : Bool) : Bool :=
  if u < 48 then (if second then (d.kerb u).secondUp else (d.kerb u).homeUp) else d.arcadeLinkUp (u - 48) second

/-- The link in use: 0 home, 1 second. -/
def linkOf (d : Dev) (u : Nat) : Nat := if u < 48 then (d.kerb u).link else d.fget (Reg.ARC_STAT (u - 48)) Fld.ARC_STAT_LINK

def putLink (d : Dev) (u l : Nat) : Dev :=
  if u < 48 then d.modKerb u fun x => { x with link := l } else d.fset (Reg.ARC_STAT (u - 48)) Fld.ARC_STAT_LINK l

/-- A quarter's Kerbs and Arcades use their second links while it is quiesced at quarter scope or in reset Q (R54, R518). -/
def linksAway (d : Dev) (q : Nat) : Bool :=
  d.contain.resettingQuarters.contains q || d.quarterQuiet q

/-- The link that a unit uses: the second while its quarter's are away, else the one the plan prefers; the other where that is down. -/
def linkWanted (d : Dev) (u : Nat) : Nat :=
  let want := if d.linksAway (linkQuarter u) then 1 else preferredLink d.plan.sections u
  if d.linkUp u (want = 1) then want else if d.linkUp u (want = 0) then 1 - want else d.linkOf u

/-- A unit changes its link: counted, and logged under a code that the spec does not give (R20). R20 has the change wait for a command
boundary of the Kerb or Arcade and does not say which one: the model makes it at once, between two commands of its queue (DESIGN CHOICE, log
entry 74). -/
def changeLink (d : Dev) (u l : Nat) : Dev :=
  let d := d.putLink u l
  let d := if u < 48 then d.fadd (Reg.KERB_STAT u) Fld.KERB_STAT_LINK_CHANGES 1
    else d.fadd (Reg.ARC_STAT (u - 48)) Fld.ARC_STAT_LINK_CHANGES 1
  let (x, d) := d.draw
  d.logFault (if u < 48 then srcKerb u else srcArcade (u - 48)) (x.toNat % 2 ^ 16) 0 0 l

/-- Units change to the links they are to use. -/
def settleLinks (d : Dev) (us : List Nat) : Dev :=
  us.foldl (fun d u => let l := d.linkWanted u; if d.linkOf u = l then d else d.changeLink u l) d

/-! ECC buckets (R483, R485). -/

/-- DEPTH and LEAK_BEATS of a region. -/
def eccOf (d : Dev) (region : Nat) : Nat × Nat :=
  match (d.plan.ecc.filter fun e => e.first ≤ region && region < e.first + e.count).getLast? with
  | some e => (e.depth, e.leak)
  | none => (256, 1000)

def bucketLevel (d : Dev) (r : Nat) : Nat :=
  if r < 768 then d.fget (Reg.STK_BKT (r / 64) (r % 64)) Fld.STK_BKT_LEVEL
  else if r < 4864 then d.fget (Reg.ARC_BKT ((r - 768) / 512) ((r - 768) % 512)) Fld.ARC_BKT_LEVEL
  else AMap.get d.contain.blockBuckets r 0

def setBucket (d : Dev) (r v : Nat) : Dev :=
  if r < 768 then d.fset (Reg.STK_BKT (r / 64) (r % 64)) Fld.STK_BKT_LEVEL v
  else if r < 4864 then d.fset (Reg.ARC_BKT ((r - 768) / 512) ((r - 768) % 512)) Fld.ARC_BKT_LEVEL v
  else { d with contain := { d.contain with blockBuckets := AMap.put d.contain.blockBuckets r v } }

/-- Regions that a container's ECC_REGIONS name: their buckets start again at zero (R485). -/
def clearBuckets (d : Dev) (c : Container) : Dev :=
  (eccUnder c.sections).foldl (fun d e => (List.range e.count).foldl (fun d i =>
    if d.bucketLevel (e.first + i) = 0 then d else d.setBucket (e.first + i) 0) d) d

/-- Namespace keys are generated for slots named for the first time (R534, R531). -/
def makeKeys (d : Dev) : Dev :=
  d.startKeys ((d.plan.namespaces.map NsDef.keySlot).dedup.filter fun k => (AMap.look d.sec.nsKeys k).isNone)

/-! Applying an amendment's sections. -/

/-- The plan's values that depend on the effective plan alone come into force (R45, R50). -/
def refresh (d : Dev) : Dev := { d with plan := d.plan.refreshLive }

/-- Quiesce-class sections of an amendment take effect on its drained scope, as the effective plan now gives them. -/
def applyQuiesced (d : Dev) (c : Container) : Dev :=
  let secs := d.plan.sections
  let types := c.sections.map (·.type)
  let blocks := allBlocks.filter (scopeHasBlock c.scope)
  let d := { d with plan := { d.plan with ecc := eccUnder secs, namespaces := nsUnder secs } }
  let d := if types.contains 0x20 then d.clearBuckets c else d
  let d := if types.contains 0x30 then d.makeKeys else d
  let d := if types.contains 0x11 then
      blocks.foldl (fun d b =>
        let d := d.takeRole b
        match (d.block b).role with
        | .active _ => d.evictStrangers b
        | _ => (d.block b).slots.foldl (fun d s => d.endCommand b s.1 .districtNotResident false) d) d
    else d
  if types.contains 0x11 || types.contains 0x12 then blocks.foldl (fun d b => d.takeCells b) d else d

/-- Blocks of a scope that hold banks: the active ones and the spares, which take them along when they are mapped in (R51, R155). -/
def bankBlocks (d : Dev) (s : Scope) : List Nat :=
  allBlocks.filter fun b => scopeHasBlock s b && (d.block b).role ≠ .retired && !d.quarantined (b / 72)

/-- Back banks of a scope are written under the sections that the amendment would leave (R51, R53): before the scope quiesces. A SWAP_BEAT
that has begun by then counts as passed, the beat in progress among them (DESIGN CHOICE, log entry 65: R52 does not say). -/
def writeBanks (d : Dev) (secs : List Section) (c : Container) : Dev :=
  let d := if c.swapAtBeat && decide (c.swapBeat ≤ d.beat) then d.planError 0x20 0xFFFF else d
  (d.bankBlocks c.scope).foldl (fun d b =>
    let k := bankUnder secs b
    d.modBlock b fun x => { x with banks := if x.inUse = 0 then (x.banks.1, k) else (k, x.banks.2) }) d

/-- The banks written may swap (R51, R52); idle blocks do so at once when the swap is due. The amendment waits for every unit of its scope,
the spares among them. -/
def armBanks (d : Dev) (i : Nat) (c : Container) : Dev :=
  let beat := if c.swapAtBeat then some c.swapBeat else none
  let blocks := d.bankBlocks c.scope
  let d := blocks.foldl (fun d b => d.modBlock b fun x => { x with backWritten := some beat }) d
  let d := d.modSlot' i fun a => { a with step := .awaitingSwap, awaiting := blocks }
  if blocks.isEmpty then d.amendDone i
  else blocks.foldl (fun d b => if (d.block b).running.isNone then d.swapBank b else d) d

/-- The uncommitted chain that an amendment leaves: with its container, or without the one that a REVERT undoes (R37). -/
def chainAfter (d : Dev) (c : Container) (reverting : Bool) : List Container :=
  if reverting then (d.plan.uncommitted.reverse.erase c).reverse else d.plan.uncommitted ++ [c]

/-- The sections of the plan that an amendment leaves. -/
def sectionsAfter (d : Dev) (c : Container) (reverting : Bool) : List Section :=
  { d.plan with uncommitted := d.chainAfter c reverting }.sections

/-- The amendment of a slot takes effect: the records change, then the units, and its scope resumes (R53). -/
def applyAmend (d : Dev) (i : Nat) : Dev :=
  let a := d.amend i
  match a.container with
  | none => d
  | some c =>
    let before := d.plan.sections
    let d := ({ d with plan := { d.plan with uncommitted := d.chainAfter c a.reverting } } : Dev).refresh
    let d := if quiesces c then (d.applyQuiesced c).quiesceScope i c.scope false else d
    let d := if banked c then d.armBanks i c else d.amendDone i
    let moved := (List.range 56).filter fun u => preferredLink before u ≠ preferredLink d.plan.sections u
    let d := d.settleLinks (if c.scope.kind = .quarter && quiesces c then linkUnits c.scope.index else moved)
    if quiesces c then d.driveStages.driveJobs.issueAll else d

/-- Nothing of a scope is in flight any more (R53, R54): no command runs on its blocks, and at its Kerbs no query block is admitted and no
host read or write is on the dies. -/
def drained (d : Dev) (s : Scope) : Bool :=
  (allBlocks.all fun b => !scopeHasBlock s b || (d.block b).running.isNone) &&
    (List.range 48).all fun k => !scopeHasKerb s k || !(((d.kerb k).qblocks.any (·.admitted)) ||
      (d.kerb k).dies.any fun x => x.2.busy.any DieOp.isHost || x.2.suspended.any DieOp.isHost)

/-- A quiescing amendment goes on where its scope has drained, which a compute abort may have brought about (R53, R57). -/
def quiesceSettled (d : Dev) (i : Nat) : Dev :=
  let a := d.amend i
  match a.container with
  | none => d
  | some c => if a.step = .quiescing && d.drained c.scope then d.applyAmend i else d

/-- A quiescing amendment ends without effect; its scope resumes. -/
def abandon (d : Dev) (i : Nat) (cause : Nat) : Dev :=
  let a := d.amend i
  match a.container with
  | none => d
  | some c =>
    if a.step ≠ .quiescing then d
    else
      let d := (d.quiesceScope i c.scope false).amendFails i .scopeBusy cause
      let d := if c.scope.kind = .quarter then d.settleLinks (linkUnits c.scope.index) else d
      d.driveStages.driveJobs.issueAll

end Dev

end Sys2Proof.Machine
end

