-- ==== Sys2Proof/Machine/Contain.lean ====
section
/-! DEFINITION. Errors and containment (chapter 18, R20, R62, R63, R120 to R122, R233, R234, R324 to R328, R397 to R400): fenced
cells, retired blocks and their spares, the compute abort, Kerb resets and links, ECC buckets, quarantine, the flush and the
controlled shutdown. -/

namespace Sys2Proof.Machine

/-- The ASCII code of a reset letter. -/
def letterCode (c : Char) : Nat := c.toNat

/-- The bit of a reset letter in `RField.letters`. -/
def letterBit (c : Char) : Nat := match c with
  | 'C' => 0
  | 'M' => 1
  | 'D' => 2
  | 'Q' => 3
  | 'B' => 4
  | 'A' => 5
  | 'K' => 6
  | _ => 7

namespace Dev

/-- The fields that a reset restores go to their defaults, in the registers of its scope (R9, R10). -/
def resetRegs (d : Dev) (c : Char) (scope : RegRow → List Nat → Bool) : Dev :=
  { d with regs := d.regs.map fun (a, v) => match findReg a with
    | some (r, ix) =>
      if scope r ix then
        (a, r.fields.foldl (fun v f =>
          if bits f.letters (letterBit c) 1 = 1 then setBits v f.lo f.width (bits (r.dflt ix) f.lo f.width) else v) v)
      else (a, v)
    | none => (a, v) }

/-- Registers of a block with its cells, and of a Kerb. -/
def blockScope (b : Nat) (r : RegRow) (ix : List Nat) : Bool :=
  (regRowsBlk ++ regRowsCell).any (fun x => x.name = r.name) && (match ix with
    | q :: p :: _ => 72 * q + p = b
    | _ => false)

def kerbScope (k : Nat) (r : RegRow) (ix : List Nat) : Bool :=
  regRowsKerb.any (fun x => x.name = r.name) && (match ix with
    | q :: i :: _ => 12 * q + i = k
    | _ => false)

/-- An error bit of a register with MULTIPLE at `multi`, which is set when one of the bits below `n` already was. -/
def setError (d : Dev) (a bit n multi : Nat) : Dev :=
  let v := d.reg a
  d.setReg a ((v.lor (2 ^ bit)).lor (if bits v 0 n = 0 then 0 else 2 ^ multi))

/-! Self-tests (R127). -/

/-- A block runs its self-test: a spare before it is mapped in, or a block in a reset. -/
def blockTesting (d : Dev) (b : Nat) : Bool :=
  (d.block b).selfTest || d.contain.resettingBlocks.contains b || d.contain.resettingQuarters.contains (b / 72)

def kerbTesting (d : Dev) (k : Nat) : Bool := (d.kerb k).resetting

/-- At the end of a block's self-test every injection still armed has been read and recorded. The entry and column of a first
error are free values. -/
def endBlockTest (d : Dev) (b : Nat) : Dev :=
  let d := (List.range 4).foldl (fun d c =>
    let a := Reg.CELL_INJECT b c
    let t := d.fget a Fld.CELL_INJECT_TARGET
    if !d.fbit a Fld.CELL_INJECT_ARM then d
    else
      let d := d.foff a Fld.CELL_INJECT_ARM
      if t = 0 || 6 < t then d
      else
        let first := bits (d.reg (Reg.CELL_ERR b c)) 0 6 = 0
        let d := d.setError (Reg.CELL_ERR b c) (t - 1) 6 8
        if first then
          let (x, d) := d.draw
          d.setReg (Reg.CELL_ERR_LOC b c) (x.toNat % 2 ^ 16 + 2 ^ 16 * (x.toNat / 2 ^ 16 % 64))
        else d) d
  if d.fbit (Reg.BLK_CTL b) Fld.BLK_CTL_ECC_INJECT then
    (d.foff (Reg.BLK_CTL b) Fld.BLK_CTL_ECC_INJECT).fadd (Reg.BLK_ECC b) Fld.BLK_ECC_CORRECTED 1
  else d

/-- At the end of a Kerb's self-test an armed injection has been read, and corrected, and is recorded: in the event log, under a code
that the spec does not give (R127, R237; DESIGN CHOICE, log entry 73). -/
def endKerbTest (d : Dev) (k : Nat) : Dev :=
  if !d.fbit (Reg.KERB_CTL k) Fld.KERB_CTL_INJECT then d
  else
    let (x, d) := (d.foff (Reg.KERB_CTL k) Fld.KERB_CTL_INJECT).draw
    d.logFault (srcKerb k) (x.toNat % 2 ^ 16) 0 0 0

/-! Amendments whose scope leaves service (R57). -/

/-- Amendments before their resume end whose scope is out of service. -/
def amendsOver (d : Dev) (holds : Scope → Bool) (st : Status) (cause : Nat) : Dev :=
  (List.range 4).foldl (fun d i =>
    let a := d.amend i
    match a.container with
    | some c => if a.step ≠ .idle && a.step ≠ .awaitingSwap && holds c.scope then
        let d := (d.quiesceScope i c.scope false).amendFails i st cause
        if c.scope.kind = .quarter then d.settleLinks (linkUnits c.scope.index) else d
      else d
    | none => d) d

/-- A block out of service no longer has to swap its banks (R52). -/
def awaitNoMore (d : Dev) (b : Nat) : Dev :=
  (List.range 4).foldl (fun d i =>
    if (d.amend i).step = .awaitingSwap && (d.amend i).awaiting.contains b then
      let d := d.modSlot' i fun a => { a with awaiting := a.awaiting.filter (· ≠ b) }
      if (d.amend i).awaiting.isEmpty then d.amendDone i else d
    else d) d

/-! Annotations, fences and spares (R35, R62, R63, R120, R121). -/

/-- An annotation is recorded, and one that takes a unit out of service is measured (R531). -/
def annotate (d : Dev) (a : Annotation) : Dev :=
  let d := { d with plan := { d.plan with annotations := d.plan.annotations ++ [a] } }
  match a with
  | .activate _ _ _ => d
  | _ =>
    let (x, d) := d.freeDigest
    d.measure 4 x

def fence (d : Dev) (b c : Nat) : Dev := (d.annotate (.fence b c)).takeCells b

/-- Hops between two blocks of a quarter along the Avenue's rows and columns. -/
def hops (a b : Nat) : Nat :=
  let p := a % 72
  let q := b % 72
  (p / 9 - q / 9) + (q / 9 - p / 9) + (p % 9 - q % 9) + (q % 9 - p % 9)

/-- The spare with the fewest hops, the lower rank on a tie (R62). -/
def nearestSpare (d : Dev) (b : Nat) : Option Nat :=
  let cs := (List.range 72).filterMap fun p =>
    let x := 72 * (b / 72) + p
    match (d.block x).role with
    | .spare r => if d.contain.sparing.any fun s => s.2 = x then none else some (hops b x, r, x)
    | _ => none
  (cs.foldl (fun (best : Option (Nat × Nat × Nat)) c => match best with
    | none => some c
    | some a => if c.1 < a.1 || (c.1 = a.1 && c.2.1 < a.2.1) then some c else some a) none).map fun c => c.2.2

/-- A block without a spare leaves its number vacant: its waiting commands end without starting (R63, R121). -/
def leaveVacant (d : Dev) (b : Nat) : Dev :=
  let d := d.logFault (d.srcOfBlock b) 0x0205 2 0 0
  let d := (d.block b).slots.foldl (fun d s => d.endCommand b s.1 .districtNotResident false) d
  let d := d.jobs.foldl (fun d j =>
    if j.2.state = .running && (j.2.encode.blocks ++ j.2.route.blocks).any fun g => d.physOf g = some b then
      d.stopJob j.1 .districtNotResident
    else d) d
  d.modBlock b fun x => { x with role := .retired, failing := false }


/-- Bytes of a binding, read again from its object (R359). -/
def restream (d : Dev) (b : Nat) (x : Binding) : Dev :=
  match AMap.look d.place.objs (handleIndex x.handle) with
  | some o => if o.resident && !o.lost then d.storeBm b x.bmOffset (d.loadObj (handleIndex x.handle) x.objOffset x.length)
    else d.undefineBm b x.bmOffset x.length
  | none => d

/-- A spare takes the failed block's number, district, windows, queue and bindings (R62, R14, R359). -/
def mapSpare (d : Dev) (b s : Nat) : Dev :=
  let x := d.block b
  match x.role with
  | .active l =>
    let d := d.annotate (.activate s l x.home)
    let d := (List.range 16).foldl (fun d i => d.setReg (Reg.BLK_BMWIN s i) (d.reg (Reg.BLK_BMWIN b i))) d
    let d := d.modBlock s fun y =>
      { y with role := .active l, home := x.home, selfTest := false, slots := x.slots, running := none,
               deficits := x.deficits, lastZero := x.lastZero, nextSeq := x.nextSeq, sampled := x.sampled }
    let d := d.takeCells s
    let d := d.modBlock b fun y => { y with role := .retired, failing := false, slots := [], running := none, dma := [] }
    let batch (p : Batch) : Batch := if p.issued && p.block = b then { p with block := s } else p
    let wait (w : Wait) : Wait := if w.block = b then { w with block := s } else w
    let d := { d with batches := d.batches.map (fun (p : Nat × Batch) => (p.1, batch p.2)) }
    let d := { d with waits := d.waits.map wait }
    let g := 64 * (b / 72) + l
    (d.place.bindings.filter fun y => y.block = g).foldl (fun d y => d.restream s y) d
  | _ => d

/-- A failed block gives way once it runs no command, since its retirement aborts none (R121): to the spare that has passed its
self-test, or to no block where none is left; while a spare is in self-test its queue waits. -/
def relieve (d : Dev) (b : Nat) : Dev :=
  if !(d.block b).failing || (d.block b).running.isSome then d
  else match d.contain.spared.find? fun x => x.1 = b with
    | some (_, s) =>
      { d with contain := { d.contain with spared := d.contain.spared.filter fun x => x.1 ≠ b } }.mapSpare b s
    | none => if d.contain.sparing.any fun x => x.1 = b then d else d.leaveVacant b

/-- A spare starts its self-test for a failed block, or none is left (R62). -/
def seekSpare (d : Dev) (b : Nat) : Dev :=
  let d := d.modBlock b fun x => { x with failing := true }
  match d.nearestSpare b with
  | none => d.relieve b
  | some s =>
    let d := { d with contain := { d.contain with sparing := d.contain.sparing ++ [(b, s)] } }
    d.modBlock s fun x => { x with selfTest := true }

/-- A block is retired by annotation, and an amendment of it or of a cell of it that has not resumed ends (R57, R62). -/
def annotateRetired (d : Dev) (b : Nat) : Dev :=
  ((d.annotate (.retire b)).amendsOver (fun s => scopeInBlock s b) .planMismatch 0x0B).awaitNoMore b

/-- A block is retired by annotation and a spare is sought (R62, R121). -/
def retireBlock (d : Dev) (b : Nat) : Dev :=
  if d.plan.annotations.contains (.retire b) then d
  else
    let d := d.annotateRetired b
    match (d.block b).role with
    | .active _ => d.seekSpare b
    | _ => d.modBlock b fun x => { x with role := .retired }

/-! The compute abort (R324 to R328). -/

/-- What an abort discards in every block: accumulators, tags and asynchronous DMA. -/
def clearTags (d : Dev) (b : Nat) : Dev :=
  d.modBlock b fun y => { y with dma := [], cells := y.cells.map fun c =>
    { c with front := none, shadow := none, acc := [], accum := [] } }

/-- Every command of a block's queue ends (R137, R325). The sections of a dispatch that had not run stay as they are (DESIGN CHOICE,
log entry 65: R200 says that they may hold partial rows). -/
def abortBlock (d : Dev) (b : Nat) : Dev :=
  let d := match d.running b with
    | some (_, x) => d.undefineOutputs b x
    | none => d
  let d := (d.block b).slots.foldl (fun d s => cutDma d b s.1 s.2) d
  let run := (d.block b).running
  let d := (d.block b).slots.foldl (fun d s => d.endCommand b s.1 .computeAborted (run = some s.1)) d
  d.clearTags b

/-- The queries that have a command of their batch queued or running in a block (R327). -/
def abortedQueries (d : Dev) : List Nat :=
  (d.batches.filter fun p => p.2.issued && (d.block p.2.block).slots.any fun s => s.2.origin = .stage p.1).flatMap
    fun p => p.2.queries

/-- A compute abort starts, or joins the one in progress (R324, R328). Quiesce ends where nothing remains in flight (R57). -/
def computeAbort (d : Dev) (faulty : List Nat) (src : Nat) : Dev :=
  let d := { d with contain := { d.contain with faulty := (d.contain.faulty ++ faulty).dedup } }
  if d.contain.abortActive then d.fadd Reg.CNT_ABORTS Fld.CNT_ABORTS_MERGED 1
  else
    let d := d.fadd Reg.CNT_ABORTS Fld.CNT_ABORTS_ABORTS 1
    let d := if d.fbit Reg.TRC_TRIG Fld.TRC_TRIG_ON_ABORT then d.traceTrigger 3 src (AMap.get d.seqs src 1 - 1) else d
    let d := { d with contain := { d.contain with abortActive := true } }
    let qs := d.abortedQueries
    let d := d.blocks.foldl (fun d x => d.abortBlock x.1) d
    let d := qs.foldl (fun d q => d.failQuery q .computeAborted true) d
    let d := { d with batches := d.batches.filter fun p => !(p.2.issued && p.2.queries.isEmpty) }
    (List.range 4).foldl quiesceSettled d.driveJobs

/-- A fault of a whole block (R490): error bit, record, abort; the block is retired when the abort has ended. -/
def blockFault (d : Dev) (b bit code address : Nat) : Dev :=
  let first := bits (d.reg (Reg.BLK_ERR b)) 0 3 = 0
  let d := d.setError (Reg.BLK_ERR b) bit 3 3
  let d := if bit = 0 && first then d.setReg (Reg.BLK_ERR_ADDR b) (address % 2 ^ 23) else d
  if d.blockTesting b then d
  else
    let dist := (d.running b).map fun x => x.2.district
    let src := d.srcOfBlock b
    let d := d.logError src 0x40 code 2 (letterCode 'A') src dist (if bit = 0 then address else 0) 0 (4864 + b)
    d.computeAbort [b] src

/-! ECC buckets (R483, R484, R488). -/

/-- The unit that holds a region, as a source. -/
def regionSource (d : Dev) (r : Nat) : Nat :=
  if r < 768 then srcStack (r / 64) else if r < 4864 then srcArcade ((r - 768) / 512) else d.srcOfBlock (r - 4864)

/-- One corrected word of a region (R488). The record of an overflow has the code of the error corrected where a table gives
one, and otherwise a free one (log entry 23). -/
def bucketAdd (d : Dev) (r : Nat) : Dev :=
  let level := d.bucketLevel r
  if level < (d.eccOf r).1 then d.setBucket r (level + 1)
  else
    let d := (d.setBucket r 0).fadd Reg.CNT_CONTAIN_CNT Fld.CNT_CONTAIN_CNT_OVERFLOWS 1
    let d := if r < 768 then d.fadd (Reg.STK_BKT (r / 64) (r % 64)) Fld.STK_BKT_OVERFLOWS 1
      else if r < 4864 then d.fadd (Reg.ARC_BKT ((r - 768) / 512) ((r - 768) % 512)) Fld.ARC_BKT_OVERFLOWS 1
      else d
    let quiet := match AMap.look d.contain.lastReport r with
      | some b => decide (d.beat < b + 1024)
      | none => false
    if quiet then d
    else
      let d := { d with contain := { d.contain with lastReport := AMap.put d.contain.lastReport r d.beat } }
      let (free, d) := d.draw
      let code := if 4864 ≤ r then 0x0204 else free.toNat % 2 ^ 16
      let src := d.regionSource r
      (d.logError src 0x41 code 0 0 src none 0 0 r).asyncVendor

/-! Kerbs and links (R20, R21, R233, R234). -/

/-- Queries that have work at a Kerb: an admitted block, or a heap or walk that it holds. -/
def workAt (d : Dev) (k : Nat) : List Nat := (d.residents k).map (·.id)

/-- A Kerb goes offline (R21, R57): its queries, those with a heap held there among them, complete with the error. Whether an index
holds replicas of a list or partition elsewhere is not in the spec, so that no query finds one (DESIGN CHOICE, log entry 65). -/
def kerbOffline (d : Dev) (k : Nat) : Dev :=
  let d := d.amendsOver (fun s => s.kind = .kerb && s.index = k) .planMismatch 0x0B
  let qs := ((d.kerb k).qblocks.flatMap fun b => b.queries.map (·.query)) ++ d.workAt k
  qs.dedup.foldl (fun d q => d.failQuery q .internalError true) d

/-- A link of a Kerb or an Arcade fails, or is taken away: it changes to the other link, or a Kerb goes offline (R20, R21). -/
def linkLost (d : Dev) (u link : Nat) : Dev :=
  let d := if u < 48 then d.modKerb u fun x => if link = 0 then { x with homeUp := false } else { x with secondUp := false }
    else
      let down := AMap.put d.contain.arcDown (u - 48) ((AMap.get d.contain.arcDown (u - 48) 0).lor (2 ^ link))
      { d with contain := { d.contain with arcDown := down } }
  if d.linkOf u ≠ link then d
  else if d.linkUp u (link = 0) then d.changeLink u (1 - link)
  else if u < 48 then d.kerbOffline u else d

/-- The partitions of a graph version at a Kerb that a query walks. -/
def walksAt (d : Dev) (k : Nat) (v : Version) (q : Query) : List Nat :=
  let seeds := d.seedsOf v q.ranking
  (List.range v.params.partitions).filter fun i =>
    let p := d.partAt v i
    p.kerb = k && seeds.any fun s => inPart p s.1

/-- A query restarts its work at a Kerb from its first stripe or hop (R234): what the Kerb held of it is gone. Its walks go through the
beam widths of all its rounds again, and every list that it has probed is read again. -/
def restartQuery (d : Dev) (k i : Nat) : Dev :=
  match d.queryOf i with
  | none => d
  | some q =>
    if q.failed.isSome || q.phase = .done || q.phase = .returning then d
    else if (AMap.look q.restarts k).isSome then d.failQuery i .internalError true
    else
      let d := d.modQuery i fun q => { q with restarts := AMap.put q.restarts k 1, thetas := AMap.drop q.thetas k }
      match d.versionOf q.desc.ns q.version with
      | none => d
      | some v =>
        if q.desc.sweep then d
        else if v.params.graph then
          let ps := d.walksAt k v q
          let d := d.modQuery i fun q =>
            { q with walks := ps.foldl AMap.drop q.walks, heaps := ps.foldl (fun h p => AMap.drop h (1000 + p)) q.heaps }
          ps.foldl (fun d p => d.sendWalk v q p q.beams) d
        else
          let d := d.modQuery i fun q => { q with heaps := AMap.drop q.heaps k }
          (sortBy (· < ·) (q.ranking.take q.probed)).foldl (fun d l => match (d.kerbsOfList [i] v l).find? fun x => x.1 = k with
            | some (_, ss) => d.addQb k { id := 0, district := q.district, ns := v.ns, version := v.params.version, kind := v.params.dist,
                                          sweep := false, unit := l, stripes := ss, queries := [{ query := i }] }
            | none => d) d

/-- A block of a sweep pass goes back to the heaps stored as it began (R255). -/
def restartSweepBlock (d : Dev) (k : Nat) (b : QBlock) : Dev :=
  let begun := !(b.phase = .head || b.phase = .ready)
  let d := if begun then
      b.queries.foldl (fun d q => d.modQuery q.query fun x => { x with heaps := AMap.put x.heaps k q.start }) d
    else d
  let ss := match d.versionFor b with
    | some v => match (d.kerbsOfList (b.queries.map (·.query)) v b.unit).find? fun x => x.1 = k with
      | some (_, ss) => ss
      | none => []
    | none => []
  let fresh (q : QbQuery) : QbQuery := { query := q.query, gone := q.gone }
  d.modQb k b.id fun b =>
    { b with admitted := false, phase := .head, pending := 0, ahead := none, stripes := ss, queries := b.queries.map fresh }

/-- Does a secure erasure lie on a Kerb: is a unit of its ranges homed in a group of the Kerb? -/
def erasureAt (d : Dev) (e : Erasure) (k : Nat) : Bool :=
  e.ranges.any fun r => (d.unitsOf e.ns (4096 * r.1) (4096 * r.2)).any fun u => (d.home e.ns u).1 % 3 = k % 3

/-- A reset K ends the secure deallocates that lie on the Kerb (R397). With which status is not in the spec: Internal Error (DESIGN CHOICE,
log entry 32). One that is journalled is finished by the firmware; nothing more comes of one that is not. -/
def endSecure (d : Dev) (k : Nat) : Dev :=
  let due := d.media.erasures.filter fun x => !x.2.format && !x.2.ended && d.erasureAt x.2 k
  due.foldl (fun d (i, e) =>
    let d := d.modMedia fun m => { m with erasures := if e.journalled then AMap.upd m.erasures i fun e => { e with ended := true }
                                                       else AMap.drop m.erasures i }
    match d.inflightOf e.queue e.cid with
    | some { command := .delete .., .. } => d.finishPort e.queue e.cid .internalError
    | _ => d.finish e.queue e.cid .internalError) d

/-- Reset K of a Kerb (R231, R234, R57). Programs in flight wait to be repeated; an erase in flight is never resumed, and its
block groups are erased again. -/
def kerbReset (d : Dev) (k : Nat) : Dev :=
  let d := (d.amendsOver (fun s => s.kind = .kerb && s.index = k) .scopeBusy 0x14).endSecure k
  let d := (d.resetRegs 'K' (kerbScope k)).fadd (Reg.KERB_STAT k) Fld.KERB_STAT_K_RESETS 1
  let d := d.jobs.foldl (fun d j =>
    let mine (o : DieOp) : Bool := o.purpose = .passage j.1 j.2.turn
    let here := j.2.stage = 6 && (d.kerb k).dies.any fun x => (x.2.busy.toList ++ x.2.suspended.toList ++ x.2.queue).any mine
    if here then d.repeatBatch j.1 else d) d
  let die (x : Die) : Die :=
    let again := match x.busy, x.suspended with
      | some o, some r => [o, r]
      | some o, none => [o]
      | none, some r => [r]
      | none, none => []
    let keep (o : DieOp) : Bool := o.kind ≠ .read || (match o.purpose with
      | .hostRead _ => true
      | .relocate _ => true
      | .text .. | .gather .. => true
      | _ => false)
    { x with busy := none, suspended := none, resume := false,
             queue := ((again ++ x.queue).filter keep).map fun o => { o with since := 0, suspends := 0 } }
  let busy := d.workAt k
  let swept := (d.kerb k).qblocks.filter fun b => b.sweep && b.admitted
  let left (b : QBlock) : QBlock := if b.sweep then b else { b with queries := b.queries.filter fun q => !busy.contains q.query }
  let d := d.modKerb k fun x =>
    { x with resetting := true, cache := [], dies := x.dies.map fun y => (y.1, die y.2),
             qblocks := ((x.qblocks.filter fun b => b.sweep || !b.admitted).map left).filter fun b => !b.queries.isEmpty }
  let d := busy.foldl (fun d q => d.restartQuery k q) d
  let d := swept.foldl (fun d b => match d.qblock k b.id with
    | some b => d.restartSweepBlock k b
    | none => d) d
  d.afterKerb k

/-- A fault of a Kerb's own units (R233, R238): cause 0 channel controller, 1 page cache, 2 query SRAM, 3 heap, 4 watchdog. -/
def kerbError (d : Dev) (k cause location : Nat) : Dev :=
  let first := bits (d.reg (Reg.KERB_ERR k)) 0 6 = 0
  let d := d.setError (Reg.KERB_ERR k) cause 6 6
  if first then d.setReg (Reg.KERB_ERR_LOC k) (setBits (setBits (location % 2 ^ 26) 5 3 0) 26 6 0) else d

/-! The flush (R398, R497). -/

/-- The operations on the dies stop: erases and reads are abandoned. -/
def stopDies (d : Dev) : Dev :=
  { d with kerbs := d.kerbs.map fun x => (x.1, { x.2 with dies := x.2.dies.map fun y =>
      (y.1, { y.2 with busy := none, suspended := none, resume := false, queue := [] }) }) }

/-- Every program that waits is done, in order: programs, pages not yet full, units that wait for room. -/
def drainBuffer (d : Dev) : Nat → Dev
  | 0 => d
  | n + 1 =>
    match d.media.programs with
    | p :: _ => (d.programmed p .flush).drainBuffer n
    | [] => match d.media.partials with
      | (key, us) :: _ =>
        let d := d.modMedia fun m => { m with partials := AMap.drop m.partials key }
        (match us with
          | u :: _ => d.addProgram ⟨u.loc.group, u.loc.member, u.loc.bg, u.loc.page, false, true, us⟩ .flush
          | [] => d).drainBuffer n
      | [] =>
        if d.media.unplaced.isEmpty then d
        else
          let d := d.drainUnplaced
          if d.media.programs.isEmpty && d.media.partials.isEmpty then d else d.drainBuffer n

/-- Rows that members of an open superblock have programmed in part get their parity, over the members programmed (R398). -/
def flushParity (d : Dev) : Dev :=
  (d.media.sbs.filter fun x => x.2.state = .open).foldl (fun d (k, s) =>
    let g := k / 2048
    let b := k % 2048
    let top := s.programmed.foldl (fun n p => if some p.1 = s.parity then n else max n p.2) 0
    match s.parity.filter (d.memberOk g b) with
    | none => d
    | some p =>
      let d := (List.range (top - s.parityRows)).foldl (fun d i =>
        d.addProgram ⟨g, p, b, s.parityRows + i, true, true, []⟩ .flush) d
      d.modSb g b fun s => { s with parityRows := max top s.parityRows }) d

/-- The rows of an open superblock are closed: what no member has programmed of them stays unmapped. -/
def closeRows (d : Dev) : Dev :=
  d.modMedia fun m => { m with sbs := m.sbs.map fun (k, s) =>
    if s.state = .open then
      let top := s.programmed.foldl (fun n p => max n p.2) 0
      (k, { s with cursors := (List.range 16).map fun i => (i, max top (AMap.get s.cursors i 0)),
                   programmed := (List.range 16).map fun i => (i, max top (AMap.get s.programmed i 0)), parityRows := top })
    else (k, s) }

/-- The end of a flush: the journal reaches flash, and CLEAN_SHUTDOWN is written. Its duration is a free value. -/
def endFlush (d : Dev) : Dev :=
  let d := (d.stopDies.closeRows.journalPut .cleanShutdown).programJournal
  let d := d.modMedia fun m => { m with cleanShutdown := true, clean := [], flushing := false }
  let (t, d) := d.draw
  let us := t.toNat % 2 ^ 16
  let d := d.fset Reg.FTL_FLUSH Fld.FTL_FLUSH_LAST_10US us
  let d := d.fset Reg.FTL_FLUSH Fld.FTL_FLUSH_MAX_10US (max us (d.fget Reg.FTL_FLUSH Fld.FTL_FLUSH_MAX_10US))
  d.fadd Reg.FTL_FLUSH Fld.FTL_FLUSH_FLUSHES 1

/-- A flush on main power, in one step (DESIGN CHOICE, log entry 51). -/
def flushMedia (d : Dev) : Dev :=
  let d := d.modMedia fun m => { m with acks := [], victims := [], rewrites := [], flushing := true }
  ((d.stopDies.drainBuffer (2 ^ 20)).flushParity.drainBuffer (2 ^ 20)).endFlush

/-- Every association ends and the links go down, without completions. -/
def closeGates (d : Dev) : Dev :=
  let d := d.resetRegs 'G' fun r _ => regRowsHif.any fun x => x.name = r.name
  let d := (List.range 2).foldl (fun d p => d.fset (Reg.HIF_PORT_STAT p) Fld.HIF_PORT_STAT_LINK_UP 0) d
  { d with host := { d.host with assocs := [], waiting := [], entryWaits := [], inflight := [], locks := [],
                                          lockWaiters := [] },
           queries := [], batches := [], passes := [], sweepLeft := [], changes := [], staleIds := [],
           media := { d.media with stale := [] } }

/-- Every command in a block ends without a completion. -/
def dropSlots (d : Dev) : Dev :=
  d.blocks.foldl (fun d x =>
    let d := match d.running x.1 with
      | some (_, y) => d.undefineOutputs x.1 y
      | none => d
    let d := (d.block x.1).slots.foldl (fun d s => cutDma d x.1 s.1 s.2) d
    ((d.block x.1).slots.foldl (fun d s => d.emptySlot x.1 s.1) d).clearTags x.1) d

/-- A controlled shutdown (R497): cause as SHUTDOWN_CAUSE codes it, and the error that led to it. -/
def shutDown (d : Dev) (cause code src detail : Nat) : Dev :=
  if d.contain.shutdown ≠ 0 || d.media.flushing || d.media.down then d
  else
    let d := d.logError src 0x43 code 3 0 src none 0 detail 0xFFFFFFFF
    let d := ({ d with contain := { d.contain with shutdown := cause } } : Dev).foff Reg.FTL_STAT Fld.FTL_STAT_READY
    let d := (d.fon Reg.CNT_CONTAIN Fld.CNT_CONTAIN_SHUTDOWN).fset Reg.CNT_CONTAIN Fld.CNT_CONTAIN_SHUTDOWN_CAUSE cause
    let d := (d.dropSlots.fadd Reg.CNT_ABORTS Fld.CNT_ABORTS_ABORTS 1)
    let d := { d with kerbs := d.kerbs.map (fun (k : Nat × Kerb) => (k.1, { k.2 with qblocks := [] })) }
    d.closeGates.flushMedia

/-! Quarantine (R494). -/

/-- The stack of an extent of T0. -/
def extentStack (e : Nat) : Nat := regionStack (e / 512)

/-- Objects with extents in stacks that meet a condition are lost (R370). -/
def loseObjects (d : Dev) (c : Nat → Bool) : Dev :=
  { d with place := { d.place with
      objs := d.place.objs.map fun (i, o) =>
        if o.tier ≠ 3 && o.extents.any fun e => decide (e / 512 < 768) && c (extentStack e) then (i, { o with lost := true, moving := none }) else (i, o),
      streams := d.place.streams.filter fun s => !c s.stack } }

/-- The trace starts again, empty, in stack 3 (R551). -/
def traceToStack3 (d : Dev) : Dev :=
  let d := { d with trace := { d.trace with records := [], left := 0 } }
  let d := (d.setReg Reg.TRC_STAT 0).setReg Reg.TRC_RD_PTR 0
  d.fon Reg.TRC_STAT Fld.TRC_STAT_IN_STACK3

/-- Queries at a stage that has a block in a quarter, whichever block their batch runs on (R297). -/
def stagedIn (d : Dev) (q : Nat) : List Nat :=
  ((d.queries.map (·.2)).filter fun x => match stageOf x.service x.phase, x.ahead with
    | some (_, _, e), _ => e.blocks.any fun g => g / 64 = q
    | none, some e => (d.batchOf x.id).isSome && e.blocks.any fun g => g / 64 = q
    | none, none => false).map (·.id)

/-- A quarter is quarantined, or the device shuts down when one already is (R494, R495). -/
def quarantine (d : Dev) (q code src detail : Nat) : Dev :=
  match d.contain.quarantined with
  | some p => if p = q then d else d.shutDown 1 code src detail
  | none =>
    if d.contain.shutdown ≠ 0 || d.media.flushing || d.media.down then d
    else
      let d := d.logError src 0x42 code 2 (letterCode 'A') src none 0 detail 0xFFFFFFFF
      let d := { d with contain := { d.contain with quarantined := some q } }
      let d := d.amendsOver (fun s => scopeInQuarter s q) .planMismatch 0x0B
      let d := (d.stagedIn q).foldl (fun d i => d.failQuery i .districtNotResident true) d
      let d := d.computeAbort [] src
      let d := (List.range 72).foldl (fun d p => d.awaitNoMore (72 * q + p)) d
      let d := (List.range 56).foldl (fun d u =>
        if linkQuarter u = q then d.linkLost u 0 else if secondQuarter u = q then d.linkLost u 1 else d) d
      let d := d.loseObjects fun s => s / 3 = q
      let d := d.jobs.foldl (fun d j =>
        if j.2.state = .running && d.jobBlocked j.2 then d.stopJob j.1 .districtNotResident else d) d
      let d := (d.annotate (.quarantine q)).fadd Reg.CNT_CONTAIN Fld.CNT_CONTAIN_QUARANTINES 1
      let d := if q = 0 then d.traceToStack3 else d
      d.driveStages

/-- Bytes that the extent and offset of a T0 or T1 region belong to: the object's INDEX and the byte offset in it. -/
def objectAt (d : Dev) (region address : Nat) : Option (Nat × Nat) :=
  let e := 512 * region + address / 2 ^ 21
  d.place.objs.findSome? fun (i, o) =>
    if o.tier ≤ 1 then (o.extents.findIdx? (· = e)).map fun n => (i, 2 ^ 21 * n + address % 2 ^ 21) else none

/-- An uncorrectable error in an extent that a move has still to copy: the move of its object is abandoned (R361). -/
def abandonMove (d : Dev) (region address : Nat) : Dev :=
  match d.objectAt region address with
  | some (i, o) => d.modObj i fun x => match x.moving with
    | some m => if m.nextExtent ≤ o / 2 ^ 21 then { x with moving := none } else x
    | none => x
  | none => d

/-- A line that stays uncorrectable is written again from the copy of a RESIDENT T0 object (R487, R359); the repair is
logged, under a code that the spec does not give. -/
def repairLine (d : Dev) (region address : Nat) : Dev :=
  match d.objectAt region address with
  | some (i, o) => match AMap.look d.place.objs i with
    | some x =>
      if x.tier = 0 && x.resident then
        let d := d.storeObj i (o / 64 * 64) (d.loadObj (handleIndex x.copyHandle) (o / 64 * 64) 64)
        let (code, d) := d.draw
        let src := srcStack (region / 64)
        d.logError src 0x40 (code.toNat % 2 ^ 16) 0 0 src (some x.district) address 0 region
      else d
    | none => d
  | none => d

/-- The district of the command whose read met an error. -/
def readerDistrict (d : Dev) (queue cid : Nat) : Option Nat :=
  if 8192 ≤ queue then (d.running (queue - 8192)).map fun x => x.2.district else d.districtFor queue cid

/-- The command whose read met an error ends with Unrecovered Read Error (R479, R480): the one of a host's queue, or with 8,192 + b the one
that block b runs, be it a stage's, a job's or an INGEST's. -/
def failReader (d : Dev) (queue cid : Nat) : Dev :=
  let slot := if 8192 ≤ queue then (d.running (queue - 8192)).map fun s => (queue - 8192, s, true) else d.blocks.findSome? fun (b, x) =>
    (x.slots.find? fun s => s.2.origin = .host queue cid).map fun s => (b, s, x.running = some s.1)
  match slot with
  | some (b, s, started) => (breakDmas d b s.1 s.2).endCommand b s.1 .unrecoveredReadError started
  | none =>
    let qs := d.queriesOf queue cid
    if !qs.isEmpty then qs.foldl (fun d q => d.failQuery q.id .unrecoveredReadError true) d
    else match d.inflightOf queue cid with
      | none => d
      | some x => match x.command with
        | .allocate h .. | .copyIn h .. | .copyOut h .. => d.endCopy x h .unrecoveredReadError
        | .flush .. | .write .. | .read .. | .writeZeroes .. | .deallocate .. | .secureDeallocate .. =>
          d.finish queue cid .unrecoveredReadError
        | _ => d.finishPort queue cid .unrecoveredReadError

/-- A channel of a stack fails (R493): it is copied into the spare, or the quarter is quarantined. -/
def spareChannel (d : Dev) (s c : Nat) : Dev :=
  let a := Reg.STK_SPARE s
  if d.fbit a Fld.STK_SPARE_USED || d.fbit a Fld.STK_SPARE_COPYING then d.quarantine (s / 3) 0x0503 (srcStack s) c
  else
    let d := (d.fset a Fld.STK_SPARE_CHANNEL c).fon a Fld.STK_SPARE_COPYING
    (d.annotate (.spareChannel s c)).logError (srcStack s) 0x40 0x0502 0 0 (srcStack s) none 0 c 0xFFFFFFFF

end Dev

/-! Meanings. -/

/-- The error field and the location of a cell's parity error. -/
def cellError (source entry column : Nat) (b : Nat) (d : Dev) (i : Nat) : Dev :=
  let first := bits (d.reg (Reg.CELL_ERR b i)) 0 6 = 0
  let d := d.setError (Reg.CELL_ERR b i) source 6 8
  if first then d.setReg (Reg.CELL_ERR_LOC b i) (entry % 2 ^ 16 + 2 ^ 16 * (column % 2 ^ 8)) else d

/-- The running command of a block ends because a cell failed, unless the error stands in a shadow buffer for a command that has not
started (R120, R122). -/
def cellStops (d : Dev) (b : Nat) (spares : Bool) : Dev :=
  match d.running b with
  | some (i, x) =>
    if spares then d
    else
      let d := ((cutDma d b i x).undefineOutputs b x).endCommand b i .computeAborted true
      d.fadd (Reg.BLK_ARRAY_ABORTS b) Fld.BLK_ARRAY_ABORTS_CELL_FAULT 1
  | none => d

/-- A cell is fenced, and a block with two fenced cells is retired (R122). -/
def cellFenced (d : Dev) (b c src : Nat) : Dev :=
  let d : Dev := d.amendsOver (fun s => s.kind = .cell && s.index = 4 * b + c) .planMismatch 0x0B
  let d : Dev := d.fence b c
  let n := ((d.block b).cells.filter (·.fenced)).length
  if n < 2 then d
  else
    let d : Dev := d.logFault src 0x0103 2 0 0
    d.retireBlock b

/-- A parity error of a cell; cell 4 stands for every cell in service at once, on the same broadcast row (R120 to R122,
R490). -/
def cellParityError (d : Dev) (b c source entry column : Nat) : Dev :=
  let live := (inService d b).map (·.1)
  let district := (d.running b).map fun x => x.2.district
  let src := d.srcOfBlock b
  if 5 < source then d
  else if 4 ≤ c then
    let d := live.foldl (cellError source entry column b) d
    if d.blockTesting b || live.isEmpty then d
    else
      let d := d.logError src 0x40 0x0102 2 (letterCode 'A') src district 0 0 0xFFFFFFFF
      d.computeAbort [b] src
  else if !live.contains c then d
  else
    let d := cellError source entry column b d c
    if d.blockTesting b then d
    else
      let spares : Bool := source = 1 && ((d.running b).isNone || (!shadowNeeded d b c && shadowAhead d b c))
      let d := d.logError src 0x40 0x0101 (if spares then 0 else 1) 0 src district 0 (entry + 2 ^ 16 * column) 0xFFFFFFFF
      let d := cellFenced (cellStops d b spares) b c src
      (d.driveStages).driveJobs

/-- A spare's self-test ends (R62, R63). -/
def spareSelfTestDone (d : Dev) (s : Nat) (passed : Bool) : Dev :=
  match d.contain.sparing.find? fun x => x.2 = s with
  | none => d
  | some (b, _) =>
    let d := { d with contain := { d.contain with sparing := d.contain.sparing.filter fun x => x.2 ≠ s } }
    let d := (d.endBlockTest s).modBlock s fun x => { x with selfTest := false }
    let d := if passed then { d with contain := { d.contain with spared := d.contain.spared ++ [(b, s)] } }.relieve b
      else ((d.annotateRetired s).modBlock s fun x => { x with role := .retired }).seekSpare b
    (d.driveStages).driveJobs

/-- An uncorrectable read of block memory (R490). -/
def blockMemoryUncorrectable (d : Dev) (b address : Nat) : Dev := d.blockFault b 0 0x0201 address

/-- A running command shows no progress for 10 ms (R491). -/
def sequencerWatchdog (d : Dev) (b : Nat) : Dev := if (d.running b).isNone then d else d.blockFault b 1 0x0202 0

/-- A block queue's integrity error (R490). -/
def queueIntegrityError (d : Dev) (b : Nat) : Dev := d.blockFault b 2 0x0203 0

/-- The abort ends: the blocks accept commands, and the faulty blocks are retired, but for those of a quarantined quarter
(R324, R498). -/
def computeAbortEnd (d : Dev) : Dev :=
  if !d.contain.abortActive then d
  else
    let bad := d.contain.faulty.filter fun b => !d.quarantined (b / 72)
    let d := { d with contain := { d.contain with abortActive := false, faulty := [] } }
    let d := bad.foldl (fun d b => d.retireBlock b) d
    let d := d.contain.spared.foldl (fun d x => d.relieve x.1) d
    (d.driveStages).driveJobs

/-- A corrected error of block memory (R487, R490): written back and counted; below an overflow it raises nothing. -/
def blockMemoryCorrected (d : Dev) (b : Nat) : Dev :=
  let d := d.fadd (Reg.BLK_ECC b) Fld.BLK_ECC_CORRECTED 1
  if d.blockTesting b then d else d.bucketAdd (4864 + b)

/-- A region's bucket leaks at the beats that are multiples of its LEAK_BEATS (R488). -/
def bucketLeak (d : Dev) (r : Nat) : Dev :=
  if d.beat % (d.eccOf r).2 = 0 then d.setBucket r (d.bucketLevel r - 1) else d

/-- The register of a T0 or T1 region's unit that counts what its decoders find. -/
def eccReg (r : Nat) : Nat := if r < 768 then Reg.STK_ECC (r / 64) else Reg.ARC_ECC ((r - 768) / 512)

/-- The patrol of a stack or Arcade goes through its lines in ascending order, so that the read of its last line ends a pass (DESIGN
CHOICE, log entry 73). -/
def endsPass (d : Dev) (r address : Nat) : Bool :=
  let gib := if r < 768 then d.fget (Reg.STK_STAT (r / 64)) Fld.STK_STAT_SIZE_GIB
    else 64 * ((List.range 8).filter fun i => bits (d.fget (Reg.ARC_STAT ((r - 768) / 512)) Fld.ARC_STAT_IN_SERVICE) i 1 = 1).length
  (if r < 768 then r % 64 else (r - 768) % 512) + 1 = gib && address / 64 = 2 ^ 24 - 1

/-- Patrol scrub reads a line of a region, in a slot that names activity [0] (R487). -/
def patrolScrub (d : Dev) (r address : Nat) (found : LineRead) : Dev :=
  if !d.slotNames 0 then d
  else if 4864 ≤ r then match found with
    | .good => d
    | .corrected => blockMemoryCorrected d (r - 4864)
    | .uncorrectable => blockMemoryUncorrectable d (r - 4864) address
  else
    let reg := eccReg r
    let d := if endsPass d r address then d.fadd reg Fld.STK_ECC_SCRUB_PASSES 1 else d
    match found with
    | .good => d
    | .corrected => (d.fadd reg Fld.STK_ECC_CORRECTED 1).bucketAdd r
    | .uncorrectable =>
      let src := d.regionSource r
      let d := d.fadd reg Fld.STK_ECC_UNCORR 1
      let d := d.logError src 0x40 (if r < 768 then 0x0501 else 0x0504) 1 0 src none address 0 r
      (d.abandonMove r address).repairLine r address

/-- An uncorrectable read of T0; a channel below 32 is the one it is traced to (R479, R492, R493). -/
def stackReadUncorrectable (d : Dev) (s c address queue cid : Nat) : Dev :=
  let src := srcStack s
  let r := 64 * s + address / 2 ^ 30
  let d := (d.fadd (Reg.STK_ECC s) Fld.STK_ECC_UNCORR 1).fadd Reg.CNT_CONTAIN_CNT Fld.CNT_CONTAIN_CNT_UNCORR_MEM 1
  let d := d.logError src 0x40 0x0501 1 0 src (d.readerDistrict queue cid) address c r
  let d := ((d.failReader queue cid).abandonMove r (address % 2 ^ 30)).repairLine r (address % 2 ^ 30)
  ((if c < 32 then d.spareChannel s c else d).driveStages).driveJobs

/-- The copy of a channel ends: reads switch to the spare (R493). -/
def spareCopyDone (d : Dev) (s : Nat) : Dev :=
  let a := Reg.STK_SPARE s
  if d.fbit a Fld.STK_SPARE_COPYING then (d.foff a Fld.STK_SPARE_COPYING).fon a Fld.STK_SPARE_USED else d

/-- An uncorrectable read of T1 (R496). -/
def lpddrReadUncorrectable (d : Dev) (a address queue cid : Nat) : Dev :=
  let src := srcArcade a
  let d := (d.fadd (Reg.ARC_ECC a) Fld.ARC_ECC_UNCORR 1).fadd Reg.CNT_CONTAIN_CNT Fld.CNT_CONTAIN_CNT_UNCORR_MEM 1
  let r := 768 + 512 * a + address / 2 ^ 30
  let d := d.logError src 0x40 0x0504 1 0 src (d.readerDistrict queue cid) address 0 r
  (((d.failReader queue cid).abandonMove r (address % 2 ^ 30)).driveStages).driveJobs

/-- Link retries, counted in units of 1,024 (R502). -/
def countRetries (d : Dev) (n : Nat) : Dev :=
  let t := d.contain.retries + n
  { d.fadd Reg.CNT_CONTAIN_CNT Fld.CNT_CONTAIN_CNT_LINK_RETRY (t / 1024) with contain := { d.contain with retries := t % 1024 } }

/-- An Avenue flit CRC failure, with the retries it took and the lanes of the link direction that have failed so far (R492). -/
def avenueFlitCrc (d : Dev) (q retries lanes : Nat) : Dev :=
  let d := countRetries d retries
  let known := AMap.get d.contain.lanes q 0
  let src := d.srcSquare
  let d := { d with contain := { d.contain with lanes := AMap.put d.contain.lanes q (max known lanes) } }
  if 3 ≤ lanes then d.quarantine q 0x0403 src lanes
  else if known < lanes then d.logError src 0x40 0x0402 0 0 src none 0 lanes 0xFFFFFFFF
  else d.logError src 0x40 0x0401 0 0 src none 0 retries 0xFFFFFFFF

/-- An uncorrectable error of a router buffer or stack controller, or of the quarter's Boulevard stop (R492). -/
def routerUncorrectable (d : Dev) (q : Nat) (stop : Bool) : Dev := d.quarantine q (if stop then 0x0407 else 0x0404) d.srcSquare 0

/-- A Boulevard flit CRC failure, with the lanes of the segment direction that have failed so far (R496). -/
def boulevardCrc (d : Dev) (segment lanes : Nat) : Dev :=
  let d := countRetries d 1
  let src := d.srcSquare
  let d := { d with contain := { d.contain with lanes := AMap.put d.contain.lanes (8 + segment) lanes } }
  if 5 ≤ lanes then d.shutDown 2 0x0602 src segment
  else d.logError src 0x40 0x0601 0 0 src none 0 (if lanes = 0 then segment else lanes) 0xFFFFFFFF

/-- An uncorrectable error of an Arcade's logic, or its watchdog (R496). -/
def arcadeFault (d : Dev) (a : Nat) : Dev := d.shutDown 3 0x0605 (srcArcade a) 0

/-- A Kerb fault (R225, R233, R238). -/
def kerbFault (d : Dev) (k cause location : Nat) : Dev :=
  if 4 < cause then d
  else
    let d := d.kerbError k cause location
    if d.kerbTesting k then d
    else
      let src := srcKerb k
      let hard := cause ≠ 1
      let d := d.logError src 0x40 (0x0301 + cause) (if hard then 2 else 0) (if hard then letterCode 'K' else 0) src none 0
        location 0xFFFFFFFF
      if hard then d.kerbReset k
      else
        match (d.kerb k).cache[bits location 8 18]? with
        | some p => d.cacheDropWhere k fun x => x = p
        | none => d

/-- A Kerb returns from reset K on the other of its links; one whose checkers failed is offline (R234, R500). -/
def kerbResetDone (d : Dev) (k : Nat) (passed : Bool) : Dev :=
  if !(d.kerb k).resetting then d
  else if !passed then
    ((d.endKerbTest k).modKerb k fun x => { x with resetting := false, homeUp := false, secondUp := false }).kerbOffline k
  else
    let d := (d.endKerbTest k).modKerb k fun x =>
      { x with resetting := false, link := if (if x.link = 0 then x.secondUp else x.homeUp) then 1 - x.link else x.link }
    d.issueAll

/-- An uncorrectable error on the active link of a Kerb or an Arcade (R20, R233). -/
def linkError (d : Dev) (arcade : Bool) (unit : Nat) : Dev :=
  if arcade then
    let link := d.fget (Reg.ARC_STAT unit) Fld.ARC_STAT_LINK
    let (code, d) := d.draw
    let d := d.logError (srcArcade unit) 0x40 (code.toNat % 2 ^ 16) 0 0 (srcArcade unit) none 0 link 0xFFFFFFFF
    let d := d.linkLost (48 + unit) link
    if d.arcadeLinkUp unit false || d.arcadeLinkUp unit true then d else d.shutDown 3 0x0605 (srcArcade unit) 0
  else
    let x := d.kerb unit
    let d := d.kerbError unit 5 0
    let other := if x.link = 0 then x.secondUp else x.homeUp
    let d := d.logError (srcKerb unit) 0x40 0x0306 (if other then 0 else 2) 0 (srcKerb unit) none 0 x.link 0xFFFFFFFF
    d.linkLost unit x.link

/-- A command boundary of a block (R134); a failed block then gives way (R121). -/
def execCommandBoundary (b : Nat) (s : State) : Host.Outcome State Fault Refusal :=
  effect (fun d => (((d.boundary b).relieve b).driveStages).driveJobs) s

def execCellParityError (block cell source entry column : Nat) (s : State) : Host.Outcome State Fault Refusal :=
  effect (fun d => cellParityError d block cell source entry column) s
def execSpareSelfTestDone (block : Nat) (passed : Bool) (s : State) : Host.Outcome State Fault Refusal :=
  effect (fun d => spareSelfTestDone d block passed) s
def execBlockMemoryUncorrectable (block address : Nat) (s : State) : Host.Outcome State Fault Refusal :=
  effect (fun d => blockMemoryUncorrectable d block address) s
def execSequencerWatchdog (block : Nat) (s : State) : Host.Outcome State Fault Refusal :=
  effect (fun d => sequencerWatchdog d block) s
def execQueueIntegrityError (block : Nat) (s : State) : Host.Outcome State Fault Refusal :=
  effect (fun d => queueIntegrityError d block) s
def execComputeAbortEnd (s : State) : Host.Outcome State Fault Refusal := effect (fun d => computeAbortEnd d) s
/-- The address of a corrected error is not kept: nothing of it shows (R488). -/
def execBlockMemoryCorrected (block _address : Nat) (s : State) : Host.Outcome State Fault Refusal :=
  effect (fun d => blockMemoryCorrected d block) s
def execBucketLeak (region : Nat) (s : State) : Host.Outcome State Fault Refusal := effect (fun d => bucketLeak d region) s
def execPatrolScrub (region address : Nat) (found : LineRead) (s : State) : Host.Outcome State Fault Refusal :=
  effect (fun d => patrolScrub d region address found) s
def execStackReadUncorrectable (stack channel address queue cid : Nat) (s : State) : Host.Outcome State Fault Refusal :=
  effect (fun d => stackReadUncorrectable d stack channel address queue cid) s
def execSpareCopyDone (stack : Nat) (s : State) : Host.Outcome State Fault Refusal := effect (fun d => spareCopyDone d stack) s
def execLpddrReadUncorrectable (arcade address queue cid : Nat) (s : State) : Host.Outcome State Fault Refusal :=
  effect (fun d => lpddrReadUncorrectable d arcade address queue cid) s
def execAvenueFlitCrc (quarter retries failingLanes : Nat) (s : State) : Host.Outcome State Fault Refusal :=
  effect (fun d => avenueFlitCrc d quarter retries failingLanes) s
def execRouterUncorrectable (quarter : Nat) (boulevardStop : Bool) (s : State) : Host.Outcome State Fault Refusal :=
  effect (fun d => routerUncorrectable d quarter boulevardStop) s
def execBoulevardCrc (segment failingLanes : Nat) (s : State) : Host.Outcome State Fault Refusal :=
  effect (fun d => boulevardCrc d segment failingLanes) s
def execArcadeFault (arcade : Nat) (s : State) : Host.Outcome State Fault Refusal := effect (fun d => arcadeFault d arcade) s
def execKerbFault (kerb cause location : Nat) (s : State) : Host.Outcome State Fault Refusal :=
  effect (fun d => kerbFault d kerb cause location) s
def execKerbResetDone (kerb : Nat) (passed : Bool) (s : State) : Host.Outcome State Fault Refusal :=
  effect (fun d => kerbResetDone d kerb passed) s
def execLinkError (arcade : Bool) (unit : Nat) (s : State) : Host.Outcome State Fault Refusal :=
  effect (fun d => linkError d arcade unit) s

end Sys2Proof.Machine
end

