-- ==== Sys2Proof/Machine/Power.lean ====
section
/-! DEFINITION. Beats and metering (R321, R341, R342, R448, R460), sensors (R458, R459, R574), the adaptive loops (R464 to R473)
and the protection loops (R475 to R477). -/

namespace Sys2Proof.Machine

namespace Dev

/-! Bounds (R464, R465). -/

/-- The cap of the power state (R436). -/
def stateCap (ps : Nat) : Nat := match ps with
  | 0 => 1600
  | 1 => 1100
  | 2 => 700
  | 3 => 220
  | _ => 60

/-- The effective device cap: the lower of the plan's and the power state's (R436). -/
def deviceCap (d : Dev) : Nat := min d.plan.caps.deviceW (stateCap d.power.ps)

/-- The protection loops that act on a quarter's clock: by its die's sensor and its rail's (R475). -/
def quarterOverrides (d : Dev) (q : Nat) : List Override :=
  d.power.overrides.filter fun o => o.unit = 32 + q || o.unit = 1 + q

/-- A quarter's caps and clock bounds (R464). While a protection loop acts on it they are those in force as it began to (R476). -/
def quarterRecord (d : Dev) (q : Nat) : QuarterCaps :=
  match (d.quarterOverrides q).findSome? fun o => if o.releasing then none else o.caps with
  | some c => c
  | none => AMap.get d.plan.quarterCaps q ⟨d.plan.caps.quarterW, d.plan.caps.floorMhz, d.plan.caps.ceilMhz⟩

/-- Floor and ceiling of a quarter's clock, and whether the floor had to be lowered to the ceiling (R465). -/
def clockBounds (d : Dev) (q : Nat) : Nat × Nat × Bool :=
  let c := d.quarterRecord q
  let ceil := if d.power.ps = 1 then min c.ceilMhz 500 else c.ceilMhz
  (min c.floorMhz ceil, ceil, decide (ceil < c.floorMhz))

def conflict (d : Dev) (loop : Nat) : Dev := d.fadd (Reg.PWR_LOOP loop) Fld.PWR_LOOP_CONFLICTS 1

/-! Clocks. -/

/-- The effective clock: the setting of QUARTER_DVFS under every override, the lowest (R475, R476). -/
def setClock (d : Dev) (q : Nat) : Dev :=
  let t := d.fget (Reg.PWR_QTR q) Fld.PWR_QTR_TARGET_MHZ
  d.fset (Reg.PWR_QTR q) Fld.PWR_QTR_FREQ_MHZ ((d.quarterOverrides q).foldl (fun f o => min f o.applied) t)

/-- A new setting of QUARTER_DVFS, with its voltage: between 600 and 850 mV (R459), otherwise a free value. -/
def setTarget (d : Dev) (q f : Nat) : Dev :=
  if f = d.fget (Reg.PWR_QTR q) Fld.PWR_QTR_TARGET_MHZ then d
  else
    let (v, d) := d.draw
    let d := d.fset (Reg.PWR_QTR q) Fld.PWR_QTR_VDD_MV (600 + v.toNat % 251)
    (d.fset (Reg.PWR_QTR q) Fld.PWR_QTR_TARGET_MHZ f).setClock q

/-! Metering (R321, R342, R460, R469). -/

/-- One unit's energy goes to the districts by their work on it, in whole µJ; the rest is what the result gives. -/
def divideEnergy (d : Dev) (unit uj : Nat) : Dev × Nat :=
  let work (x : Nat) : Nat := AMap.get d.power.basis (16 * unit + x) 0
  let total := ((List.range 16).map work).sum
  if total = 0 then (d, uj)
  else
    (List.range 16).foldl (fun (acc : Dev × Nat) x =>
      let n := uj * work x / total
      if n = 0 then acc
      else
        let d := acc.1.fadd (Reg.CNT_DIST_ENERGY x) Fld.CNT_DIST_ENERGY_UJ n
        let beatUj := AMap.put d.power.beatUj x (AMap.get d.power.beatUj x 0 + n)
        ({ d with power := { d.power with beatUj := beatUj } }, acc.2 - n)) (d, uj)

/-- Enabled districts whose energy in this beat has reached ENERGY_CAP_MW × the beat period are stopped (R321). -/
def throttle (d : Dev) : Dev :=
  (List.range 16).foldl (fun d x =>
    let e := d.district x
    if e.enable && !d.power.throttled.contains x
        && decide (e.energyCapMw * d.plan.timeBase.periodUs ≤ 1000 * AMap.get d.power.beatUj x 0) then
      let d := { d with power := { d.power with throttled := d.power.throttled ++ [x] } }
      d.fadd (Reg.CNT_DIST_THROTTLE x) Fld.CNT_DIST_THROTTLE_BEATS 1
    else d) d

/-- Power of a rail: mV × 10 mA, in units of 10 µW. -/
def railPower (d : Dev) (r : Nat) : Nat := d.fget (Reg.PWR_RAIL r) Fld.PWR_RAIL_MV * d.fget (Reg.PWR_RAIL r) Fld.PWR_RAIL_CURRENT

/-- Whether a part exceeds its cap: 0 to 3 a quarter at its floor, 4 the stacks, 5 the Kerbs, 6 flash, 7 the Arcades, 8 the
device (R469). Parts are metered at their rails (R459). -/
def exceeds (d : Dev) (key : Nat) : Bool :=
  let c := d.plan.caps
  let above (rails : List Nat) (watts : Nat) : Bool := decide (100000 * watts < (rails.map d.railPower).sum)
  match key with
  | 4 => above [5] c.stackW
  | 5 => above [6] c.kerbW
  | 6 => above [7, 8] c.flashW
  | 7 => above [9, 10] c.arcadeW
  | 8 => above [0] d.deviceCap
  | q => decide (d.fget (Reg.PWR_QTR q) Fld.PWR_QTR_FREQ_MHZ ≤ (d.clockBounds q).1) && above [1 + q] (d.quarterRecord q).capW

/-- An interval in which quarters are gated counts (R469). -/
def countGated (d : Dev) : Dev := (List.range 4).foldl (fun d q =>
  if AMap.get d.power.gates q 0 = 0 then d else d.fadd (Reg.PWR_QTR q) Fld.PWR_QTR_GATED_US 16) d

/-- The POWER_CAP loop: one more district gated for each interval of an excess, and one fewer otherwise (R469). Frozen, it holds the gating
that it has and counts no conflict (R466). -/
def powerCap (d : Dev) : Dev :=
  if d.frozen then d.countGated
  else
    let level (k : Nat) : Nat :=
      let n := AMap.get d.power.gates k 0
      if d.exceeds k then min 16 (n + 1) else n - 1
    let gates : AMap Nat := ((List.range 9).map fun k => (k, level k)).filter fun x => x.2 ≠ 0
    let d := ({ d with power := { d.power with gates := gates } } : Dev).countGated
    let d := d.fset Reg.PWR_STAT Fld.PWR_STAT_GATING (decide (gates ≠ [])).toNat
    if gates.isEmpty then d else d.conflict 7

/-! Protection loops (R475 to R477). -/

/-- The trip temperature of a sensor, in 1/16 °C. -/
def tripAt (s : Nat) : Option Nat :=
  if 32 ≤ s && s ≤ 35 then some 1760
  else if 36 ≤ s && s ≤ 83 then some 1680
  else if 96 ≤ s && s ≤ 107 then some 1520
  else if 128 ≤ s && s ≤ 223 then some 1360
  else none

/-- Current limits of the rails, in 10 mA (R459). -/
def railLimits : List Nat := [3200, 25000, 25000, 25000, 25000, 30000, 26000, 6400, 3200, 6000, 8400, 7000, 2400, 4000]

/-- Nominal voltages of the rails, in mV (R459); a quarter's core rail has the set point of its loop. -/
def nominal (d : Dev) (r : Nat) : Nat :=
  if 1 ≤ r && r ≤ 4 then d.fget (Reg.PWR_QTR (r - 1)) Fld.PWR_QTR_VDD_MV
  else ([54000, 0, 0, 0, 0, 1100, 800, 2500, 1200, 750, 1050, 800, 800, 54000][r]?).getD 0

def tempOf (d : Dev) (s : Nat) : Int := toSigned 16 (d.fget (Reg.PWR_TEMP s) Fld.PWR_TEMP_TEMP)

/-- The quarter whose clock a sensor's overrides act on. -/
def clockQuarter (s : Nat) : Option Nat :=
  if 32 ≤ s && s ≤ 35 then some (s - 32) else if 1 ≤ s && s ≤ 4 then some (s - 1) else none

def override (d : Dev) (loop unit : Nat) : Option Override := d.power.overrides.find? fun o => o.loop = loop && o.unit = unit

/-- Registers that say which protection loops act. -/
def showOverrides (d : Dev) : Dev :=
  let acting (l : Nat) : Bool := d.power.overrides.any fun o => o.loop = l && !o.releasing
  let d := [8, 9, 10].foldl (fun d l => d.fset (Reg.PWR_LOOP l) Fld.PWR_LOOP_ACTIVE (acting l).toNat) d
  d.fset Reg.PWR_STAT Fld.PWR_STAT_OVERRIDE ([8, 9, 10].any acting).toNat

/-- A protection loop starts to act on a unit. On a quarter it lowers the clock; on another unit it gates or halves, which
has no setting that software reads: BOUND and APPLIED of its record are free values. -/
def startOverride (d : Dev) (loop unit clock measured : Nat) : Dev :=
  if (d.override loop unit).any fun o => !o.releasing then d
  else
    let (bound, applied, d) : Nat × Nat × Dev := match clockQuarter unit with
      | some q => ((d.clockBounds q).1, clock, d)
      | none =>
        let (a, d) := d.draw
        let (b, d) := d.draw
        (a.toNat % 2 ^ 32, b.toNat % 2 ^ 32, d)
    let rest := d.power.overrides.filter fun o => !(o.loop = loop && o.unit = unit)
    let o : Override := { loop := loop, unit := unit, bound := bound, applied := applied, caps := (clockQuarter unit).map d.quarterRecord }
    let d := { d with power := { d.power with overrides := rest ++ [o] } }
    let d := d.fadd (Reg.PWR_LOOP loop) Fld.PWR_LOOP_OVERRIDES 1
    let d := match clockQuarter unit with
      | some q => d.setClock q
      | none => d
    d.showOverrides.logOverride 0x50 loop (srcSensor unit) bound applied measured

/-- Every override of a loop and unit changed, or removed. -/
def modOverride (d : Dev) (loop unit : Nat) (f : Override → Option Override) : Dev :=
  let g (o : Override) : Option Override := if o.loop = loop && o.unit = unit then f o else some o
  let d := { d with power := { d.power with overrides := d.power.overrides.filterMap g } }
  let d := match clockQuarter unit with
    | some q => d.setClock q
    | none => d
  d.showOverrides

/-- What a protection loop measures at a unit: 1/16 °C, 10 mA or mV. -/
def measured (d : Dev) (loop unit : Nat) : Nat := match loop with
  | 8 => ofSigned 32 (d.tempOf unit)
  | 9 => d.fget (Reg.PWR_RAIL unit) Fld.PWR_RAIL_CURRENT
  | _ => d.fget (Reg.PWR_RAIL unit) Fld.PWR_RAIL_MV

/-- Whether the release condition of a protection loop holds at the last sample. -/
def releases (d : Dev) (loop unit : Nat) : Bool := match loop with
  | 8 => match tripAt unit with
    | some t => decide (d.tempOf unit ≤ (t : Int) - 160)
    | none => false
  | 9 => decide (10 * d.measured 9 unit < 9 * (railLimits[unit]?).getD 0)
  | 10 => decide (97 * d.nominal unit < 100 * d.measured 10 unit)
  | _ => false

/-! Temperatures (R574). -/

def kelvin (t : Int) : Int := t / 16 + 273

/-- The over-temperature and under-temperature thresholds of the Temperature Threshold feature, in kelvin. -/
def overAt (d : Dev) : Nat := AMap.get d.host.current 0x04 333
def underAt (d : Dev) : Nat := AMap.get d.host.current 0x104 278

def outside (d : Dev) (t : Int) : Bool := decide ((d.overAt : Int) ≤ kelvin t) || decide (kelvin t ≤ d.underAt)

/-- A coolant condition is logged; its code is not in the spec. -/
def coolantNotice (d : Dev) (s : Nat) : Dev :=
  let (c, d) := d.draw
  (d.logFault (srcSensor s) (c.toNat % 2 ^ 16) 0 0 (ofSigned 16 (d.tempOf s))).asyncVendor

/-- Coolant sensors are watched: the outlet against the thresholds, the inlet against 20 to 45 °C, and the rise. -/
def watchCoolant (d : Dev) (s : Nat) (was : Option Int) : Dev :=
  let t := d.tempOf s
  let d := if s = 17 && d.outside t && !(was.any d.outside) then d.asyncAll .smartHealth 0x02 (some 1) else d
  let badIn (t : Int) : Bool := decide (t < 320) || decide (720 < t)
  let d := if s = 16 && badIn t && !(was.any badIn) then d.coolantNotice 16 else d
  if s ≠ 16 && s ≠ 17 then d
  else if d.tempOf 17 ≤ d.tempOf 16 + 240 then { d with power := { d.power with riseSince := none } }
  else match d.power.riseSince with
    | none => { d with power := { d.power with riseSince := some (d.time.ns, false) } }
    | some (t0, told) =>
      if !told && decide (t0 + 10000000000 ≤ d.time.ns) then
        ({ d with power := { d.power with riseSince := some (t0, true) } }).coolantNotice 17
      else d

end Dev

/-! Meanings. -/

/-- A beat boundary passes (R321, R448, R460): stopped districts may start again, and the meters are reconciled to rail 0. -/
def beatStart (d : Dev) (watts railUj : Nat) : Dev :=
  let sum := d.power.meterUj
  let d := d.reach ((d.beat + 1) * d.period)
  let d := { d with power := { d.power with beatUj := [], meterUj := 0, throttled := [] } }
  let idle (j : Job) : Job := { j with cycles := 0 }
  let d := { d with jobs := d.jobs.map (fun (j : Nat × Job) => (j.1, idle j.2)) }
  let d := { d with squares := { d.squares with onNs := d.squares.onNs + d.period } }
  let d := d.fset Reg.PWR_STAT Fld.PWR_STAT_INPUT_W watts
  let off := (sum - railUj) + (railUj - sum)
  if 20 * off ≤ railUj then d
  else
    let (c, d) := d.draw
    (d.fon Reg.PWR_STAT Fld.PWR_STAT_METER_FAULT).logFault (srcSensor 0) (c.toNat % 2 ^ 16) 0 0 sum

/-- A metering interval of 16 µs (R321, R342, R469): the energy of busy cycles, pieces and bytes of each unit is divided among
the districts; what is left of the division, and all other energy, is charged to none. -/
def energyInterval (d : Dev) (bs ks ss xs : List (Nat × Nat)) (rest : Nat) : Dev :=
  let units := bs ++ ks.map (fun x => (288 + x.1, x.2)) ++ ss.map (fun x => (336 + x.1, x.2))
    ++ xs.map fun x => (348 + x.1, x.2)
  let (d, left) := units.foldl (fun (acc : Dev × Nat) x =>
    let (d, n) := acc.1.divideEnergy x.1 x.2
    (d, acc.2 + n)) (d, rest)
  let d := d.fadd Reg.CNT_ENERGY_UNATTR Fld.CNT_ENERGY_UNATTR_UJ left
  let sum := (units.map (·.2)).sum + rest
  let d := { d with power := { d.power with basis := [], meterUj := d.power.meterUj + sum } }
  d.throttle.powerCap

/-- At each beat that is a multiple of 4,096 the hotness of every object is halved (R362). -/
def hotnessDecay (d : Dev) : Dev :=
  if d.beat % 4096 ≠ 0 then d
  else
    let half (o : Obj) : Obj := { o with reads := o.reads / 2, writes := o.writes / 2 }
    { d with place := { d.place with objs := d.place.objs.map (fun (o : Nat × Obj) => (o.1, half o.2)) } }

/-- QUARTER_DVFS (R465 to R468): one 25 MHz step towards the highest clock that meets its conditions, within the bounds. -/
def quarterDvfs (d : Dev) (q : Nat) (temperature : Int) (watts : Nat) (work : Bool) : Dev :=
  if 4 ≤ q || d.frozen || d.quarantined q || 3 ≤ d.power.ps then d
  else
    let t := d.fget (Reg.PWR_QTR q) Fld.PWR_QTR_TARGET_MHZ
    let (floor, ceil, clash) := d.clockBounds q
    let want := if !work then max floor (t - 25)
      else if 1520 ≤ temperature || (d.quarterRecord q).capW < watts then max 350 (t - 25)
      else min 700 (t + 25)
    let d := if want < floor || ceil < want || clash then d.conflict 0 else d
    d.setTarget q (min ceil (max floor want))

/-- READ_THRESHOLD in a slot that names activity [2] (R467): a die's offset within ±THRESH_MAX_STEPS. -/
def readThreshold (d : Dev) (die : Nat) (offset : Int) (margin : Nat) : Dev :=
  if !d.slotNames 2 || d.frozen then d
  else
    let m : Int := d.plan.caps.threshMax
    let d := if offset < -m || m < offset then d.conflict 1 else d
    let set := AMap.put d.power.thresholds die (min m (max (-m) offset))
    { d with power := { d.power with thresholds := set, margins := AMap.put d.power.margins die margin } }

/-- WIDEN (R465, R471): the effective widening limit of each district falls or rises by one. -/
def widenLoop (d : Dev) (use : Nat) : Dev :=
  if d.frozen then d
  else
    let limit (x : Nat) : Nat := (d.district x).widenLimit
    let now (x : Nat) : Nat := AMap.get d.power.widenLimit x (limit x)
    let want (x : Nat) : Nat := if 85 < use then now x - 1 else if use < 60 then min 3 (now x + 1) else now x
    let lo (x : Nat) : Nat := min d.plan.caps.widenFloor (limit x)
    let live := (List.range 16).filter fun x => (d.district x).enable
    let d := if live.any fun x => want x < lo x || limit x < want x then d.conflict 3 else d
    let set := live.foldl (fun m x => AMap.put m x (min (limit x) (max (lo x) (want x)))) d.power.widenLimit
    { d with power := { d.power with widenLimit := set } }

/-- STACK_REFRESH (R472): by the stack's temperature, and never below REFRESH_MIN. -/
def stackRefresh (d : Dev) (s : Nat) : Dev :=
  if d.frozen || d.quarantined (s / 3) then d
  else
    let t := d.tempOf (96 + s)
    let rate := if t ≤ 1360 then 0 else if t ≤ 1520 then 1 else 2
    d.fset (Reg.STK_STAT s) Fld.STK_STAT_REFRESH (max rate d.plan.caps.refreshMin)

/-- The temperature sensors that the module has (R458). -/
def hasSensor (s : Nat) : Bool :=
  s = 16 || s = 17 || (decide (32 ≤ s) && decide (s ≤ 107)) || (decide (128 ≤ s) && decide (s ≤ 225))

/-- A sensor is sampled (R458, R478): a rail's voltage in mV and current in 10 mA, or a temperature in 1/16 °C. -/
def sensorSample (d : Dev) (s : Nat) (value : Int) (current : Nat) : Dev :=
  if s < 14 then
    let a := Reg.PWR_RAIL s
    let d := (d.fset a Fld.PWR_RAIL_MV value.toNat).fset a Fld.PWR_RAIL_CURRENT current
    let d := if s = 0 && 51000 ≤ value && value ≤ 57000 then { d with pins := { d.pins with vinOut := false } } else d
    d.fset a Fld.PWR_RAIL_PEAK (max (d.fget a Fld.PWR_RAIL_PEAK) (d.fget a Fld.PWR_RAIL_CURRENT))
  else if !hasSensor s then d
  else
    let a := Reg.PWR_TEMP s
    let was := if d.fbit a Fld.PWR_TEMP_VALID then some (d.tempOf s) else none
    let d := ((d.fset a Fld.PWR_TEMP_TEMP (ofSigned 16 value)).fon a Fld.PWR_TEMP_VALID)
    let top := max (toSigned 16 (d.fget a Fld.PWR_TEMP_MAX)) (d.tempOf s)
    let d := (d.fset a Fld.PWR_TEMP_MAX (ofSigned 16 top)).watchCoolant s was
    if 32 ≤ s && s ≤ 35 && 1920 ≤ d.tempOf s then d.quarantine (s - 32) 0x0405 (srcSensor s) (ofSigned 16 (d.tempOf s)) else d

/-- THERMAL_TRIP (R475). -/
def thermalTrip (d : Dev) (s : Nat) : Dev :=
  match Dev.tripAt s with
  | some t => if (t : Int) ≤ d.tempOf s then d.startOverride 8 s 350 (d.measured 8 s) else d
  | none => d

/-- OVER_CURRENT (R475): a quarter's clock is halved, to no less than 350 MHz; other rails have their starts gated. -/
def overCurrent (d : Dev) (r : Nat) : Dev :=
  match Dev.railLimits[r]? with
  | some limit =>
    if limit < d.measured 9 r then
      let f := match Dev.clockQuarter r with
        | some q => d.fget (Reg.PWR_QTR q) Fld.PWR_QTR_FREQ_MHZ / 2
        | none => 0
      d.startOverride 9 r (max 350 f) (d.measured 9 r)
    else d
  | none => d

/-- UNDER_VOLTAGE of rails 1 to 12 (R475). -/
def underVoltage (d : Dev) (r : Nat) : Dev :=
  if 1 ≤ r && r ≤ 12 && 100 * d.measured 10 r < 95 * d.nominal r then d.startOverride 10 r 350 (d.measured 10 r) else d

/-- The release condition has held for its time: the release is logged, and the setting begins to return (R475, R476). -/
def protectionRelease (d : Dev) (loop unit : Nat) : Dev :=
  match d.override loop unit with
  | some o =>
    if o.releasing || !d.releases loop unit then d
    else (d.modOverride loop unit fun o => some { o with releasing := true }).logOverride 0x51 loop (srcSensor unit) o.bound
      o.applied (d.measured loop unit)
  | none => d

/-- After a release the setting returns by one 25 MHz step, or one gating level (R476). -/
def rampStep (d : Dev) (loop unit : Nat) : Dev :=
  match d.override loop unit with
  | some o =>
    if !o.releasing then d
    else
      let next := o.applied + 25
      let full := match Dev.clockQuarter unit with
        | some q => decide (d.fget (Reg.PWR_QTR q) Fld.PWR_QTR_TARGET_MHZ ≤ next)
        | none => true
      d.modOverride loop unit fun o => if full then none else some { o with applied := next }
  | none => d

/-- A unit stays at its trip action for 10 s, or a rail low for 100 ms (R492, R496). -/
def holdTimeout (d : Dev) (loop unit : Nat) : Dev :=
  if !((d.override loop unit).any fun o => !o.releasing) then d
  else match loop, Dev.clockQuarter unit with
    | 8, some q => d.quarantine q 0x0405 (srcSensor unit) (d.measured 8 unit)
    | 8, none => d.shutDown 4 0x0608 (srcSensor unit) (d.measured 8 unit)
    | 10, some q => d.quarantine q 0x0406 (srcSensor unit) (d.measured 10 unit)
    | 10, none => d.shutDown 5 0x0609 (srcSensor unit) (d.measured 10 unit)
    | _, _ => d

def execBeatStart (inputWatts railMicrojoules : Nat) (s : State) : Host.Outcome State Fault Refusal :=
  effect (fun d => beatStart d inputWatts railMicrojoules) s
def execEnergyMeterInterval (blockUj kerbUj stackUj arcadeUj : List (Nat × Nat)) (other : Nat) (s : State) :
    Host.Outcome State Fault Refusal :=
  effect (fun d => energyInterval d blockUj kerbUj stackUj arcadeUj other) s
def execHotnessDecay (s : State) : Host.Outcome State Fault Refusal := effect (fun d => hotnessDecay d) s
def execQuarterDvfs (quarter : Nat) (temperature : Int) (watts : Nat) (work : Bool) (s : State) :
    Host.Outcome State Fault Refusal :=
  effect (fun d => quarterDvfs d quarter temperature watts work) s
def execReadThreshold (die : Nat) (offset : Int) (marginMv : Nat) (s : State) : Host.Outcome State Fault Refusal :=
  effect (fun d => readThreshold d die offset marginMv) s
def execWiden (usePercent : Nat) (s : State) : Host.Outcome State Fault Refusal := effect (fun d => widenLoop d usePercent) s
def execStackRefresh (stack : Nat) (s : State) : Host.Outcome State Fault Refusal := effect (fun d => stackRefresh d stack) s
def execSensorSample (sensor : Nat) (value : Int) (current : Nat) (s : State) : Host.Outcome State Fault Refusal :=
  effect (fun d => sensorSample d sensor value current) s
def execThermalTrip (sensor : Nat) (s : State) : Host.Outcome State Fault Refusal := effect (fun d => thermalTrip d sensor) s
def execOverCurrent (rail : Nat) (s : State) : Host.Outcome State Fault Refusal := effect (fun d => overCurrent d rail) s
def execUnderVoltage (rail : Nat) (s : State) : Host.Outcome State Fault Refusal := effect (fun d => underVoltage d rail) s
def execProtectionRelease (loop unit : Nat) (s : State) : Host.Outcome State Fault Refusal :=
  effect (fun d => protectionRelease d loop unit) s
def execOverrideRampStep (loop unit : Nat) (s : State) : Host.Outcome State Fault Refusal :=
  effect (fun d => rampStep d loop unit) s
def execProtectionHoldTimeout (loop unit : Nat) (s : State) : Host.Outcome State Fault Refusal :=
  effect (fun d => holdTimeout d loop unit) s

end Sys2Proof.Machine
end

