-- ==== Sys2Proof/Machine/Placement.lean ====
section
/-! DEFINITION. Placement (R347 to R364, R370, R474): the descriptor, allocation, copies, bindings, moves and restoration. -/

namespace Sys2Proof.Machine

/-- Bytes with others laid over them from an offset. -/
def overlay (old : List Byte) (o : Nat) (new : List Byte) : List Byte :=
  old.zipIdx.map fun (x, i) => if o ≤ i then (new[i - o]?).getD x else x

namespace Dev

/-! Capacity (R347, R348, R363, R483). -/

/-- GiB of T1 that the reserved regions of a set of namespaces take (R363). -/
def t1Reserved (nss : List NsDef) : Nat :=
  let map := (nss.map fun n => 4 * ceilDiv n.size (if n.mutable then 4096 else 65536)).sum
  let ids := ((nss.filter fun n => n.idShare = 0).map fun n => 2 * n.idCount).sum
  ceilDiv map (2 ^ 30) + ceilDiv ids (2 ^ 30) + 21

def popcount (n : Nat) : Nat := ((List.range 16).filter fun i => bits n i 1 = 1).length

/-- GiB of a stack or an Arcade in service. -/
def stackGib (d : Dev) (s : Nat) : Nat :=
  if d.quarantined (s / 3) || !d.fbit (Reg.STK_STAT s) Fld.STK_STAT_IN_SERVICE then 0
  else d.fget (Reg.STK_STAT s) Fld.STK_STAT_SIZE_GIB

def arcadeGib (d : Dev) (a : Nat) : Nat := 64 * popcount (d.fget (Reg.ARC_STAT a) Fld.ARC_STAT_IN_SERVICE)

/-- T0 present, and T1 present (R348). -/
def t0Present (d : Dev) : Nat := ((List.range 12).map d.stackGib).sum - 1
def t1Present (d : Dev) : Nat := ((List.range 8).map d.arcadeGib).sum

/-- GiB at the start of an Arcade that the reserved regions take (R363). -/
def arcadeReserved (d : Dev) (a : Nat) : Nat :=
  let r := t1Reserved d.plan.namespaces
  r / 8 + (if a < r % 8 then 1 else 0)

/-- The T0 reserved region: the first of stack 0, or of stack 3 while quarter 0 is quarantined. -/
def t0Reserved (d : Dev) : Nat := if d.quarantined 0 then 192 else 0

/-- Is a region LIGHT (R347)? A reserved region is always STRONG, also the one of stack 3 that a quarantine of quarter 0 reserves. -/
def regionLight (d : Dev) (r : Nat) : Bool :=
  r ≠ d.t0Reserved && match (d.plan.ecc.filter fun e => e.first ≤ r && r < e.first + e.count).getLast? with
  | some e => e.light
  | none => false

/-- The regions of a stack or Arcade open to objects of a class. -/
def regionsFor (d : Dev) (tier unit : Nat) (light : Bool) : List Nat :=
  let all := if tier = 0 then (List.range (d.stackGib unit)).map (64 * unit + ·)
    else ((List.range (d.arcadeGib unit)).drop (d.arcadeReserved unit)).map (768 + 512 * unit + ·)
  all.filter fun r => r ≠ d.t0Reserved && d.regionLight r = light

def usedExtents (d : Dev) : List Nat := d.place.objs.flatMap fun o => if o.2.tier = 3 then [] else o.2.extents

/-- Units of a tier that a mask allows, in ascending order. -/
def unitsUnder (mask n : Nat) : List Nat := (List.range n).filter fun i => mask = 0 || bits mask i 1 = 1

/-- The lowest free extent of a stack or Arcade for a class. -/
def freeExtent (d : Dev) (tier : Nat) (light : Bool) (taken : List Nat) (unit : Nat) : Option Nat :=
  (d.regionsFor tier unit light).findSome? fun r =>
    ((List.range 512).map (512 * r + ·)).find? fun e => !taken.contains e

/-- GiB of a lease not yet taken by objects, in extents. -/
def leaseRoom (d : Dev) (l : Nat) (taken : List Nat) : Nat :=
  match AMap.look d.place.leases l with
  | some x => 512 * x.gib - ((d.place.objs.flatMap fun o => if o.2.tier = 3 then o.2.extents else []) ++ taken).count l
  | none => 0

/-- Extents spread over units one at a time, from each in turn (R351); none when they do not fit. -/
def spread (units : List Nat) (take : List Nat → Nat → Option Nat) (n : Nat) : Option (List Nat) :=
  ((List.range n).foldl (fun (acc : Option (List Nat × List Nat)) _ => match acc with
    | none => none
    | some (got, order) =>
      match order.findIdx? fun u => (take got u).isSome with
      | none => none
      | some i => match order[i]?.bind (take got) with
        | some e => some (got ++ [e], order.drop (i + 1) ++ order.take (i + 1))
        | none => none) (some ([], units))).map (·.1)

def allocate (d : Dev) (tier : Nat) (light : Bool) (mask n : Nat) : Option (List Nat) :=
  match tier with
  | 3 =>
    let ls := (d.place.leases.filter fun l => l.2.borrower && l.2.state = .active && l.2.set = mask).map (·.1)
    spread ls (fun got l => if 0 < d.leaseRoom l got then some l else none) n
  | t =>
    let used := d.usedExtents
    spread (unitsUnder mask (if t = 0 then 12 else 8)) (fun got u => d.freeExtent t light (used ++ got) u) n

/-- The place of the next extent of a moving object: its extents are spread over the allowed units in turn, so that it follows the unit
of the one before (R351). -/
def nextPlace (d : Dev) (o : Obj) (m : Moving) : Option Nat :=
  let units := unitsUnder (if m.tier = 0 then o.moveT0 else o.moveT1) (if m.tier = 0 then 12 else 8)
  let unitOf (e : Nat) : Nat := if e / 512 < 768 then e / 512 / 64 else (e / 512 - 768) / 512
  let last : Option Nat := if m.nextExtent = 0 then none else (o.extents[m.nextExtent - 1]?).map unitOf
  let (after, rest) := match last with
    | some u => (units.filter fun x => u < x, units.filter fun x => x ≤ u)
    | none => (units, [])
  let used := d.usedExtents
  (after ++ rest).findSome? (d.freeExtent m.tier o.light used)

/-- Extents of a district's objects in a tier (R351). The extent in transit counts in both tiers (R360): it is in transit within the one
command that moves it. -/
def shareUsed (d : Dev) (dist tier : Nat) : Nat :=
  (d.place.objs.map fun o =>
    if o.2.district ≠ dist || o.2.tier = 3 then 0
    else (o.2.extents.filter fun e => (if e / 512 < 768 then 0 else 1) = tier).length).sum

def shareOf (d : Dev) (dist tier : Nat) : Nat := 512 * (if tier = 0 then (d.district dist).t0Gib else (d.district dist).t1Gib)

/-- The lowest free INDEX (R349). -/
def freeIndex (d : Dev) : Nat := d.place.objs.foldl (fun n o => if o.1 = n then n + 1 else n) 1

/-! Checks (R352, R353). -/

def stackMaskOk (d : Dev) (m : Nat) : Bool := m < 4096 && (unitsUnder m 12).all fun s => m = 0 || 0 < d.stackGib s
def arcadeMaskOk (d : Dev) (m : Nat) : Bool := m < 256 && (unitsUnder m 8).all fun a => m = 0 || 0 < d.arcadeGib a

/-- The move bounds of a descriptor for an object of a tier and kind. -/
def moveOk (d : Dev) (p : PlaceDesc) (tier kind : Nat) : Bool :=
  if p.movable then
    tier ≤ 1 && kind ≤ 1 && p.moveTiers ≤ 3 && bits p.moveTiers tier 1 = 1 && d.stackMaskOk p.moveT0 && d.arcadeMaskOk p.moveT1
  else p.noMove

/-- A range of a namespace lies in it. -/
def nsRange (d : Dev) (ns o n : Nat) : Except Status Unit :=
  match d.nsDef ns with
  | none => .error .invalidField
  | some x => need (decide (o + n ≤ x.size)) .lbaOutOfRange

/-- The other place of a copy of LENGTH bytes is well named: host memory, a namespace, another object, or zeros. -/
def sourceOk (d : Dev) (dist : Nat) (p : PlaceDesc) (out : Bool) (held : List Nat) : Except Status Unit :=
  match p.sourceKind with
  | 0 => need (!out && p.noSource && p.length = 0 && p.offset = 0)
  | 1 => .ok ()
  | 2 => do
    need (p.addr % 4096 = 0 && (d.nsDef p.key).isSome)
    d.nsRange p.key p.addr p.length
  | 3 => do
    need (p.key = 0)
    let o ← d.objCheck dist (tierHandle dist p.addr) held
    need (decide (tierOffset p.addr + p.length ≤ o.size))
  | 4 => need (!out && p.key = 0 && p.addr = 0)
  | _ => .error .invalidField

/-- The checks of ALLOCATE. A SIZE of 0 passes them all before it allocates nothing (R4). -/
def allocateCheck (d : Dev) (dist : Nat) (p : PlaceDesc) : Except Status Unit := do
  need (p.handle = 0 && (p.tier ≤ 1 || p.tier = 3) && p.kind ≤ 3 && (p.ecc = 1 || (p.ecc = 2 && p.tier ≠ 3)) && p.flags < 4
    && p.rsv = 0 && decide (p.size ≤ 2 ^ 36))
  need (match p.tier with
    | 0 => d.stackMaskOk p.region
    | 1 => d.arcadeMaskOk p.region
    | _ => p.region < 16)
  need (d.moveOk p p.tier p.kind)
  need (!p.resident || p.kind = 1)
  need (p.kind ≤ 1 || p.tier = 1)
  need (if p.resident && p.tier = 0 then
      (match d.objCheck dist p.copyHandle with
        | .ok o => o.tier = 1 && decide (p.size ≤ o.size)
        | .error _ => false)
    else p.copyHandle = 0)
  need (decide (p.offset + p.length ≤ roundUp p.size (2 ^ 21)))
  d.sourceOk dist p false []

/-! Copies (R356). -/

/-- The pieces of a byte range. -/
def rangePieces (o n : Nat) : List Nat := if n = 0 then [] else (List.range ((o + n - 1) / 4096 + 1 - o / 4096)).map (o / 4096 + ·)

/-- Does a copy touch T3 (R367)? -/
def touchesT3 (d : Dev) (names : List Nat) : Bool := names.any fun i => match AMap.look d.place.objs i with
  | some o => o.tier = 3
  | none => false

/-- The bytes a copy takes from its source, with the accounting of that side. -/
def copySource (d : Dev) (h : Hdr) (dist : Nat) (p : PlaceDesc) (src : Fetch) : Except Status (List Byte × Dev) :=
  match p.sourceKind, src with
  | 1, .bytes b =>
    if b.length = p.length then .ok (b, d.countPort (d.portOf h.queue) dist false p.length) else .error .dataTransferError
  | 1, .unreadable => .error .dataTransferError
  | 2, _ => .ok (d.loadNs p.key p.addr p.length, d)
  | 3, _ =>
    let j := handleIndex (tierHandle dist p.addr)
    .ok (d.loadObj j (tierOffset p.addr) p.length, d.touchRead dist j p.length (tierOffset p.addr))
  | _, _ => .ok (List.replicate p.length 0, d)

/-- The bytes copied to and from T3 of each lease that an object's range lies in. -/
def countLease (d : Dev) (i o n : Nat) : Dev :=
  match AMap.look d.place.objs i with
  | some x =>
    if x.tier ≠ 3 || n = 0 then d
    else (List.range ((o + n - 1) / 2 ^ 21 + 1 - o / 2 ^ 21)).foldl (fun d j =>
      let e := o / 2 ^ 21 + j
      let m := min (o + n) (2 ^ 21 * (e + 1)) - max o (2 ^ 21 * e)
      match x.extents[e]? with
      | some l =>
        let leases := AMap.upd d.place.leases l fun y => { y with copied := y.copied + m }
        { d with place := { d.place with leases := leases } }
      | none => d) d
  | none => d

/-- The placed service of a record object. One that has been released, and whose release takes effect at the next close, is none. -/
def placedService (d : Dev) (i : Nat) : Option Service := d.services.find? fun s => s.object = i && !s.gone

/-- Does an object hold a placed record? An object whose first record is still on its way, or could not be read, holds none. -/
def holdsRecord (d : Dev) (i kind : Nat) : Bool :=
  if kind = 2 then (d.placedService i).isSome else d.jobs.any fun j => j.2.object = i

/-- Service and job records take effect as their object is written (R273, R306, R307). -/
def recordWritten (d : Dev) (i kind : Nat) (b : List Byte) : Dev :=
  match kind, !d.holdsRecord i kind with
  | 2, true => { d with services := d.services ++ [serviceOf i b] }
  | 2, false => d.defer [.service (serviceOf i b)]
  | 3, true => d.placeJob i b
  | 3, false => d.changeJob (fieldLE b 4 1) b
  | _, _ => d

/-- Whether a record object may hold the bytes that a copy would leave in it. -/
def recordFits (d : Dev) (dist i kind : Nat) (old new : List Byte) : Except Status Unit :=
  match kind with
  | 2 => do
    need (d.serviceOk dist new)
    let id := (serviceOf i new).id
    match d.placedService i with
    | none => do
      let others := d.place.objs.filter fun o => o.2.kind = 2 && o.1 ≠ i
      need (!(others.any fun x => (d.placedService x.1).any fun s => s.id = id))
      need (decide (others.length < 1024) && decide ((others.filter fun x => x.2.district = dist).length < 64)) .capacityExceeded
    | some s => need (s.id = id)
  | 3 => do
    need (d.jobOk dist new)
    if !d.holdsRecord i 3 then do
      need (d.jobFits new)
      need (decide (d.jobs.length < 16)) .capacityExceeded
    else need (jobSame old new)
  | _ => .ok ()

def recordLength (kind : Nat) : Nat := if kind = 2 then 512 else 256

/-- The copy of LENGTH bytes into an object, its source read. -/
def copyIn (d : Dev) (h : Hdr) (dist i : Nat) (p : PlaceDesc) (src : Fetch) : Except Status Dev := do
  let kind := ((AMap.look d.place.objs i).map (·.kind)).getD 0
  let (b, d') ← d.copySource h dist p src
  let old := d.loadObj i 0 (recordLength kind)
  let new := overlay old p.offset b
  d.recordFits dist i kind old new
  let d := ((d'.storeObj i p.offset b).touchWrite dist i p.length p.offset).countLease i p.offset p.length
  return if kind < 2 then d else d.recordWritten i kind new

/-- A copy waits: for its reads, or for its batch. It holds the objects it names. -/
def copyWaits (d : Dev) (held : Bool) (names : List Nat) : Dev := if held then d else d.hold names

def sendLater (d : Dev) (h : Hdr) (names : List Nat) (c : Instr) : Dev :=
  let d := d.hold names
  { d with place := { d.place with t3 := d.place.t3 ++ [{ queue := h.queue, cid := h.cid, beat := d.beat, command := c }] } }

/-- The status of a copy that names a lost object. -/
def lostName (d : Dev) (names : List Nat) : Option Status :=
  names.findSome? fun i => (AMap.look d.place.objs i).bind fun o =>
    if o.lost then some (if o.tier = 3 then .leaseRevoked else .districtNotResident) else none

/-- A copy into an object, which ALLOCATE has just allocated when `fresh`. `sent`: its T3 batch has gone; `ready`: its reads
have ended. A record that fails its checks is not placed. -/
def copyInto (d : Dev) (h : Hdr) (dist i : Nat) (p : PlaceDesc) (src : Fetch) (fresh sent ready : Bool) (c : Instr) : Dev :=
  let names := copyNames dist i p
  let held := sent || ready
  let lets := if held then names else []
  let handle := match AMap.look d.place.objs i with
    | some o => handleOf i dist o.gen
    | none => 0
  let dw0 := if fresh then handle else 0
  let kind := ((AMap.look d.place.objs i).map (·.kind)).getD 0
  if p.length = 0 && !(fresh && 2 ≤ kind) then d.placeDone h lets .success dw0
  else if let some st := (if held then d.lostName names else none) then d.copyFails h i p fresh lets st dw0
  else if d.touchesT3 names && !held then d.sendLater h names c
  else
    let (here, d) := if p.sourceKind = 2 && !ready then d.readPieces h.queue h.cid p.key (rangePieces p.addr p.length)
      else (true, d)
    if !here then d.copyWaits held names
    else match d.copyIn h dist i p src with
      | .ok d => d.placeDone h lets .success dw0
      | .error st => d.copyFails h i p fresh lets st dw0

/-! Releases (R355). -/

/-- Is an object named by an index version, a placed job record, a binding or a COPY_HANDLE? -/
def isNamed (d : Dev) (i : Nat) : Bool :=
  (d.versions.any fun v => v.state ≠ .retired
      && ([v.params.centroids, v.params.directory, v.params.scales].any fun h => h ≠ 0 && handleIndex h = i))
    || (d.jobs.any fun j => [j.2.staging, j.2.coverage].any fun h => h ≠ 0 && handleIndex h = i)
    || (d.place.bindings.any fun b => handleIndex b.handle = i)
    || d.place.objs.any fun o => o.2.copyHandle ≠ 0 && handleIndex o.2.copyHandle = i

/-- A borrowed lease that was to be returned ends once no T3 object lies in it (R366). -/
def settleReturns (d : Dev) : Dev :=
  d.place.leases.foldl (fun d (l, x) =>
    if x.state = .returning && !(d.place.objs.any fun o => o.2.tier = 3 && o.2.extents.contains l) then
      let leases := AMap.upd d.place.leases l fun x => { x with state := .ended, waiting := none }
      let d := { d with place := { d.place with leases := leases } }
      let d := d.emit (.peer x.peer l 3 0)
      match x.waiting with
      | some (q, cid) => d.finishSquare q cid .success
      | none => d
    else d) d

/-- A released object goes: its extents return to the share, and its INDEX will carry the next GEN. A service record's release
takes effect at the next gather close (R273). -/
def dropObject (d : Dev) (i : Nat) : Dev :=
  match AMap.look d.place.objs i with
  | none => d
  | some o =>
    let place := { d.place with objs := AMap.drop d.place.objs i, gens := AMap.put d.place.gens i ((o.gen + 1) % 256) }
    let d := { d with place := place }
    let d := { d with objMem := Mem.zero d.objMem (2 ^ 36 * i) (2 ^ 36) }
    let d := match o.kind with
      | 2 => match d.placedService i with
        | some s => ({ d with services := d.services.map fun (x : Service) => if x.object = i then { x with gone := true } else x } : Dev).defer
            [.serviceGone s.id i]
        | none => d
      | 3 => { d with jobs := d.jobs.filter fun j => j.2.object ≠ i }
      | _ => d
    let d := d.settleReturns
    match o.releasing with
    | some (q, cid) => d.finishPort q cid .success
    | none => d

/-! Moves (R360, R361, R474). -/

def canMove (o : Obj) (tier : Nat) : Bool :=
  o.movable && !o.lost && o.releasing.isNone && o.moving.isNone && o.tier = 1 - tier && bits o.moveTiers tier 1 = 1

def moveRoom (d : Dev) (o : Obj) (tier : Nat) : Bool := 
  let left := (o.extents.filter fun e => (if e / 512 < 768 then 0 else 1) ≠ tier).length
  decide (d.shareUsed o.district tier + left ≤ d.shareOf o.district tier)

def startMove (d : Dev) (i tier : Nat) : Dev := d.modObj i fun o => { o with moving := some ⟨tier, 0⟩ }

/-- The prefetch streams of the DMAs that read an object close on the stack that an extent of it leaves (R364). -/
def closeStreams (d : Dev) (i stack : Nat) : Dev :=
  let reads (x : Stream) : Bool := match (d.slot x.block x.slot).bind fun s => (s.ops[x.op]?).map fun r => (s, Desc.of r) with
    | some (s, o) => handleIndex (tierHandle s.district o.src) = i
    | none => false
  { d with place := { d.place with streams := d.place.streams.filter fun x => !(x.stack = stack && reads x) } }

/-! Restoration (R323, R359, R370). -/

/-- T0 objects with extents in stacks that lost their contents: RESIDENT ones from their copies, others undefined. -/
def restoreT0 (d : Dev) (stack : Nat → Bool) : Dev :=
  d.place.objs.foldl (fun d (i, o) =>
    if o.lost || o.tier = 3 then d
    else
      let hit := (o.extents.zipIdx.filter fun e => e.1 / 512 < 768 && stack (regionStack (e.1 / 512))).map (·.2)
      hit.foldl (fun d e =>
        if o.resident && o.copyHandle ≠ 0 then d.storeObj i (2 ^ 21 * e) (d.loadObj (handleIndex o.copyHandle) (2 ^ 21 * e) (2 ^ 21))
        else d.undefineObj i (2 ^ 21 * e) (2 ^ 21)) d) d

/-- Block memory that lost its contents: undefined, but for the bindings of RESIDENT objects. -/
def restoreBlock (d : Dev) (b : Nat) : Dev :=
  let d := d.undefineBm b 0 (2 ^ 23)
  match d.logicalOf b with
  | none => d
  | some g => (d.place.bindings.filter fun x => x.block = g).foldl (fun d x => d.restream b x) d

end Dev

/-! Meanings of the PLACE operations, as they run once dispatched. -/

/-- PLACE ALLOCATE (R351 to R354, R273, R306). -/
def allocateCmd (d : Dev) (h : Hdr) (desc : List Byte) (src : Fetch) (sent ready : Bool) : Dev :=
  let p := placeDesc desc
  let c : Instr := .allocate h desc src
  match d.districtFor h.queue h.cid, AMap.look d.place.placing (65536 * h.queue + h.cid) with
  | none, _ => d.finishPort h.queue h.cid .districtNotResident
  | some dist, some i => d.copyInto h dist i p src true sent ready c
  | some dist, none =>
    if desc.length ≠ 64 then d.finishPort h.queue h.cid .invalidField
    else match d.allocateCheck dist p with
      | .error st => d.finishPort h.queue h.cid st
      | .ok _ =>
        if p.size = 0 then d.finishPort h.queue h.cid .success else
        let n := ceilDiv p.size (2 ^ 21)
        let i := d.freeIndex
        let mine := (d.place.objs.filter fun o => o.2.district = dist).length
        let fits := mine < 65536 && d.place.objs.length < 1048575
          && (p.tier = 3 || d.shareUsed dist p.tier + n ≤ d.shareOf dist p.tier)
        match if fits then d.allocate p.tier (p.ecc = 2) p.region n else none with
        | none => d.finishPort h.queue h.cid .capacityExceeded
        | some es =>
          let o : Obj := { gen := AMap.get d.place.gens i 0, district := dist, size := 2 ^ 21 * n, tier := p.tier,
                           kind := p.kind, light := p.ecc = 2, movable := p.movable, resident := p.resident,
                           region := p.region, moveTiers := p.moveTiers, moveT1 := p.moveT1, moveT0 := p.moveT0,
                           copyHandle := p.copyHandle, extents := es }
          let placing := AMap.put d.place.placing (65536 * h.queue + h.cid) i
          let d := { d with place := { d.place with objs := AMap.put d.place.objs i o, placing := placing } }
          d.copyInto h dist i p src true sent ready c

/-- PLACE RELEASE (R355). -/
def releaseCmd (d : Dev) (h : Hdr) (desc : List Byte) : Dev :=
  let p := placeDesc desc
  let i := handleIndex p.handle
  match d.districtFor h.queue h.cid with
  | none => d.finishPort h.queue h.cid .districtNotResident
  | some dist =>
    match AMap.look d.place.objs i with
    | none => d.finishPort h.queue h.cid .invalidField
    | some o =>
      if desc.length ≠ 64 || p.handle ≠ handleOf i dist o.gen || o.district ≠ dist || o.releasing.isSome || !p.noObject
          || !p.noSource || !p.noMove || p.flags ≠ 0 || p.length ≠ 0 || p.offset ≠ 0 then
        d.finishPort h.queue h.cid .invalidField
      else if d.isNamed i then d.finishPort h.queue h.cid .commandSequenceError
      else
        let d := d.modObj i fun o => { o with releasing := some (h.queue, h.cid), moving := none }
        if o.uses = 0 then d.dropObject i else d

/-- A releasing object's use count has reached zero (R355). -/
def releaseComplete (d : Dev) (i : Nat) : Dev :=
  match AMap.look d.place.objs i with
  | some o => if o.releasing.isSome && o.uses = 0 then d.dropObject i else d
  | none => d

/-- PLACE UPDATE (R354, R361). -/
def updateCmd (d : Dev) (h : Hdr) (desc : List Byte) : Dev :=
  let p := placeDesc desc
  let i := handleIndex p.handle
  match d.districtFor h.queue h.cid with
  | none => d.finishPort h.queue h.cid .districtNotResident
  | some dist => match d.objCheck dist p.handle with
    | .error st => d.finishPort h.queue h.cid st
    | .ok o =>
      if desc.length ≠ 64 || !p.noObject || !p.noSource || p.length ≠ 0 || p.offset ≠ 0 || 1 < p.flags
          || !d.moveOk p o.tier o.kind then
        d.finishPort h.queue h.cid .invalidField
      else
        let covers (new old n : Nat) (present : Nat → Bool) : Bool :=
          (Dev.unitsUnder old n).all fun u => !present u || (Dev.unitsUnder new n).contains u
        let keeps (_ : Moving) : Bool := p.movable && (o.moveTiers.land p.moveTiers) = o.moveTiers
          && covers p.moveT0 o.moveT0 12 (fun s => 0 < d.stackGib s) && covers p.moveT1 o.moveT1 8 (fun a => 0 < d.arcadeGib a)
        (d.modObj i fun o => { o with movable := p.movable, moveTiers := p.moveTiers, moveT0 := p.moveT0,
                                      moveT1 := p.moveT1, moving := o.moving.filter keeps }).finishPort h.queue h.cid .success

/-- The object of a COPY_IN or COPY_OUT, after the checks of the descriptor. -/
def Dev.copyCheck (d : Dev) (dist : Nat) (desc : List Byte) (p : PlaceDesc) (out : Bool) (held : List Nat) : Except Status Unit := do
  need (desc.length = 64 && p.noObject && p.noMove && p.flags = 0)
  let o ← d.objCheck dist p.handle held
  need (decide (p.offset + p.length ≤ o.size))
  d.sourceOk dist p out held

/-- PLACE COPY_IN (R356, R273, R307). -/
def copyInCmd (d : Dev) (h : Hdr) (desc : List Byte) (src : Fetch) (sent ready : Bool) : Dev :=
  let p := placeDesc desc
  let i := handleIndex p.handle
  match d.districtFor h.queue h.cid with
  | none => d.finishPort h.queue h.cid .districtNotResident
  | some dist =>
    let held := if sent || ready then Dev.copyNames dist i p else []
    match d.copyCheck dist desc p false held with
    | .error st => if held.isEmpty then d.placeDone h held st else d.copyFails h i p false held st 0
    | .ok _ => d.copyInto h dist i p src false sent ready (.copyIn h desc src)

/-- PLACE COPY_OUT (R356, R367). -/
def copyOutCmd (d : Dev) (h : Hdr) (desc : List Byte) (sent ready : Bool) : Dev :=
  let p := placeDesc desc
  let i := handleIndex p.handle
  match d.districtFor h.queue h.cid with
  | none => d.finishPort h.queue h.cid .districtNotResident
  | some dist =>
    let names := Dev.copyNames dist i p
    let held := if sent || ready then names else []
    match d.copyCheck dist desc p true held with
    | .error st => (if held.isEmpty || (d.lostName names).isNone then d else d.outLost dist p).placeDone h held st
    | .ok _ =>
      if p.length = 0 then d.placeDone h held .success
      else if d.touchesT3 names && held.isEmpty then d.sendLater h names (.copyOut h desc)
      else if p.sourceKind = 2 && d.refusesRange p.key p.addr p.length then d.placeDone h held .capacityExceeded
      else
        let (here, d) := if p.sourceKind = 2 && !ready then
            d.readPieces h.queue h.cid p.key (d.partPieces p.key p.addr p.length)
          else (true, d)
        if !here then d.copyWaits (!held.isEmpty) names
        else
          let b := d.loadObj i p.offset p.length
          let d := (d.touchRead dist i p.length p.offset).countLease i p.offset p.length
          match p.sourceKind with
          | 1 => ((d.sendHost h.queue h.cid (.rdmaWrite h.queue p.key p.addr b)).countPort (d.portOf h.queue) dist true p.length).placeDone h held
              .success
          | 2 =>
            let d := d.writeNs (some (h.queue, h.cid)) p.key p.addr b
            let d := d.fadd (Reg.CNT_DIST_T2W dist) Fld.CNT_DIST_T2W_WRITE_PIECES (Dev.rangePieces p.addr p.length).length
            let ack : Ack := ⟨h.queue, h.cid, .copyOut h desc, names⟩
            ((d.copyWaits (!held.isEmpty) names).modMedia fun m => { m with acks := m.acks ++ [ack] }).settleAcks
          | _ =>
            let j := handleIndex (tierHandle dist p.addr)
            let a := tierOffset p.addr
            (((d.storeObj j a b).touchWrite dist j p.length a).countLease j a p.length).placeDone h held .success

/-- PLACE BIND (R358). -/
def bindCmd (d : Dev) (h : Hdr) (desc : List Byte) : Dev :=
  let p := placeDesc desc
  let i := handleIndex p.handle
  match d.districtFor h.queue h.cid with
  | none => d.finishPort h.queue h.cid .districtNotResident
  | some dist => match d.objCheck dist p.handle with
    | .error st => d.finishPort h.queue h.cid st
    | .ok o =>
      if desc.length ≠ 64 || !p.noObject || !p.noMove || p.sourceKind ≠ 0 || (p.flags ≠ 0 && p.flags ≠ 2) || 65536 ≤ p.addr
          || 256 ≤ p.addr || o.kind ≠ 1 || p.key % 64 ≠ 0 || o.size < p.offset + p.length || (o.tier = 3 && p.resident) then
        d.finishPort h.queue h.cid .invalidField
      else if p.length = 0 then d.finishPort h.queue h.cid .success
      else match d.physOf p.addr with
        | none => d.finishPort h.queue h.cid .districtNotResident
        | some b =>
          let g := p.addr
          if d.quarantined (g / 64) then d.finishPort h.queue h.cid .districtNotResident
          else if !d.inWindow b dist p.key p.length then d.finishPort h.queue h.cid .invalidField
          else
            let rest := d.place.bindings.filter fun x => !(x.block = g && x.handle = p.handle)
            if 128 ≤ (rest.filter fun x => x.block = g).length then d.finishPort h.queue h.cid .capacityExceeded
            else
              let x : Binding := ⟨g, p.handle, p.offset, p.length, p.key⟩
              let d := { d with place := { d.place with bindings := rest ++ [x] } }
              let d := if p.resident then
                  (d.storeBm b p.key (d.loadObj i p.offset p.length)).touchRead dist i p.length p.offset
                else d
              d.finishPort h.queue h.cid .success

/-- PLACE UNBIND (R354). -/
def unbindCmd (d : Dev) (h : Hdr) (desc : List Byte) : Dev :=
  let p := placeDesc desc
  match d.districtFor h.queue h.cid with
  | none => d.finishPort h.queue h.cid .districtNotResident
  | some dist => match d.objCheck dist p.handle with
    | .error st => d.finishPort h.queue h.cid st
    | .ok _ =>
      if desc.length ≠ 64 || !p.noObject || !p.noMove || p.sourceKind ≠ 0 || p.key ≠ 0 || p.flags ≠ 0 || p.length ≠ 0
          || p.offset ≠ 0 || (d.bindingOf p.addr p.handle).isNone then
        d.finishPort h.queue h.cid .invalidField
      else
        let rest := d.place.bindings.filter fun x => !(x.block = p.addr && x.handle = p.handle)
        ({ d with place := { d.place with bindings := rest } }).finishPort h.queue h.cid .success

/-- The hotness record of an object (R362). -/
def hotnessRecord (i : Nat) (o : Obj) : List Byte :=
  let flags := o.movable.toNat + 2 * o.resident.toNat + 4 * o.moving.isSome.toNat + 8 * o.lost.toNat
  let units := (o.extents.map fun e => if o.tier = 3 then e else if e / 512 < 768 then regionStack (e / 512)
    else 16 + regionArcade (e / 512)).dedup.length
  toLE 8 (handleOf i o.district o.gen) ++ toLE 1 o.tier ++ toLE 1 flags ++ toLE 2 o.moves ++ toLE 2 units ++ toLE 2 0
    ++ toLE 4 o.reads ++ toLE 4 o.writes ++ toLE 8 o.lastMoveBeat

/-- PLACE REPORT (R362). -/
def reportCmd (d : Dev) (h : Hdr) (length : Nat) : Dev :=
  match d.districtFor h.queue h.cid with
  | none => d.finishPort h.queue h.cid .districtNotResident
  | some dist =>
    let mine := (d.place.objs.filter fun o => o.2.district = dist).take (length / 32)
    let bytes := mine.flatMap fun o => hotnessRecord o.1 o.2
    let d := if bytes.isEmpty then d else d.sendHost h.queue h.cid (.data h.queue h.cid bytes)
    d.finishPort h.queue h.cid .success mine.length

/-- One extent of a moving object is copied, in a slot that names activity [9] (R360, R361, R364). -/
def moveExtent (d : Dev) (i : Nat) : Dev :=
  match (AMap.look d.place.objs i).bind fun o => o.moving.map fun m => (o, m) with
  | none => d
  | some (o, m) =>
    let cycle := d.beat / d.plan.windows.slotCycle
    let moved := if d.place.moveCycle = cycle then d.place.movedExtents else 0
    if !d.slotNames 9 || o.lost || 512 * d.plan.caps.moveGib ≤ moved || d.shareOf o.district m.tier ≤ d.shareUsed o.district m.tier then d
    else match d.nextPlace o m with
      | some e =>
        let d := { d with place := { d.place with movedExtents := moved + 1, moveCycle := cycle } }
        let d := match o.extents[m.nextExtent]? with
          | some x => if x / 512 < 768 then d.closeStreams i (regionStack (x / 512)) else d
          | none => d
        let es := o.extents.zipIdx.map fun (x, j) => if j = m.nextExtent then e else x
        d.modObj i fun o =>
          if m.nextExtent + 1 = es.length then
            { o with extents := es, tier := m.tier, moving := none, moves := satAdd 16 o.moves 1, lastMoveBeat := d.beat }
          else { o with extents := es, moving := some ⟨m.tier, m.nextExtent + 1⟩ }
      | none => d

/-- The PLACEMENT loop (R360, R474): the movable object outside T0 with the highest READS is brought in, a colder one of its
district going out first where the share lacks room. -/
def placementLoop (d : Dev) : Dev :=
  if d.frozen || !d.slotNames 9 then d
  else
    let hotter (a b : Nat × Obj) : Bool := b.2.reads < a.2.reads || (a.2.reads = b.2.reads && a.1 < b.1)
    match sortBy hotter (d.place.objs.filter fun o => Dev.canMove o.2 0) with
    | [] => d
    | (i, o) :: _ =>
      if d.plan.caps.moveGib = 0 then d.conflict 6
      else if d.moveRoom o 0 then d.startMove i 0
      else
        let colder := d.place.objs.filter fun x => x.2.district = o.district && Dev.canMove x.2 1 && x.2.reads < o.reads
        match (sortBy hotter colder).getLast? with
        | some (j, x) => if d.moveRoom x 1 then d.startMove j 1 else d
        | none => d

def execReleaseComplete (object : Nat) (s : State) : Host.Outcome State Fault Refusal := effect (fun d => releaseComplete d object) s
def execObjectMoveExtent (object : Nat) (s : State) : Host.Outcome State Fault Refusal := effect (fun d => moveExtent d object) s
def execPlacement (s : State) : Host.Outcome State Fault Refusal := effect (fun d => placementLoop d) s

end Sys2Proof.Machine
end

