-- ==== Sys2Proof/Machine/Leases.lean ====
section
/-! DEFINITION. Neighbour leases (R365 to R369, R431). -/

namespace Sys2Proof.Machine

namespace Dev

def lease (d : Dev) (l : Nat) : Option Lease := AMap.look d.place.leases l

def modLease (d : Dev) (l : Nat) (f : Lease → Lease) : Dev :=
  { d with place := { d.place with leases := AMap.upd d.place.leases l f } }

/-- GiB of a tier that this module lends. -/
def lent (d : Dev) (tier : Nat) : Nat :=
  ((d.place.leases.filter fun l => !l.2.borrower && l.2.tier = tier && (l.2.state = .active || l.2.state = .revoking)).map
    fun l => l.2.gib).sum

/-- GiB of a tier that are present, less the reserved regions. -/
def openGib (d : Dev) (tier : Nat) : Nat := if tier = 0 then d.t0Present else d.t1Present - t1Reserved d.plan.namespaces

/-- GiB of a tier that the enabled districts of a table have. -/
def sharesOf (tier : Nat) (table : List DistrictEntry) : Nat :=
  ((table.filter (·.enable)).map fun e => if tier = 0 then e.t0Gib else e.t1Gib).sum

/-- GiB of a tier that may still be lent: present, less the reserved regions, the shares and what is lent, within the ceiling; no more
than the STRONG regions hold (R365). -/
def pool (d : Dev) (tier : Nat) : Nat :=
  let strong := ((List.range (if tier = 0 then 12 else 8)).map fun u => (d.regionsFor tier u false).length).sum
  min (min (d.openGib tier - sharesOf tier d.plan.districts) strong) (if tier = 0 then d.place.lendT0 else d.place.lendT1) - d.lent tier

/-- GiB of a lease set at the borrower, and the peers that lend into it. -/
def setLeases (d : Dev) (set : Nat) : List Lease :=
  (d.place.leases.filter fun l => l.2.borrower && l.2.set = set && l.2.state ≠ .ended).map (·.2)

/-- Every object in a borrowed lease is LOST, and a copy that waits for its batch and names one completes with LEASE_REVOKED, its
destination undefined (R368). -/
def loseLease (d : Dev) (l : Nat) : Dev :=
  let hit (o : Obj) : Bool := o.tier = 3 && o.extents.contains l
  let lose (o : Obj) : Obj := if hit o then { o with lost := true } else o
  { d with place := { d.place with objs := d.place.objs.map (fun (o : Nat × Obj) => (o.1, lose o.2)) } }

def endLease (d : Dev) (l : Nat) : Dev :=
  let d := match d.lease l with
    | some { borrower := true, waiting := w, .. } =>
      let d := d.loseLease l
      match w with
      | some (q, cid) => d.finishSquare q cid .success
      | none => d
    | _ => d
  d.modLease l fun x => { x with state := .ended, waiting := none }

/-- POLICY_OVERRIDDEN with loop code 11 (R369, R475): T0 leases revoked with zero notice. -/
def revokeT0 (d : Dev) : Dev :=
  let mine := d.place.leases.filter fun l => !l.2.borrower && l.2.tier = 0 && (l.2.state = .active || l.2.state = .revoking)
  if mine.isEmpty then d
  else
    let d := mine.foldl (fun d (l, x) => (d.emit (.peer x.peer x.remote 4 d.beat)).modLease l fun x =>
      { x with state := .ended, deadline := d.beat }) d
    let d := d.fadd (Reg.PWR_LOOP 11) Fld.PWR_LOOP_OVERRIDES 1
    d.logOverride 0x50 11 d.srcSquare 0 0 0

end Dev

/-! Meanings of the LEASE operations, as they run once served. -/

/-- LEASE LEND (R366). -/
def leaseLendCmd (d : Dev) (h : Hdr) (t0 t1 notice idle : Nat) : Dev :=
  if notice < 16 || 65535 < notice || idle < 1000 || 1000000 < idle then d.finishSquare h.queue h.cid .invalidField
  else
    let place := { d.place with lendT0 := t0, lendT1 := t1, lendNotice := notice, lendIdle := idle }
    ({ d with place := place }).finishSquare h.queue h.cid .success

/-- LEASE PEER (R366, R431). -/
def leasePeerCmd (d : Dev) (h : Hdr) (peer : Nat) (b : List Byte) : Dev :=
  if 64 ≤ peer || b.length ≠ 64 || 1 < fieldLE b 0 1 || !allZero (sliceB b 1 15) then d.finishSquare h.queue h.cid .invalidField
  else
    let x : Peer := ⟨fieldLE b 0 1, sliceB b 0x10 16, sliceB b 0x20 32, d.beat⟩
    ({ d with place := { d.place with peers := AMap.put d.place.peers peer x } }).finishSquare h.queue h.cid .success

/-- LEASE ACQUIRE (R366): the peer is asked. -/
def leaseAcquireCmd (d : Dev) (h : Hdr) (peer set tier gib : Nat) : Dev :=
  let mine := d.setLeases set
  if gib = 0 then d.finishSquare h.queue h.cid .success
  else if 16384 < gib || 16 ≤ set || 1 < tier || (AMap.look d.place.peers peer).isNone then
    d.finishSquare h.queue h.cid .invalidField
  else if 16384 < (mine.map (·.gib)).sum + gib || 8 < ((mine.map (·.peer)) ++ [peer]).dedup.length then
    d.finishSquare h.queue h.cid .capacityExceeded
  else
    let l := d.place.nextLease
    let x : Lease := { borrower := true, state := .asked, peer := peer, set := set, tier := tier, gib := gib,
                       waiting := some (h.queue, h.cid) }
    let place := { d.place with leases := AMap.put d.place.leases l x, nextLease := l + 1 }
    ({ d with place := place }).emit (.peer peer l 0 gib)

/-- The peer has not answered within 100 ms (R366). -/
def leaseAcquireTimeout (d : Dev) (l : Nat) : Dev :=
  match d.lease l with
  | some { state := .asked, waiting := some (q, cid), .. } =>
    ({ d with place := { d.place with leases := AMap.drop d.place.leases l } }).finishSquare q cid .leaseRevoked
  | _ => d

/-- LEASE RETURN (R366): it completes once no T3 object lies in the lease. -/
def leaseReturnCmd (d : Dev) (h : Hdr) (l : Nat) : Dev :=
  match d.lease l with
  | some { borrower := true, state := .active, .. } | some { borrower := true, state := .revoking, .. } =>
    (d.modLease l fun x => { x with state := .returning, waiting := some (h.queue, h.cid) }).settleReturns
  | _ => d.finishSquare h.queue h.cid .invalidField

/-- LEASE REVOKE (R366, R368). -/
def leaseRevokeCmd (d : Dev) (h : Hdr) (l notice : Nat) : Dev :=
  match d.lease l with
  | some { borrower := false, state := .active, peer := p, remote := r, .. } =>
    if notice < d.place.lendNotice then d.finishSquare h.queue h.cid .invalidField
    else
      let due := d.beat + notice
      ((d.modLease l fun x => { x with state := .revoking, deadline := due }).emit (.peer p r 4 due)).finishSquare h.queue h.cid
        .success
  | _ => d.finishSquare h.queue h.cid .invalidField

/-- The record of a lease (R431). -/
def leaseRecord (l : Nat) (x : Lease) : List Byte :=
  let state := match x.state with
    | .revoking => 1
    | .ended => 2
    | _ => 0
  toLE 4 l ++ toLE 1 x.borrower.toNat ++ toLE 1 state ++ toLE 1 x.peer ++ toLE 1 x.set ++ toLE 1 x.tier ++ toLE 7 0
    ++ toLE 4 x.gib ++ toLE 4 0 ++ toLE 8 x.deadline ++ toLE 8 x.start ++ toLE 8 x.copied ++ List.replicate 16 0

/-- LEASE STATUS (R366, R431). -/
def leaseStatusCmd (d : Dev) (h : Hdr) (length : Nat) : Dev :=
  let ls := d.place.leases.filter fun l => l.2.state ≠ .asked
  if length ≠ 64 * ls.length then d.finishSquare h.queue h.cid .invalidField
  else
    let bytes := ls.flatMap fun l => leaseRecord l.1 l.2
    (if bytes.isEmpty then d else d.sendHost h.queue h.cid (.data h.queue h.cid bytes)).finishSquare h.queue h.cid .success

/-- The borrower receives the notice of a revocation (R368). -/
def leaseNotice (d : Dev) (l deadline : Nat) : Dev :=
  match d.lease l with
  | some { borrower := true, state := .active, set := s, .. } =>
    ((d.modLease l fun x => { x with state := .revoking, deadline := deadline }).emit (.leaseNotice l s deadline)).asyncVendor
  | some { borrower := true, state := .returning, set := s, .. } =>
    ((d.modLease l fun x => { x with deadline := deadline }).emit (.leaseNotice l s deadline)).asyncVendor
  | _ => d

/-- The deadline beat of a revocation begins (R368). -/
def leaseDeadline (d : Dev) (l : Nat) : Dev :=
  match d.lease l with
  | some x =>
    if (x.state = .revoking || (x.state = .returning && x.deadline ≠ 0)) && x.deadline ≤ d.beat then d.endLease l else d
  | none => d

/-- A lender frees the leases of a borrower it has had no contact with for its idle timeout (R369). -/
def leaseIdle (d : Dev) (peer : Nat) : Dev :=
  match AMap.look d.place.peers peer with
  | some p =>
    if d.beat < p.lastContact + d.place.lendIdle then d
    else (d.place.leases.filter fun l => !l.2.borrower && l.2.peer = peer).foldl (fun d l => d.endLease l.1) d
  | none => d

/-- A lease message from a peer (R365, R366, R369). The module checks the peer's identity key at every contact (R366), and takes no notice
of a message whose key is another than the one that LEASE PEER named (DESIGN CHOICE, log entry 29). -/
def peerMessage (d : Dev) (m : LeaseMessage) : Dev :=
  let heard (d : Dev) (p : Nat) : Dev :=
    let peers := AMap.upd d.place.peers p fun x => { x with lastContact := d.beat }
    { d with place := { d.place with peers := peers } }
  let knows (p : Nat) (key : List Byte) : Bool := match AMap.look d.place.peers p with
    | some x => x.hash = sha256Bytes key
    | none => false
  let ours (l : Nat) (key : List Byte) : Bool := match d.lease l with
    | some x => knows x.peer key
    | none => false
  let trusted := match m with
    | .request p _ _ _ _ key | .giveBack p _ key | .contact p key => knows p key
    | .grant l key | .refuse l key | .lost l key => ours l key
  if !trusted then d
  else match m with
  | .request p l set tier gib _ =>
    let d := heard d p
    if 1 < tier || gib = 0 || d.pool tier < gib then d.emit (.peer p l 2 gib)
      else
        let x : Lease := { borrower := false, state := .active, peer := p, set := set, tier := tier, gib := gib,
                           start := d.beat, remote := l }
        let n := d.place.nextLease
        let place := { d.place with leases := AMap.put d.place.leases n x, nextLease := n + 1 }
        ({ d with place := place }).emit (.peer p l 1 gib)
  | .grant l _ => match d.lease l with
    | some { state := .asked, waiting := some (q, cid), peer := p, .. } =>
      ((heard d p).modLease l fun x => { x with state := .active, start := d.beat, waiting := none }).finishSquare q cid .success l
    | _ => d
  | .refuse l _ => match d.lease l with
    | some { state := .asked, waiting := some (q, cid), .. } =>
      ({ d with place := { d.place with leases := AMap.drop d.place.leases l } }).finishSquare q cid .capacityExceeded
    | _ => d
  | .giveBack p l _ =>
    (d.place.leases.filter fun x => !x.2.borrower && x.2.peer = p && x.2.remote = l).foldl (fun d x => d.endLease x.1) (heard d p)
  | .contact p _ => heard d p
  | .lost l _ => match d.lease l with
    | some { borrower := true, state := .asked, .. } | some { borrower := true, state := .ended, .. } => d
    | some { borrower := true, .. } => d.endLease l
    | _ => d

/-- A copy whose batch has been sent runs. -/
def t3Run (d : Dev) (c : T3Copy) : Dev :=
  match c.command with
  | .allocate h x s => allocateCmd d h x s true false
  | .copyIn h x s => copyInCmd d h x s true false
  | .copyOut h x => copyOutCmd d h x true false
  | _ => d

/-- The copies of the batches sent go on in the order they were accepted (R367): one that waits for flash holds up those after it, which
go on at a later event of the batch (DESIGN CHOICE, log entry 30). -/
def t3Drive (d : Dev) : Nat → Dev
  | 0 => d
  | n + 1 =>
    match d.place.t3 with
    | c :: rest =>
      let d' : Dev := { d with place := { d.place with t3 := rest } }
      if !c.sent then d
      else if c.begun then (if (d.inflightOf c.queue c.cid).isSome then d else t3Drive d' n)
      else
        let e := t3Run d' c
        if (e.inflightOf c.queue c.cid).isSome then { e with place := { e.place with t3 := { c with begun := true } :: e.place.t3 } }
        else t3Drive e n
    | [] => d

/-- At a beat boundary the copies accepted in the beats before are sent as one batch, and complete in the order they were
accepted (R367). -/
def t3BatchSend (d : Dev) : Dev :=
  let due := d.place.t3.filter fun c => decide (c.beat < d.beat) && !c.sent
  let d := if due.isEmpty then d else d.emit (.t3Batch (due.map fun c => (c.queue, c.cid)))
  let d := { d with place := { d.place with t3 := d.place.t3.map fun c => { c with sent := c.sent || decide (c.beat < d.beat) } } }
  t3Drive d d.place.t3.length

def execLeaseAcquireTimeout (lease : Nat) (s : State) : Host.Outcome State Fault Refusal :=
  effect (fun d => leaseAcquireTimeout d lease) s
def execLeaseNoticeReceived (lease deadline : Nat) (s : State) : Host.Outcome State Fault Refusal :=
  effect (fun d => leaseNotice d lease deadline) s
def execLeaseDeadline (lease : Nat) (s : State) : Host.Outcome State Fault Refusal := effect (fun d => leaseDeadline d lease) s
def execLeaseIdleTimeout (peer : Nat) (s : State) : Host.Outcome State Fault Refusal := effect (fun d => leaseIdle d peer) s
def execPeerLeaseMessage (message : LeaseMessage) (s : State) : Host.Outcome State Fault Refusal :=
  effect (fun d => peerMessage d message) s
def execT3BatchSend (s : State) : Host.Outcome State Fault Refusal := effect (fun d => t3BatchSend d) s

end Sys2Proof.Machine
end

