-- ==== Sys2Proof/Machine/Time.lean ====
section
/-! DEFINITION. Device time (R442 to R457), background slots (R453, R454) and the power states (R436, R437). -/

namespace Sys2Proof.Machine

/-- The codes of R445. -/
def LockState.code : LockState → Nat
  | .freeRun => 0
  | .acquiring => 1
  | .locked => 2
  | .holdover => 3
  | .recovering => 4

/-- A signed count of ns as 64 bits of two's complement. -/
def ofSigned64 (o : Int) : Nat := (o % 2 ^ 64).toNat

namespace Dev

/-! Power states (R436 to R438). -/

/-- What the stacks and Arcades show in a power state (R372, R436). -/
def showPower (d : Dev) (ps : Nat) : Dev :=
  let d := d.fset Reg.HIF_STAT Fld.HIF_STAT_PS ps
  let d := (List.range 12).foldl (fun d s =>
    if d.fget (Reg.STK_STAT s) Fld.STK_STAT_PRESENT = 0 then d
    else (d.fset (Reg.STK_STAT s) Fld.STK_STAT_SELF_REFRESH (decide (ps = 3)).toNat).fset (Reg.STK_STAT s) Fld.STK_STAT_OFF
      (decide (ps = 4)).toNat) d
  (List.range 8).foldl (fun d a => d.fset (Reg.ARC_STAT a) Fld.ARC_STAT_SELF_REFRESH (decide (ps = 4)).toNat) d

/-- Quarters and stacks lose their power: T0, block memory, buffers, tags and Kerb caches are lost (R116, R235, R521). -/
def loseQuarters (d : Dev) : Dev :=
  let d := d.blocks.foldl (fun d x => (d.clearTags x.1).undefineBm x.1 0 (2 ^ 23)) d
  let d := (List.range 48).foldl (fun d k => d.cacheDropWhere k fun _ => true) d
  d.restoreT0 fun _ => true

/-- They return: RESIDENT objects and bindings are streamed in again (R323, R359). -/
def restoreQuarters (d : Dev) : Dev :=
  d.blocks.foldl (fun d x => d.restoreBlock x.1) ((d.retrainStacks fun _ => true).restoreT0 fun _ => true)

/-- A power state takes effect. A ceiling that it lowers holds at once (R436, R465). -/
def enterPower (d : Dev) (ps : Nat) : Dev :=
  let old := d.power.ps
  if ps = old then { d with power := { d.power with psNext := none } }
  else
    let last := if ps < 3 then ps else d.power.lastOperational
    let d := { d with power := { d.power with ps := ps, psNext := none, lastOperational := last } }
    let d := d.showPower ps
    let d := if ps = 4 then d.revokeT0.loseQuarters else d
    let d := if old = 4 then d.restoreQuarters else d
    let low (q : Nat) : Nat := min (d.clockBounds q).2.1 (d.fget (Reg.PWR_QTR q) Fld.PWR_QTR_TARGET_MHZ)
    (List.range 4).foldl (fun d q => (d.setTarget q (low q)).setClock q) d.driveStages.driveJobs

/-- The device is idle (R437). -/
def isIdle (d : Dev) : Bool :=
  !(d.host.inflight.any fun x => !isAdmin x.queue) && !(d.queries.any fun q => q.2.desc.sweep && q.2.phase ≠ .done)
    && !(d.jobs.any fun j => j.2.state = .running) && d.host.wipe.isNone

/-- Autonomous transitions are enabled (feature 0x0C, shipped enabled). -/
def apstOn (d : Dev) : Bool := bits (AMap.get d.host.current 0x0C 1) 0 1 = 1

/-! Lock states (R445, R455). -/

/-- The payload of notice records 0x60 and 0x61 (R577). -/
def timeNotice (d : Dev) (ev prev : Nat) : Dev :=
  d.logNotice ev (toLE 1 d.time.lock.code ++ toLE 1 prev ++ toLE 1 (d.fget Reg.TIME_STAT Fld.TIME_STAT_SOURCE) ++
    toLE 1 (d.fget Reg.TIME_STAT Fld.TIME_STAT_CLOCK_CLASS) ++ toLE 2 (d.fget Reg.TIME_STAT Fld.TIME_STAT_STEPS_REMOVED) ++
    toLE 2 0 ++ toLE 8 (ofSigned64 d.time.offset) ++ toLE 8 (d.reg Reg.TIME_GM_ID) ++ toLE 8 0)

/-- Device time changes state. In FREE_RUN and HOLDOVER it follows no source (DEDUCED, log entry 34). -/
def enterLock (d : Dev) (l : LockState) : Dev :=
  let prev := d.time.lock
  if prev = l then d
  else
    let d := { d with time := { d.time with lock := l, good := 0, stepped := false, flagSince := d.time.ns } }
    let d := d.fset Reg.TIME_STAT Fld.TIME_STAT_STATE l.code
    let d := d.fset Reg.TIME_STAT Fld.TIME_STAT_HOLDOVER (decide (l ≠ .locked)).toNat
    let d := if l = .holdover then
        { d.fadd Reg.TIME_EVENTS Fld.TIME_EVENTS_HOLDOVERS 1 with time := { d.time with holdoverSince := d.time.ns } }
      else d
    let d := if l = .holdover || l = .freeRun then
        let d := { d with time := { d.time with source := 0 } }
        (d.fset Reg.TIME_STAT Fld.TIME_STAT_SOURCE 0).fset Reg.TIME_STAT Fld.TIME_STAT_CLOCK_CLASS 0xFF
      else d
    d.timeNotice 0x60 prev.code

/-! Forward steps (R446, R449). -/

/-- The expiries of WAITs up to a beat, in the order of their beats. -/
def expireTo (d : Dev) (beat : Nat) : Dev :=
  let due := (d.waits.filter fun w => w.expiry ≤ beat).mergeSort fun a b => a.expiry ≤ b.expiry
  due.foldl (fun d w => if d.waits.contains w then d.expireWait w else d) d

/-- Multiples of n among the beats after b1, up to b2. -/
def crossed (n b1 b2 : Nat) : Nat := if n = 0 then 0 else b2 / n - b1 / n

/-- What the skipped beats would have done outside the windows: hotness decay, bucket leaks, the end of throttling, T3 batches,
lease deadlines, PS1 and PS2 transitions. -/
def beatEvents (d : Dev) (b1 b2 : Nat) : Dev :=
  let n := min 64 (crossed 4096 b1 b2)
  let cool (o : Obj) : Obj := { o with reads := o.reads / 2 ^ n, writes := o.writes / 2 ^ n }
  let d := if n = 0 then d else { d with place := { d.place with objs := d.place.objs.map (fun (o : Nat × Obj) => (o.1, cool o.2)) } }
  let d := ((List.range 5152).filter fun r => 0 < d.bucketLevel r).foldl (fun d r =>
    d.setBucket r (d.bucketLevel r - crossed (d.eccOf r).2 b1 b2)) d
  let rested (j : Job) : Job := { j with cycles := 0 }
  let d := if b1 = b2 then d else { d with power := { d.power with beatUj := [], throttled := [] },
                                           jobs := d.jobs.map fun (j : Nat × Job) => (j.1, rested j.2) }
  let d := t3BatchSend d
  let d := d.place.leases.foldl (fun d l => leaseDeadline d l.1) d
  match d.power.psNext with
  | some n => if n < 3 then d.enterPower n else d
  | none => d

/-- A forward step to an instant carries out what it passes, in beat order; windows close once. -/
def stepForward (d : Dev) (ns : Nat) : Dev :=
  let b1 := d.beat
  let gather := d.gatherAt
  let sweep := d.sweepAt
  let d := (d.reach ns).enterSlots
  let d := d.beatEvents b1 d.beat
  let w := d.plan.windows
  let g := (ns - 1000 * w.gatherPhaseUs) / d.period
  let d := d.expireTo (if gather ≤ ns then g - g % w.gatherBeats else d.beat)
  let d := if gather ≤ ns then gatherClose d else d
  let d := if sweep ≤ ns then sweepClose d else d
  d.expireTo d.beat

/-! Sources and measurements (R444 to R447). -/

/-- A port has a usable source. -/
def usable (d : Dev) (port : Nat) : Bool :=
  match AMap.look d.time.masters port with
  | some { lastSync := some t, clockClass := c, .. } => decide (c < 187) && decide (d.time.ns ≤ t + 1000000000)
  | _ => false

/-- Port 1's master is better than port 0's: clock class, then identity, and for one grandmaster the steps removed
(PRESUMED, log entry 35). -/
def secondBetter (d : Dev) : Bool :=
  match AMap.look d.time.masters 0, AMap.look d.time.masters 1 with
  | some a, some b =>
    if b.clockClass ≠ a.clockClass then b.clockClass < a.clockClass
    else if b.identity = a.identity then b.stepsRemoved < a.stepsRemoved
    else b.identity < a.identity
  | _, _ => false

/-- The port that serves as the source (R444). -/
def chosenPort (d : Dev) : Option Nat :=
  match d.usable 0, d.usable 1 with
  | false, false => none
  | true, false => some 0
  | false, true => some 1
  | true, true =>
    let p := d.plan.timeBase.portPref
    if p < 2 then some p else some (if d.secondBetter then 1 else 0)

/-- One measurement o of the source that TIME_STAT codes as `src`. -/
def measured' (d : Dev) (src : Nat) (o : Int) : Dev :=
  let changed := d.time.source ≠ 0 && d.time.source ≠ src
  let d := { d with time := { d.time with source := src, offset := o } }
  let d := (d.fset Reg.TIME_STAT Fld.TIME_STAT_SOURCE src).setReg Reg.TIME_OFFSET (ofSigned64 o)
  let d := if changed then d.fadd Reg.TIME_EVENTS Fld.TIME_EVENTS_SOURCE_CHANGES 1 else d
  let d := match d.time.lock with
    | .freeRun => d.enterLock .acquiring
    | .holdover =>
      let d := if 1000000 < o.natAbs && d.time.holdoverSince + 2000000000 ≤ d.time.ns then d.timeNotice 0x61 3 else d
      d.enterLock .recovering
    | .locked => if changed && 1000 ≤ o.natAbs then d.enterLock .recovering else d
    | _ => d
  let good := if o.natAbs < 1000 then d.time.good + 1 else 0
  let d := { d with time := { d.time with good := good } }
  let target := ((d.time.ns : Int) + o).toNat
  let count (d : Dev) : Dev := d.fadd Reg.TIME_EVENTS Fld.TIME_EVENTS_STEPS 1
  let d := if d.time.lock = .acquiring && !d.time.stepped then
      let d := { d with time := { d.time with stepped := true } }
      if 0 < o then (count d).stepForward target
      else
        let time := { d.time with ns := target, lastGather := min d.time.lastGather target, lastSweep := min d.time.lastSweep target }
        let d := { d with time := time }
        d.putSlots d.slotsNow
    else if (d.time.lock = .locked || d.time.lock = .recovering) && (d.period : Int) < o then (count d).stepForward target
    else d
  if 16 ≤ good && (d.time.lock = .acquiring || d.time.lock = .recovering) then d.enterLock .locked else d

def forced (d : Dev) : Bool := d.fbit Reg.TIME_CTL Fld.TIME_CTL_FORCE_HOLDOVER

/-- The grandmaster's figures of a port, as TIME_STAT and TIME_GM_ID show them. -/
def showMaster (d : Dev) (port : Nat) : Dev :=
  match AMap.look d.time.masters port with
  | some m =>
    let d := d.fset Reg.TIME_STAT Fld.TIME_STAT_CLOCK_CLASS m.clockClass
    (d.fset Reg.TIME_STAT Fld.TIME_STAT_STEPS_REMOVED m.stepsRemoved).setReg Reg.TIME_GM_ID m.identity
  | none => d

end Dev

/-- An Announce of a port's master (R444). -/
def ptpAnnounce (d : Dev) (port cls steps identity : Nat) : Dev :=
  if 2 ≤ port then d
  else
    let sync := match AMap.look d.time.masters port with
      | some m => m.lastSync
      | none => none
    let m : Master := ⟨sync, cls % 256, steps % 65536, identity % 2 ^ 64⟩
    let d := { d with time := { d.time with masters := AMap.put d.time.masters port m } }
    if d.time.source = port + 1 then d.showMaster port else d

/-- Whole seconds of an offset, to the nearest: what PTP gives when 1PPS gives the phase (SOURCE 1). -/
def wholeSeconds (o : Int) : Int := (o + 500000000) / 1000000000 * 1000000000

/-- A PTP measurement on a port (R446). -/
def ptpSync (d : Dev) (port : Nat) (o : Int) : Dev :=
  let time (m : Master) : Master := { m with lastSync := some d.time.ns }
  let d := { d with time := { d.time with masters := AMap.upd d.time.masters port time } }
  if d.forced || d.plan.timeBase.source = 2 || d.chosenPort ≠ some port then d
  else
    let d := d.showMaster port
    if d.plan.timeBase.source = 0 then d.measured' (port + 1) o
    else if wholeSeconds o = 0 then d
    else d.measured' (port + 1) (wholeSeconds o)

/-- A pulse on the 1PPS input (R444, R445). -/
def ppsIn (d : Dev) (o : Int) (ok : Bool) : Dev :=
  let d := { d.fon Reg.TIME_STAT Fld.TIME_STAT_PPS_PRESENT with time := { d.time with ppsUsable := ok } }
  if d.forced || !ok then d
  else match d.plan.timeBase.source, d.chosenPort with
    | 2, _ => d.measured' 3 o
    | 1, some p => d.measured' (p + 1) o
    | _, _ => d

/-- No source has been usable for 2 s (R445). -/
def sourceLoss (d : Dev) : Dev :=
  let gone (m : Master) : Master := { m with lastSync := none }
  let masters := d.time.masters.map (fun (m : Nat × Master) => (m.1, gone m.2))
  let d := { d with time := { d.time with masters := masters, ppsUsable := false } }
  let d := if d.plan.timeBase.source = 0 then d else d.foff Reg.TIME_STAT Fld.TIME_STAT_PPS_PRESENT
  match d.time.lock with
  | .acquiring => d.enterLock .freeRun
  | .locked => d.enterLock .holdover
  | .recovering => d.enterLock .holdover
  | _ => d

/-- TIME_CTL.FORCE_HOLDOVER is written (R445, R457). -/
def forceHold (d : Dev) (on : Bool) : Dev :=
  let d := d.fset Reg.TIME_CTL Fld.TIME_CTL_FORCE_HOLDOVER on.toNat
  if on && (d.time.lock = .locked || d.time.lock = .recovering) then d.enterLock .holdover else d

/-- A pulse on PPS_OUT at a whole second of device time (R444, R567). -/
def ppsOutPulse (d : Dev) : Dev :=
  let d := d.reach (roundUp d.time.ns 1000000000)
  if d.fbit Reg.TIME_CTL Fld.TIME_CTL_PPS_OUT && !d.pins.ppsHeld then d.emit .ppsPulse else d

def timeJournal (d : Dev) : Dev := { d with time := { d.time with journalled := some d.time.ns } }

/-- A background slot begins (R453). -/
def slotStart (d : Dev) (i : Nat) : Dev :=
  let w := d.plan.windows
  match w.slots[i]? with
  | none => d
  | some e =>
    if e.length = 0 || d.time.openSlots.contains i then d
    else
      let ahead := (e.start + w.slotCycle - d.beat % w.slotCycle) % w.slotCycle
      let d := if ahead = 0 then d else d.reach ((d.beat + ahead) * d.period)
      (d.putSlots (d.time.openSlots ++ [i]).dedup).slotBegins i

/-- A background slot ends (R453). One that fills the cycle never ends. -/
def slotEnd (d : Dev) (i : Nat) : Dev :=
  let w := d.plan.windows
  match w.slots[i]? with
  | none => d
  | some e =>
    if !d.time.openSlots.contains i || e.length = w.slotCycle then d
    else
      let ahead := (e.start + e.length + w.slotCycle - d.beat % w.slotCycle) % w.slotCycle
      let d := if ahead = 0 then d else d.reach ((d.beat + ahead) * d.period)
      d.putSlots (d.time.openSlots.filter (· ≠ i))

/-- A selected power state takes effect (R436). -/
def powerTransition (d : Dev) : Dev := match d.power.psNext with
  | some ps => d.enterPower ps
  | none => d

/-- An idle period reaches the time that the APST table gives for the present state (R437), and its target is selected. -/
def apstIdle (d : Dev) : Dev :=
  if !d.isIdle || !d.apstOn then d
  else match AMap.look d.host.apst d.power.ps with
    | some (ps, _) =>
      let lends := d.place.leases.any fun l => !l.2.borrower && l.2.tier = 0 && l.2.state ≠ .ended
      if ps ≤ d.power.ps || (ps = 4 && lends) then d else { d with power := { d.power with psNext := some ps } }
    | none => d

def execPtpAnnounce (port clockClass stepsRemoved identity : Nat) (s : State) : Host.Outcome State Fault Refusal :=
  effect (fun d => ptpAnnounce d port clockClass stepsRemoved identity) s
def execPtpSync (port : Nat) (offset : Int) (s : State) : Host.Outcome State Fault Refusal :=
  effect (fun d => ptpSync d port offset) s
def execPpsInPulse (offset : Int) (intervalOk : Bool) (s : State) : Host.Outcome State Fault Refusal :=
  effect (fun d => ppsIn d offset intervalOk) s
def execSourceLossTimeout (s : State) : Host.Outcome State Fault Refusal := effect (fun d => sourceLoss d) s
def execPpsOutPulse (s : State) : Host.Outcome State Fault Refusal := effect (fun d => ppsOutPulse d) s
def execTimeJournal (s : State) : Host.Outcome State Fault Refusal := effect (fun d => timeJournal d) s
def execBackgroundSlotStart (slot : Nat) (s : State) : Host.Outcome State Fault Refusal := effect (fun d => slotStart d slot) s
def execBackgroundSlotEnd (slot : Nat) (s : State) : Host.Outcome State Fault Refusal := effect (fun d => slotEnd d slot) s
def execPowerStateTransition (s : State) : Host.Outcome State Fault Refusal := effect (fun d => powerTransition d) s
def execApstIdleTimeout (s : State) : Host.Outcome State Fault Refusal := effect (fun d => apstIdle d) s

end Sys2Proof.Machine
end

