-- ==== Sys2Proof/Machine/Container.lean ====
section
/-! DEFINITION. Plokutas containers (R40 to R48, R59): parsing, the layouts of the sections, and the checks before a container
has any effect. -/

namespace Sys2Proof.Machine

/-- A failed check of R59: its cause and the index of its section, 0xFFFF for the header or trailer. -/
abbrev Reject := Nat × Nat

/-- The status of a cause (R59). -/
def causeStatus (c : Nat) : Status :=
  if c = 3 || c = 4 then .signatureInvalid
  else if c = 1 || c = 2 || c = 0x0A || c = 0x0C || c = 0x0E then .invalidField
  else if c = 0x0F || c = 0x10 || c = 0x11 || c = 0x14 then .scopeBusy
  else .planMismatch

/-- A check, with the cause it is rejected under. -/
def want (c : Bool) (cause : Nat) (sect : Nat := 0xFFFF) : Except Reject Unit := if c then .ok () else .error (cause, sect)

/-- Reading a section's body: its contents, and the causes of the checks that failed, so that R59's order of causes can be kept. -/
abbrev Parse := StateM (List Nat)

/-- A check of a section's body. -/
def wantC (c : Bool) (cause : Nat) : Parse Unit := if c then pure () else modify (· ++ [cause])

def zeros (b : List Byte) (o n : Nat) : Bool := allZero (sliceB b o n)

/-- Consecutive pieces of a byte string. -/
def chunks (n : Nat) (b : List Byte) : List (List Byte) := (List.range (b.length / n)).map fun i => sliceB b (n * i) n

def ScopeKind.ofCode : Nat → Option ScopeKind
  | 0 => some .device
  | 1 => some .quarter
  | 2 => some .block
  | 3 => some .cell
  | 4 => some .kerb
  | _ => none

def ScopeKind.code : ScopeKind → Nat
  | .device => 0
  | .quarter => 1
  | .block => 2
  | .cell => 3
  | .kerb => 4

/-- The number of units of a scope kind (R43). -/
def ScopeKind.count : ScopeKind → Nat
  | .device => 1
  | .quarter => 4
  | .block => 288
  | .cell => 1152
  | .kerb => 48

/-- A scope contains another or is equal to it (R43, R44). -/
def Scope.contains (a b : Scope) : Bool :=
  match a.kind, b.kind with
  | .device, _ => true
  | .quarter, .quarter => a.index = b.index
  | .quarter, .block => b.index / 72 = a.index
  | .quarter, .cell => b.index / 288 = a.index
  | .quarter, .kerb => b.index / 12 = a.index
  | .block, .block => a.index = b.index
  | .block, .cell => b.index / 4 = a.index
  | .cell, .cell => a.index = b.index
  | .kerb, .kerb => a.index = b.index
  | _, _ => false

def Scope.overlaps (a b : Scope) : Bool := a.contains b || b.contains a

/-- The scopes a section type may have (R45, R528). -/
def typeScopes (t : Nat) : List ScopeKind :=
  if t = 0x10 || t = 0x30 || t = 0x60 || t = 0x61 || t = 0xF0 then [.device]
  else if t = 0x11 then [.quarter, .block]
  else if t = 0x12 then [.quarter, .block, .cell]
  else if t = 0x20 || t = 0x70 then [.device, .quarter]
  else if t = 0x40 then [.device, .quarter, .block, .cell, .kerb]
  else if t = 0x41 || t = 0x81 then [.device, .kerb]
  else if t = 0x50 || t = 0x51 then [.device, .quarter, .block]
  else if t = 0x80 then [.quarter]
  else []


/-! Section bodies. -/

def districtOfBytes (b : List Byte) : Parse DistrictEntry := do
  let f := fieldLE b 0 1
  wantC (f < 4 && zeros b 1 1 && zeros b 0xE 2 && zeros b 0x1E 34) 1
  let e : DistrictEntry :=
    { enable := bits f 0 1 = 1, subnormalKeep := bits f 1 1 = 1, blockWeight := fieldLE b 2 2, quarterWeight := fieldLE b 4 2,
      gateWeight := fieldLE b 6 2, kerbShare := fieldLE b 8 2, t0Gib := fieldLE b 0xA 2, t1Gib := fieldLE b 0xC 2,
      energyCapMw := fieldLE b 0x10 4, hostqFirst := fieldLE b 0x14 2, hostqCount := fieldLE b 0x16 2,
      defaultProbes := fieldLE b 0x18 2, defaultBeam := fieldLE b 0x1A 2, scaleHistory := fieldLE b 0x1C 1,
      widenLimit := fieldLE b 0x1D 1 }
  wantC (e.scaleHistory ≤ 16 && e.widenLimit ≤ 3) 0x0C
  pure e

def blockEntryOf (b : List Byte) : Parse BlockEntry := do
  let w := leNat b
  let role := bits w 0 8
  let rank := bits w 12 8
  wantC (bits w 20 12 = 0) 1
  wantC (if role = 0xFE then rank ≠ 0 else rank = 0 && (role < 64 || role = 0xFF)) 0x0C
  pure ⟨if role = 0xFE then .spare rank else if role = 0xFF then .retired else .active role, bits w 8 4⟩

/-- The part of the address space of regions that one region lies in (R483). -/
def regionTier (r : Nat) : Nat := if r < 768 then 0 else if r < 4864 then 1 else if r < 5152 then 2 else 3
def regionQuarter (r : Nat) : Nat := if r < 768 then r / 192 else if r < 4864 then (r - 768) / 1024 else (r - 4864) / 72

/-- An entry of ECC_REGIONS (R484). -/
def eccEntryOf (scope : Scope) (b : List Byte) : Parse EccEntry := do
  let cls := fieldLE b 0 1
  let e : EccEntry := ⟨cls = 2, fieldLE b 2 2, fieldLE b 4 4, fieldLE b 8 4, fieldLE b 0xC 4⟩
  wantC (zeros b 1 1) 1
  wantC ((cls = 1 || cls = 2) && between e.depth 1 1048576 && between e.leak 1 16777216) 0x0C
  let last := e.first + e.count - 1
  wantC (e.count = 0 || (regionTier last < 3 && regionTier e.first = regionTier last &&
    (scope.kind = .device || (regionQuarter e.first = scope.index && regionQuarter last = scope.index)) &&
    (e.light || regionTier e.first ≠ 2))) 0x0C
  pure e

/-- An entry of NAMESPACES (R377). -/
def nsEntryOf (b : List Byte) : Parse NsDef := do
  let profile := fieldLE b 4 1
  let f := fieldLE b 5 1
  let n : NsDef := ⟨fieldLE b 0 4, profile = 2, f = 1, fieldLE b 6 1, fieldLE b 7 1, fieldLE b 8 8, fieldLE b 0x10 8,
    fieldLE b 0x18 8, fieldLE b 0x20 4⟩
  wantC (f < 2 && zeros b 0x24 28) 1
  let unit := if !n.mutable then 65536 else if n.kerbBind then 196608 else 4096
  wantC (between n.nsid 1 32 && (profile = 1 || profile = 2) && n.keySlot < 32 && between n.rewriteBits 8 160 && n.size ≠ 0 &&
    n.size % unit = 0 && !(n.kerbBind && !n.mutable) && !(n.idCount ≠ 0 && n.idShare ≠ 0)) 0x0C
  pure n

def kerbPolicyOf (b : List Byte) : Parse KerbPolicy := do
  let f := fieldLE b 0x10 1
  wantC (b.length = 32) 0x0C
  wantC (f < 2 && zeros b 0x11 15) 1
  let p : KerbPolicy := ⟨fieldLE b 0 2, fieldLE b 2 2, fieldLE b 4 2, fieldLE b 6 2, fieldLE b 8 1, fieldLE b 9 1, fieldLE b 0xA 2,
    fieldLE b 0xC 1, fieldLE b 0xD 1, fieldLE b 0xE 2, f = 1⟩
  wantC (between p.writeUrgentPct 50 100 && p.maxSuspends ≤ 15 && between p.minEraseRunUs 100 5000 && p.cacheSpecPct ≤ 50 &&
    p.prefetchDepth ≤ 64 && p.prefetchInflight ≤ 4096) 0x0C
  pure p

/-- One table record and what follows it (R153). -/
def tableRecOf (b : List Byte) : Parse (TableRec × List Byte) := do
  let sign := fieldLE b 3 1
  let bin := fieldLE b 2 1
  let segs := bin * 64 * (if sign = 2 then 2 else 1)
  let corr := fieldLE b 6 2
  let code := fieldLE b 0 1
  let out := fieldLE b 1 1
  wantC (32 + 12 * segs + 8 * corr ≤ b.length && zeros b 0x10 16) (if 32 + 12 * segs + 8 * corr ≤ b.length then 1 else 0x0C)
  wantC (between code 0x40 0x7F && (out = 1 || out = 2) && between bin 1 64 && sign ≤ 2) 0x0C
  let s := b.drop 32
  let c := s.drop (12 * segs)
  let rec' : TableRec := ⟨code, out, bin, sign, toSigned 16 (fieldLE b 4 2), fieldLE b 8 4, fieldLE b 0xC 4,
    (List.range segs).map fun i => (fieldLE s (12 * i) 4, fieldLE s (12 * i + 4) 4, fieldLE s (12 * i + 8) 4),
    (List.range corr).map fun i => (fieldLE c (8 * i) 4, fieldLE c (8 * i + 4) 4)⟩
  pure (rec', c.drop (8 * corr))

def tableRecs : Nat → List Byte → Parse (List TableRec × List Byte)
  | 0, b => pure ([], b)
  | n + 1, b => if b.isEmpty then do
      wantC false 0x0C
      pure ([], [])
    else do
    let (t, b) ← tableRecOf b
    let (ts, b) ← tableRecs n b
    pure (t :: ts, b)

/-- An instruction of a micro-program is one of R154: operation, registers and reserved bits. -/
def instrOk (w : Nat) : Bool :=
  let op := bits w 0 8
  (between op 1 0xC || op = 0x10) && between (bits w 8 4) 1 14 && bits w 24 4 ≠ 15

/-- One program record and what follows it (R154). -/
def progRecOf (b : List Byte) : Parse (ProgRec × List Byte) := do
  let len := fieldLE b 2 2
  let code := fieldLE b 0 1
  let out := fieldLE b 1 1
  wantC (4 ≤ b.length && 4 + 8 * len ≤ b.length && between code 0x80 0xFF && (out = 1 || out = 2) && between len 1 256) 0x0C
  let is := (List.range len).map fun i => fieldLE b (4 + 8 * i) 8
  wantC (is.all fun w => bits w 28 4 = 0) 1
  wantC (is.all instrOk) 0x0C
  pure (⟨code, out, is⟩, b.drop (4 + 8 * len))

def progRecs : Nat → List Byte → Parse (List ProgRec × List Byte)
  | 0, b => pure ([], b)
  | n + 1, b => if b.isEmpty then do
      wantC false 0x0C
      pure ([], [])
    else do
    let (t, b) ← progRecOf b
    let (ts, b) ← progRecs n b
    pure (t :: ts, b)

def sfTablesOf (b : List Byte) : Parse SectionBody := do
  wantC (16 ≤ b.length) 0x0C
  wantC (zeros b 4 12) 1
  let (ts, r) ← tableRecs (fieldLE b 0 2) (b.drop 16)
  let (ps, r) ← progRecs (fieldLE b 2 2) r
  wantC (r.isEmpty && decide ((ts.map TableRec.code).Nodup) && decide ((ps.map ProgRec.code).Nodup)) 0x0C
  pure (.sfTables ts ps)

/-- A code of a TARGET format that is not NaN and leaves the unused high bits zero (R92). -/
def entryOk (target code : Nat) : Bool :=
  match Fmt.ofCode target with
  | some f => decide (code < 2 ^ f.width) && (match (decode f false true code).run0.1 with
    | .nan _ _ _ => false
    | _ => true)
  | none => false

def expRecOf (b : List Byte) : Parse ExpRec := do
  let f := fieldLE b 4 1
  let r : ExpRec := ⟨fieldLE b 0 2, fieldLE b 2 1, fieldLE b 3 1, f = 1, fieldLE b 5 1, toSigned 16 (fieldLE b 6 2), fieldLE b 8 4,
    (List.range 16).map fun i => fieldLE b (0x10 + 2 * i) 2⟩
  wantC (f < 2 && zeros b 0xC 4) 1
  wantC (r.tableId < 256 && (r.target = 2 || between r.target 7 0xA)) 0x0C
  let width := if r.source = 5 then 8 else 4
  let lo : Int := if r.sourceSigned then -(2 ^ (width - 1) : Int) else 0
  let hi : Int := if r.sourceSigned then 2 ^ (width - 1) - 1 else 2 ^ width - 1
  wantC (if r.kind = 0 then r.source = 6 && r.zeroPoint = 0 && r.scale = 0 && r.entries.all (entryOk r.target)
    else r.kind = 1 && (r.source = 5 || r.source = 6) && decide (lo ≤ r.zeroPoint) && decide (r.zeroPoint ≤ hi) &&
      bits r.scale 23 8 ≠ 255 && bits r.scale 0 31 ≠ 0 && r.entries.all (· == 0)) 0x0C
  pure r

def timeBaseOf (b : List Byte) : Parse TimeBase := do
  wantC (b.length = 16) 0x0C
  let t : TimeBase := ⟨fieldLE b 0 4, fieldLE b 4 1, fieldLE b 5 1, fieldLE b 6 1, fieldLE b 7 1⟩
  wantC (t.transport < 8 && zeros b 8 8) 1
  wantC (between t.periodUs 100 100000 && t.domain < 128 && t.portPref < 3 && t.source < 3 && t.transport ≠ 0) 0x0C
  pure t

def slotEntryOf (cycle : Nat) (b : List Byte) : Parse SlotEntry := do
  let e : SlotEntry := ⟨fieldLE b 0 4, fieldLE b 4 4, fieldLE b 8 2, fieldLE b 0xA 2⟩
  wantC (e.activities < 4096 && zeros b 0xC 4) 1
  wantC (e.start < cycle && e.length ≤ cycle && between e.budget 1 1000) 0x0C
  pure e

/-- WINDOWS (R450, R453), with the beat period in µs that it runs under. -/
def windowsOf (period : Nat) (b : List Byte) : Parse Windows := do
  wantC (b.length = 288) 0x0C
  wantC (zeros b 0x18 8) 1
  let cycle := fieldLE b 0x14 4
  let n := fieldLE b 2 1
  wantC (n ≤ 16 && between cycle 1 1048576) 0x0C
  let slots ← ((chunks 16 (sliceB b 0x20 256)).take n).mapM (slotEntryOf cycle)
  let w : Windows := ⟨fieldLE b 0 2, fieldLE b 3 1, fieldLE b 4 4, fieldLE b 8 4, fieldLE b 0xC 4, fieldLE b 0x10 4, cycle, slots⟩
  wantC (w.gatherBeats ≠ 0 && w.tracePost ≠ 0 && w.gatherPhaseUs < period && between w.sweepBeats 1 16777216 &&
    w.sweepOffset < w.sweepBeats && w.sweepPhaseUs < period) 0x0C
  pure w

def clockOk (lo v : Nat) : Bool := between v lo 700 && v % 25 = 0

def powerCapsOf (b : List Byte) : Parse PowerCaps := do
  wantC (b.length = 64) 0x0C
  wantC (zeros b 0x1C 4 && zeros b 0x28 24) 1
  let order := (List.range 16).map fun i => bits (fieldLE b 0x20 8) (4 * i) 4
  let p : PowerCaps := ⟨fieldLE b 0 2, fieldLE b 2 2, fieldLE b 4 2, fieldLE b 6 2, fieldLE b 8 2, fieldLE b 0xA 2, fieldLE b 0xC 2,
    fieldLE b 0xE 2, fieldLE b 0x10 1, fieldLE b 0x11 1, fieldLE b 0x12 1, fieldLE b 0x13 1, fieldLE b 0x14 2, fieldLE b 0x16 2,
    fieldLE b 0x18 4, order⟩
  wantC (between p.deviceW 200 1600 && between p.quarterW 40 160 && between p.stackW 25 300 && between p.kerbW 40 190 &&
    between p.flashW 40 185 && between p.arcadeW 30 120 && clockOk 350 p.floorMhz && clockOk p.floorMhz p.ceilMhz &&
    between p.threshMax 1 32 && p.widenFloor ≤ 3 && p.refreshMin ≤ 2 && between p.eqFecExp 3 9 && p.earlyMin ≤ 512 &&
    between p.earlyMax p.earlyMin 512 && p.moveGib ≤ 65536 && decide order.Nodup) 0x0C
  pure p

def quarterCapsOf (b : List Byte) : Parse QuarterCaps := do
  wantC (b.length = 16) 0x0C
  wantC (zeros b 6 10) 1
  let p : QuarterCaps := ⟨fieldLE b 0 2, fieldLE b 2 2, fieldLE b 4 2⟩
  wantC (between p.capW 40 160 && clockOk 350 p.floorMhz && clockOk p.floorMhz p.ceilMhz) 0x0C
  pure p

/-- An entry of KEY_TABLE (R528). -/
def keyEntryOf (b : List Byte) : Parse KeyEntry := do
  let f := fieldLE b 2 1
  let e : KeyEntry := ⟨fieldLE b 0 1, fieldLE b 1 1, f = 1, sliceB b 0x10 32⟩
  wantC (f < 2 && zeros b 3 13) 1
  wantC (e.slot < 16 && (!e.revoke || allZero e.key)) 0x0C
  pure e

/-- The entries of a body with a 16-byte header that holds their count. -/
def counted (n : Nat) (b : List Byte) : Parse (List (List Byte)) := do
  wantC (16 ≤ b.length && b.length = 16 + n * fieldLE b 0 2) 0x0C
  wantC (zeros b 2 14) 1
  pure (chunks n (b.drop 16))

/-- The body of a section, under the beat period in force. A body whose length its layout does not allow is rejected under
cause 0x0C (DEDUCED, log entry 36). -/
def bodyOf (period type : Nat) (scope : Scope) (b : List Byte) : Parse SectionBody := do
  let base := match scope.kind with
    | .quarter => 72 * scope.index
    | _ => scope.index
  let cells := match scope.kind with
    | .quarter => 288 * scope.index
    | .block => 4 * scope.index
    | _ => scope.index
  if type = 0x10 then
    wantC (b.length = 1024) 0x0C
    return .districts (← (chunks 64 b).mapM districtOfBytes)
  else if type = 0x11 then
    wantC (b.length = (if scope.kind = .quarter then 288 else 4)) 0x0C
    let es ← (chunks 4 b).mapM blockEntryOf
    return .blockMap (es.zipIdx.map fun e => (base + e.2, e.1))
  else if type = 0x12 then
    wantC (b.length = (match scope.kind with
      | .quarter => 288
      | .block => 4
      | _ => 1)) 0x0C
    wantC (b.all fun x => x.toNat < 4) 1
    return .cellGrouping (b.zipIdx.map fun e => (cells + e.2, bits e.1.toNat 0 1 = 1, bits e.1.toNat 1 1 = 1))
  else if type = 0x20 then
    return .ecc (← (← counted 16 b).mapM (eccEntryOf scope))
  else if type = 0x30 then
    return .namespaces (← (← counted 64 b).mapM nsEntryOf)
  else if type = 0x40 then return .arbitration b
  else if type = 0x41 then return .kerbPolicy (← kerbPolicyOf b)
  else if type = 0x50 then sfTablesOf b
  else if type = 0x51 then
    let rs ← (← counted 48 b).mapM expRecOf
    wantC (decide ((rs.map ExpRec.tableId).Nodup)) 0x0C
    return .expansions rs
  else if type = 0x60 then return .timeBase (← timeBaseOf b)
  else if type = 0x61 then return .windows (← windowsOf period b)
  else if type = 0x70 then
    if scope.kind = .device then return .powerCaps (← powerCapsOf b) else return .quarterCaps (← quarterCapsOf b)
  else if type = 0x80 then return .routes b
  else if type = 0x81 then return .homing b
  else
    wantC (b.length % 48 = 0) 0x0C
    return .keyTable (← (chunks 48 b).mapM keyEntryOf)

/-! Keys (R527). -/

/-- The bit of KINDS that permits a KIND. -/
def kindBit (kind : Nat) : Nat := if kind = 1 then 0 else if kind = 2 then 1 else if kind = 3 then 2 else 3

namespace Dev

/-- The state of a key slot: slots 0 and 1 hold the ROM's keys. -/
def keyAt (d : Dev) (slot : Nat) : Option KeySlotState :=
  match AMap.look d.sec.keys slot with
  | some k => some k
  | none => if slot < 2 then some ⟨Config.romKey slot, 0x19, false⟩ else none

/-- The rollback counter that governs a KIND (R526). -/
def rollbackOf (d : Dev) (kind : Nat) : Nat :=
  if kind = 1 then d.fget Reg.SEC_ROLLBACK Fld.SEC_ROLLBACK_FIRMWARE
  else if kind = 4 then d.fget Reg.SEC_ROLLBACK Fld.SEC_ROLLBACK_KEY
  else d.fget Reg.PLAN_ROLLBACK Fld.PLAN_ROLLBACK_COUNTER

/-- A unit of a scope is present: its quarter is not quarantined, its block not retired, its cell not fenced, its Kerb online. -/
def unitPresent (d : Dev) (s : Scope) : Bool :=
  let block (b : Nat) : Bool := !d.quarantined (b / 72) && (d.block b).role ≠ .retired
  match s.kind with
  | .device => true
  | .quarter => !d.quarantined s.index
  | .block => block s.index
  | .cell => block (s.index / 4) && !(cellOf d.plan (s.index / 4) (s.index % 4)).2
  | .kerb => (d.kerb s.index).homeUp || (d.kerb s.index).secondUp

/-- Regions that the device reserves (R363), which LIGHT may not cover. -/
def reservedRegion (d : Dev) (nss : List NsDef) (r : Nat) : Bool :=
  let total := t1Reserved nss
  let part (a : Nat) : Nat := total / 8 + (if a < total % 8 then 1 else 0)
  if r < 768 then r = d.t0Reserved else if r < 4864 then (r - 768) % 512 < part ((r - 768) / 512) else false

end Dev

/-- Highest sequence number applied (R58). -/
def PlanState.highSeq (p : PlanState) : Nat := (p.committed ++ p.uncommitted).foldl (fun m c => max m c.sequence) 0

/-- The entry of a section and its bytes. -/
structure RawSection where
  index : Nat
  type : Nat
  kind : Nat
  unit : Nat
  offset : Nat
  length : Nat
  body : List Byte

def rawSections (b : List Byte) : List RawSection :=
  (List.range (fieldLE b 0x10 2)).map fun i =>
    let o := 128 + 16 * i
    let off := fieldLE b (o + 8) 4
    let len := fieldLE b (o + 0xC) 4
    ⟨i, fieldLE b o 2, fieldLE b (o + 2) 1, fieldLE b (o + 4) 4, off, len, sliceB b off len⟩

/-- The beat period that a container's sections run under. -/
def periodOf (d : Dev) (kind : Nat) (raws : List RawSection) : Nat :=
  match raws.find? fun r => r.type = 0x60 with
  | some r => if kind = 2 then fieldLE r.body 0 4 else d.plan.timeBase.periodUs
  | none => d.plan.timeBase.periodUs

/-- A section's entry lies as R41 asks: aligned, after the section table, before the trailer. -/
def RawSection.inside (r : RawSection) (b : List Byte) (first : Nat) : Bool :=
  r.offset % 16 = 0 && first ≤ r.offset && r.offset + r.length + 7872 ≤ b.length

/-- Cause 0x01: MAGIC, FORMAT and KIND, and every reserved field, of the header, the trailer, the section table and the bodies (R40 to
R42, R59). -/
def formCheck (d : Dev) (kinds : List Nat) (b : List Byte) (raws : List RawSection) : Except Reject Unit := do
  let f (o n : Nat) : Nat := fieldLE b o n
  let kind := f 6 1
  let amend := kind = 3
  want (f 0 4 = 0x544B4C50 && f 4 2 = 1 && kinds.contains kind) 1
  want (zeros b 0x13 1 && zeros b 0x32 14 && (b.length < 7872 || zeros b (b.length - 7872 + 4) 12)) 1
  want (f 7 1 ≤ 1 && (f 7 1 = 1 || f 0x28 8 = 0)) 1
  want (amend || (f 7 1 = 0 && f 0x12 1 = 0 && f 0x14 4 = 0 && f 0x20 8 = 0 && f 0x30 2 = 0 && zeros b 0x40 32)) 1
  raws.forM fun r => want (zeros b (128 + 16 * r.index + 3) 1) 1 r.index
  raws.forM fun r =>
    let scope : Scope := ⟨(ScopeKind.ofCode r.kind).getD .device, r.unit⟩
    let causes := ((bodyOf (periodOf d kind raws) r.type scope r.body).run []).2
    want (!r.inside b (128 + 16 * raws.length) || !causes.contains 1) 1 r.index

/-- Cause 0x02: the length, and the places of the sections. -/
def sizeCheck (limit : Nat) (b : List Byte) (raws : List RawSection) : Except Reject Unit := do
  let n := b.length
  let first := 128 + 16 * raws.length
  want (fieldLE b 8 8 ≠ 0 && n ≤ limit && fieldLE b 8 8 = n && first + 7872 ≤ n) 2
  raws.forM fun r => want (r.inside b first) 2 r.index

/-- Causes 0x03 to 0x09: signature, key, counter, binding, stepping, base and sequence (R42, R59). -/
def trustCheck (d : Dev) (b : List Byte) : Except Reject Unit := do
  let f (o n : Nat) : Nat := fieldLE b o n
  let kind := f 6 1
  let amend := kind = 3
  let trailer := b.length - 7872
  let key := d.keyAt (f trailer 2)
  want (match key with
    | some k => Config.slhVerify k.key (b.take (trailer + 16)) (b.drop (trailer + 16))
    | none => true) 3
  want (match key with
    | some k => !k.revoked && bits k.kinds (kindBit kind) 1 = 1 && f (trailer + 2) 2 = 1
    | none => false) 4
  want (d.rollbackOf kind ≤ f 0x18 4) 5
  want (zeros b 0x60 32 || f 0x60 32 = sha256 Config.identityKey) 6
  want (bits (f 0x1C 4) (d.fget Reg.DEV_ID Fld.DEV_ID_STEPPING) 1 = 1) 7
  want (!amend || f 0x40 32 = d.plan.standing.digest) 8
  want (!amend || f 0x10 2 = 0 || f 0x20 8 = d.plan.highSeq + 1) 9

/-- Causes 0x01 to 0x09: all that a firmware image is held to before it is stored (R59). -/
def headerCheck (d : Dev) (kinds : List Nat) (limit : Nat) (b : List Byte) : Except Reject Unit := do
  let raws := rawSections b
  formCheck d kinds b raws
  sizeCheck limit b raws
  trustCheck d b

/-- A section's unit exists and is present. A standing plan may name a quarantined quarter at quarter scope: its activation tests the
quarter again (R495), and only a section of that scope gives the quarter's blocks their roles (DEDUCED, log entry 68). -/
def presentFor (d : Dev) (kind : Nat) (s : Scope) : Bool :=
  decide (s.index < s.kind.count) && (kind = 4 || (kind = 2 && s.kind = .quarter) || d.unitPresent s)

/-- A container parsed: causes 0x0A and 0x0B of its sections, and 0x0C of their bodies. An unknown SCOPE_KIND, in the header or in a
section's entry, has cause 0x0A (DESIGN CHOICE, log entry 74: R59 names none for it). -/
def parseContainer (d : Dev) (b : List Byte) (raws : List RawSection) : Except Reject Container := do
  let f (o n : Nat) : Nat := fieldLE b o n
  let kind := f 6 1
  let scope ← match ScopeKind.ofCode (f 0x12 1) with
    | some k => pure (Scope.mk k (f 0x14 4))
    | none => .error (0x0A, 0xFFFF)
  let scopes ← raws.mapM fun r => match ScopeKind.ofCode r.kind with
    | some k => pure (Scope.mk k r.unit)
    | none => .error (0x0A, r.index)
  (raws.zip scopes).forM fun (r, s) =>
    want ((typeScopes r.type).contains s.kind && ((kind = 4) == (r.type = 0xF0)) && scope.contains s && r.length ≠ 0) 0x0A r.index
  want (presentFor d kind scope) 0x0B
  (raws.zip scopes).forM fun (r, s) => want (presentFor d kind s) 0x0B r.index
  let secs ← (raws.zip scopes).mapM fun (r, s) =>
    match (bodyOf (periodOf d kind raws) r.type s r.body).run [] with
    | (body, []) => pure (Section.mk r.type s body)
    | (_, c :: _) => .error (c, r.index)
  let trailer := b.length - 7872
  pure { kind := kind, swapAtBeat := f 7 1 = 1, scope := scope, rollback := f 0x18 4, sequence := f 0x20 8, swapBeat := f 0x28 8,
         quiesceLimit := f 0x30 2, keySlot := f trailer 2, digest := sha256 b, size := b.length, sections := secs }

/-! Checks of the effective plan that a container would make (R46, R48, R49, R59, R92, R155, R363, R378, R484, R485). -/

def districtsUnder (secs : List Section) : List DistrictEntry :=
  match lastBody secs 0x10 .device 0 with
  | some (.districts es) => es
  | _ => List.replicate 16 {}

/-- The signed roles of every block. -/
def rolesUnder (secs : List Section) : List BlockEntry := (List.range 288).map fun b => (planRole secs b).getD ⟨.retired, 0⟩

def blocksOf (roles : List BlockEntry) (dist : Nat) : Nat :=
  (roles.filter fun e => match e.role with
    | .active _ => e.district = dist
    | _ => false).length

/-- Programs named by FN are in the bank and none names itself, at any depth (R155). -/
def fnClosed (k : Bank) : Nat → List Nat → Bool
  | 0, cs => cs.isEmpty
  | n + 1, cs =>
    let fns (c : Nat) : List Nat := match k.progs.find? fun p => p.code = c with
      | some p => (p.instrs.filter fun w => bits w 0 8 = 0x10).map fun w => bits w 32 8
      | none => []
    cs.isEmpty || fnClosed k n (cs.flatMap fns).dedup

def fnOk (k : Bank) : Bool :=
  let named := k.progs.flatMap fun p => (p.instrs.filter fun w => bits w 0 8 = 0x10).map fun w => bits w 32 8
  (named.all fun c => between c 1 0xE || (k.tables.any fun t => t.code = c) || k.progs.any fun p => p.code = c) &&
    fnClosed k 129 (k.progs.map ProgRec.code)

/-- A rule of the effective plan: whether it holds, and the section types that could break it. -/
abbrev PlanRule := Bool × List Nat

/-- A district has lost blocks through annotations, so that the rule of multiples of 4 does not apply to it (R63). -/
def lostBlocks (d : Dev) (roles : List BlockEntry) (dist : Nat) : Bool :=
  let held (e : BlockEntry) : Bool := match e.role with
    | .active _ => e.district = dist
    | _ => false
  d.plan.annotations.any fun a => match a with
    | .retire b => held (roles.getD b ⟨.retired, 0⟩) || held ((planRole d.plan.sections b).getD ⟨.retired, 0⟩) ||
        d.plan.annotations.any fun y => match y with
          | .activate x _ z => x = b && z = dist
          | _ => false
    | _ => false

/-- Rules of cause 0x0C that a plan as a whole keeps. `exempt`: districts whose blocks R49 judges. -/
def planRules (d : Dev) (secs : List Section) (exempt : Nat → Bool) : List PlanRule :=
  let ds := districtsUnder secs
  let roles := rolesUnder secs
  let nss := nsUnder secs
  let ok (i : Nat) (e : DistrictEntry) : Bool :=
    if e.enable then
      (blocksOf roles i % 4 = 0 || lostBlocks d roles i) && e.energyCapMw ≠ 0 && e.defaultProbes ≠ 0 && e.defaultBeam ≠ 0 &&
        e.scaleHistory ≠ 0 && e.hostqFirst + e.hostqCount ≤ 4096
    else exempt i || blocksOf roles i = 0
  let all := ds.zipIdx
  let meets (a b : DistrictEntry × Nat) : Bool := a.2 ≠ b.2 && overlap a.1.hostqFirst a.1.hostqCount b.1.hostqFirst
    b.1.hostqCount
  let logicals (q : Nat) : List Nat := (List.range 72).filterMap fun p => match (roles.getD (72 * q + p) ⟨.retired, 0⟩).role with
    | .active l => some l
    | _ => none
  [(all.all fun e => ok e.2 e.1, [0x10, 0x11]), (all.all fun a => all.all fun b => !meets a b, [0x10]),
    (decide ((ds.map (·.t0Gib)).sum ≤ d.t0Present), [0x10]),
    (decide ((ds.map (·.t1Gib)).sum + Dev.t1Reserved nss ≤ d.t1Present), [0x10, 0x30]),
    (decide ((ds.map (·.kerbShare)).sum ≤ 1024), [0x10]), ((List.range 4).all fun q => decide (logicals q).Nodup, [0x11]),
    (decide ((nss.map (·.size)).sum ≤ 320 * 2 ^ 40), [0x30]),
    (nss.all fun n => n.idShare = 0 || nss.any fun m => m.nsid = n.idShare && m.idShare = 0, [0x30]),
    ((eccUnder secs).all fun e => !e.light || (List.range e.count).all fun i => !d.reservedRegion nss (e.first + i), [0x20, 0x30]),
    ((List.range 288).all fun b =>
      let k := bankUnder secs b
      (k.tables.isEmpty && k.progs.isEmpty && k.exps.isEmpty) || (bankFits k && fnOk k), [0x50, 0x51])]

/-- Records of one double-banked type that a container gives at one scope repeat no code (R92, R153, R154). -/
def codesOnce (c : Container) : Bool :=
  c.sections.all fun s =>
    let (ts, ps) := sfRecords c.sections s.scope.kind s.scope.index
    let es := expRecords c.sections s.scope.kind s.scope.index
    decide ((ts.map TableRec.code).Nodup) && decide ((ps.map ProgRec.code).Nodup) && decide ((es.map ExpRec.tableId).Nodup)

/-- Rules that a container's sections keep among themselves (R46, R92, R378, R528). -/
def containerRules (d : Dev) (c : Container) : List PlanRule :=
  [(c.kind ≠ 2 || (c.sections.filter fun s => s.type = 0x60).length = 1, [0x60]), (codesOnce c, [0x50, 0x51]),
    (decide ((c.sections.flatMap fun s => match s.body with
      | .namespaces es => es.map NsDef.nsid
      | _ => []).Nodup), [0x30]),
    (c.sections.all fun s => match s.body with
      | .keyTable es => decide ((es.map KeyEntry.slot).Nodup) && es.all fun e =>
          let revoked := match d.keyAt e.slot with
            | some k => k.revoked
            | none => false
          (e.revoke || (2 ≤ e.slot && e.slot ≠ c.keySlot && !revoked)) && (!revoked || e.revoke)
      | _ => true, [0xF0])]

/-- What is resident that an amendment, or the REVERT of one, must not conflict with (cause 0x0D): shares and districts (R49), the class
of regions that hold objects, retired blocks, those that the plan itself retires among them, and fenced cells, which return by a standing
plan only (R123). A standing plan is held to the blocks retired by annotation only, and a REVERT restores what its amendment replaced.
`secs`: the sections it leaves. -/
def conflictRules (d : Dev) (c : Container) (secs : List Section) (reverting : Bool) : List PlanRule :=
  let old := d.plan.districts
  let new := districtsUnder secs
  let lowered (i : Nat) : Bool :=
    let a := old.getD i {}
    let b := new.getD i {}
    (b.t0Gib < a.t0Gib && 512 * b.t0Gib < d.shareUsed i 0) || (b.t1Gib < a.t1Gib && 512 * b.t1Gib < d.shareUsed i 1) ||
      (a.enable && !b.enable && blocksOf (rolesUnder secs) i ≠ 0)
  let ecc := eccUnder secs
  let regions := (d.place.objs.flatMap fun o => if o.2.tier = 3 then [] else o.2.extents.map (· / 512)).dedup
  let retired (b : Nat) : Bool := d.plan.annotations.contains (.retire b) ||
    (c.kind = 3 && !reverting && (roleOf d.plan b).role = .retired)
  let role (e : Nat × BlockEntry) : Role := if reverting then ((planRole secs e.1).getD ⟨.retired, 0⟩).role else e.2.role
  let fence (e : Nat × Bool × Bool) : Bool := if reverting then (cellOf { standing := { d.plan.standing with sections := secs } } (e.1 / 4)
    (e.1 % 4)).2 else e.2.2
  let lends (t : Nat) : Bool := Dev.sharesOf t new ≤ Dev.sharesOf t old || Dev.sharesOf t new + d.lent t ≤ d.openGib t
  [(c.kind ≠ 3 || !(c.sections.any fun s => s.type = 0x10) || (!((List.range 16).any lowered) && lends 0 && lends 1), [0x10]),
    (c.kind ≠ 3 || !(regions.any fun r => d.regionLight r ≠ lightUnder ecc r), [0x20]),
    (c.sections.all fun s => match s.body with
      | .blockMap es => es.all fun e => role e = .retired || !retired e.1
      | _ => true, [0x11]),
    (c.kind ≠ 3 || c.sections.all fun s => match s.body with
      | .cellGrouping es => es.all fun e => fence e || !(cellOf d.plan (e.1 / 4) (e.1 % 4)).2
      | _ => true, [0x12])]

/-- The first rule that is broken, with the container's first section of a type that could break it. -/
def firstBroken (c : Container) (cause : Nat) (rules : List PlanRule) : Except Reject Unit :=
  match rules.find? fun r => !r.1 with
  | none => .ok ()
  | some r => .error (cause, (c.sections.findIdx? fun s => r.2.contains s.type).getD 0xFFFF)

/-- The plan that an amendment or a REVERT leaves, checked against R46 and R48 and against resident state: causes 0x0C and 0x0D. -/
def checkPlan (d : Dev) (c : Container) (secs : List Section) (reverting : Bool) : Except Reject Unit := do
  let dropped (i : Nat) : Bool := c.kind = 3 && (d.plan.districts.getD i {}).enable
  firstBroken c 0x0C (planRules d secs dropped)
  firstBroken c 0x0D (conflictRules d c secs reverting)

/-- A section that only a standing plan may hold: TIME_BASE, or an entry that changes a namespace that exists (R45). -/
def standingOnly (d : Dev) (s : Section) : Bool :=
  match s.body with
  | .namespaces es => es.any fun e => match d.nsDef e.nsid with
    | some n => n ≠ e
    | none => false
  | _ => s.type = 0x60

/-- A container checked completely, cause by cause in the order of R59. -/
def checkContainer (d : Dev) (kinds : List Nat) (limit : Nat) (b : List Byte) : Except Reject Container := do
  headerCheck d kinds limit b
  let c ← parseContainer d b (rawSections b)
  let secs := if c.kind = 3 then d.plan.sections ++ c.sections else c.sections
  firstBroken c 0x0C (containerRules d c)
  if c.kind ≠ 4 then checkPlan d c secs false
  if c.kind = 3 then
    match c.sections.findIdx? (standingOnly d) with
    | some i => .error (0x0E, i)
    | none => pure ()
  pure c

end Sys2Proof.Machine
end

