-- ==== Sys2Proof/Machine/Wipe.lean ====
section
/-! DEFINITION. Format NVM and Sanitize (R433 to R435), and the erases that NAND_ERASE_DONE reports. -/

namespace Sys2Proof.Machine

namespace Dev

/-- The namespaces an NSID names: all of them for 0xFFFFFFFF. -/
def nsNamed (d : Dev) (nsid : Nat) : List NsDef :=
  if nsid = 0xFFFFFFFF then d.plan.namespaces else d.plan.namespaces.filter fun n => n.nsid = nsid

/-- A placed service or job record names a namespace. -/
def nsServed (d : Dev) (ns : Nat) : Bool := (d.services.any fun s => s.ns = ns && !s.gone) || (d.jobs.any fun j => j.2.ns = ns)

/-- Every unit of a namespace is unmapped; its index versions, IDs, records and cached pieces go. Queries on it end (DEDUCED, log
entry 37). -/
def emptyNs (d : Dev) (ns : Nat) : Dev :=
  let d := (d.queries.filter fun q => q.2.desc.ns = ns).foldl (fun d q => d.failQuery q.1 .formatInProgress true) d
  let mine (k : Nat) : Bool := k / 2 ^ 40 = ns
  let d := (d.media.map.filter fun x => mine x.1).foldl (fun d x => d.unmap ns (x.1 % 2 ^ 40)) d
  let d := d.modMedia fun m =>
    { m with unplaced := m.unplaced.filter fun u => u.ns ≠ ns,
             clean := m.clean.filter fun k => !mine k,
             partials := m.partials.map fun p => (p.1, p.2.filter fun u => u.ns ≠ ns),
             stale := m.stale.filter fun s => s.ns ≠ ns }
  let d := (List.range 48).foldl (fun d k => d.cacheDropWhere k fun p => p.ns = ns) d
  let owner := d.idOwner ns
  let gone (c : Deferred) : Bool := match c with
    | .tomb n _ _ => n = ns
    | .secure _ _ n _ _ => n = ns
    | .assign n _ _ _ => n = ns
    | .freeNext n _ => n = ns
    | .free n _ => n = ns
    | .rewrite n _ _ _ => n = ns
    | .switch n _ _ _ _ => n = ns
    | _ => false
  let switches := d.changes.filterMap fun c => match c with
    | .switch n _ _ q cid => if n = ns then some (q, cid) else none
    | _ => none
  let d := { d with nsMem := Mem.zero d.nsMem (2 ^ 49 * ns) (2 ^ 49), versions := d.versions.filter fun v => v.ns ≠ ns,
                    ids := d.ids.filter fun x => x.1 / 2 ^ 40 ≠ owner, texts := d.texts.filter fun x => x.1 / 2 ^ 40 ≠ owner,
                    staleIds := d.staleIds.filter fun x => x.1 / 2 ^ 40 ≠ owner, changes := d.changes.filter fun c => !gone c }
  switches.foldl (fun d x => d.finishPort x.1 x.2 .formatInProgress) d

/-- The checks of Format NVM (R433, R535). -/
def formatCheck (d : Dev) (nsid lbaf ses : Nat) : Option Status :=
  let nss := d.nsNamed nsid
  let shared (n : NsDef) : Bool := d.plan.namespaces.any fun m => m.nsid ≠ n.nsid && m.keySlot = n.keySlot
  if lbaf ≠ 0 || 2 < ses || (nsid ≠ 0xFFFFFFFF && nss.isEmpty) then some .invalidField
  else if nss.any fun n => d.nsServed n.nsid then some .commandSequenceError
  else if ses = 2 && nsid ≠ 0xFFFFFFFF && nss.any shared then some .commandSequenceError
  else none

/-- A write set of records without a command. -/
def addRecordSet (d : Dev) (owner : Option (Nat × Nat)) (e : WriteEffect) : Dev :=
  let o := d.squares.nextObject
  let w : WriteSet := ⟨owner, 7, o, d.sectorsOn 0 1, d.sectorsOn 1 1, 1, e⟩
  ({ d with squares := { d.squares with writeSets := d.squares.writeSets ++ [w], nextObject := o + 1 } } : Dev).driveWrites

/-- Step 4 of R535 as start-up finishes it, on the Squares in service. -/
def finishKeyErases (d : Dev) : Dev :=
  let due := d.sec.keyErases.filter fun x => d.sqState x.1 ≠ .outOfService
  let d := due.foldl (fun d x =>
    let d := match AMap.look (d.flash x.1).sectors x.2 with
      | some y => if y.live then d.appendSector x.1 (y.kind, y.object) else d
      | none => d
    d.modFlash x.1 fun f => { f with sectors := AMap.drop f.sectors x.2, erases := AMap.put f.erases x.2 (AMap.get f.erases x.2 0 + 1) }) d
  { d with sec := { d.sec with keyErases := d.sec.keyErases.filter fun x => !due.contains x } }

/-- The work of a Format: what its Secure Erase Setting asks for, then its completion. -/
def formatRun (d : Dev) (q cid nsid ses : Nat) : Dev :=
  let nss := d.nsNamed nsid
  let w : Wipe := ⟨false, nsid, ses, false, 0, 0, q, cid, false, 0, []⟩
  let d := { d with host := { d.host with wipe := some w } }
  let d := nss.foldl (fun d n => d.emptyNs n.nsid) d
  match ses with
  | 0 => d.finish q cid .success
  | 1 =>
    let e : Erasure := { queue := q, cid := cid, ns := nsid, ranges := [(0, 2 ^ 45)], drained := true, journalled := true, format := true }
    let i := d.media.nextErasure
    (d.modMedia fun m => { m with nextErasure := i + 1 }).eraseCopies i e
  | _ => d.addRecordSet (some (q, cid)) (.nsKeys (nss.map NsDef.keySlot).dedup)

/-! Sanitize. -/

/-- I/O commands in flight end with Sanitize In Progress (R435; DEDUCED for those dispatched before). -/
def endIo (d : Dev) : Dev :=
  let d := d.queries.foldl (fun d q => d.failQuery q.1 .sanitizeInProgress false) d
  let d := d.blocks.foldl (fun d b => (d.block b.1).slots.foldl (fun d s =>
    d.endCommand b.1 s.1 .sanitizeInProgress ((d.block b.1).running = some s.1)) d) d
  let io := d.host.inflight.filter fun x => !isAdmin x.queue
  io.foldl (fun d x => d.finish x.queue x.cid .sanitizeInProgress) d

/-- Phase 1: caches and the protected buffer are dropped, placement is released, T0, T1 and the trace are zeroed. -/
def sanitizePhase1 (d : Dev) : Dev :=
  let d := d.endIo
  let d := (List.range 48).foldl (fun d k => d.cacheDropWhere k fun _ => true) d
  let d := d.stopDies.modMedia fun m =>
    { m with programs := [], unplaced := [], partials := [], clean := [], acks := [], stale := [], erasures := [], rewrites := [],
             victims := [] }
  let d := d.place.leases.foldl (fun d (l, x) =>
    if x.state = .ended then d else (d.emit (.peer x.peer x.remote (if x.borrower then 3 else 4) d.beat)).endLease l) d
  let gens := d.place.objs.foldl (fun g x => AMap.put g x.1 ((x.2.gen + 1) % 256)) d.place.gens
  let d := { d with place := { d.place with objs := [], gens := gens, bindings := [], streams := [], t3 := [], placing := [] },
                    services := [], jobs := [], filters := [], changes := [], staleIds := [], objMem := [], batches := [],
                    passes := [], sweepLeft := [] }
  { d with trace := { d.trace with records := [], telemetry := [] } }

/-- Dies in service whose block group can be erased. -/
def erasableDies (d : Dev) (g : Nat) : List Nat :=
  (List.range 1536).filter fun i => d.dieOk i && (d.die (i / 32) (i % 32)).present && !(d.bg (2048 * i + g)).bad

/-- Block Erase starts on the next block group, in ascending order, of every die in service; past the last one, phase 3 begins. -/
def eraseGroup (d : Dev) (w : Wipe) (g : Nat) : Dev :=
  match (List.range' g (2048 - g)).find? fun g => !(d.erasableDies g).isEmpty with
  | none => { d with host := { d.host with wipe := some { w with phase := 3, sprog := 61440, dies := [] } } }
  | some g =>
    let dies := d.erasableDies g
    let op : DieOp := { kind := .erase, cls := .write, purpose := .erase, ns := 0, piece := g, since := d.time.ns }
    let d := dies.foldl (fun d i => ((d.modBg (2048 * i + g) fun x => { x with intent := true }).journalPut
      (.eraseIntent i g (d.bg (2048 * i + g)).epoch)).modDie (i / 32) (i % 32) fun x => { x with busy := some op }) d
    { d with host := { d.host with wipe := some { w with phase := 2, sprog := 4096 + 28 * g, group := g, dies := dies } } }

/-- A sanitize fails (R435): the device is in the failure mode that AUSE selected. -/
def sanitizeFails (d : Dev) (w : Wipe) : Dev :=
  { d with host := { d.host with wipe := some { w with failed := true, dies := [] }, sanitizeResult := 3, sanitizeProgress := w.sprog } }

/-- A die has erased its block group. -/
def wipeErased (d : Dev) (w : Wipe) (die : Nat) (verified : Bool) : Dev :=
  if !w.dies.contains die then d
  else
    let d := d.modDie (die / 32) (die % 32) fun x => { x with busy := none }
    let key := 2048 * die + w.group
    if !verified then ((d.modBg key fun x => { x with bad := true, intent := false }).badCheck die).sanitizeFails w
    else
      let d := (d.modBg key fun x => { x with epoch := (x.epoch + 1) % 2 ^ 32, intent := false, reads := 0 }).journalPut
        (.eraseDone die w.group)
      let w := { w with dies := w.dies.filter (· ≠ die) }
      if w.dies.isEmpty then d.eraseGroup w (w.group + 1) else { d with host := { d.host with wipe := some w } }

/-- Nothing of the namespaces is left. -/
def emptyFlash (d : Dev) : Dev :=
  let d := d.modMedia fun m =>
    { m with map := [], sbs := [], padded := [], checkpoint := [], journal := [], staged := [], sinceCheckpoint := 0, pairBytes := 0 }
  { d with nsMem := [], versions := [], ids := [], texts := [] }

/-- Block groups that phase 2 has completed as the last progress record shows them, one at each multiple of 256 of SPROG. -/
def recordedGroups (sprog : Nat) : Nat := (sprog / 256 * 256 - 4096) / 28

/-- Phase 1 is complete: the next phase starts. -/
def sanitizePhase2 (d : Dev) (w : Wipe) : Dev :=
  let d := d.emptyFlash
  let w := { w with phase := 2, sprog := 4096 }
  if w.action = 4 then
    let slots := d.sec.nsKeys.map (·.1)
    if slots.isEmpty then { d with host := { d.host with wipe := some { w with phase := 3, sprog := 61440 } } }
    else (({ d with host := { d.host with wipe := some w } } : Dev).addRecordSet none (.nsKeys slots))
  else d.eraseGroup w 0

/-- Phase 3 is complete: empty tables and a checkpoint are written, and the sanitize with them. -/
def sanitizeDone (d : Dev) : Dev :=
  let d := d.modMedia fun m => { m with checkpoint := [], journal := [], staged := [], sinceCheckpoint := 0 }
  let d := (d.openPair (d.media.pair + 1)).openTwice (d.media.pair + 1) .checkpoint
  let d := d.fadd Reg.FTL_JOURNAL Fld.FTL_JOURNAL_CHECKPOINTS 1
  { d with host := { d.host with wipe := none, sanitizeResult := 1, sanitizeProgress := 65535 } }

/-- Sanitize is accepted: phase 1 begins and the command completes. -/
def sanitizeRun (d : Dev) (q cid action : Nat) (ause : Bool) : Dev :=
  let w : Wipe := ⟨true, 0, action, ause, 1, 0, q, cid, false, 0, []⟩
  let d := d.finish q cid .success
  ({ d with host := { d.host with wipe := some w, sanitizeResult := 2, sanitizeProgress := 0 } } : Dev).sanitizePhase1

/-- Start-up empties a superblock and erases it (R388, R397): its valid units are relocated, and a block group of `failed` does not verify
and is bad. -/
def emptySb (d : Dev) (failed : List Nat) (g b : Nat) : Dev :=
  let us := (d.media.map.filter fun x => x.2.group = g && x.2.bg = b).map fun x =>
    ProgUnit.mk (x.1 / 2 ^ 40) (x.1 % 2 ^ 40) x.2 (some x.2) none
  let d := d.closeSb g b
  let d := d.modMedia fun m => { m with victims := [Victim.mk g b .write [] true] }
  let d := ((d.putUnits us).drainBuffer (2 ^ 20)).stopDies
  let d := (d.members g b).foldl (fun d m =>
    let die := dieOf g m
    let key := 2048 * die + b
    let d := d.journalPut (.eraseIntent die b (d.bg key).epoch)
    if failed.contains key then (d.modBg key fun y => { y with intent := false, bad := true }).badCheck die
    else (d.modBg key fun y => { y with epoch := (y.epoch + 1) % 2 ^ 32, intent := false, reads := 0 }).journalPut (.eraseDone die b)) d
  (d.modMedia fun m => { m with victims := [] }).modSb g b fun _ => { state := .free, freedBeat := d.beat }

/-- Block Erase goes on during start-up, from a block group to the last. A block group of `failed` does not verify, which fails the sanitize
(R435). -/
def resumeErase (d : Dev) (w : Wipe) (failed : List Nat) (first : Nat) : Dev :=
  let wrong (g : Nat) : List Nat := (d.erasableDies g).filter fun i => failed.contains (2048 * i + g)
  let all := List.range' first (2048 - first)
  let stop := all.find? fun g => !(wrong g).isEmpty
  let d := (all.filter fun g => match stop with
    | some x => g ≤ x
    | none => true).foldl (fun d g => (d.erasableDies g).foldl (fun d i =>
      let key := 2048 * i + g
      let d := d.journalPut (.eraseIntent i g (d.bg key).epoch)
      if failed.contains key then (d.modBg key fun x => { x with bad := true }).badCheck i
      else (d.modBg key fun x => { x with epoch := (x.epoch + 1) % 2 ^ 32, intent := false, reads := 0 }).journalPut (.eraseDone i g)) d) d
  match stop with
  | some g => d.sanitizeFails { w with phase := 2, group := g, sprog := 4096 + 28 * g }
  | none => d.stopDies.sanitizeDone

/-- A sanitize or a Format cut by a reset is carried out from its last recorded progress during start-up (R435). -/
def resumeWipe (d : Dev) (failed : List Nat) : Dev :=
  let replaced := d.keyEraseNext.isSome
  let d := d.finishKeyErases
  match d.host.wipe with
  | none => d
  | some w =>
    if w.failed then d
    else if !w.sanitize then
      let d := (d.nsNamed w.ns).foldl (fun d n => d.emptyNs n.nsid) d
      let hit (c : Nat × Nat) : Bool := w.ns = 0xFFFFFFFF || c.1 / 2 ^ 40 = w.ns
      let d := if w.action = 1 then
          ((d.media.sbs.filter fun x => x.2.copies.any hit).map fun x => (x.1 / 2048, x.1 % 2048)).foldl (fun d x => d.emptySb failed x.1 x.2) d
        else d
      let slots := ((d.nsNamed w.ns).map NsDef.keySlot).dedup
      let d := if w.action = 2 && !replaced then (d.startKeys slots).finishKeyErases else d
      { d with host := { d.host with wipe := none } }
    else
      let d := d.sanitizePhase1.emptyFlash
      let first := if w.phase < 2 then 0 else if w.phase = 2 then recordedGroups w.sprog else 2048
      if w.action = 4 then
        (if w.phase = 3 || replaced then d else (d.startKeys (d.sec.nsKeys.map (·.1))).finishKeyErases).stopDies.sanitizeDone
      else d.resumeErase w failed first

end Dev

/-- A phase of a sanitize is done, or its erase fails (R434, R435). -/
def sanitizePhaseDone (d : Dev) (erased : Bool) : Dev :=
  match d.host.wipe with
  | some w =>
    if !w.sanitize || w.failed then d
    else match w.phase, erased with
      | 1, _ => d.sanitizePhase2 w
      | 2, false => d.sanitizeFails w
      | 3, _ => d.sanitizeDone
      | _, _ => d
  | none => d

def execNandEraseDone (kerb die : Nat) (verified : Bool) (s : State) : Host.Outcome State Fault Refusal :=
  effect (fun d => match d.host.wipe with
    | some w => if w.sanitize && w.phase = 2 then d.wipeErased w (32 * kerb + die) verified else nandEraseDone d kerb die verified
    | none => nandEraseDone d kerb die verified) s
def execSanitizePhaseDone (erased : Bool) (s : State) : Host.Outcome State Fault Refusal :=
  effect (fun d => sanitizePhaseDone d erased) s

end Sys2Proof.Machine
end

