-- ==== Sys2Proof/Machine/Start.lean ====
section
/-! DEFINITION. Start-up (R515 to R517) and the resets of the whole device: what they lose (R36, R414, R446, R521), what start-up
checks, finds and applies (R400, R461, R462, R500, R514, R516, R531, R534, R571). -/

namespace Sys2Proof.Machine

namespace Dev

/-! What a reset C, M or D loses. -/

/-- Dies that discovery found absent. -/
def absentDies (d : Dev) : List Nat :=
  d.kerbs.flatMap fun k => (k.2.dies.filter fun x => !x.2.present).map fun x => 32 * k.1 + x.1

/-- A unit is as the journal leaves it (R400): mapped to the copy that its last record names, while flash still holds that copy, and
otherwise unmapped, so that it reads as zeros (R381). -/
def revertUnit (d : Dev) (table : AMap UnitLoc) (key : Nat) : Dev :=
  let ns := key / 2 ^ 40
  let u := key % 2 ^ 40
  let n := d.unitSize ns
  match AMap.look table key with
  | none => { (d.modMedia fun m => { m with map := AMap.drop m.map key }) with nsMem := Mem.zero d.nsMem (2 ^ 49 * ns + u * n) n }
  | some l => match d.copyAt ns l with
    | some bs => (d.storeNs ns (u * n) (d.unsealed ns u bs)).modMedia fun m => { m with map := AMap.put m.map key l }
    | none => { (d.modMedia fun m => { m with map := AMap.drop m.map key }) with nsMem := Mem.zero d.nsMem (2 ^ 49 * ns + u * n) n }

/-- A loss of power without a flush takes T1, with the protected buffer and the staged journal records: every unit whose mapping is not
journalled, or whose newest data was in the buffer alone, is as the journal leaves it (R400). -/
def loseBuffer (d : Dev) : Dev :=
  let dirty := (d.dirtyUnits.filter fun u => u.source.isNone).map fun u => unitKey u.ns u.unit
  let d := d.modMedia fun m =>
    { m with staged := [], programs := [], unplaced := [], partials := [], clean := [], acks := [], stale := [], victims := [] }
  let table := d.journalledMap
  let moved := (d.media.map ++ table).filterMap fun x => if AMap.look table x.1 = AMap.look d.media.map x.1 then none else some x.1
  (dirty ++ moved).dedup.foldl (fun d key => d.revertUnit table key) d

/-- Host, commands, placement, searches and plan changes in progress go; saved features come back. -/
def loseWork (d : Dev) (letter : Char) : Dev :=
  let keepD {α : Type} (x y : α) : α := if letter = 'D' then x else y
  let h := d.host
  let host : HostState :=
    { saved := h.saved, current := h.saved, qpClass := h.qpClassSaved, qpClassSaved := h.qpClassSaved, wipe := h.wipe,
      apst := h.apstSaved, apstSaved := h.apstSaved, addressing := h.addressing, gateLog := keepD h.gateLog [], trained := keepD h.trained [], portCfg := keepD h.portCfg [],
      sanitizeResult := h.sanitizeResult, sanitizeProgress := h.sanitizeProgress }
  let ps := bits (AMap.get h.saved 2 0) 0 5
  let power : PowerState := { ps := ps, lastOperational := min ps 2, thresholds := d.power.thresholds, margins := d.power.margins }
  let contain : ContainState :=
    { quarantined := d.contain.quarantined,
      blockBuckets := keepD d.contain.blockBuckets [], lastReport := keepD d.contain.lastReport [],
      lanes := keepD d.contain.lanes [], retries := keepD d.contain.retries 0 }
  let sec : SecState :=
    { keys := d.sec.keys, nsKeys := d.sec.nsKeys, keyObjects := d.sec.keyObjects, keyErases := d.sec.keyErases,
      lockUntil := keepD d.sec.lockUntil 0, lockSeconds := keepD d.sec.lockSeconds 60 }
  let trace : TraceState := keepD { d.trace with standstill := none, snapshotWaiting := [], telemetry := [], telemetryWr := 0 } {}
  let d := { d with host := host, power := power, contain := contain, sec := sec, trace := trace, mon := {}, seqs := [],
                    events := keepD d.events [], blocks := [], bmem := [], objMem := [], place := {}, waits := [], changes := [],
                    staleIds := [], filters := [], services := [], queries := [], batches := [], sweepLeft := [], passes := [],
                    jobs := [] }
  let d := d.foff Reg.FTL_STAT Fld.FTL_STAT_READY
  let d := if letter = 'D' then d else d.modMedia fun m => { m with padded := [] }
  let d := { d with plan := { d.plan with uncommitted := [], slots := [{}, {}, {}, {}], inForce := false, windowsNext := none,
                                          disabled := [] } }
  { d with squares := { d.squares with writeSets := [], testing := false, resetPending := false } }

/-- Sectors of a write set that has no SET_COMMIT are dead (R510). -/
def loseWriteSets (d : Dev) : Dev :=
  (d.squares.writeSets.foldl (fun d w => d.killSectors fun x => x.object = w.object) d).abandonErases

/-- The registers, and everything that the reset loses; absent dies stay absent. -/
def loseState (d : Dev) (letter : Char) : Dev :=
  let absent := d.absentDies
  let d := (d.loseWriteSets.resetRegs letter fun _ _ => true).loseWork letter
  absent.foldl (fun d i => d.modDie (i / 32) (i % 32) fun x => { x with present := false }) { d with kerbs := [] }

/-! Phases 1 and 2: Squares. -/

/-- The journalled half-erased sectors are erased again, and those of `failed` do not verify and are bad (R514). -/
def halfErased (d : Dev) (failed : List (Nat × Nat)) : Dev :=
  (List.range 2).foldl (fun d s =>
    let n := (d.flash s).half.length
    let again (f : CfgFlash) : CfgFlash :=
      { f with half := [], erases := f.half.foldl (fun m h => AMap.put m h (AMap.get m h 0 + 1)) f.erases,
               bad := f.bad ++ f.half.filter fun h => failed.contains (s, h) && !f.bad.contains h }
    (d.modFlash s again).fadd (Reg.DEV_CFG_STAT s) Fld.DEV_CFG_STAT_HALF_ERASED n) d

/-- Device time starts again from its journalled value plus 1 s, or at 1 s (R445). -/
def restartTime (d : Dev) : Dev :=
  let ns := (d.time.journalled.getD 0) + 1000000000
  { d with time := { ns := ns, journalled := d.time.journalled, flagSince := ns } }

/-- A slot's image may run: it is there, its key is not revoked, its ROLLBACK is not below the counter (R516, R529, R530). The
module ships with an image in slot 1 (DESIGN CHOICE, log entry 41). -/
def imageRuns (d : Dev) (slot : Nat) : Bool :=
  match AMap.look d.squares.fw slot with
  | none => slot = 1
  | some f => decide (d.rollbackOf 1 ≤ f.rollback) && (match d.keyAt f.keySlot with
    | some k => !k.revoked
    | none => false)

/-- The slot of the last Firmware Commit runs, or else the other one, which is logged under a code that the spec does not give
(R516). -/
def pickImage (d : Dev) : Dev :=
  let slot := d.squares.fwNext
  let other := 3 - slot
  let falls := !d.imageRuns slot && d.imageRuns other
  let d := { d with squares := { d.squares with fwRunning := if falls then other else slot } }
  let d := d.fset Reg.DEV_BOOT Fld.DEV_BOOT_SLOT (d.squares.fwRunning - 1)
  let d := d.fset Reg.DEV_BOOT Fld.DEV_BOOT_FALLBACK falls.toNat
  if falls then
    let (x, d) := d.draw
    d.logFault d.srcSquare (x.toNat % 2 ^ 16) 0 0 slot
  else d

/-- Each Square holds a slot that verifies, by discovery and by what the module knows of its images, and has at most 64 bad sectors
(R514, R516). -/
def squaresOk (d : Dev) (found : Bool × Bool) : Bool × Bool :=
  let sound (s : Nat) : Bool := decide ((d.flash s).bad.length ≤ 64)
  if d.imageRuns d.squares.fwNext || d.imageRuns (3 - d.squares.fwNext) then (found.1 && sound 0, found.2 && sound 1) else (false, false)

/-- The active Square, and the image that it runs (R516). Without an image that verifies the module stays in ROM recovery. -/
def startSquares (d : Dev) (ok : Bool × Bool) : Dev :=
  let d := { d with squares := { d.squares with activeB := !ok.1 && ok.2 } }
  let state (mine active : Bool) : SqState := if !mine then .outOfService else if active then .active else .standby
  let d := (d.setSquare 0 (state ok.1 true)).setSquare 1 (state ok.2 (!ok.1))
  let d := d.fset Reg.DEV_SQ Fld.DEV_SQ_ACTIVE d.activeSq
  let d := d.fset Reg.SEC_STAT Fld.SEC_STAT_ROM_RECOVERY (!(ok.1 || ok.2)).toNat
  let d := (d.fset Reg.SEC_STAT Fld.SEC_STAT_IDENTITY_OK 1).fset Reg.SEC_STAT Fld.SEC_STAT_STANDBY_ID_OK 1
  d.pickImage

/-- The boot ROM and the image are measured (R531), and the firmware counter rises with its first start-up (R526). -/
def measureFirmware (d : Dev) : Dev :=
  let d := d.measure 0 Config.romDigest
  match AMap.look d.squares.fw d.squares.fwRunning with
  | some f =>
    let d := d.fset Reg.SEC_ROLLBACK Fld.SEC_ROLLBACK_FIRMWARE (max f.rollback (d.fget Reg.SEC_ROLLBACK Fld.SEC_ROLLBACK_FIRMWARE))
    (d.measure 0 f.digest).fset Reg.DEV_ID Fld.DEV_ID_FW_VERSION f.version
  | none => d.measure 0 Config.shippedFirmware

/-! Phase 4: the plan. -/

/-- An annotation that a standing plan agrees with (R35, R66), or that its activation ends: a quarantine, or the fence of a cell for
which the plan sets FENCE (R123, R495). The self-test of the same reset annotates again what fails. -/
def absorbed (secs : List Section) (a : Annotation) : Bool :=
  match a with
  | .fence b c => (groupingOf secs b c).isSome
  | .retire b => match planRole secs b with
    | some e => e.role = .retired
    | none => true
  | .activate b l _ => match planRole secs b with
    | some e => e.role = .active l
    | none => false
  | .quarantine _ => true
  | .spareChannel _ _ => false

/-- The pending plan takes the place of the plan in force (R39, R46, R60). -/
def activatePlan (d : Dev) : Dev :=
  match d.plan.pending with
  | none => d
  | some c =>
    let old := d.plan.namespaces
    let plan := { d.plan with standing := c, pending := none, committed := [], 
                              annotations := d.plan.annotations.filter fun a => !absorbed c.sections a }
    let d := { d with plan := plan, contain := { d.contain with quarantined := none } }
    let d := d.fset Reg.PLAN_ROLLBACK Fld.PLAN_ROLLBACK_COUNTER (max c.rollback (d.rollbackOf 2))
    let d := (d.killSectors fun x => x.kind = 3 || x.kind = 5).rekindSectors 4 3
    let d := d.clearBuckets c
    let new := nsUnder c.sections
    let gone := old.filter fun n => !new.contains n
    let changed := (gone ++ new.filter fun n => !old.contains n).map NsDef.nsid
    let d := { d with host := { d.host with changedNs := (d.host.changedNs ++ changed).dedup } }
    gone.foldl (fun d n => d.emptyNs n.nsid) d

/-- The values of the effective plan come into force on every unit. -/
def applyAll (d : Dev) : Dev :=
  let secs := d.plan.sections
  let tb := match lastBody secs 0x60 .device 0 with
    | some (.timeBase t) => t
    | _ => {}
  let p := d.plan.refreshLive
  let windows := p.windowsNext.getD p.windows
  let d := { d with plan := { p with inForce := true, timeBase := tb, windows := windows, windowsNext := none, ecc := eccUnder secs,
                                     namespaces := nsUnder secs } }
  let d := allBlocks.foldl (fun d b => ((d.takeRole b).takeCells b).fillBanks b) d
  d.makeKeys

/-- The standing plan and each committed amendment are measured (R531). A plan signed by a revoked slot is logged (R529), under a
code that the spec does not give. -/
def measurePlan (d : Dev) : Dev :=
  (d.plan.standing :: d.plan.committed).foldl (fun d c =>
    let d := d.measure 2 c.digest
    match d.keyAt c.keySlot with
    | some k =>
      if k.revoked then
        let (x, d) := d.draw
        d.logFault d.srcSquare (x.toNat % 2 ^ 16) 0 0 c.keySlot
      else d
    | none => d) d

/-! Phases 3 and 6: units found. -/

/-- The links trained in phase 5: a quarantined quarter takes its own with it, and a unit uses the one it is to use (R20, R494). A unit
that takes its link at start changes none (DEDUCED from R20, log entry 69). -/
def startLinks (d : Dev) : Dev :=
  let lost (u : Nat) (second : Bool) : Bool :=
    d.contain.quarantined = some (if second then secondQuarter u else linkQuarter u)
  let d := (List.range 48).foldl (fun d k =>
    if lost k false || lost k true then d.modKerb k fun x => { x with homeUp := !lost k false, secondUp := !lost k true } else d) d
  let down := (List.range 8).filterMap fun a =>
    let m := (lost (48 + a) false).toNat + 2 * (lost (48 + a) true).toNat
    if m = 0 then none else some (a, m)
  let d := { d with contain := { d.contain with arcDown := down } }
  (List.range 56).foldl (fun d u => let l := d.linkWanted u; if d.linkOf u = l then d else d.putLink u l) d

/-- A Kerb that failed its self-test is offline: no link of it is up (R21, R500). -/
def startKerbs (d : Dev) (failed : List Nat) : Dev :=
  failed.foldl (fun d k => d.modKerb k fun x => { x with homeUp := false, secondUp := false }) d

/-- The quarter that failed its self-test, or had a stack or quarter die that did, is quarantined (R495, R500). -/
def startQuarters (d : Dev) (f : Discovery) : Dev :=
  match d.contain.quarantined, f.failedQuarters with
  | none, q :: _ =>
    let d := { d with contain := { d.contain with quarantined := some q } }
    (d.annotate (.quarantine q)).fadd Reg.CNT_CONTAIN Fld.CNT_CONTAIN_QUARANTINES 1
  | _, _ => d

/-- The device stays in the controlled shutdown: an Arcade failed its self-test, or a second quarter did (R495, R500). -/
def staysShut (d : Dev) (f : Discovery) : Bool :=
  !f.failedArcades.isEmpty || f.failedQuarters.any fun q => d.contain.quarantined ≠ some q

/-- Cells that failed their self-test are fenced, again or for the first time (R123, R500). -/
def startCells (d : Dev) (failed : List (Nat × Nat)) : Dev :=
  failed.foldl (fun d c => if (cellOf d.plan c.1 c.2).2 then d else d.fence c.1 c.2) d

/-- Cells that were fenced before the reset and are not to return to service: all but those for which a newly activated plan sets FENCE = 0
and whose self-test passes (R123). The spec gives a reset D no results of its self-tests: a free value (log entry 73). -/
def staysFenced (d : Dev) (was : List (Nat × Nat)) (activated : Bool) : List (Nat × Nat) × Dev :=
  was.foldl (fun (acc : List (Nat × Nat) × Dev) c =>
    let (x, d) := acc.2.draw
    let returns := activated && (groupingOf d.plan.sections c.1 c.2).any fun g => !g.2
    if returns && x.toNat % 2 = 0 then (acc.1, d) else (acc.1 ++ [c], d)) ([], d)

/-- Blocks in which a cell that failed is the second one fenced: they are retired (R121). -/
def twoFenced (d : Dev) (failed : List (Nat × Nat)) : List Nat :=
  (failed.map (·.1)).filter fun b => decide (2 ≤ ((List.range 4).filter fun c => (cellOf d.plan b c).2).length)

/-- What discovery reports of stacks and Arcades (R461, R372): a smaller or absent stack is out of service. -/
def showMemory (d : Dev) (gibs packages : List Nat) : Dev :=
  let d := (List.range 12).foldl (fun d s =>
    let g := gibs.getD s 0
    let a := Reg.STK_STAT s
    let d := d.fset a Fld.STK_STAT_PRESENT (decide (0 < g)).toNat
    ((d.fset a Fld.STK_STAT_IN_SERVICE (decide (64 ≤ g)).toNat).fset a Fld.STK_STAT_SIZE_GIB g).foff a Fld.STK_STAT_TRAINING) d
  (List.range 8).foldl (fun d i =>
    let m := packages.getD i 0
    let a := Reg.ARC_STAT i
    ((d.fset a Fld.ARC_STAT_ONLINE 1).fset a Fld.ARC_STAT_PRESENT m).fset a Fld.ARC_STAT_IN_SERVICE m) d

/-- The districts' shares fit the capacity found (R48, R462). -/
def sharesFit (d : Dev) : Bool :=
  let on := d.plan.districts.filter (·.enable)
  decide ((on.map (·.t0Gib)).sum ≤ d.t0Present) && decide ((on.map (·.t1Gib)).sum + t1Reserved d.plan.namespaces ≤ d.t1Present)

/-- Districts are disabled, highest number first, until the shares fit (R462). The code of the record is not in the spec. -/
def disableDistricts (d : Dev) : Dev :=
  (List.range 16).reverse.foldl (fun d i =>
    if d.sharesFit || !(d.district i).enable then d
    else
      let plan := { d.plan with disabled := d.plan.disabled ++ [i] }
      let off : DistrictEntry × Nat → DistrictEntry := fun p => if p.2 = i then { p.1 with enable := false } else p.1
      let plan := { plan with districts := plan.districts.zipIdx.map off }
      let d := { d with plan := plan }
      let (x, d) := d.draw
      (d.logError d.srcSquare 0x40 (x.toNat % 2 ^ 16) 0 0 d.srcSquare (some i) 0 i 0xFFFFFFFF).asyncVendor) d

/-- Blocks that failed self-test are retired, and each retired block's number that no block holds gets a spare (R62, R500). -/
def startSpares (d : Dev) (failed : List Nat) : Dev :=
  let d := failed.foldl (fun d b =>
    if d.plan.annotations.contains (.retire b) then d else d.annotate (.retire b)) d
  let d := failed.foldl (fun d b => match (d.block b).role with
    | .active _ => d
    | _ => d.modBlock b fun x => { x with role := .retired }) d
  allBlocks.foldl (fun d b =>
    if !d.plan.annotations.contains (.retire b) then d
    else
      let e := (planRole d.plan.sections b).getD ⟨.retired, 0⟩
      let lost : Option (Nat × Nat) := match e.role with
        | .active l => some (l, e.district)
        | _ => d.plan.annotations.findSome? fun a => match a with
          | .activate x l dist => if x = b then some (l, dist) else none
          | _ => none
      match lost with
      | none => d
      | some (l, dist) =>
        let d := d.modBlock b fun x => { x with role := .retired }
        match d.physOf (64 * (b / 72) + l), d.nearestSpare b with
        | none, some s => ((d.modBlock b fun x => { x with role := .active l, home := dist }).mapSpare b s).defaultWindows s dist
        | _, _ => d) d

/-! Phase 7: flash. -/

/-- Write-through mode follows the hold-up bank's test (R398, R571). -/
def holdup (d : Dev) (microfarad : Nat) : Dev :=
  let bad := microfarad < 22000
  let d := (d.modMedia fun m => { m with writeThrough := bad }).fset Reg.FTL_STAT Fld.FTL_STAT_WRITE_THROUGH (decide bad).toNat
  if bad then (d.ftlError 0).logFault d.srcSquare 0x060B 2 0 microfarad else d

/-- Superblocks of journalled secure erasures are emptied and erased, and the erasures journalled as complete (R397, R400). -/
def finishErasures (d : Dev) (failed : List Nat) : Dev :=
  let due := d.media.erasures.filter fun e => e.2.journalled
  let places := (due.flatMap fun e => e.2.superblocks).dedup
  let secure (x : Nat × Nat) : Bool := due.any fun e => !e.2.format && e.2.superblocks.contains x
  let d := places.foldl (fun d x =>
    let d := d.emptySb failed x.1 x.2
    if secure x then d.fadd Reg.FTL_SECURE Fld.FTL_SECURE_SUPERBLOCKS 1 else d) d
  due.foldl (fun d e => d.journalPut (.secureDone e.1)) (d.modMedia fun m => { m with erasures := [] })

/-- The journal is found by the headers of the superblocks (R399): the pair with the highest number goes on. A copy that cannot be read,
because a second member of its superblock is out of service, sets FTL_ERR.JOURNAL, and the other is used (R400). -/
def findJournal (d : Dev) : Dev :=
  let pairs := d.media.sbs.filter fun x => x.2.state = .journal
  let d := d.modMedia fun m => { m with pair := pairs.foldl (fun n x => max n x.2.pair) m.pair }
  let lost (x : Nat × SuperBlock) : Bool :=
    decide (2 ≤ (x.2.members.filter fun m => !d.dieOk (dieOf (x.1 / 2048) m) || !d.kerbOnline (kerbOf (x.1 / 2048) m)).length)
  if (d.media.sbs.filter fun x => x.2.state = .journal || x.2.state = .checkpoint).any lost then d.ftlError 1 else d

/-- Replay of the FTL's journal (R389, R397, R400). Half-erased block groups are erased again; those of `failed` do not verify, and
are bad. -/
def replay (d : Dev) (clean : Bool) (failed : List Nat) : Dev :=
  let d := d.findJournal
  let d := if clean then d else d.loseBuffer.ftlError 2
  let d := d.fset Reg.FTL_STAT Fld.FTL_STAT_FLUSHED clean.toNat
  let again (k : Nat) (x : BlockGroup) : BlockGroup :=
    if !x.intent then x
    else if failed.contains k then { x with intent := false, bad := true }
    else { x with intent := false, epoch := (x.epoch + 1) % 2 ^ 32, reads := 0 }
  let worn := ((d.media.bgs.filter fun x => x.2.intent && failed.contains x.1).map fun x => x.1 / 2048).dedup
  let d := d.modMedia fun m =>
    { m with bgs := m.bgs.map fun x => (x.1, again x.1 x.2), flushing := false, down := false, cleanShutdown := false, victims := [],
             journal := m.journal.filter fun r => r ≠ .cleanShutdown }
  let d := if clean then d else d.modMedia fun m =>
    { m with sbs := m.sbs.map fun x => if x.2.state = .open then (x.1, { x.2 with state := .closed, closeBeat := d.beat, closeAge := m.age })
                                       else x }
  let d := worn.foldl (fun d die => d.badCheck die) d
  let d := (d.finishErasures failed).resumeWipe failed
  let d := if d.media.sbs.any fun x => x.2.state = .journal then d else d.openPair d.media.pair
  let lost := d.media.rebuilding
  (d.mappedAt fun l => lost.contains l.die).foldl (fun d x => d.relocate x.1 x.2 .rebuild) d.retireIdle

/-- The first phase that took a unit out of service (R517). -/
def failedPhase (d : Dev) (f : Discovery) : Nat :=
  if !(f.failedBlocks.isEmpty && f.failedCells.isEmpty && f.failedKerbs.isEmpty && f.failedQuarters.isEmpty && f.failedArcades.isEmpty
    && f.failedGates.isEmpty) then 3
  else if (List.range 12).any (fun s => f.stacksGib.getD s 0 < 64) || (List.range 8).any (fun a => f.packages.getD a 0 ≠ 255)
    || !d.plan.disabled.isEmpty then 6
  else if !f.absentDies.isEmpty then 7
  else 0

/-- The module is ready (phase 9). How long start-up took is a free value. -/
def ready (d : Dev) : Dev :=
  let d := d.fset Reg.DEV_BOOT Fld.DEV_BOOT_PHASE 10
  let (t, d) := d.draw
  let (r, d) := d.draw
  let d := d.fset Reg.DEV_BOOT Fld.DEV_BOOT_READY_MS (t.toNat % 2 ^ 32)
  let d := d.fset Reg.FTL_JOURNAL Fld.FTL_JOURNAL_REPLAY_MS (r.toNat % 2 ^ 32)
  let d := d.fon Reg.FTL_STAT Fld.FTL_STAT_READY
  let d := { d with squares := { d.squares with powered := true },
                    time := { d.time with lastGather := d.time.ns, lastSweep := d.time.ns, openSlots := d.slotsNow } }
  (List.range 4).foldl (fun d q => d.setClock q) (d.showPower d.power.ps)

/-- DEV_RESET_LOG takes a reset (R523). -/
def logReset (d : Dev) (letter : Char) (cause : Nat) : Dev :=
  let a := Reg.DEV_RESET_LOG
  let d := (d.fset a Fld.DEV_RESET_LOG_LAST (letterCode letter)).fset a Fld.DEV_RESET_LOG_CAUSE cause
  match letter with
  | 'C' => d.fadd a Fld.DEV_RESET_LOG_C_COUNT 1
  | 'M' => d.fadd a Fld.DEV_RESET_LOG_M_COUNT 1
  | 'D' => d.fadd a Fld.DEV_RESET_LOG_D_COUNT 1
  | _ => d

/-- Phases 3 to 9 (R515). `fenced`: cells fenced before, where the module still knows it. The code of the record of a shutdown that a self-test leads to is not in the spec. -/
def phases (d : Dev) (f : Discovery) (clean : Bool) (fenced : List (Nat × Nat)) : Dev :=
  let activated := d.plan.pending.isSome
  let d := (d.measureFirmware.activatePlan.applyAll.measurePlan).startQuarters f
  let (again, d) := d.staysFenced fenced activated
  let d := d.startCells (f.failedCells ++ again)
  let d := ((d.holdup f.bankMicrofarad).startLinks.startKerbs f.failedKerbs).showMemory f.stacksGib f.packages
  let d := (d.startSpares (f.failedBlocks ++ d.twoFenced (f.failedCells ++ again)).dedup).disableDistricts
  let d := { d with contain := { d.contain with gatesDown := f.failedGates } }
  let d := f.absentDies.foldl (fun d i => (d.modDie (i / 32) (i % 32) fun x => { x with present := false }).retireDie i) d
  let d := d.replay clean f.failedErases
  let d := (d.fset Reg.DEV_BOOT Fld.DEV_BOOT_FAILED_PHASE (d.failedPhase f)).ready
  if d.staysShut f then
    let (x, d) := d.draw
    d.shutDown 7 (x.toNat % 2 ^ 16) d.srcSquare 0
  else d

/-- Start-up from power applied or from reset M, phases 1 to 9. -/
def startUp (d : Dev) (letter : Char) (cause : Nat) (f : Discovery) : Dev :=
  let clean := f.cleanShutdown || d.media.cleanShutdown
  let d := (((d.loseState letter).logReset letter cause).halfErased f.failedSectors).restartTime
  let ok := d.squaresOk f.squareOk
  let d := d.startSquares ok
  let d := if letter = 'C' then d.fadd Reg.DEV_LIFE Fld.DEV_LIFE_POWER_CYCLES 1 else d
  let d := { d with pins := { d.pins with ppsHeld := false, resetM := false, resetDuringFlush := none, smbAlert := false } }
  if ok = (false, false) then d.fset Reg.DEV_BOOT Fld.DEV_BOOT_PHASE 2 else d.phases f clean []

/-- What a D reset finds: what start-up found before. -/
def foundBefore (d : Dev) : Discovery :=
  { stacksGib := (List.range 12).map fun s => d.fget (Reg.STK_STAT s) Fld.STK_STAT_SIZE_GIB,
    packages := (List.range 8).map fun a => d.fget (Reg.ARC_STAT a) Fld.ARC_STAT_PRESENT,
    absentDies := [], failedBlocks := [], squareOk := (d.squares.a ≠ .outOfService, d.squares.b ≠ .outOfService),
    bankMicrofarad := if d.media.writeThrough then 0 else 24000, cleanShutdown := true }

/-- Reset D (R518): no command is accepted, a compute abort, the flush, phases 3 to 9. -/
def resetD (d : Dev) (cause : Nat) : Dev :=
  let f := d.foundBefore
  let d := if d.contain.shutdown ≠ 0 then d else (d.computeAbort [] d.srcSquare).closeGates.flushMedia
  let fenced := d.blocks.flatMap fun x => (x.2.cells.zipIdx.filter fun c => c.1.fenced).map fun c => (x.1, c.2)
  ((d.loseState 'D').logReset 'D' cause).pickImage.phases f true fenced

end Dev

/-- Power is applied past the start threshold (R515, R518). -/
def coldStart (d : Dev) (f : Discovery) : Dev := d.startUp 'C' 0 f

/-- The hold-up bank is tested (R571). A PF_WARN_N during the test is a command of its own. -/
def bankTest (d : Dev) (microfarad : Nat) : Dev := d.holdup microfarad

def execColdStart (found : Discovery) (s : State) : Host.Outcome State Fault Refusal := effect (fun d => coldStart d found) s
def execHoldupBankTest (microfarad : Nat) (s : State) : Host.Outcome State Fault Refusal :=
  effect (fun d => bankTest d microfarad) s

end Sys2Proof.Machine
end

