-- ==== Sys2Proof/Machine/Squares.lean ====
section
/-! DEFINITION. The Squares: heartbeat, failover and self-test (R503 to R506, R496, R497), and the resets Q and B (R518, R520). -/

namespace Sys2Proof.Machine

namespace Dev

/-! Failover. -/

/-- The monitor starts anew on another Square, or after a reset: its session has ended and its rate is the first one. -/
def monitorAnew (d : Dev) : Dev :=
  let d := { d with sec := { d.sec with level := 0, sessionEnd := 0, challenge := none } }
  { d.fset Reg.SEC_MON Fld.SEC_MON_LEVEL 0 with mon := { image := d.mon.image } }

/-- The command of a host that waits for a snapshot. -/
def snapshotOwner (c : Instr) : Option (Nat × Nat) := match c with
  | .snapshot h _ _ => some (h.queue, h.cid)
  | _ => none

/-- Snapshots are not mirrored: their commands end with Command Interrupted, and a monitor's request gets no response
(R505, R556, R559). -/
def interruptSnapshots (d : Dev) : Dev :=
  let now := match d.trace.standstill with
    | some x => x.queue
    | none => none
  let owners := now.toList ++ d.trace.snapshotWaiting.filterMap snapshotOwner
  let d := { d with trace := { d.trace with standstill := none, snapshotWaiting := [] } }
  owners.foldl (fun d x => d.finishSquare x.1 x.2 .commandInterrupted) d

/-- The write set that a failover interrupts is discarded and written again as a new set (R510). -/
def rewriteSet (d : Dev) : Dev :=
  match d.squares.writeSets with
  | [] => d
  | w :: t =>
    if w.effect = .mirrorImage then d
    else
      let o := d.squares.nextObject
      let d := d.killSectors fun x => x.object = w.object
      let w := { w with object := o, left0 := d.sectorsOn 0 w.sectors, left1 := d.sectorsOn 1 w.sectors }
      ({ d with squares := { d.squares with writeSets := w :: t, nextObject := o + 1 } } : Dev).driveWrites

/-- A failover is in the event log, under the active Square (R505). That of a missed heartbeat is its fault; the code of the others is not
in the spec (log entry 40), and an error that the active Square reported has its own record. -/
def logFailover (d : Dev) (cause : Nat) : Dev :=
  match cause with
  | 1 => d.logFault d.srcSquare 0x0606 2 0 0
  | 2 => d
  | _ =>
    let (x, d) := d.draw
    d.logFault d.srcSquare (x.toNat % 2 ^ 16) 0 0 cause

/-- The standby becomes active (R505); the former active Square tests itself, and shows OUT_OF_SERVICE until it has passed (DESIGN
CHOICE, log entry 40). -/
def failTo (d : Dev) (s cause : Nat) : Dev :=
  let d := (d.logFailover cause).interruptSnapshots
  let d := d.sqOut d.activeSq
  let d := { d with squares := { d.squares with activeB := decide (s = 1), testing := true } }
  let d := if (d.flash s).erasing.isSome then d else d.setSquare s .active
  let a := Reg.DEV_SQ
  let d := ((d.fset a Fld.DEV_SQ_ACTIVE s).fadd a Fld.DEV_SQ_FAILOVERS 1).fset a Fld.DEV_SQ_LAST_CAUSE cause
  let d := d.rewriteSet.monitorAnew
  let (x, d) := d.freeDigest
  d.measure 7 x

/-- A failover, when a standby is in service. -/
def failover (d : Dev) (cause : Nat) : Dev :=
  match d.standby with
  | some s => d.failTo s cause
  | none => d

/-- Both Squares are lost: the Kerbs run the flush by themselves (R497). -/
def loseSquares (d : Dev) : Dev :=
  let d := (d.sqOut 0).sqOut 1
  let d := { d with squares := { d.squares with testing := false, writeSets := [] }, contain := { d.contain with shutdown := 6 } }
  let d := (d.fon Reg.CNT_CONTAIN Fld.CNT_CONTAIN_SHUTDOWN).fset Reg.CNT_CONTAIN Fld.CNT_CONTAIN_SHUTDOWN_CAUSE 6
  let d := { d with kerbs := d.kerbs.map (fun (k : Nat × Kerb) => (k.1, { k.2 with qblocks := [] })) }
  if d.media.flushing || d.media.down then d else d.dropSlots.closeGates.flushMedia

/-- Live sectors of an object on a Square. -/
def sectorsOf (d : Dev) (s : Nat) (k : Nat × Nat) : Nat :=
  ((d.flash s).sectors.filter fun x => x.2.live && x.2.kind = k.1 && x.2.object = k.2).length

/-- The active Square copies to a new standby every live sector its flash lacks (R506), all in one step (DESIGN CHOICE, log entry
40). -/
def catchUp (d : Dev) (s : Nat) : Dev :=
  let a := 1 - s
  let keys := (((d.flash a).sectors.filter fun x => x.2.live).map fun x => (x.2.kind, x.2.object)).dedup
  let stale (x : Sector) : Sector := if keys.contains (x.kind, x.object) then x else { x with live := false }
  let d := d.modFlash s fun f => { f with sectors := f.sectors.map (fun (x : Nat × Sector) => (x.1, stale x.2)) }
  keys.foldl (fun d k => (List.range (d.sectorsOf a k - d.sectorsOf s k)).foldl (fun d _ => d.appendSector s k) d) d

/-! Resets Q and B. -/

/-- A reset that lies within a running one is merged into it and logged (R520), under a code that the spec does not give. -/
def mergeReset (d : Dev) (letter : Char) (detail : Nat) : Dev :=
  let (x, d) := d.draw
  d.logFault d.srcSquare (x.toNat % 2 ^ 16) 0 (letterCode letter) detail

/-- T0 contents of a stack are undefined. -/
def undefineStacks (d : Dev) (c : Nat → Bool) : Dev :=
  d.place.objs.foldl (fun d (i, o) =>
    if o.tier = 3 then d
    else (o.extents.zipIdx.filter fun e => e.1 / 512 < 768 && c (regionStack (e.1 / 512))).foldl
      (fun d e => d.undefineObj i (2 ^ 21 * e.2) (2 ^ 21)) d) d

/-- Reset Q of a quarter begins. -/
def resetQ (d : Dev) (q cause : Nat) : Dev :=
  if d.contain.resettingQuarters.contains q then d.mergeReset 'Q' q
  else
    let mine (b : Nat) : Bool := b / 72 = q
    let d := d.logReset 'Q' cause
    let d := d.amendsOver (fun s => scopeInQuarter s q) .scopeBusy 0x14
    let d := d.computeAbort [] d.srcSquare
    let d := (List.range 72).foldl (fun d p => d.resetRegs 'Q' (blockScope (72 * q + p))) d
    let d := { d with contain := { d.contain with resettingQuarters := d.contain.resettingQuarters ++ [q],
                                                  resettingBlocks := d.contain.resettingBlocks.filter fun b => !mine b },
                      place := { d.place with streams := d.place.streams.filter fun x => x.stack / 3 ≠ q } }
    let d := (List.range 72).foldl (fun d p => (d.clearTags (72 * q + p)).undefineBm (72 * q + p) 0 (2 ^ 23)) d
    let d := (d.undefineStacks fun s => s / 3 = q).settleLinks (linkUnits q)
    let d := d.trainStacks fun s => s / 3 = q
    if q = 0 then d.traceToStack3 else d

/-- Reset B of a block begins. -/
def resetB (d : Dev) (b : Nat) : Dev :=
  if d.contain.resettingBlocks.contains b || d.contain.resettingQuarters.contains (b / 72) then d.mergeReset 'B' b
  else
    let d := d.amendsOver (fun s => scopeInBlock s b) .scopeBusy 0x14
    let qs := (d.batches.filter fun p => p.2.issued && p.2.block = b && (d.block b).slots.any fun s => s.2.origin = .stage p.1).flatMap
      fun p => p.2.queries
    let d := qs.foldl (fun d q => d.failQuery q .computeAborted true) (d.abortBlock b)
    let d := { d with batches := d.batches.filter fun p => !(p.2.issued && p.2.queries.isEmpty) }
    let d := d.resetRegs 'B' (blockScope b)
    ({ d with contain := { d.contain with resettingBlocks := d.contain.resettingBlocks ++ [b] } } : Dev).driveJobs

/-- The effective plan is applied again to a block (R36). -/
def reapply (d : Dev) (b : Nat) : Dev := (((d.takeRole b).takeCells b).fillBanks b).awaitNoMore b

end Dev

/-! Meanings. -/

/-- The active Square's heartbeat on the sideband (R504). -/
def heartbeat (d : Dev) : Dev := if d.sqState d.activeSq = .outOfService then d else d.emit .heartbeat

/-- An active Square that fails: a failover, or both Squares are lost (R505, R506). -/
def activeFails (d : Dev) (cause : Nat) : Dev :=
  match d.standby with
  | some s => d.failTo s cause
  | none => if d.contain.shutdown = 6 then d else d.loseSquares

def heartbeatMiss (d : Dev) : Dev := d.failover 1

/-- An uncorrectable error or watchdog of the active Square (R496, R505). -/
def activeSquareFault (d : Dev) : Dev :=
  activeFails (d.logFault d.srcSquare 0x0606 2 0 0) 2

/-- A fault of the standby takes it out of service (R496). -/
def standbySquareFault (d : Dev) : Dev :=
  match d.standby with
  | some s => (d.logFault (0x6000 + s) 0x0607 2 0 0).sqOut s
  | none => d

def squaresLost (d : Dev) : Dev := if d.contain.shutdown = 6 then d else d.loseSquares

/-- The former active Square has tested itself (R506). -/
def squareSelfTestDone (d : Dev) (passed : Bool) : Dev :=
  if !d.squares.testing then d
  else
    let s := 1 - d.activeSq
    let d := { d with squares := { d.squares with testing := false } }
    if !passed then d
    else
      let share (w : WriteSet) : WriteSet :=
        if w.effect = .mirrorImage then w else if s = 0 then { w with left0 := w.sectors } else { w with left1 := w.sectors }
      let d := (d.setSquare s .standby).catchUp s
      ({ d with squares := { d.squares with writeSets := d.squares.writeSets.map share } } : Dev).driveWrites

/-- The quarter returns to service, or is quarantined when it failed its self-test (R500, R518, R359). -/
def quarterResetDone (d : Dev) (q : Nat) (passed : Bool) : Dev :=
  if !d.contain.resettingQuarters.contains q then d
  else
    let d := { d with contain := { d.contain with resettingQuarters := d.contain.resettingQuarters.filter (· ≠ q) } }
    if !passed then
      let d := (List.range 3).foldl (fun d i => d.foff (Reg.STK_STAT (3 * q + i)) Fld.STK_STAT_TRAINING) d
      let (x, d) := d.draw
      d.quarantine q (x.toNat % 2 ^ 16) d.srcSquare 0
    else
      let d := (List.range 72).foldl (fun d p => (d.endBlockTest (72 * q + p)).reapply (72 * q + p)) (d.settleLinks (Dev.linkUnits q))
      let d := (d.retrainStacks fun s => s / 3 = q).restoreT0 fun s => s / 3 = q
      let d := (List.range 72).foldl (fun d p =>
        if (d.place.bindings.any fun x => some x.block = d.logicalOf (72 * q + p)) then d.restoreBlock (72 * q + p) else d) d
      d.driveStages.driveJobs

/-- The block accepts commands again, or is retired when it failed its self-test (R500, R518). -/
def blockResetDone (d : Dev) (b : Nat) (passed : Bool) : Dev :=
  if !d.contain.resettingBlocks.contains b then d
  else
    let d := { d with contain := { d.contain with resettingBlocks := d.contain.resettingBlocks.filter (· ≠ b) } }
    let d := d.endBlockTest b
    if passed then (d.reapply b).driveStages.driveJobs else d.retireBlock b

def execHeartbeat (s : State) : Host.Outcome State Fault Refusal := effect (fun d => heartbeat d) s
def execHeartbeatMiss (s : State) : Host.Outcome State Fault Refusal := effect (fun d => heartbeatMiss d) s
def execActiveSquareFault (s : State) : Host.Outcome State Fault Refusal := effect (fun d => activeSquareFault d) s
def execStandbySquareFault (s : State) : Host.Outcome State Fault Refusal := effect (fun d => standbySquareFault d) s
def execSquaresLost (s : State) : Host.Outcome State Fault Refusal := effect (fun d => squaresLost d) s
def execSquareSelfTestDone (passed : Bool) (s : State) : Host.Outcome State Fault Refusal :=
  effect (fun d => squareSelfTestDone d passed) s
def execQuarterResetDone (quarter : Nat) (passed : Bool) (s : State) : Host.Outcome State Fault Refusal :=
  effect (fun d => quarterResetDone d quarter passed) s
def execBlockResetDone (block : Nat) (passed : Bool) (s : State) : Host.Outcome State Fault Refusal :=
  effect (fun d => blockResetDone d block passed) s

end Sys2Proof.Machine
end

