-- ==== Sys2Proof/Machine/Plan.lean ====
section
/-! DEFINITION. The plan protocol: PLAN_LOAD, APPLY, COMMIT and REVERT (R37 to R39, R50 to R60), and what a write set does when it
is complete (R510, R526 to R530, R535). -/

namespace Sys2Proof.Machine

namespace Dev

/-! Rejections. -/

/-- A plan command without effect: PLAN_ERR shows its cause (R59), and PLAN_CNT counts the container that it carried (R68, R541). -/
def planReject (d : Dev) (h : Hdr) (r : Reject) (container : Bool) : Dev :=
  let d := d.planError r.1 r.2
  let d := if container then d.fadd Reg.PLAN_CNT Fld.PLAN_CNT_REJECTED 1 else d
  let d := if r.1 = 3 || r.1 = 4 then d.fadd Reg.SEC_STAT Fld.SEC_STAT_VERIFY_FAILS 1 else d
  d.finishSquare h.queue h.cid (causeStatus r.1)

/-- A key container's cause also shows in SEC_STAT (R541). -/
def keyCause (d : Dev) (cause : Nat) : Dev := d.fset Reg.SEC_STAT Fld.SEC_STAT_LAST_CAUSE cause

/-- Amendments in progress, by slot. -/
def amending (d : Dev) : List AmendSlot := d.plan.slots.filter fun a => a.step ≠ .idle

/-- A COMMIT is being written. -/
def committing (d : Dev) : Bool := d.squares.writeSets.any fun w => match w.effect with
  | .commitChain _ => true
  | _ => false

def amendLock (d : Dev) : Bool := d.fbit Reg.PLAN_CTL Fld.PLAN_CTL_AMEND_LOCK

/-- An accepted APPLY or REVERT takes a slot, its double-banked parts go to the back banks, and it goes on at once, or quiesces its
scope (R53, R55). Verification, validation, writing and resuming each take no time of their own in the model, so that PLAN_SLOT shows
quiescing and awaiting the swap only (DESIGN CHOICE, log entry 68). -/
def beginAmend (d : Dev) (h : Hdr) (c : Container) (reverting : Bool) : Dev :=
  let i := (d.plan.slots.findIdx? fun a => a.step = .idle).getD 0
  let slot : AmendSlot := { step := .applying, queue := h.queue, cid := h.cid, reverting := reverting, container := some c,
                            startBeat := d.beat, awaiting := [] }
  let d := d.modSlot' i fun _ => slot
  let d := if banked c then d.writeBanks (d.sectionsAfter c reverting) c else d
  if !quiesces c then d.applyAmend i
  else
    let d := (d.modSlot' i fun a => { a with step := .quiescing }).quiesceScope i c.scope true
    let d := if c.scope.kind = .quarter then d.settleLinks (linkUnits c.scope.index) else d
    if c.quiesceLimit = 0 && !d.drained c.scope then d.abandon i 0x10 else d

/-- The refusals that come before a scope is known: lock, or four in progress (R56). -/
def amendBusy (d : Dev) : Bool := d.amendLock || decide (4 ≤ d.amending.length)

/-- An amendment in progress has an overlapping scope (R56). -/
def overlaps (d : Dev) (s : Scope) : Bool := d.amending.any fun a => match a.container with
  | some c => c.scope.overlaps s
  | none => false

end Dev

/-! The commands, as they run once dispatched. -/

/-- PLAN_AMEND APPLY (R53, R56, R58, R59). -/
def applyCmd (d : Dev) (h : Hdr) (b : List Byte) : Dev :=
  match checkContainer d [3] (2 ^ 20) b with
  | .error r => d.planReject h r true
  | .ok c =>
    if d.amendBusy || d.overlaps c.scope then d.planReject h (0x0F, 0xFFFF) true
    else if d.plan.pending.isSome then d.planReject h (0x13, 0xFFFF) true
    else if c.sections.isEmpty then
      ((d.fadd Reg.PLAN_CNT Fld.PLAN_CNT_APPLIED 1).measure 3 c.digest).finishSquare h.queue h.cid .success (c.sequence % 2 ^ 32)
    else d.beginAmend h c false

/-- PLAN_AMEND REVERT (R37, R56, R58): the plan that it would restore is validated against resident state as an APPLY is (R53). -/
def revertCmd (d : Dev) (h : Hdr) : Dev :=
  if d.amendBusy || d.committing then d.planReject h (0x0F, 0xFFFF) false
  else if d.plan.pending.isSome then d.planReject h (0x13, 0xFFFF) false
  else match d.plan.uncommitted.getLast? with
    | none => d.planReject h (0x15, 0xFFFF) false
    | some c =>
      if d.overlaps c.scope then d.planReject h (0x0F, 0xFFFF) false
      else match checkPlan d c (d.sectionsAfter c true) true with
        | .error r => d.planReject h (r.1, 0xFFFF) false
        | .ok _ => d.beginAmend h c true

/-- PLAN_AMEND COMMIT (R37, R38, R56, R510). COMMIT names no scope: it is taken to overlap every amendment in progress (DESIGN CHOICE,
log entry 65). -/
def commitCmd (d : Dev) (h : Hdr) : Dev :=
  let un := d.plan.uncommitted
  let n := (un.map fun c => sectorsFor c.size).sum
  if d.amendLock || !d.amending.isEmpty || d.committing then d.planReject h (0x0F, 0xFFFF) false
  else if d.plan.pending.isSome then d.planReject h (0x13, 0xFFFF) false
  else if 64 < d.plan.committed.length + un.length then d.planReject h (0x12, 0xFFFF) false
  else if un.isEmpty then d.finishSquare h.queue h.cid .success d.plan.committed.length
  else d.addWriteSet h.queue h.cid 5 n (.commitChain un.length)

/-- PLAN_LOAD with a container (R39, R56, R59, R528). -/
def planLoadCmd (d : Dev) (h : Hdr) (activate : Bool) (b : List Byte) : Dev :=
  let key := fieldLE b 6 1 = 4
  if key && activate then d.finishSquare h.queue h.cid .invalidField
  else match checkContainer d [2, 4] (2 ^ 22) b with
    | .error r => (if key then d.keyCause r.1 else d).planReject h r true
    | .ok c =>
      if d.amendLock || !d.amending.isEmpty then (if key then d.keyCause 0x0F else d).planReject h (0x0F, 0xFFFF) true
      else if key then d.addWriteSet h.queue h.cid 7 (sectorsFor c.size) (.keyTable c)
      else d.addWriteSet h.queue h.cid 4 (sectorsFor c.size) (.pendingPlan c activate)

/-- PLAN_LOAD with DISCARD (R39). -/
def planDiscardCmd (d : Dev) (h : Hdr) (activate : Bool) (length : Nat) : Dev :=
  if activate || length ≠ 0 then d.finishSquare h.queue h.cid .invalidField
  else if d.amendLock || !d.amending.isEmpty then d.planReject h (0x0F, 0xFFFF) false
  else if d.plan.pending.isNone then d.finishSquare h.queue h.cid .success
  else d.addRecordSet (some (h.queue, h.cid)) .discardPlan

/-! Write sets that are complete. -/

/-- A key container's entries take effect (R527 to R529). -/
def Dev.installKeys (d : Dev) (c : Container) : Dev :=
  let entry (d : Dev) (e : KeyEntry) : Dev :=
    let k : KeySlotState := if e.revoke then
        { (d.keyAt e.slot).getD ⟨[], 0, true⟩ with revoked := true }
      else ⟨e.key, e.kinds, false⟩
    { d with sec := { d.sec with keys := AMap.put d.sec.keys e.slot k } }
  let d := c.sections.foldl (fun d s => match s.body with
    | .keyTable es => es.foldl entry d
    | _ => d) d
  let d := d.fset Reg.SEC_ROLLBACK Fld.SEC_ROLLBACK_KEY (max c.rollback (d.rollbackOf 4))
  d.measure 1 c.digest

/-- The command of a write set completes. -/
def Dev.setDone (d : Dev) (w : WriteSet) (dw0 : Nat := 0) : Dev :=
  match w.owner with
  | some (q, cid) => d.finishSquare q cid .success dw0
  | none => d

/-- The standard command of a write set completes. -/
def Dev.stdDone (d : Dev) (w : WriteSet) (st : Status) : Dev :=
  match w.owner with
  | some (q, cid) => d.finish q cid st
  | none => d

/-- New namespace keys are in force, and the sectors with the older pairs are erased before their Format or Crypto Erase goes on
(R535). -/
def Dev.keysReplaced (d : Dev) (slots : List Nat) (object : Nat) : Dev :=
  let d := (slots.foldl Dev.nextKey d).keysIn slots object
  if d.keyEraseNext.isNone then d.keysDone else d.driveWrites

/-- The standby runs a new image and becomes active; the former active Square stores it too (R530). -/
def Dev.imageActive (d : Dev) (w : WriteSet) (slot : Nat) (f : FwSlot) : Dev :=
  let former := d.activeSq
  let d := d.failover 3
  let d := { d with squares := { d.squares with fwRunning := slot } }
  let d := (d.measure 0 f.digest).fset Reg.DEV_ID Fld.DEV_ID_FW_VERSION f.version
  let d := d.fset Reg.DEV_BOOT Fld.DEV_BOOT_SLOT (slot - 1)
  let d := d.fset Reg.SEC_ROLLBACK Fld.SEC_ROLLBACK_FIRMWARE (max f.rollback (d.rollbackOf 1))
  let d := d.stdDone w .success
  let o := d.squares.nextObject
  let n (s : Nat) : Nat := if s = former then w.sectors else 0
  let m : WriteSet := ⟨none, slot, o, n 0, n 1, w.sectors, .mirrorImage⟩
  { d with squares := { d.squares with writeSets := d.squares.writeSets ++ [m], nextObject := o + 1 } }

/-- Firmware Commit's image stands in its slot (R415). Without a standby any more, action 3 cannot end (DEDUCED). -/
def Dev.imageStored (d : Dev) (w : WriteSet) (slot action : Nat) (f : FwSlot) : Dev :=
  let d := d.killSectors fun x => x.kind = slot && x.object ≠ w.object
  let d := { d with squares := { d.squares with fw := AMap.put d.squares.fw slot f } }
  let d := if action = 0 then d else { d with squares := { d.squares with fwNext := slot } }
  if action ≠ 3 then d.stdDone w .success
  else if d.standby.isNone then d.stdDone w .internalError
  else d.imageActive w slot f

/-- The record of the saved features stands in the sector written, and the one before it is dead (R414, R509). -/
def Dev.recordSaved (d : Dev) (w : WriteSet) (f : HostState → HostState) : Dev :=
  let d := d.killSectors fun x => x.kind = 7 && d.squares.featureObject = some x.object
  ({ d with squares := { d.squares with featureObject := some w.object }, host := f d.host } : Dev).stdDone w .success

/-- What a write set does once its SET_COMMIT stands on every Square in service (R510). -/
def Dev.writeSetDone (d : Dev) (w : WriteSet) : Dev :=
  match w.effect with
  | .pendingPlan c activate =>
    let d := d.killSectors fun x => x.kind = 4 && x.object ≠ w.object
    let d := { d with plan := { d.plan with pending := some c } }
    if activate then d.resetD 3 else d.setDone w
  | .discardPlan =>
    let d := d.killSectors fun x => x.kind = 4
    ({ d with plan := { d.plan with pending := none } } : Dev).setDone w
  | .commitChain n =>
    let new := d.plan.uncommitted.take n
    let plan := { d.plan with committed := d.plan.committed ++ new, uncommitted := d.plan.uncommitted.drop n }
    let d := { d with plan := plan }
    let top := new.foldl (fun m c => max m c.rollback) (d.rollbackOf 2)
    let d := d.fset Reg.PLAN_ROLLBACK Fld.PLAN_ROLLBACK_COUNTER top
    (new.foldl (fun d c => d.measure 2 c.digest) d).setDone w d.plan.committed.length
  | .keyTable c => (d.installKeys c).setDone w
  | .firmware slot version rollback mirrorMin keySlot digest action =>
    d.imageStored w slot action ⟨version, rollback, mirrorMin, keySlot, digest⟩
  | .mirrorImage => d
  | .nsKeys slots => d.keysReplaced slots w.object
  | .feature key v table => d.recordSaved w fun h =>
    { h with saved := AMap.put h.saved key v, apstSaved := if key = 0x0C then table else h.apstSaved }
  | .queueClass q c => d.recordSaved w fun h => { h with qpClassSaved := AMap.put h.qpClassSaved q c }

/-- A write set whose sectors are all written takes effect, and the next one starts. -/
def Dev.settleWrites (d : Dev) : Dev :=
  match d.squares.writeSets with
  | w :: t =>
    if w.left0 = 0 && w.left1 = 0 then
      (({ d with squares := { d.squares with writeSets := t } } : Dev).writeSetDone w).driveWrites
    else d
  | [] => d

/-- The erase of a sector of configuration flash completes (R508 to R510, R513, R514). -/
def configErased (d : Dev) (s : Nat) (verified : Bool) : Dev := if 2 ≤ s then d else (d.sectorErased s verified).settleWrites

/-! Quiesce. -/

/-- The last beat in which the scope of an amendment may drain (R55): QUIESCE_LIMIT beats after the one in which quiesce began. -/
def lastBeat (a : AmendSlot) (c : Container) : Nat := a.startBeat + c.quiesceLimit

/-- The last command in flight of a quiescing scope has completed (R53), in time or too late (R55). -/
def quiesceDrained (d : Dev) (i : Nat) : Dev :=
  let a := d.amend i
  match a.container with
  | none => d
  | some c =>
    if a.step ≠ .quiescing || !d.drained c.scope then d
    else if d.beat ≤ lastBeat a c then d.applyAmend i else d.abandon i 0x10

/-- QUIESCE_LIMIT beats have passed (R55): a scope that has drained in time takes its amendment. -/
def quiesceTimeout (d : Dev) (i : Nat) : Dev :=
  let a := d.amend i
  match a.container with
  | none => d
  | some c =>
    if a.step ≠ .quiescing then d
    else
      let d := d.reach (lastBeat a c * d.period)
      if d.drained c.scope && decide (d.beat ≤ lastBeat a c) then d.applyAmend i else d.abandon i 0x10

def execConfigSectorEraseDone (square : Nat) (verified : Bool) (s : State) : Host.Outcome State Fault Refusal :=
  effect (fun d => configErased d square verified) s
def execQuiesceDrained (slot : Nat) (s : State) : Host.Outcome State Fault Refusal := effect (fun d => quiesceDrained d slot) s
def execQuiesceTimeout (slot : Nat) (s : State) : Host.Outcome State Fault Refusal := effect (fun d => quiesceTimeout d slot) s

end Sys2Proof.Machine
end

