-- ==== Sys2Proof/Machine/Security.lean ====
section
/-! DEFINITION. ATTEST (R531 to R533), firmware downloads and Firmware Commit (R415, R530). -/

namespace Sys2Proof.Machine

/-- Exactly n bytes of a string. -/
def sized (n : Nat) (b : List Byte) : List Byte := (b ++ List.replicate n 0).take n

namespace Dev

/-- The length of the signed log (R532). -/
def attestLength (d : Dev) : Nat := 16192 + 48 * d.sec.log.length

/-- The signed log (R532). -/
def attestLog (d : Dev) (nonce : List Byte) : List Byte :=
  let flags := d.holdover.toNat + 2 * d.activeSq
  let head := toLE 4 0x54535441 ++ toLE 2 1 ++ toLE 1 flags ++ toLE 1 0 ++ toLE 4 d.sec.log.length ++ toLE 4 d.sec.folded ++
    sized 16 nonce ++ toLE 8 d.beat ++ toLE 8 d.time.ns ++ digestBytes (sha256 Config.identityKey) ++ List.replicate 48 0
  let regs := (List.range 8).flatMap fun r => digestBytes (AMap.get d.sec.measures r 0)
  let entry (e : MeasEntry) : List Byte :=
    toLE 1 e.register ++ toLE 1 e.event ++ toLE 2 0 ++ toLE 4 e.seq ++ toLE 8 e.beat ++ digestBytes e.digest
  let cert := toLE 16 Config.serial ++ sized 32 Config.identityKey ++ toLE 8 Config.issueBeat ++ toLE 2 Config.signerSlot ++
    List.replicate 22 0 ++ sized 7856 Config.certificate
  let body := head ++ regs ++ d.sec.log.flatMap entry ++ cert ++ toLE 2 0xFFFF ++ toLE 2 1 ++ List.replicate 12 0
  body ++ sized 7856 (Config.slhSign body)

end Dev

/-- ATTEST (R533), signed in one step: how long signing takes does not show. -/
def attestCmd (d : Dev) (h : Hdr) (nonce : List Byte) (length : Nat) : Dev :=
  let n := d.attestLength
  if length < n then d.finishSquare h.queue h.cid .invalidField n
  else
    let d := d.fadd Reg.SEC_ATTEST Fld.SEC_ATTEST_SIGNED 1
    (d.sendHost h.queue h.cid (.data h.queue h.cid (d.attestLog nonce))).finishSquare h.queue h.cid .success n

/-- Firmware Image Download (R415). -/
def imageDownloadCmd (d : Dev) (h : Hdr) (offset : Nat) (b : List Byte) : Dev :=
  if offset % 4096 ≠ 0 || b.length % 4096 ≠ 0 || 2 ^ 22 < offset + b.length then d.finish h.queue h.cid .invalidField
  else if b.isEmpty then d.finish h.queue h.cid .success
  else
    let old := d.host.image ++ List.replicate (offset - d.host.image.length) 0
    ({ d with host := { d.host with image := overlay old offset b } } : Dev).finish h.queue h.cid .success

/-- An image fails a check: SEC_STAT shows its cause (R530, R541). -/
def Dev.imageFails (d : Dev) (cause : Nat) : Dev :=
  let d := d.fset Reg.SEC_STAT Fld.SEC_STAT_LAST_CAUSE cause
  if cause = 3 || cause = 4 then d.fadd Reg.SEC_STAT Fld.SEC_STAT_VERIFY_FAILS 1 else d

/-- The write set of an image: on every Square in service, or with action 3 on the standby first (R530). -/
def Dev.addImageSet (d : Dev) (h : Hdr) (slot action n : Nat) (e : WriteEffect) : Dev :=
  if 3072 < max (d.liveSectors 0) (d.liveSectors 1) + n then d.finish h.queue h.cid .capacityExceeded
  else
    let o := d.squares.nextObject
    let on (s : Nat) : Nat := if action = 3 && s = d.activeSq then 0 else d.sectorsOn s n
    let w : WriteSet := ⟨some (h.queue, h.cid), slot, o, on 0, on 1, n, e⟩
    ({ d with squares := { d.squares with writeSets := d.squares.writeSets ++ [w], nextObject := o + 1 } } : Dev).driveWrites

/-- Firmware Commit (R415, R530). The version of an image and its MIRROR_MIN are free values: the spec does not say where an image
carries them. Slot 0 lets the device choose the slot that does not run (DESIGN CHOICE, log entry 41). -/
def firmwareCommitCmd (d : Dev) (h : Hdr) (slot0 action : Nat) : Dev :=
  let slot := if slot0 = 0 then 3 - d.squares.fwRunning else slot0
  if 3 < action || 2 < slot || (action = 3 && d.standby.isNone) then d.finish h.queue h.cid .invalidField
  else if action = 2 then
    if d.imageRuns slot then
      ({ d with squares := { d.squares with fwNext := slot } } : Dev).finish h.queue h.cid .success
    else d.finish h.queue h.cid .invalidFirmwareImage
  else
    let b := d.host.image
    let d := { d with host := { d.host with image := [] } }
    match headerCheck d [1] (2 ^ 22) b with
    | .error r => (d.imageFails r.1).finish h.queue h.cid .invalidFirmwareImage
    | .ok _ =>
      let (version, d) := d.draw
      let (mirror, d) := d.draw
      let (newer, d) := d.draw
      if action = 3 && newer.toNat % 2 = 1 then d.finish h.queue h.cid .invalidFirmwareImage
      else
        let e : WriteEffect := .firmware slot (version.toNat % 2 ^ 32) (fieldLE b 0x18 4) (mirror.toNat % 2 ^ 32)
          (fieldLE b (b.length - 7872) 2) (sha256 b) action
        d.addImageSet h slot action (sectorsFor b.length) e

end Sys2Proof.Machine
end

