-- ==== Sys2Proof/Machine/Gate.lean ====
section
/-! DEFINITION. Ports and Gates: links (R405, R406, R473, R496), the end of associations, and reset G (R407, R408). -/

namespace Sys2Proof.Machine

/-- The submission-entry part of a host's command. -/
def hdrOf : Instr → Option Hdr
  | .flush h .. | .write h .. | .read h .. | .writeZeroes h .. | .deallocate h .. | .secureDeallocate h .. | .query h ..
  | .ingest h .. | .delete h .. | .compute h .. | .create h .. | .seal h .. | .switch h .. | .retire h .. | .filterLoad h ..
  | .repair h .. | .stats h .. | .allocate h .. | .release h .. | .update h .. | .copyIn h .. | .copyOut h .. | .bind h ..
  | .unbind h .. | .report h .. | .registerRead h .. | .registerWrite h .. | .getLogPage h .. | .identify h .. | .abort h ..
  | .setFeatures h .. | .getFeatures h .. | .asynchronousEventRequest h | .firmwareImageDownload h .. | .firmwareCommit h ..
  | .keepAlive h | .formatNvm h .. | .sanitize h .. | .connect h .. | .propertyGet h .. | .propertySet h .. | .disconnect h ..
  | .planLoad h .. | .planDiscard h .. | .apply h .. | .commit h | .revert h | .snapshot h .. | .attest h .. | .leaseLend h ..
  | .leasePeer h .. | .leaseAcquire h .. | .leaseReturn h .. | .leaseRevoke h .. | .leaseStatus h .. => some h
  | .abandon r .. | .cellInject r .. | .eccInject r .. | .kerbInject r .. | .blkCountClear r .. | .kerbCountClear r ..
  | .cacheDrop r .. | .kerbCtlReset r .. | .ftlCountClear r | .reclaimHold r .. | .hifCountClear r | .portReset r ..
  | .pwrCountClear r | .loopsFreeze r .. | .secCountClear r | .failover r | .deviceReset r | .quarterReset r .. | .blockReset r ..
  | .forceHoldover r .. | .ppsOut r .. | .timeSet r .. | .traceMode r .. | .traceEnable r .. | .arm r | .trigger r | .traceClear r
  | .counterSample r .. | .lightValueWrite r .. | .lightAddWrite r .. | .lightOwnerWrite r .. | .bmwinWrite r .. | .fmtFlagsRead r ..
  | .planErrRead r | .railPeakRead r .. | .tempMaxRead r .. => match r with
    | .host h => some h
    | .monitor _ => none
  | _ => none

namespace Dev

/-! Associations that end (R407, R408). -/

/-- The queries of a command are dropped without a word to the host. -/
def dropQueries (d : Dev) (q cid : Nat) : Dev :=
  let ids := (d.queriesOf q cid).map (·.id)
  let d := ids.foldl (fun d i => d.dropQuery i) d
  ((({ d with queries := d.queries.filter fun x => !ids.contains x.1 } : Dev).forget ids).retireIdle).finishPort q cid
    .transientTransportError

/-- A PLACE copy goes through a port: to or from the host memory of an association of it, or to or from a lease of a peer behind it. -/
def viaPort (d : Dev) (x : Inflight) (p : Nat) : Bool :=
  match d.copyOf x with
  | none => false
  | some (c, i, _) =>
    let behind (l : Nat) : Bool := match AMap.look d.place.leases l with
      | some y => y.borrower && (AMap.look d.place.peers y.peer).any fun z => z.port = p
      | none => false
    (c.sourceKind = 1 && d.portOf x.queue = p) || (copyNames (x.district.getD 0) i c).any fun i =>
      match AMap.look d.place.objs i with
      | some o => o.tier = 3 && o.extents.any behind
      | none => false

/-- A PLACE copy to or from the memory of a host that is gone ends (R407). -/
def dropCopy (d : Dev) (x : Inflight) (h : Hdr) : Dev := match d.copyOf x with
  | some (c, _, _) => if c.sourceKind = 1 then d.endCopy x h .transientTransportError else d
  | none => d

/-- What becomes of a command in flight when its association ends (R407). What the table does not name runs to its end and its status
is recorded (DEDUCED, log entry 43). -/
def settleFlight (d : Dev) (x : Inflight) : Dev :=
  let q := x.queue
  let cid := x.cid
  let waiter (c : Instr) : Bool := match hdrOf c with
    | some h => h.queue = q && h.cid = cid
    | none => false
  let d := match x.command with
    | .read .. | .write .. | .writeZeroes .. | .deallocate .. | .secureDeallocate .. | .ingest .. =>
      if x.effective then d else d.forgetReads (65536 * q + cid)
    | _ => d
  let unlocked : Dev := { d with host := { d.host with lockWaiters := d.host.lockWaiters.filter fun c => !waiter c } }
  match x.command with
  | .query .. => d.dropQueries q cid
  | .read .. => unlocked.finish q cid .transientTransportError
  | .write .. | .writeZeroes .. | .deallocate .. | .secureDeallocate .. =>
    if x.effective then d else unlocked.finish q cid .transientTransportError
  | .ingest .. | .delete .. => if x.effective then d else unlocked.finishPort q cid .transientTransportError
  | .allocate h .. | .copyIn h .. | .copyOut h .. => if x.held.isSome then d.finish q cid .transientTransportError else d.dropCopy x h
  | .snapshot .. =>
    let still := d.trace.standstill.map fun s => if s.queue = some (q, cid) then { s with queue := none } else s
    let d := { d with trace := { d.trace with standstill := still,
                                              snapshotWaiting := d.trace.snapshotWaiting.filter fun c => !waiter c } }
    d.finishSquare q cid .transientTransportError
  | _ => match x.held with
    | some (st, _, _) => d.finish q cid st
    | none => d

/-- An association ends: its waiting entries go, its commands in flight are settled and recorded for its host. -/
def endAssoc (d : Dev) (a : Nat) : Dev :=
  match AMap.look d.host.assocs a with
  | none => d
  | some x =>
    let mine (q : Nat) : Bool := d.assocOf q = a
    let waits (c : Instr) : Bool := match hdrOf c with
      | some h => mine h.queue
      | none => false
    let orphan (f : Inflight) : Inflight := if mine f.queue then { f with orphan := some (x.port, x.nqn) } else f
    let flight := d.host.inflight.filter fun f => mine f.queue && f.orphan.isNone
    let d := { d with host := { d.host with waiting := d.host.waiting.filter fun c => !waits c,
                                            entryWaits := d.host.entryWaits.filter fun w => !mine w.1,
                                            inflight := d.host.inflight.map orphan } }
    let d := flight.foldl (fun d f => d.settleFlight f) d
    let qps := (List.range 4096).filter fun q => d.fbit (Reg.HIF_QP q) Fld.HIF_QP_ENABLED && mine q
    let d := qps.foldl (fun d q => d.setReg (Reg.HIF_QP q) 8) d
    let d := (d.setReg (Reg.HIF_ASSOC_STAT a) 0).setReg (Reg.HIF_ASSOC_PEER a) 0
    { d with host := { d.host with assocs := AMap.drop d.host.assocs a, slowed := d.host.slowed.filter fun s => !qps.contains s.1 } }

/-- Reset G of a Gate (R407): its associations end, with the PLACE copies through the port, also those of a lease whose command came over
the other port; its links train again. -/
def gateReset (d : Dev) (p : Nat) : Dev :=
  let d := { d with host := { d.host with gateLog := d.host.gateLog.filter fun x => x.port ≠ p,
                                          paused := d.host.paused.filter fun x => x / 8 ≠ p } }
  let copies := d.host.inflight.filter fun x => d.viaPort x p && !d.media.acks.any fun a => a.queue = x.queue && a.cid = x.cid
  let d := (d.host.assocs.filter fun x => x.2.port = p).foldl (fun d x => d.endAssoc x.1) d
  let d := copies.foldl (fun d x => match hdrOf x.command, d.inflightOf x.queue x.cid with
    | some h, some _ => (d.forgetReads (65536 * x.queue + x.cid)).endCopy x h .transientTransportError
    | _, _ => d) d
  let d := d.resetRegs 'G' fun r ix => r.name = .HIF_PORT_FEC && ix = [p]
  (d.fset (Reg.HIF_PORT_STAT p) Fld.HIF_PORT_STAT_LINK_UP 0).fadd (Reg.HIF_PORT_STAT p) Fld.HIF_PORT_STAT_G_RESETS 1

/-- HIF_PORTp_CFG as the last link training took it (R441). -/
def portConfig (d : Dev) (p : Nat) : Nat := (AMap.look d.host.portCfg p).getD (d.reg (Reg.HIF_PORT_CFG p))

/-- The names of a bit of LINK_UP. -/
def setLink (d : Dev) (p link : Nat) (up : Bool) : Dev :=
  let a := Reg.HIF_PORT_STAT p
  d.fset a Fld.HIF_PORT_STAT_LINK_UP (setBits (d.fget a Fld.HIF_PORT_STAT_LINK_UP) link 1 up.toNat)

end Dev

/-! Meanings. -/

/-- A keep-alive timer expires (R408). -/
def keepAliveExpiry (d : Dev) (a : Nat) : Dev := d.endAssoc a

/-- A Gate's uncorrectable error or watchdog (R407, R496). -/
def gateFault (d : Dev) (p : Nat) : Dev :=
  if 2 ≤ p then d else (d.logFault (srcPort p) 0x0603 2 (letterCode 'G') 0).gateReset p

/-- A link has trained (R405, R441): the mode that HIF_PORTp_CFG selects takes effect. Without media that the port supports no link
comes up. -/
def linkTrained (d : Dev) (p link media dm : Nat) : Dev :=
  let cfg := d.reg (Reg.HIF_PORT_CFG p)
  let split := bits cfg 0 1 = 1
  if 2 ≤ p || 2 ≤ link || 4 < media || (link = 1 && !split) || d.contain.gatesDown.contains p || d.contain.shutdown ≠ 0 then d
  else
    let a := Reg.HIF_PORT_STAT p
    let again := d.host.trained.contains (2 * p + link)
    let d := { d with host := { d.host with portCfg := AMap.put d.host.portCfg p cfg,
                                            trained := if again then d.host.trained else d.host.trained ++ [2 * p + link] } }
    let d := if again then d.fadd a Fld.HIF_PORT_STAT_RETRAINS 1 else d
    let d := (d.fset a Fld.HIF_PORT_STAT_SPLIT (decide split).toNat).fset a Fld.HIF_PORT_STAT_MEDIA media
    let d := d.fset a Fld.HIF_PORT_STAT_CABLE_DM (if media = 1 || media = 2 then min dm 255 else 255)
    let d := if split then d else d.setLink p 1 false
    d.setLink p link (media ≠ 0 && media ≠ 4)

/-- A link goes down (R441). -/
def linkDown (d : Dev) (p link : Nat) : Dev := if 2 ≤ p || 2 ≤ link then d else d.setLink p link false

/-- An uncorrectable codeword drops its frame (R496). -/
def ethernetUncorrectable (d : Dev) (p corrected : Nat) : Dev :=
  if 2 ≤ p then d
  else
    let a := Reg.HIF_PORT_FEC p
    let d := (d.fadd a Fld.HIF_PORT_FEC_UNCORRECTED 1).fadd a Fld.HIF_PORT_FEC_CORRECTED corrected
    d.logFault (srcPort p) 0x0604 0 0 0

/-- A marked packet is answered with a congestion notification (R406). -/
def ecnReceived (d : Dev) (p qp : Nat) : Dev :=
  if 2 ≤ p || bits (d.portConfig p) 4 1 = 0 then d else d.emit (.cnp qp)

/-- A notification lowers the send rate of its queue pair (R406): the model counts how often. -/
def cnpReceived (d : Dev) (p qp : Nat) : Dev :=
  if 2 ≤ p || bits (d.portConfig p) 4 1 = 0 then d
  else { d with host := { d.host with slowed := AMap.put d.host.slowed qp (AMap.get d.host.slowed qp 0 + 1) } }

/-- A PFC frame pauses a priority of PFC_MASK, or lets it go on (R406). -/
def pfcReceived (d : Dev) (p prio : Nat) (pause : Bool) : Dev :=
  if 2 ≤ p || 8 ≤ prio || bits (d.portConfig p) (8 + prio) 1 = 0 then d
  else
    let rest := d.host.paused.filter (· ≠ 8 * p + prio)
    { d with host := { d.host with paused := if pause then rest ++ [8 * p + prio] else rest } }

/-- LINK_EQ (R466, R473): in a slot with activity [3], a link above its threshold is retrained. An Ethernet link (kind 0, by 2 × port +
link) goes down for it. -/
def linkEq (d : Dev) (kind index : Nat) (high : Bool) : Dev :=
  if !high || d.frozen || !d.slotNames 3 || kind ≠ 0 || 4 ≤ index then d else d.setLink (index / 2) (index % 2) false

def execKeepAliveExpiry (assoc : Nat) (s : State) : Host.Outcome State Fault Refusal :=
  effect (fun d => keepAliveExpiry d assoc) s
def execGateFault (port : Nat) (s : State) : Host.Outcome State Fault Refusal := effect (fun d => gateFault d port) s
def execLinkTrainingDone (port link media cableDm : Nat) (s : State) : Host.Outcome State Fault Refusal :=
  effect (fun d => linkTrained d port link media cableDm) s
def execEthernetLinkDown (port link : Nat) (s : State) : Host.Outcome State Fault Refusal := effect (fun d => linkDown d port link) s
def execEthernetUncorrectable (port corrected : Nat) (s : State) : Host.Outcome State Fault Refusal :=
  effect (fun d => ethernetUncorrectable d port corrected) s
def execEcnCeReceived (port qp : Nat) (s : State) : Host.Outcome State Fault Refusal := effect (fun d => ecnReceived d port qp) s
def execCnpReceived (port qp : Nat) (s : State) : Host.Outcome State Fault Refusal := effect (fun d => cnpReceived d port qp) s
def execPfcFrameReceived (port priority : Nat) (pause : Bool) (s : State) : Host.Outcome State Fault Refusal :=
  effect (fun d => pfcReceived d port priority pause) s
def execLinkEq (kind index : Nat) (overThreshold : Bool) (s : State) : Host.Outcome State Fault Refusal :=
  effect (fun d => linkEq d kind index overThreshold) s

end Sys2Proof.Machine
end

