-- ==== Sys2Proof/Machine/Registers.lean ====
section
/-! DEFINITION. Register accesses: who may make them, what a register shows, and what a write does (R3, R6, R32, R33, R64, R95, R127,
R131, R161, R163, R237, R330, R331, R402, R432, R440, R441, R457, R466, R478, R518, R523, R541, R549 to R552, R562). -/

namespace Sys2Proof.Machine

/-- A register access: a write of so many bytes, or a read of so many registers at successive addresses. -/
inductive Access
  | write (address bytes value : Nat)
  | read (address bytes count : Nat)
  deriving DecidableEq, Repr

/-- Who makes a register access (R432). -/
inductive Who
  | admin | district (d : Nat) | unmapped | monitor
  deriving DecidableEq, Repr

namespace Dev

def whoOf (d : Dev) (q : Nat) : Who :=
  if isAdmin q then .admin
  else match d.districtOf q with
    | some x => .district x
    | none => .unmapped

/-! What registers show. -/

/-- Fields of a register given by name. -/
def lay (v : Nat) (fs : List (Fld × Nat)) : Nat := fs.foldl (fun v f => setBits v f.1.lo f.1.width f.2) v

def flag (b : Bool) : Nat := b.toNat

/-- A bit mask of the numbers below n that meet a condition. -/
def maskOf (n : Nat) (c : Nat → Bool) : Nat := ((List.range n).map fun i => if c i then 2 ^ i else 0).sum

/-- The words of a 32-byte value, least significant first. -/
def word64 (v i : Nat) : Nat := v / 2 ^ (64 * i) % 2 ^ 64

def stepCode : AmendStep → Nat
  | .idle => 0
  | .verifying => 1
  | .validating => 2
  | .writing => 3
  | .quiescing => 4
  | .applying => 5
  | .resuming => 6
  | .awaitingSwap => 7

def slotCode : SlotState → Nat
  | .waiting => 1
  | .ready => 2
  | .preparing => 3
  | .running => 4
  | .completing => 5

/-- The bytes of the ARBITRATION section that covers a cell: that of the narrowest scope, and of one scope the latest (R35, R117). -/
def arbitrationOf (d : Dev) (b c : Nat) : List Byte :=
  let at' (k : ScopeKind) (i : Nat) : Option (List Byte) := (lastBody d.plan.rawSections 0x40 k i).bind fun x => match x with
    | .arbitration raw => some raw
    | _ => none
  ((at' .cell (4 * b + c) <|> at' .block b <|> at' .quarter (b / 72)) <|> at' .device 0).getD []

def planShows (d : Dev) (v : Nat) : Nat :=
  let p := d.plan
  lay v [(Fld.PLAN_STAT_STANDING_VALID, flag p.inForce), (Fld.PLAN_STAT_PENDING, flag p.pending.isSome),
    (Fld.PLAN_STAT_COMMITTED, p.committed.length), (Fld.PLAN_STAT_UNCOMMITTED, min 255 p.uncommitted.length),
    (Fld.PLAN_STAT_ANNOTATIONS, min 255 p.annotations.length), (Fld.PLAN_STAT_LAST_SEQ, p.highSeq % 2 ^ 32)]

def slotShows (d : Dev) (i v : Nat) : Nat :=
  let a := d.amend i
  match a.step, a.container with
  | .idle, _ => v
  | _, none => lay v [(Fld.PLAN_SLOT_STATE, stepCode a.step)]
  | _, some c =>
    lay v [(Fld.PLAN_SLOT_STATE, stepCode a.step), (Fld.PLAN_SLOT_SCOPE_KIND, c.scope.kind.code),
      (Fld.PLAN_SLOT_SCOPE_INDEX, c.scope.index), (Fld.PLAN_SLOT_SEQUENCE, c.sequence % 2 ^ 32)]

def cellShows (d : Dev) (b c v : Nat) : Nat :=
  match (d.block b).cells[c]? with
  | none => v
  | some x =>
    let dist (t : Option BufTag) : Nat := match t with
      | some t => t.key.district
      | none => 0
    let active := passActive d b c
    let handle (t : Option BufTag) : Nat := match t with
      | some t => t.key.handle % 2 ^ 16
      | none => 0
    lay v [(Fld.CELL_STAT_FENCED, flag x.fenced), (Fld.CELL_STAT_QUADRANT, flag x.quadrant),
      (Fld.CELL_STAT_PASS_ACTIVE, flag active.isSome), (Fld.CELL_STAT_FRONT_VALID, flag x.front.isSome),
      (Fld.CELL_STAT_SHADOW_VALID, flag x.shadow.isSome),
      (Fld.CELL_STAT_SHADOW_LOADING, flag ((loadWanted d b).any fun w => w.1 = c)),
      (Fld.CELL_STAT_FRONT_DISTRICT, dist x.front), (Fld.CELL_STAT_SHADOW_DISTRICT, dist x.shadow),
      (Fld.CELL_STAT_MODE, (active.map (·.mode)).getD 0), (Fld.CELL_STAT_FORMAT, (active.map (·.fw)).getD 0),
      (Fld.CELL_STAT_FRONT_HANDLE, handle x.front), (Fld.CELL_STAT_SHADOW_HANDLE, handle x.shadow)]

def arbShows (d : Dev) (b c v : Nat) : Nat :=
  match d.arbitrationOf b c with
  | [] => v
  | raw => lay v [(Fld.CELL_ARB_SHADOW_WEIGHT, Config.arbWeight raw b c 0), (Fld.CELL_ARB_DRAIN_WEIGHT, Config.arbWeight raw b c 1)]

/-- An array command runs on a block while the next operation of its running command is of the array class (DEDUCED, log entry 45);
CMD_TAG is the number that the next event of the block will carry. -/
def arrayShows (d : Dev) (b v : Nat) : Nat :=
  let cells := (d.block b).cells
  let has (c : Nat) (f : Cell → Bool) : Bool := match cells[c]? with
    | some x => f x
    | none => false
  let busy := match d.running b with
    | some (_, x) => (match x.ops[x.next]? with
      | some o => (Desc.of o).isArray
      | none => false)
    | none => false
  lay v [(Fld.BLK_ARRAY_STAT_IN_SERVICE, maskOf 4 fun c => has c fun x => !x.fenced),
    (Fld.BLK_ARRAY_STAT_QUADRANT, maskOf 4 fun c => has c fun x => x.quadrant), (Fld.BLK_ARRAY_STAT_ARRAY_BUSY, flag busy),
    (Fld.BLK_ARRAY_STAT_CMD_TAG, if busy then AMap.get d.seqs (d.srcOfBlock b) 0 % 2 ^ 16 else 0),
    (Fld.BLK_ARRAY_STAT_PASSES_LEFT, if busy then min (((List.range 4).map (passesLeft d b)).foldl max 0) 0xFFFF else 0)]

def blockShows (d : Dev) (b v : Nat) : Nat :=
  let x := d.block b
  let role := if d.blockTesting b then 3 else match x.role with
    | .active _ | .unset => 0
    | .spare _ => 1
    | .retired => 2
  let (slot, dist) : Nat × Nat := match d.running b with
    | some (i, c) => (i, c.district)
    | none => (0, 0)
  lay v [(Fld.BLK_STAT_ROLE, role), (Fld.BLK_STAT_HOME_DISTRICT, x.home), (Fld.BLK_STAT_OCCUPIED, x.slots.length),
    (Fld.BLK_STAT_RUN_SLOT, slot), (Fld.BLK_STAT_RUN_DISTRICT, dist), (Fld.BLK_STAT_RUNNING, flag (d.running b).isSome),
    (Fld.BLK_STAT_LOGICAL, match x.role with
      | .active l => l
      | _ => 255)]

def queueShows (d : Dev) (b v : Nat) : Nat :=
  (d.block b).slots.foldl (fun v s => setBits v (4 * s.1) 4 (slotCode s.2.state)) v

/-- Start-up has reached the Kerbs (R515 phase 7): what it found is shown. -/
def foundUnits (d : Dev) : Bool := decide (7 ≤ d.fget Reg.DEV_BOOT Fld.DEV_BOOT_PHASE)

def kerbShows (d : Dev) (k v : Nat) : Nat :=
  let x := d.kerb k
  lay v [(Fld.KERB_STAT_ONLINE, flag (d.foundUnits && d.kerbOnline k && !x.resetting)), (Fld.KERB_STAT_LINK, x.link),
    (Fld.KERB_STAT_PREFERRED, preferredLink d.plan.sections k),
    (Fld.KERB_STAT_RESETTING, flag x.resetting), (Fld.KERB_STAT_QUIESCED, flag x.quiesced)]

def residentShows (d : Dev) (k v : Nat) : Nat :=
  let qs := d.residents k
  lay v [(Fld.KERB_QUERY_RESIDENT, qs.length), (Fld.KERB_QUERY_BLOCKS, ((d.kerb k).qblocks.filter (·.admitted)).length),
    (Fld.KERB_QUERY_HEAP_ENTRIES, (qs.map fun q => q.service.depth q.desc.k).sum)]

def channelShows (d : Dev) (k ch v : Nat) : Nat :=
  let is (c : Die → Bool) : Nat := maskOf 4 fun i => c (d.die k (4 * ch + i))
  let queued := ((List.range 4).map fun i => (d.die k (4 * ch + i)).queue.length).sum
  lay v [(Fld.KERB_CH_STAT_PRESENT, if d.foundUnits then is (·.present) else 0),
    (Fld.KERB_CH_STAT_RETIRED, maskOf 4 fun i => d.media.retired.contains (32 * k + 4 * ch + i)),
    (Fld.KERB_CH_STAT_BUSY, is (·.busy.isSome)), (Fld.KERB_CH_STAT_SUSPENDED, is (·.suspended.isSome)),
    (Fld.KERB_CH_STAT_QUEUED, min 65535 queued)]

def districtShows (d : Dev) (x v : Nat) : Nat :=
  let blocks := allBlocks.filter fun b => (d.block b).home = x && (d.logicalOf b).isSome
  let slots := (d.blocks.map fun b => (b.2.slots.filter fun s => s.2.district = x).length).sum
  lay v [(Fld.CNT_DIST_STAT_ENABLED, flag (d.district x).enable), (Fld.CNT_DIST_STAT_THROTTLED, flag (d.power.throttled.contains x)),
    (Fld.CNT_DIST_STAT_BLOCKS, blocks.length), (Fld.CNT_DIST_STAT_IN_FLIGHT, slots)]

/-! Flash media. -/

def groupDies (g : Nat) : List Nat := (List.range 16).map fun m => dieOf g m

/-- Block groups of the dies in service with their epochs: how many there are, the sum, and the largest. -/
def wearOf (d : Dev) (dies : Nat → Bool) (n : Nat) : Nat × Nat × Nat :=
  let mine := d.media.bgs.filter fun x => dies (x.1 / 2048)
  let bad := (mine.filter (·.2.bad)).length
  let good := (mine.filter fun x => !x.2.bad).map (·.2.epoch)
  (2048 * n - bad, good.sum, good.foldl max 0)

def ftlShows (d : Dev) (v : Nat) : Nat :=
  lay v [(Fld.FTL_STAT_DEGRADED, flag ((List.range 96).any fun g => d.groupRefuses g)),
    (Fld.FTL_STAT_NAMESPACES, d.plan.namespaces.length), (Fld.FTL_STAT_RETIRED_DIES, d.media.retired.length),
    (Fld.FTL_STAT_DIRTY_KIB, d.dirtyBytes / 1024)]

def spareShows (d : Dev) (v : Nat) : Nat :=
  let free := (List.range 96).map fun g => (d.freeSbs g).length
  let least := free.foldl min 2048
  lay v [(Fld.FTL_SPARE_FREE, free.sum), (Fld.FTL_SPARE_MIN_FREE, least),
    (Fld.FTL_SPARE_MIN_GROUP, ((List.range 96).find? fun g => free[g]? = some least).getD 0)]

def wearShows (d : Dev) (v : Nat) : Nat :=
  let dies := (List.range 1536).filter fun i => d.dieOk i
  let (n, sum, top) := d.wearOf (fun i => d.dieOk i) dies.length
  let mean := sum / max 1 n
  lay v [(Fld.FTL_WEAR_AVG_ERASES, min 65535 mean), (Fld.FTL_WEAR_MAX_ERASES, min 65535 top),
    (Fld.FTL_WEAR_PERCENT_USED, min 255 (mean * 100 / 3000))]

def groupShows (d : Dev) (g v : Nat) : Nat :=
  let pieces := (d.media.map.map fun x =>
    if x.2.group = g then (if d.corpus (x.1 / 2 ^ 40) then 16 else 1) else 0).sum
  lay v [(Fld.FTL_GRP_FREE, (d.freeSbs g).length), (Fld.FTL_GRP_WIDTH, ((groupDies g).filter fun i => d.dieOk i).length),
    (Fld.FTL_GRP_UNPROTECTED, flag (d.media.sbs.any fun s => s.1 / 2048 = g && s.2.unprotected)),
    (Fld.FTL_GRP_REBUILDING, flag (d.media.rebuilding.any fun i => (groupDies g).contains i)),
    (Fld.FTL_GRP_VALID_UNITS, pieces / 16)]

def groupWearShows (d : Dev) (g v : Nat) : Nat :=
  let mine := d.media.bgs.filter fun x => (groupDies g).contains (x.1 / 2048)
  let es := mine.map (·.2.epoch)
  lay v [(Fld.FTL_GRP_WEAR_MIN_ERASES, if es.length < 16 * 2048 then 0 else min 65535 (es.foldl min (es.headD 0))),
    (Fld.FTL_GRP_WEAR_MAX_ERASES, min 65535 (es.foldl max 0)), (Fld.FTL_GRP_WEAR_BAD, (mine.filter (·.2.bad)).length)]

/-! The host interface, containment, security. -/

def hifShows (d : Dev) (v : Nat) : Nat :=
  let up (p : Nat) : Bool := d.fget (Reg.HIF_PORT_STAT p) Fld.HIF_PORT_STAT_LINK_UP ≠ 0
  let wiping (s : Bool) : Bool := match d.host.wipe with
    | some w => w.sanitize = s && !w.failed
    | none => false
  lay v [(Fld.HIF_STAT_PORT_UP, maskOf 2 up), (Fld.HIF_STAT_SANITIZING, flag (wiping true)),
    (Fld.HIF_STAT_FORMATTING, flag (wiping false)), (Fld.HIF_STAT_ASSOCIATIONS, d.host.assocs.length),
    (Fld.HIF_STAT_DISPATCHED, d.host.inflight.length + d.host.entryWaits.length + (d.host.assocs.map fun x => x.2.aers.length).sum)]

def qpShows (d : Dev) (q v : Nat) : Nat :=
  lay v [(Fld.HIF_QP_CLASS, d.classOf q), (Fld.HIF_QP_DISTRICT, (d.districtOf q).getD 0),
    (Fld.HIF_QP_MAPPED, flag (d.districtOf q).isSome)]

def containShows (d : Dev) (v : Nat) : Nat :=
  let retired := (d.plan.annotations.filterMap fun a => match a with
    | .retire b => some b
    | _ => none).dedup
  let fenced := (d.blocks.map fun b => (b.2.cells.filter (·.fenced)).length).sum
  lay v [(Fld.CNT_CONTAIN_QUARANTINED, maskOf 4 fun q => d.quarantined q), (Fld.CNT_CONTAIN_RETIRED_BLOCKS, retired.length),
    (Fld.CNT_CONTAIN_FENCED_CELLS, fenced)]

def keysShow (d : Dev) (v : Nat) : Nat :=
  lay v [(Fld.SEC_KEYS_VALID, maskOf 16 fun s => (d.keyAt s).isSome),
    (Fld.SEC_KEYS_REVOKED, maskOf 16 fun s => match d.keyAt s with
      | some k => k.revoked
      | none => false)]

def monShows (d : Dev) (v : Nat) : Nat :=
  let left := d.sec.lockUntil - d.time.ns
  lay v [(Fld.SEC_MON_LEVEL, d.sec.level), (Fld.SEC_MON_LOCKED, flag (decide (0 < left))),
    (Fld.SEC_MON_LOCK_S, ceilDiv left 1000000000)]

/-- The value that a register shows: what is stored, with the fields that reflect the rest of the state. -/
def showReg (d : Dev) (r : RegRow) (ix : List Nat) (v : Nat) : Nat :=
  match r.name, ix with
  | .PLAN_STAT, _ => d.planShows v
  | .PLAN_DIGEST, [i] => if d.plan.inForce then word64 d.plan.standing.digest i else v
  | .PLAN_SLOT, [i] => d.slotShows i v
  | .CELL_STAT, [q, p, c] => d.cellShows (72 * q + p) c v
  | .CELL_ARB, [q, p, c] => d.arbShows (72 * q + p) c v
  | .BLK_ARRAY_STAT, [q, p] => d.arrayShows (72 * q + p) v
  | .BLK_STAT, [q, p] => d.blockShows (72 * q + p) v
  | .BLK_QUEUE, [q, p] => d.queueShows (72 * q + p) v
  | .BLK_BANK, [q, p] =>
    let x := d.block (72 * q + p)
    lay v [(Fld.BLK_BANK_IN_USE, x.inUse), (Fld.BLK_BANK_BACK_WRITTEN, flag x.backWritten.isSome)]
  | .KERB_STAT, [q, j] => d.kerbShows (12 * q + j) v
  | .KERB_ARB, [q, j] =>
    let p := d.policy (12 * q + j)
    lay v [(Fld.KERB_ARB_FG_WEIGHT, p.fg), (Fld.KERB_ARB_SWEEP_WEIGHT, p.sweep), (Fld.KERB_ARB_WRITE_WEIGHT, p.write),
      (Fld.KERB_ARB_BG_WEIGHT, p.bg)]
  | .KERB_QUERY, [q, j] => d.residentShows (12 * q + j) v
  | .KERB_CACHE, [q, j] =>
    let c := (d.kerb (12 * q + j)).cache
    lay v [(Fld.KERB_CACHE_VALID, c.length), (Fld.KERB_CACHE_SPEC_UNUSED, (c.filter fun p => p.speculative && !p.used).length)]
  | .KERB_CH_STAT, [q, j, ch] => d.channelShows (12 * q + j) ch v
  | .CNT_DIST_STAT, [x] => d.districtShows x v
  | .STK_STAT, [q, i] =>
    lay v [(Fld.STK_STAT_STREAMS, (d.place.streams.filter fun s => s.stack = 3 * q + i).length)]
  | .STK_BKT, [q, i, r] => lay v [(Fld.STK_BKT_LIGHT, flag (d.regionLight (64 * (3 * q + i) + r)))]
  | .ARC_STAT, [q, i] =>
    lay v [(Fld.ARC_STAT_PREFERRED, preferredLink d.plan.sections (48 + 2 * q + i))]
  | .ARC_BKT, [q, i, r] => lay v [(Fld.ARC_BKT_LIGHT, flag (d.regionLight (768 + 512 * (2 * q + i) + r)))]
  | .FTL_STAT, _ => d.ftlShows v
  | .FTL_SPARE, _ => d.spareShows v
  | .FTL_WEAR, _ => d.wearShows v
  | .FTL_SECURE, _ => lay v [(Fld.FTL_SECURE_PENDING, (d.media.erasures.filter fun e => e.2.journalled && !e.2.format).length)]
  | .FTL_GRP, [g] => d.groupShows g v
  | .FTL_GRP_WEAR, [g] => d.groupWearShows g v
  | .FTL_DIE_RETIRED, [w] => maskOf 64 fun i => d.media.retired.contains (64 * w + i)
  | .HIF_STAT, _ => d.hifShows v
  | .HIF_LOCK, _ => lay v [(Fld.HIF_LOCK_IN_USE, (d.host.locks.filter fun l => l.blocks ≠ 0).length),
    (Fld.HIF_LOCK_WAITING, d.host.lockWaiters.length + d.host.entryWaits.length)]
  | .HIF_QP, [q] => d.qpShows q v
  | .TIME_STAT, _ =>
    lay v [(Fld.TIME_STAT_HOLDOVER_S, if d.holdover then min (2 ^ 32 - 1) ((d.time.ns - d.time.flagSince) / 1000000000) else 0)]
  | .TIME_PERIOD, _ => d.plan.timeBase.periodUs
  | .TIME_NOW, _ => d.time.ns
  | .TIME_BEAT, _ => d.beat
  | .PWR_STAT, _ => lay v [(Fld.PWR_STAT_CAP_W, d.deviceCap)]
  | .CNT_CONTAIN, _ => d.containShows v
  | .DEV_LIFE, _ => lay v [(Fld.DEV_LIFE_POWER_ON_HOURS, d.squares.onNs / 3600000000000)]
  | .SEC_KEYS, _ => d.keysShow v
  | .SEC_STAT, _ => lay v [(Fld.SEC_STAT_KEY_ERASE_PENDING, flag (!d.sec.keyErases.isEmpty))]
  | .SEC_NSKEY, _ => maskOf 32 fun k => (AMap.look d.sec.nsKeys k).isSome
  | .SEC_IDHASH, [i] => word64 (sha256 Config.identityKey) i
  | .SEC_ATTEST, _ => lay v [(Fld.SEC_ATTEST_LENGTH, d.attestLength)]
  | .SEC_MON, _ => d.monShows v
  | .SEC_MEAS, [m, i] => word64 (AMap.get d.sec.measures m 0) i
  | _, _ => v

/-- What a read of a register returns (R6). -/
def peek (d : Dev) (r : RegRow) (ix : List Nat) (a : Nat) : Nat :=
  let v := d.showReg r ix (d.reg a)
  r.fields.foldl (fun v f => if f.acc = .wo || f.acc = .rsv then setBits v f.lo f.width 0 else v) v

/-- A read clears RC fields as one action (R6, R95). -/
def clearRc (d : Dev) (r : RegRow) (a : Nat) : Dev :=
  if r.fields.any fun f => f.acc = .rc then
    d.setReg a (r.fields.foldl (fun v f => if f.acc = .rc then setBits v f.lo f.width 0 else v) (d.reg a))
  else d

/-! Rights and addresses. -/

/-- Registers in the windows that a quarantined quarter withdraws (R33). -/
def inQuarter (n : RegName) : Bool := (regRowsBlk ++ regRowsCell ++ regRowsStk).any fun r => r.name = n

/-- The register of an access of so many bytes (R32, R33). -/
def regAt (d : Dev) (a bytes : Nat) : Except Status (RegRow × List Nat) :=
  match findReg a with
  | none => .error .invalidField
  | some (r, ix) =>
    let gone := inQuarter r.name && (match ix with
      | q :: _ => d.quarantined q
      | [] => false)
    if r.bytes = bytes && !gone then .ok (r, ix) else .error .invalidField

/-- The counters of a district (R432). -/
def isDistrictCounter (n : RegName) : Bool :=
  n = .CNT_FMT_FLAGS || (regRowsCnt.any fun r => r.name = n && r.dims = [(16, 0x100)])

def isLight (n : RegName) : Bool := n = .LGT_VALUE || n = .LGT_ADD || n = .LGT_CTL

def lightOwner (d : Dev) (l : Nat) : Nat := d.fget (Reg.LGT_CTL l) Fld.LGT_CTL_OWNER

def mayRead (d : Dev) (who : Who) (n : RegName) (ix : List Nat) : Bool :=
  match who with
  | .admin | .monitor => true
  | .unmapped => false
  | .district x =>
    if isDistrictCounter n then ix = [x]
    else if isLight n then (match ix with
      | [l] => d.lightOwner l = x
      | _ => false)
    else true

def mayWrite (d : Dev) (who : Who) (n : RegName) (ix : List Nat) : Bool :=
  match who with
  | .monitor => true
  | .admin => n ≠ .BLK_BMWIN
  | .unmapped => false
  | .district x =>
    match ix with
    | [l] => isLight n && d.lightOwner l = x
    | [q, p, _] => n = .BLK_BMWIN && (d.logicalOf (72 * q + p)).isSome && (d.block (72 * q + p)).home = x
    | _ => false

/-! Writes. -/

/-- The RW fields take the value written, and a 1 clears a W1C bit (R6). -/
def storeFields (r : RegRow) (old v : Nat) : Nat :=
  r.fields.foldl (fun w f => match f.acc with
    | .rw => setBits w f.lo f.width (bits v f.lo f.width)
    | .w1c => setBits w f.lo f.width (bits w f.lo f.width - (bits w f.lo f.width).land (bits v f.lo f.width))
    | _ => w) old

def storeReg (d : Dev) (r : RegRow) (a v : Nat) : Dev := d.setReg a (storeFields r (d.reg a) v)

/-- Counters: RO fields that the given resets restore, no others. -/
def clearCounters (d : Dev) (rows : List RegRow) (letters : Nat) : Dev :=
  { d with regs := d.regs.map fun (a, v) => match findReg a with
    | some (r, _) =>
      if rows.any fun x => x.name = r.name then
        (a, r.fields.foldl (fun v f => if f.acc = .ro && f.letters = letters then setBits v f.lo f.width 0 else v) v)
      else (a, v)
    | none => (a, v) }

/-- Every cached piece of a Kerb goes, and reads in flight will not be cached (R237). -/
def dropCache (d : Dev) (k : Nat) : Dev :=
  let d := d.cacheDropWhere k fun _ => true
  let stale (o : DieOp) : DieOp := if o.kind = .read && o.cacheable then { o with dropped := true } else o
  d.modKerb k fun x => { x with dies := x.dies.map (fun (p : Nat × Die) =>
    (p.1, { p.2 with busy := p.2.busy.map stale, suspended := p.2.suspended.map stale })) }

def clearKerbCounters (d : Dev) (k : Nat) : Dev :=
  let names : List RegName := [.KERB_MAC8, .KERB_MAC4, .KERB_PG_HIGH, .KERB_PG_LOW, .KERB_PG_SIDE, .KERB_PG_OTHER, .KERB_PRUNE,
    .KERB_FILTERED, .KERB_CACHE_HIT, .KERB_CACHE_MISS, .KERB_SPEC_ISSUED, .KERB_SPEC_WASTED, .KERB_SUSPEND, .KERB_CH_PIECES]
  { d with regs := d.regs.filter fun (a, _) => match findReg a with
    | some (r, q :: j :: _) => !(names.contains r.name && 12 * q + j = k)
    | _ => true }

/-- A write of CELL_INJECT (R123, R127, R161). TARGET 7, and a TARGET that ARM 0 leaves unused (R3, R126), are rejected before the
cell's state is looked at (DESIGN CHOICE, log entry 65). -/
def writeInject (d : Dev) (b c : Nat) (r : RegRow) (a v : Nat) : Except Status Dev :=
  let fenced := match (d.block b).cells[c]? with
    | some x => x.fenced
    | none => false
  if bits v 0 3 = 7 || (bits v 3 1 = 0 && bits v 0 3 ≠ 0) then .error .invalidField
  else if fenced then .ok d
  else if d.blockTesting b then .ok (d.storeReg r a v)
  else if (d.logicalOf b).isSome then .error .invalidField
  else .ok d

/-- A write of BLK_CTL (R127, R161, R163). -/
def writeBlkCtl (d : Dev) (b : Nat) (r : RegRow) (a v : Nat) : Except Status Dev :=
  let clear (d : Dev) : Dev := if bits v 0 1 = 0 then d
    else ((d.setReg (Reg.BLK_CMDS b) 0).setReg (Reg.BLK_DMA_BYTES b) 0).setReg (Reg.BLK_ECC b) 0
  if d.blockTesting b then .ok ((clear d).storeReg r a v)
  else if bits v 1 1 = 1 && (d.logicalOf b).isSome then .error .invalidField
  else .ok (clear d)

/-- A write of a window (R131, R161, R537): bytes that leave the window are zeroed. -/
def writeWindow (d : Dev) (b x a v : Nat) : Except Status Dev :=
  let base := bits v 0 8
  let len := bits v 8 8
  let others := (List.range 16).filter (· ≠ x)
  let clash := others.any fun y =>
    let w := d.window b y
    decide (65536 * base < w.1 + w.2) && decide (w.1 < 65536 * (base + len)) && decide (0 < w.2) && decide (0 < len)
  if (d.logicalOf b).isNone then .ok d
  else if 128 < base + len || clash then .error .invalidField
  else
    let old := d.window b x
    let left := (List.range 128).filter fun u =>
      decide (old.1 ≤ 65536 * u) && decide (65536 * u < old.1 + old.2) && !(decide (base ≤ u) && decide (u < base + len))
    let d := { d with bmem := left.foldl (fun m u => Mem.zero m (2 ^ 23 * b + 65536 * u) 65536) d.bmem }
    .ok (d.setReg a (v % 65536))

/-- A write of KERB_CTL (R127, R234, R237). -/
def writeKerbCtl (d : Dev) (k : Nat) (r : RegRow) (a v : Nat) : Except Status Dev :=
  if bits v 3 1 = 1 && !d.kerbTesting k then .error .invalidField
  else
    let d := d.storeReg r a v
    let d := if bits v 0 1 = 1 then d.clearKerbCounters k else d
    let d := if bits v 1 1 = 1 then d.dropCache k else d
    .ok (if bits v 2 1 = 0 then d else if d.kerbTesting k then d.mergeReset 'K' k else d.kerbReset k)

/-- A register write to a light (R331): the light record's district and block are free values, as no command stands behind it. -/
def writeLight (d : Dev) (l : Nat) (add : Bool) (v : Nat) : Dev :=
  let (x, d) := d.draw
  let dist := x.toNat % 256
  let blk := x.toNat / 256 % 2 ^ 16
  if add then d.lightAdd l v dist blk else d.lightSet l v dist blk

/-- A write of LGT_CTL (R330). -/
def writeLightCtl (d : Dev) (l : Nat) (r : RegRow) (a v : Nat) : Except Status Dev :=
  if bits v 0 4 ≠ d.lightOwner l && d.fget a Fld.LGT_CTL_WAITERS ≠ 0 then .error .invalidField else .ok (d.storeReg r a v)

/-- A write of TIME_SET (R457). -/
def writeTime (d : Dev) (v : Nat) : Except Status Dev :=
  if d.time.lock = .freeRun && d.plan.timeBase.source = 2 && d.time.ns ≤ v then .ok (d.stepForward v) else .error .invalidField

/-- A write of DEV_RESET (R3, R518, R523). -/
def writeReset (d : Dev) (v : Nat) : Except Status Dev :=
  let kind := bits v 0 4
  let q := bits v 8 2
  let b := bits v 16 9
  if kind = 1 && q = 0 && b = 0 then .ok (d.resetD 0)
  else if kind = 2 && b = 0 && !d.quarantined q then .ok (d.resetQ q 0)
  else if kind = 3 && q = 0 && (d.logicalOf b).isSome && !d.quarantined (b / 72) then .ok (d.resetB b)
  else .error .invalidField

/-! The trace (R549 to R552). -/

/-- The trace buffer is emptied. -/
def emptyTrace (d : Dev) : Dev :=
  let d := { d with trace := { d.trace with records := [] } }
  d.setReg Reg.TRC_RD_PTR (d.fget Reg.TRC_STAT Fld.TRC_STAT_WR_UNIT)

/-- TRC_CTL.ARM: the post-trigger portion is fixed, and the trace records again. -/
def armTrace (d : Dev) : Dev :=
  let d := d.emptyTrace
  let d := { d with trace := { d.trace with armed := true, postUnits := d.plan.windows.tracePost * 4096, left := 0 } }
  let d := d.fset Reg.TRC_STAT Fld.TRC_STAT_EXTRA_TRIGGERS 0
  if d.fbit Reg.TRC_CTL Fld.TRC_CTL_ENABLE then d.fset Reg.TRC_STAT Fld.TRC_STAT_STATE 1 else d

/-- A write of TRC_CTL. `cause`: the trigger's, 0 register or 1 monitor. -/
def writeTrace (d : Dev) (r : RegRow) (a v cause : Nat) : Except Status Dev :=
  let was := d.fbit Reg.TRC_CTL Fld.TRC_CTL_ENABLE
  if bits v 0 2 = 3 || (was && bits v 0 2 ≠ d.fget Reg.TRC_CTL Fld.TRC_CTL_MODE) then .error .invalidField
  else
    let d := d.storeReg r a v
    let on := bits v 2 1 = 1
    let d := if on && !was && d.traceState = 0 then d.fset Reg.TRC_STAT Fld.TRC_STAT_STATE 1
      else if !on && was && d.traceState ≠ 3 then d.fset Reg.TRC_STAT Fld.TRC_STAT_STATE 0
      else d
    let d := if bits v 5 1 = 1 then d.emptyTrace.setReg Reg.TRC_LOST 0 else d
    let d := if bits v 3 1 = 1 then d.armTrace else d
    .ok (if bits v 4 1 = 1 then d.traceTrigger cause 0 0 else d)

/-! The access. -/

def abandonAll (d : Dev) (mask : Nat) : Dev :=
  ((List.range 4).filter fun i => bits mask i 1 = 1).foldl (fun d i => d.abandon i 0x11) d

/-- What a write that passed its checks does, register by register. -/
def writeEffect (d : Dev) (who : Who) (r : RegRow) (ix : List Nat) (a v : Nat) : Except Status Dev :=
  match r.name, ix with
  | .PLAN_CTL, _ => .ok ((d.storeReg r a v).abandonAll (bits v 4 4))
  | .CELL_INJECT, [q, p, c] => d.writeInject (72 * q + p) c r a v
  | .BLK_CTL, [q, p] => d.writeBlkCtl (72 * q + p) r a v
  | .BLK_BMWIN, [q, p, x] => d.writeWindow (72 * q + p) x a v
  | .KERB_CTL, [q, j] => d.writeKerbCtl (12 * q + j) r a v
  | .LGT_VALUE, [l] => .ok (d.writeLight l false v)
  | .LGT_ADD, [l] => .ok (d.writeLight l true v)
  | .LGT_CTL, [l] => d.writeLightCtl l r a v
  | .FTL_CTL, _ =>
    let d := d.storeReg r a v
    .ok (if bits v 0 1 = 1 then (d.clearCounters regRowsFtl 3).modMedia fun m => { m with padded := [] } else d)
  | .HIF_CTL, _ =>
    let d := if bits v 0 1 = 1 then d.clearCounters regRowsHif 7 else d
    .ok (((List.range 2).filter fun p => bits v (1 + p) 1 = 1).foldl (fun d p => d.gateReset p) d)
  | .HIF_ARB, _ => if bits v 0 8 = 0 then .error .invalidField else .ok (d.storeReg r a v)
  | .HIF_PORT_CFG, _ => if bits v 16 2 = 3 then .error .invalidField else .ok (d.storeReg r a v)
  | .TIME_CTL, _ => .ok (forceHold (d.storeReg r a v) (bits v 0 1 = 1))
  | .TIME_SET, _ => d.writeTime v
  | .PWR_CTL, _ =>
    let d := d.storeReg r a v
    .ok (if bits v 0 1 = 1 then d.clearCounters regRowsPwr 3 else d)
  | .DEV_CTL, _ =>
    if bits v 0 1 = 0 then .ok d
    else if d.standby.isNone then .error .invalidField
    else .ok (d.failover 4)
  | .DEV_RESET, _ => d.writeReset v
  | .SEC_CTL, _ => .ok (if bits v 0 1 = 0 then d
      else (d.fset Reg.SEC_STAT Fld.SEC_STAT_VERIFY_FAILS 0).fset Reg.SEC_ATTEST Fld.SEC_ATTEST_SIGNED 0)
  | .TRC_CTL, _ => d.writeTrace r a v (if who = .monitor then 1 else 0)
  | .TRC_TRIG, _ =>
    if bits v 48 1 = 0 && (bits v 0 8 ≠ 0 || bits v 16 32 ≠ 0) then .error .invalidField else .ok (d.storeReg r a v)
  | .TRC_TELEM, _ => if bits v 0 16 = 0 then .error .invalidField else .ok (d.storeReg r a v)
  | _, _ => .ok (d.storeReg r a v)

/-- A register write (R3, R32, R33, R432). -/
def writeReg (d : Dev) (who : Who) (a bytes v : Nat) : Except Status Dev :=
  match d.regAt a bytes with
  | .error e => .error e
  | .ok (r, ix) =>
    let reserved := r.fields.any fun f => f.acc = .rsv && bits v f.lo f.width ≠ 0
    if d.mayWrite who r.name ix && v < 2 ^ (8 * bytes) && !reserved then d.writeEffect who r ix a v else .error .invalidField

/-- Reads of registers at successive addresses (R430, R432): every address is checked first. `keep`: RC fields stay. -/
def readRegs (d : Dev) (who : Who) (a bytes count : Nat) (keep : Bool) : Except Status (List Nat × Dev) :=
  let ok := (List.range count).all fun i => match d.regAt (a + bytes * i) bytes with
    | .ok (r, ix) => d.mayRead who r.name ix
    | .error _ => false
  if !ok then .error .invalidField
  else .ok ((List.range count).foldl (fun s i => match findReg (a + bytes * i) with
    | some (r, ix) =>
      let d := s.2
      (s.1 ++ [d.peek r ix (a + bytes * i)], if keep then d else d.clearRc r (a + bytes * i))
    | none => s) ([], d))

end Dev

/-! The operations of the registers, as accesses. -/

/-- A register with one field replaced, as a read and a write give it. -/
def withField (d : Dev) (a : Nat) (f : Fld) (v : Nat) : Nat := setBits (d.reg a) f.lo f.width v

/-- An address that no register has: an operand beyond its range names no register. -/
def noAddress : Nat := 2 ^ 40

/-- The access that a row of the table stands for: its field written, the register's other RW fields as they are. -/
def accessOf (d : Dev) : Instr → Option (Requester × Access)
  | .abandon r i => some (r, .write Reg.PLAN_CTL 4 (d.reg Reg.PLAN_CTL + 2 ^ (4 + i)))
  | .cellInject r b c t => some (r, .write (if c < 4 then Reg.CELL_INJECT b c else noAddress) 4 (t % 8 + 8))
  | .eccInject r b => some (r, .write (Reg.BLK_CTL b) 4 2)
  | .kerbInject r k => some (r, .write (Reg.KERB_CTL k) 4 8)
  | .blkCountClear r b => some (r, .write (Reg.BLK_CTL b) 4 (withField d (Reg.BLK_CTL b) Fld.BLK_CTL_COUNT_CLEAR 1))
  | .kerbCountClear r k => some (r, .write (Reg.KERB_CTL k) 4 (withField d (Reg.KERB_CTL k) Fld.KERB_CTL_COUNT_CLEAR 1))
  | .cacheDrop r k => some (r, .write (Reg.KERB_CTL k) 4 (withField d (Reg.KERB_CTL k) Fld.KERB_CTL_CACHE_DROP 1))
  | .kerbCtlReset r k => some (r, .write (Reg.KERB_CTL k) 4 (withField d (Reg.KERB_CTL k) Fld.KERB_CTL_RESET 1))
  | .ftlCountClear r => some (r, .write Reg.FTL_CTL 4 (withField d Reg.FTL_CTL Fld.FTL_CTL_COUNT_CLEAR 1))
  | .reclaimHold r on => some (r, .write Reg.FTL_CTL 4 (withField d Reg.FTL_CTL Fld.FTL_CTL_RECLAIM_HOLD on.toNat))
  | .hifCountClear r => some (r, .write Reg.HIF_CTL 4 1)
  | .portReset r p => some (r, .write Reg.HIF_CTL 4 (2 ^ (1 + p)))
  | .pwrCountClear r => some (r, .write Reg.PWR_CTL 4 (withField d Reg.PWR_CTL Fld.PWR_CTL_COUNT_CLEAR 1))
  | .loopsFreeze r on => some (r, .write Reg.PWR_CTL 4 (withField d Reg.PWR_CTL Fld.PWR_CTL_LOOPS_FREEZE on.toNat))
  | .secCountClear r => some (r, .write Reg.SEC_CTL 4 1)
  | .failover r => some (r, .write Reg.DEV_CTL 4 1)
  | .deviceReset r => some (r, .write Reg.DEV_RESET 4 1)
  | .quarterReset r q => some (r, .write Reg.DEV_RESET 4 (2 + 256 * q))
  | .blockReset r b => some (r, .write Reg.DEV_RESET 4 (3 + 65536 * b))
  | .forceHoldover r on => some (r, .write Reg.TIME_CTL 4 (withField d Reg.TIME_CTL Fld.TIME_CTL_FORCE_HOLDOVER on.toNat))
  | .ppsOut r on => some (r, .write Reg.TIME_CTL 4 (withField d Reg.TIME_CTL Fld.TIME_CTL_PPS_OUT on.toNat))
  | .timeSet r ns => some (r, .write Reg.TIME_SET 8 ns)
  | .traceMode r m => some (r, .write Reg.TRC_CTL 4 (withField d Reg.TRC_CTL Fld.TRC_CTL_MODE m))
  | .traceEnable r on => some (r, .write Reg.TRC_CTL 4 (withField d Reg.TRC_CTL Fld.TRC_CTL_ENABLE on.toNat))
  | .arm r => some (r, .write Reg.TRC_CTL 4 (withField d Reg.TRC_CTL Fld.TRC_CTL_ARM 1))
  | .trigger r => some (r, .write Reg.TRC_CTL 4 (withField d Reg.TRC_CTL Fld.TRC_CTL_TRIGGER 1))
  | .traceClear r => some (r, .write Reg.TRC_CTL 4 (withField d Reg.TRC_CTL Fld.TRC_CTL_CLEAR 1))
  | .counterSample r n => some (r, .write Reg.TRC_CTL 4 (withField d Reg.TRC_CTL Fld.TRC_CTL_COUNTER_SAMPLE n))
  | .lightValueWrite r l v => some (r, .write (Reg.LGT_VALUE l) 4 v)
  | .lightAddWrite r l v => some (r, .write (Reg.LGT_ADD l) 4 v)
  | .lightOwnerWrite r l o c => some (r, .write (if o < 16 then Reg.LGT_CTL l else noAddress) 8 (o + 16 * c.toNat))
  | .bmwinWrite r b x base len => some (r, .write (if x < 16 && base < 256 then Reg.BLK_BMWIN b x else noAddress) 4 (base + 256 * len))
  | .fmtFlagsRead r x => some (r, .read (Reg.CNT_FMT_FLAGS x) 8 1)
  | .planErrRead r => some (r, .read Reg.PLAN_ERR 4 1)
  | .railPeakRead r i => some (r, .read (Reg.PWR_RAIL i) 8 1)
  | .tempMaxRead r s => some (r, .read (Reg.PWR_TEMP s) 8 1)
  | _ => none

end Sys2Proof.Machine
end

