-- ==== Sys2Proof/Machine/Trace.lean ====
section
/-! DEFINITION. Reading the trace, snapshots and telemetry (R552 to R557). -/

namespace Sys2Proof.Machine

/-! Records from a cursor (R552). -/

/-- The records of a ring from the later of a cursor and the oldest one. -/
def recordsFrom (rs : List TraceRec) (wr cur : Nat) : List TraceRec :=
  match rs with
  | [] => []
  | r :: _ =>
    let dist (x : Nat) : Nat := (x + Dev.traceUnits - r.position) % Dev.traceUnits
    let span := if dist wr = 0 then Dev.traceUnits else dist wr
    if span < dist cur then rs else rs.filter fun x => dist cur ≤ dist x.position

/-- As many whole records as fit into so many bytes. -/
def fitting : Nat → List TraceRec → List TraceRec
  | _, [] => []
  | n, r :: rs => if 64 * r.units ≤ n then r :: fitting (n - 64 * r.units) rs else []

def recordBytes (rs : List TraceRec) : List Byte :=
  rs.flatMap fun r => r.bytes ++ List.replicate (64 * r.units - r.bytes.length) 0

/-- The cursor past the records returned. -/
def cursorAfter (rs : List TraceRec) (cur : Nat) : Nat :=
  match rs.getLast? with
  | some r => (r.position + r.units) % Dev.traceUnits
  | none => cur

/-- The 32-byte head of a snapshot's section (R554). -/
def sectionHead (unit : Nat) (silent : Bool) (kind size n time : Nat) : List Byte :=
  toLE 2 unit ++ toLE 1 silent.toNat ++ toLE 1 kind ++ toLE 2 size ++ toLE 2 0 ++ toLE 4 n ++ toLE 4 0 ++ toLE 8 time ++ toLE 8 0

/-- The head of a snapshot of KIND 0x01 or 0x02 (R553), before its sections. -/
def snapshotHead (kind : Nat) (hold : Bool) (n time beat length : Nat) : List Byte :=
  toLE 4 0x50414E53 ++ toLE 2 1 ++ toLE 1 kind ++ toLE 1 hold.toNat ++ toLE 4 n ++ toLE 8 time ++ toLE 8 beat ++ toLE 4 length ++
    List.replicate 32 0

/-- The built-in function records as one SF_TABLES section (R153, R580). -/
def builtinSection : List Byte :=
  let one (code : Nat) : List Byte :=
    let (bin, sign, exp, low, high) := Config.sfHead code
    let corr := Config.sfCorr code
    let segs := bin * 64 * (if sign = 2 then 2 else 1)
    toLE 1 code ++ toLE 1 1 ++ toLE 1 bin ++ toLE 1 sign ++ toLE 2 exp ++ toLE 2 corr.length ++ toLE 4 low.toNat ++ toLE 4 high.toNat ++
      List.replicate 16 0 ++
      ((List.range segs).flatMap fun i => (List.range 3).flatMap fun j => toLE 4 (Config.sfSegment code i j).toNat) ++
      (corr.flatMap fun p => toLE 4 p.1.toNat ++ toLE 4 p.2.toNat)
  toLE 2 13 ++ toLE 2 0 ++ List.replicate 12 0 ++ (List.range 13).flatMap fun i => one (i + 2)

/-- The numbers of R228's classes, in the order of its table (DEDUCED, log entry 46), a rebuild's with the background's. -/
def classCode : DieClass → Nat
  | .flush => 0
  | .foreground | .speculative => 1
  | .sweep => 2
  | .write => 3
  | .rebuild | .background => 4

namespace Dev

/-- Records of the trace from its read cursor, which passes them (R552). -/
def traceRead (d : Dev) (limit : Nat) : List Byte × Dev :=
  let cur := d.fget Reg.TRC_RD_PTR Fld.TRC_RD_PTR_UNIT
  let rs := fitting limit (recordsFrom d.trace.records (d.fget Reg.TRC_STAT Fld.TRC_STAT_WR_UNIT) cur)
  (recordBytes rs, d.fset Reg.TRC_RD_PTR Fld.TRC_RD_PTR_UNIT (cursorAfter rs cur))

/-- Records of the telemetry log from its cursor (R557). -/
def telemetryRead (d : Dev) (limit : Nat) : List Byte × Dev :=
  let cur := d.fget Reg.TRC_TELEM_RD Fld.TRC_TELEM_RD_UNIT
  let rs := fitting limit (recordsFrom d.trace.telemetry d.trace.telemetryWr cur)
  (recordBytes rs, d.fset Reg.TRC_TELEM_RD Fld.TRC_TELEM_RD_UNIT (cursorAfter rs cur))

/-! The sections of a standstill snapshot (R555). -/

/-- A unit in reset, or without power, delivers nothing (R556). -/
def unitSilent (d : Dev) (kind i : Nat) : Bool :=
  let quarterOut (q : Nat) : Bool := d.contain.resettingQuarters.contains q || d.quarantined q
  match kind with
  | 1 => quarterOut (i / 72) || d.contain.resettingBlocks.contains i
  | 2 => (d.kerb i).resetting || !d.kerbOnline i
  | 9 => quarterOut (i / 72)
  | 10 => quarterOut (i / 2)
  | _ => false

/-- The units of a standstill snapshot, in ascending order. -/
def snapshotUnits (d : Dev) : List Nat :=
  let blocks := allBlocks.filter fun b => (d.logicalOf b).isSome || (d.block b).selfTest
  blocks.map (0x1000 + ·) ++ (List.range 48).map (0x2000 + ·) ++ [0x4000, 0x4001] ++ allBlocks.map (0x9000 + ·) ++
    (List.range 8).map (0xA000 + ·)

def blockEntries (d : Dev) (b : Nat) : List (List Byte) :=
  let slots := (d.block b).slots
  let first (s : Slot) : Bool := !slots.any fun o => o.2.district = s.district && o.2.seq < s.seq
  slots.map fun (p : Nat × Slot) =>
    let s := p.2
    let (q, c) := match s.origin with
      | .host q c => (q, c)
      | _ => (0xFFFF, 0)
    let light := match s.state, s.ops with
      | .waiting, raw :: _ => (Desc.of raw).light
      | _, _ => 0
    let expiry := match s.wait with
      | some (_, _, e) => e % 2 ^ 32
      | none => 0
    toLE 1 p.1 ++ toLE 1 (slotCode s.state) ++ toLE 1 s.district ++ toLE 1 (first s).toNat ++ toLE 2 q ++ toLE 2 c ++ toLE 2 light ++
      toLE 1 s.next ++ toLE 1 0 ++ toLE 4 expiry

def queueEntries (d : Dev) (p : Nat) : List (List Byte) :=
  let mine := (d.host.assocs.filter fun a => a.2.port = p).map (·.1)
  let admin := mine.map (4096 + ·)
  let io := (List.range 4096).filter fun q => d.fbit (Reg.HIF_QP q) Fld.HIF_QP_ENABLED && mine.contains (d.assocOf q)
  (admin ++ io).map fun q =>
    let isAdm := isAdmin q
    let locks := (d.host.lockWaiters.filter fun c => (hdrOf c).map (·.queue) = some q).length
    let flight := (d.host.inflight.filter fun f => f.queue = q).length
    toLE 2 (if isAdm then q - 4096 else q) ++ toLE 1 (isAdm.toNat + 2 * (if isAdm then 0 else d.classOf q)) ++ toLE 1 0 ++
      toLE 2 (AMap.get d.host.sqHead q 0) ++ toLE 2 (AMap.get d.host.sqTail q 0) ++ toLE 2 (AMap.get d.host.cqTail q 0) ++
      toLE 2 flight ++ toLE 2 locks ++ toLE 2 0

def waitEntries (d : Dev) (p : Nat) : List (List Byte) :=
  (d.waits.filter fun w => w.light % 2 = p).map fun w =>
    toLE 2 w.light ++ toLE 1 (d.lightOwner w.light) ++ toLE 1 w.district ++ toLE 2 ((d.logicalOf w.block).getD 0xFFFF) ++ toLE 1 w.slot ++
      toLE 1 0 ++ toLE 4 (d.lightValue w.light) ++ toLE 4 w.operand ++ toLE 8 w.registered ++ toLE 8 w.expiry

def dieEntries (d : Dev) (k : Nat) : List (List Byte) :=
  (List.range 32).map fun j =>
    let x := d.die k j
    let queued (c : Nat) : Nat := min 65535 (x.queue.filter fun o => classCode o.cls = c).length
    let (run, since) := match x.busy with
      | some o => (classCode o.cls, (d.time.ns - o.since) / 1000)
      | none => (0xFF, 0)
    toLE 1 (j / 4) ++ toLE 1 (j % 4) ++ toLE 1 run ++ toLE 1 x.suspended.isSome.toNat ++ toLE 2 (queued 1) ++ toLE 2 (queued 2) ++
      toLE 2 (queued 3) ++ toLE 2 (queued 4) ++ capLE 4 since

/-- Credits, replays and queues of a router or stop: the model holds no packet, and all but PORT is free. -/
def creditEntries (d : Dev) (ports : List Nat) : List (List Byte) × Dev :=
  ports.foldl (fun (acc : List (List Byte) × Dev) p =>
    let (bs, d) := acc.2.freeBytes 15
    let flags := match bs with
      | b :: t => BitVec.ofNat 8 (b.toNat % 4) :: t
      | [] => []
    (acc.1 ++ [toLE 1 p ++ flags], d)) ([], d)

/-- The sections of a unit, as it latches them at a time. -/
def sectionsOf (d : Dev) (unit time : Nat) (silent : Bool) : List (List Byte) × Dev :=
  let i := unit % 4096
  let sec (kind size : Nat) (es : List (List Byte)) : List Byte :=
    if silent then sectionHead unit true kind size 0 time else sectionHead unit false kind size es.length time ++ es.flatten
  match unit / 4096 with
  | 1 => ([sec 1 16 (d.blockEntries i)], d)
  | 2 => ([sec 4 16 (d.dieEntries i)], d)
  | 4 => ([sec 2 16 (d.queueEntries i), sec 3 32 (d.waitEntries i)], d)
  | 9 =>
    let (es, d) := if silent then ([], d) else d.creditEntries [0, 1, 2, 3, 4]
    ([sec 5 16 es], d)
  | _ =>
    let (es, d) := if silent then ([], d) else d.creditEntries ([0, 1, 2, 3, 4, 5] ++ (List.range 16).map (8 + ·))
    ([sec 5 16 es], d)

/-! Counters (R553). -/

/-- The Kerb counters at 0x0100 to 0x0167, in register order. -/
def kerbCounters (d : Dev) (k : Nat) : List Nat := (List.range 13).map fun i => d.reg (Reg.KERB_MAC8 k + 8 * i)

/-- The section of a block or a Kerb in a snapshot of KIND 0x02. Its SECTION_KIND is not in the spec: a free value. -/
def counterSection (d : Dev) (unit kind : Nat) : List Byte :=
  let i := unit % 4096
  let es := if unit / 4096 = 1 then (match d.logicalOf i with
    | some g => (List.range 55).map fun j => d.reg (Reg.CNT_OP g j)
    | none => List.replicate 55 0) else d.kerbCounters i
  if d.unitSilent (unit / 4096) i then sectionHead unit true kind 8 0 d.time.ns
  else sectionHead unit false kind 8 es.length d.time.ns ++ es.flatMap (toLE 8)

def freeKind (d : Dev) : Nat × Dev :=
  let (x, d) := d.draw
  (x.toNat % 256, d)

def counterSnapshot (d : Dev) : List Byte × Dev :=
  let (kind, d) := d.freeKind
  let blocks := (allBlocks.filter fun b => (d.logicalOf b).isSome).map (0x1000 + ·)
  let kerbs := ((List.range 48).filter fun k => d.kerbOnline k).map (0x2000 + ·)
  let secs := (blocks ++ kerbs).map fun u => d.counterSection u kind
  let body := secs.flatten
  (snapshotHead 2 d.holdover secs.length d.time.ns d.beat (64 + body.length) ++ body, d)

/-! Snapshots (R553, R556). -/

/-- The monitor's response to a request, which a repeated SEQ receives again (R558, R559). -/
def reply (d : Dev) (type seq status : Nat) (payload : List Byte) : Dev :=
  let f := Out.frame (0x80 + type) seq status payload
  { d.emit f with mon := { d.mon with lastSeq := some seq, lastFrame := some f } }

/-- What a SNAPSHOT command completes with. -/
def snapshotDone (d : Dev) (h : Hdr) (bytes : List Byte) : Dev :=
  (d.sendHost h.queue h.cid (.data h.queue h.cid bytes)).finishSquare h.queue h.cid .success bytes.length

/-- A standstill snapshot is accepted: the latch time is 1 ms from now. -/
def startStandstill (d : Dev) (queue : Option (Nat × Nat)) (request : Option Nat) (length : Nat) : Dev :=
  { d with trace := { d.trace with standstill := some ⟨queue, request, length, d.time.ns + 1000000, []⟩ } }

/-- The bytes of a snapshot but of KIND 0x01, taken at once. -/
def takeSnapshot (d : Dev) (kind length : Nat) : List Byte × Dev :=
  match kind with
  | 2 => d.counterSnapshot
  | 3 => d.traceRead length
  | 4 => d.telemetryRead length
  | _ => (builtinSection, d)

/-- The shortest data buffer of a KIND. -/
def snapshotMin : Nat → Option Nat
  | 1 => some 524288
  | 2 => some 131072
  | 3 | 4 => some 64
  | 5 => some builtinSection.length
  | _ => none

/-- A part of the monitor's snapshot. -/
def replyPart (d : Dev) (seq offset : Nat) : Dev := d.reply 0x21 seq 0 ((d.mon.snapshot.drop offset).take 65536)

/-- A SNAPSHOT command, or the monitor's request for a new snapshot, is served. -/
def serveSnapshot (d : Dev) (c : Instr) : Dev :=
  match c with
  | .snapshot h kind length =>
    if kind = 1 then d.startStandstill (some (h.queue, h.cid)) none length
    else
      let (bytes, d) := d.takeSnapshot kind length
      d.snapshotDone h bytes
  | .monitorSnapshot seq kind offset =>
    if kind = 1 then d.startStandstill none (some seq) 0
    else
      let (bytes, d) := d.takeSnapshot kind 65536
      ({ d with mon := { d.mon with snapshot := bytes } } : Dev).replyPart seq offset
  | _ => d

/-- A snapshot is served, or waits for the one in progress (R556). -/
def askSnapshot (d : Dev) (c : Instr) : Dev :=
  if d.trace.standstill.isSome then { d with trace := { d.trace with snapshotWaiting := d.trace.snapshotWaiting ++ [c] } }
  else d.serveSnapshot c

/-- A standstill snapshot is whole once every unit has delivered its section or has been given up. -/
def standstillCheck (d : Dev) : Dev :=
  match d.trace.standstill with
  | none => d
  | some s =>
    let units := d.snapshotUnits
    if units.any fun u => !s.sections.any fun x => x.1 = u then d
    else
      let secs := units.flatMap fun u => (s.sections.filter fun x => x.1 = u).map (·.2)
      let body := secs.flatten
      let bytes := snapshotHead 1 d.holdover secs.length s.latchTime (s.latchTime / d.period) (64 + body.length) ++ body
      let waiting := d.trace.snapshotWaiting
      let d := { d with trace := { d.trace with standstill := none, snapshotWaiting := [] } }
      let d := match s.queue, s.request with
        | some (q, c), _ => d.snapshotDone { queue := q, cid := c } (bytes.take s.length)
        | none, some seq => ({ d with mon := { d.mon with snapshot := bytes } } : Dev).replyPart seq 0
        | none, none => d
      waiting.foldl (fun d c => d.askSnapshot c) d

/-- The sections of a unit stand in the snapshot in progress. -/
def addSections (d : Dev) (unit : Nat) (silent : Bool) : Dev :=
  match d.trace.standstill with
  | none => d
  | some s =>
    if !d.snapshotUnits.contains unit || (s.sections.any fun x => x.1 = unit) then d
    else
      let (secs, d) := d.sectionsOf unit s.latchTime silent
      let all := s.sections ++ secs.map fun b => (unit, b)
      ({ d with trace := { d.trace with standstill := some { s with sections := all } } } : Dev).standstillCheck

/-! Telemetry (R557). -/

/-- A record enters the telemetry ring. -/
def telemetryPut (d : Dev) (bytes : List Byte) : Dev :=
  let units := ceilDiv bytes.length 64
  let pos := d.trace.telemetryWr
  let lay (t : TraceState) (pos units : Nat) (bytes : List Byte) : TraceState :=
    { t with telemetry := (t.telemetry.filter fun r => !meets r.position r.units pos units) ++ [TraceRec.mk pos units bytes],
             telemetryWr := (pos + units) % traceUnits }
  if pos + units ≤ traceUnits then { d with trace := lay d.trace pos units bytes }
  else
    let filler := toLE 2 0 ++ toLE 1 0 ++ toLE 1 0 ++ toLE 4 0 ++ toLE 8 d.time.ns
    { d with trace := lay (lay d.trace pos (traceUnits - pos) filler) 0 units bytes }

/-- A telemetry record of a source, padded with zeros. -/
def telemetryRecord (d : Dev) (src ev size : Nat) (fields : List Byte) : Dev :=
  let (n, d) := d.takeSeq src
  let b := d.header src ev n ++ fields
  d.telemetryPut ((b ++ List.replicate (size - b.length) 0).take size)

def railFields (d : Dev) : List Byte :=
  (List.range 14).flatMap fun i =>
    toLE 2 (d.fget (Reg.PWR_RAIL i) Fld.PWR_RAIL_MV) ++ toLE 2 (d.fget (Reg.PWR_RAIL i) Fld.PWR_RAIL_CURRENT)

def sensorFields (d : Dev) : List Byte :=
  (List.range 210).flatMap fun i =>
    let a := Reg.PWR_TEMP (16 + i)
    toLE 2 (if d.fbit a Fld.PWR_TEMP_VALID then d.fget a Fld.PWR_TEMP_TEMP else 0x8000)

/-- A die's offset and margin, the same on its four planes. -/
def dieFields (d : Dev) (die : Nat) : List Byte :=
  let one := toLE 1 (ofSigned 8 (AMap.get d.power.thresholds die 0)) ++ capLE 2 (AMap.get d.power.margins die 0)
  toLE 1 (die % 4) ++ toLE 3 0 ++ one ++ one ++ one ++ one

def loopConflicts (d : Dev) (l : Nat) : Nat := d.fget (Reg.PWR_LOOP l) Fld.PWR_LOOP_CONFLICTS

/-- The settings of the loops, one number each, are free values: the spec does not say how a loop of several units gives one. -/
def loopFields (d : Dev) : List Byte × Dev :=
  (List.range 12).foldl (fun (acc : List Byte × Dev) l =>
    let (bs, d) := acc.2.freeBytes 4
    (acc.1 ++ bs ++ toLE 4 (d.loopConflicts l - AMap.get d.trace.conflictBase l 0), d)) ([], d)

/-- One sample: rails and sensors, the ports' modules (free values), every present die, the loops. -/
def telemetryTake (d : Dev) : Dev :=
  let d := d.telemetryRecord d.srcSquare 0x20 512 (d.railFields ++ d.sensorFields)
  let d := (List.range 2).foldl (fun d p =>
    let (bs, d) := d.freeBytes 28
    d.telemetryRecord (srcPort p) 0x21 64 bs) d
  let dies := (List.range 1536).filter fun i => d.dieOk i
  let d := dies.foldl (fun d i => d.telemetryRecord (srcChannel (i / 4)) 0x22 64 (d.dieFields i)) d
  let (bs, d) := d.loopFields
  let d := d.telemetryRecord d.srcSquare 0x23 128 bs
  let base := (List.range 12).foldl (fun m l => AMap.put m l (d.loopConflicts l)) d.trace.conflictBase
  let p := d.fget Reg.TRC_TELEM Fld.TRC_TELEM_PERIOD_BEATS
  { d with trace := { d.trace with conflictBase := base, nextSample := (d.beat / p + 1) * p } }

end Dev

/-! Meanings. -/

/-- SNAPSHOT (R553). -/
def snapshotCmd (d : Dev) (h : Hdr) (kind length : Nat) : Dev :=
  match Dev.snapshotMin kind with
  | none => d.finishSquare h.queue h.cid .invalidField
  | some n => if length < n then d.finishSquare h.queue h.cid .invalidField n else d.askSnapshot (.snapshot h kind length)

/-- A unit reaches the latch time (R555). -/
def standstillLatch (d : Dev) (kind i : Nat) : Dev :=
  match d.trace.standstill with
  | none => d
  | some s => (d.reach s.latchTime).addSections (4096 * kind + i % 4096) (d.unitSilent kind i)

/-- A unit has not delivered its section 10 ms after the latch time (R555). -/
def snapshotUnitTimeout (d : Dev) (kind i : Nat) : Dev :=
  match d.trace.standstill with
  | none => d
  | some s => (d.reach (s.latchTime + 10000000)).addSections (4096 * kind + i % 4096) true

/-- A telemetry sample that is due in a slot with activity [7] (R453, R557). -/
def telemetrySample (d : Dev) : Dev :=
  if d.fbit Reg.TRC_TELEM Fld.TRC_TELEM_ENABLE && d.slotNames 7 && d.trace.nextSample ≤ d.beat then d.telemetryTake else d

def execStandstillLatch (unitKind index : Nat) (s : State) : Host.Outcome State Fault Refusal :=
  effect (fun d => standstillLatch d unitKind index) s
def execSnapshotUnitTimeout (unitKind index : Nat) (s : State) : Host.Outcome State Fault Refusal :=
  effect (fun d => snapshotUnitTimeout d unitKind index) s
def execTelemetrySample (s : State) : Host.Outcome State Fault Refusal := effect (fun d => telemetrySample d) s

end Sys2Proof.Machine
end

