-- ==== Sys2Proof/Machine/Host.lean ====
section
/-! DEFINITION. What the NVM commands, the admin commands and the register commands of a host do once they run (R383, R395, R396,
R407 to R416, R430, R432 to R436). -/

namespace Sys2Proof.Machine

namespace Dev

/-! NVM commands. -/

/-- The largest transfer of a command: 2 MiB (R412). -/
def maxBlocks : Nat := 512

/-- The district that a command was dispatched under (R50) is charged for its bytes over the port and the pieces it writes (R341). -/
def chargeRead (d : Dev) (q cid n : Nat) : Dev := match d.districtFor q cid with
  | some x => d.countPort (d.portOf q) x true (4096 * n)
  | none => d

def chargeWrite (d : Dev) (q cid bytes n : Nat) : Dev := match d.districtFor q cid with
  | some x => (d.countPort (d.portOf q) x false bytes).fadd (Reg.CNT_DIST_T2W x) Fld.CNT_DIST_T2W_WRITE_PIECES n
  | none => d

/-- A command that has taken effect completes once its data lies in the protected buffer (R383). -/
def awaitBuffer (d : Dev) (h : Hdr) (c : Instr) : Dev :=
  ((d.takeEffect h.queue h.cid).modMedia fun m => { m with acks := m.acks ++ [Ack.mk h.queue h.cid c []] }).settleAcks

/-- Read (R381). `ready`: its pieces have been read. -/
def readCmd (d : Dev) (h : Hdr) (ns lba blocks : Nat) (ready : Bool) : Dev :=
  match need (decide (blocks ≤ maxBlocks)) *> d.nsRange ns (if blocks = 0 then 0 else 4096 * lba) (4096 * blocks) with
  | .error st => d.finish h.queue h.cid st
  | .ok _ =>
    if blocks = 0 then d.finish h.queue h.cid .success
    else
      let (here, d) := if ready then (true, d) else d.readPieces h.queue h.cid ns ((List.range blocks).map (lba + ·))
      if !here then d
      else
        let bytes := d.loadNs ns (4096 * lba) (4096 * blocks)
        ((d.chargeRead h.queue h.cid blocks).sendHost h.queue h.cid (.data h.queue h.cid bytes)).finish h.queue h.cid .success

/-- Zeros written over a range of a namespace. -/
def zeroNs (d : Dev) (owner : Option (Nat × Nat)) (ns o n : Nat) : Dev :=
  let d := { d with nsMem := Mem.zero d.nsMem (2 ^ 49 * ns + o) n }
  let d := d.fadd Reg.FTL_HOST_WRITTEN Fld.FTL_HOST_WRITTEN_PIECES (ceilDiv n 4096)
  d.putUnits ((d.unitsOf ns o n).map fun u => ⟨ns, u, ⟨0, 0, 0, 0, 0, 0⟩, none, owner⟩)

/-- Write, or Write Zeroes without data (R383, R381, R394). `ready`: the pieces of partly covered units have been read. -/
def writeCmd (d : Dev) (h : Hdr) (ns lba blocks : Nat) (data : Option (List Byte)) (ready : Bool) (c : Instr) : Dev :=
  let o := 4096 * lba
  let n := 4096 * blocks
  let fits := match data with
    | some b => b.length = n && decide (blocks ≤ maxBlocks)
    | none => decide (blocks ≤ 65536)
  match need fits *> d.nsRange ns (if blocks = 0 then 0 else o) n with
  | .error st => d.finish h.queue h.cid st
  | .ok _ =>
    if blocks = 0 then d.finish h.queue h.cid .success
    else if d.refusesRange ns o n then d.finish h.queue h.cid .capacityExceeded
    else
      let (here, d) := if ready then (true, d) else d.readPieces h.queue h.cid ns (d.partPieces ns o n)
      if !here then d
      else
        let owner := some (h.queue, h.cid)
        let d := match data with
          | some b => d.writeNs owner ns o b
          | none => d.zeroNs owner ns o n
        (d.chargeWrite h.queue h.cid (match data with
          | some b => b.length
          | none => 0) blocks).awaitBuffer h c

/-- Dataset Management (R395, R396): the ranges with bit 31 are erased securely, the others are unmapped. -/
def deallocCmd (d : Dev) (h : Hdr) (ns : Nat) (ranges : List LbaRange) (ready : Bool) (c : Instr) : Dev :=
  let live := ranges.filter (·.blocks ≠ 0)
  let bad := live.findSome? fun r => match d.nsRange ns (4096 * r.lba) (4096 * r.blocks) with
    | .error st => some st
    | .ok _ => none
  match bad, d.nsDef ns with
  | some st, _ => d.finish h.queue h.cid st
  | none, none => d.finish h.queue h.cid .invalidField
  | none, some _ =>
    let parts := (live.flatMap fun r => d.partPieces ns (4096 * r.lba) (4096 * r.blocks)).dedup
    let full := parts.any fun p => d.groupRefuses (d.home ns (d.unitOf ns p)).1
    if 256 < ranges.length then d.finish h.queue h.cid .invalidField
    else if full then d.finish h.queue h.cid .capacityExceeded
    else
      let (here, d) := if ready then (true, d) else d.readPieces h.queue h.cid ns parts
      if !here then d
      else
        let plain := live.filter fun r => !r.secure
        let secure := live.filter fun r => r.secure
        let d := plain.foldl (fun d r => d.discard (some (h.queue, h.cid)) ns r.lba r.blocks) d
        if secure.isEmpty then d.awaitBuffer h c
        else (d.takeEffect h.queue h.cid).secureStart h.queue h.cid ns (secure.map fun r => (r.lba, r.blocks))

/-- Flush: what has been acknowledged lies in the protected buffer or on flash already. -/
def flushCmd (d : Dev) (h : Hdr) (ns : Nat) : Dev :=
  d.finish h.queue h.cid (if ns = 0xFFFFFFFF || (d.nsDef ns).isSome then .success else .invalidField)

/-! Register commands (R430, R432). -/

/-- The completion of a register command: its source is the port on an I/O queue, and the active Square on an admin queue. A command
whose association and entry a reset has taken away gets none. -/
def finishAccess (d : Dev) (h : Hdr) (st : Status) (dw0 : Nat := 0) : Dev :=
  if (d.inflightOf h.queue h.cid).isNone then d
  else if isAdmin h.queue then d.finishSquare h.queue h.cid st dw0
  else d.finishPort h.queue h.cid st dw0

def registerReadCmd (d : Dev) (h : Hdr) (a count : Nat) (wide : Bool) (length : Nat) : Dev :=
  let bytes := if wide then 8 else 4
  if length ≠ bytes * count then d.finishAccess h .invalidField
  else if 512 < count then d.finishAccess h .invalidField
  else if count = 0 then d.finishAccess h .success
  else match d.readRegs (d.whoOf h.queue) a bytes count false with
    | .error st => d.finishAccess h st
    | .ok (vs, d) => (d.sendHost h.queue h.cid (.data h.queue h.cid (vs.flatMap (toLE bytes)))).finishAccess h .success (vs.headD 0 % 2 ^ 32)

def registerWriteCmd (d : Dev) (h : Hdr) (a : Nat) (wide : Bool) (v : Nat) : Dev :=
  match d.writeReg (d.whoOf h.queue) a (if wide then 8 else 4) v with
  | .error st => d.finishAccess h st
  | .ok d => d.finishAccess h .success

/-- A row of the register operations, as the REGISTER_READ or REGISTER_WRITE it is. -/
def accessCmd (d : Dev) (h : Hdr) : Access → Dev
  | .write a bytes v => d.registerWriteCmd h a (bytes = 8) v
  | .read a bytes count => d.registerReadCmd h a count (bytes = 8) (bytes * count)

/-! Features (R414). -/

/-- The default of a device feature. The places of the fields of the standard features are the NVM Express specifications'
(PRESUMED, log entry 47). -/
def featureDefault : Nat → Nat
  | 0x01 => 3 + 2 ^ 8 * 1 + 2 ^ 16 * 3 + 2 ^ 24 * 7
  | 0x04 => 333
  | 0x104 => 278
  | 0x0C => 1
  | 0x07 => 255 + 65536 * 255
  | _ => 0

def feature (d : Dev) (f : Nat) : Nat := AMap.get d.host.current f (featureDefault f)

def saveable (f : Nat) : Bool := f = 0x01 || f = 0x02 || f = 0x04 || f = 0x0C || f = 0xC1

def modAssoc (d : Dev) (a : Nat) (f : Assoc → Assoc) : Dev :=
  { d with host := { d.host with assocs := AMap.upd d.host.assocs a f } }

def assoc (d : Dev) (a : Nat) : Option Assoc := AMap.look d.host.assocs a

/-- Does a range of queue pairs overlap that of another association (R409)? -/
def baseClash (d : Dev) (a base n : Nat) : Bool :=
  d.host.assocs.any fun x => x.1 ≠ a && (match x.2.qpBase with
    | some b => decide (base < b + x.2.numQueues) && decide (b < base + n)
    | none => false)

/-- The lowest free run of queue pairs for an association (R409). -/
def freeBase (d : Dev) (a n : Nat) : Option Nat :=
  (List.range 4096).find? fun b => decide (b + n ≤ 4096) && !d.baseClash a b n

/-- A value of a device feature. One that is to be saved is written to configuration flash, and the command completes once it is (R414,
R510). -/
def putFeature (d : Dev) (h : Hdr) (f v : Nat) (save : Bool) : Dev :=
  let d := { d with host := { d.host with current := AMap.put d.host.current f v } }
  if save then d.addRecordSet (some (h.queue, h.cid)) (.feature f v d.host.apst) else d.finish h.queue h.cid .success

/-- The APST table of Set Features (R437): 32 entries of 8 bytes, a target state in [7:3] and an idle time in ms in [31:8] (PRESUMED: the
NVM Express specifications, log entry 47). Targets are PS3 and PS4, and lower states than the entry's. -/
def apstOf (b : List Byte) : Option (AMap (Nat × Nat)) :=
  let entry (i : Nat) : Nat := fieldLE b (8 * i) 8
  let ok (i : Nat) : Bool :=
    let x := entry i
    x = 0 || (decide (i ≤ 3) && bits x 0 3 = 0 && decide (x < 2 ^ 32) && bits x 8 24 ≠ 0 && between (bits x 3 5) 3 4 && decide (i < bits x 3 5))
  if b.length ≠ 256 || !(List.range 32).all ok then none
  else some (((List.range 4).filter fun i => entry i ≠ 0).map fun i => (i, (bits (entry i) 3 5, bits (entry i) 8 24)))

/-- The bytes of an APST table. -/
def apstBytes (t : AMap (Nat × Nat)) : List Byte :=
  (List.range 32).flatMap fun i => match AMap.look t i with
    | some (s, ms) => toLE 8 (8 * s + 256 * ms)
    | none => toLE 8 0

/-- Number of Queues, 1 to 256: what was asked for, or 256. -/
def setQueues (d : Dev) (h : Hdr) (a : Nat) (x : Assoc) (dw11 : Nat) : Dev :=
  let sq := bits dw11 0 16
  let cq := bits dw11 16 16
  let n := min (min sq cq + 1) 256
  if x.ioConnected then d.finish h.queue h.cid .commandSequenceError
  else if sq = 65535 || cq = 65535 then d.finish h.queue h.cid .invalidField
  else if (match x.qpBase with
      | some b => decide (4096 < b + n) || d.baseClash a b n
      | none => false) then d.finish h.queue h.cid .invalidField
  else (d.modAssoc a fun x => { x with numQueues := n }).finish h.queue h.cid .success (n - 1 + 65536 * (n - 1))

/-- Queue base: QP_BASE, before the association connects its first I/O queue. -/
def setBase (d : Dev) (h : Hdr) (a : Nat) (x : Assoc) (dw11 : Nat) : Dev :=
  if x.ioConnected then d.finish h.queue h.cid .commandSequenceError
  else if 4096 < dw11 + x.numQueues || d.baseClash a dw11 x.numQueues then d.finish h.queue h.cid .invalidField
  else
    let d := d.modAssoc a fun x => { x with qpBase := some dw11 }
    (d.fset (Reg.HIF_ASSOC_STAT a) Fld.HIF_ASSOC_STAT_QP_BASE dw11).finish h.queue h.cid .success

/-- The queue pair of an I/O queue of an association. -/
def pairOf (x : Assoc) (qid : Nat) : Option Nat := match x.qpBase with
  | some b => if qid = 0 || x.numQueues < qid then none else some (b + qid - 1)
  | none => none

/-- Queue class. -/
def setClass (d : Dev) (h : Hdr) (x : Assoc) (save : Bool) (dw11 : Nat) : Dev :=
  match pairOf x (bits dw11 0 16) with
  | none => d.finish h.queue h.cid .invalidField
  | some q =>
    if 2 ^ 18 ≤ dw11 then d.finish h.queue h.cid .invalidField
    else
      let c := bits dw11 16 2
      let d := { d with host := { d.host with qpClass := AMap.put d.host.qpClass q c } }
      if save then d.addRecordSet (some (h.queue, h.cid)) (.queueClass q c) else d.finish h.queue h.cid .success

/-- Set Features (R414). A value that a feature does not allow, and SV for a feature that is not saveable, complete with INVALID_FIELD
(DEDUCED, log entry 47). -/
def setFeaturesCmd (d : Dev) (h : Hdr) (f : Nat) (save : Bool) (dw11 dw12 : Nat) (data : List Byte) : Dev :=
  let a := d.assocOf h.queue
  let bad := d.finish h.queue h.cid .invalidField
  let put (ok : Bool) (key : Nat) (v : Nat) : Dev := if ok then d.putFeature h key v save else bad
  if dw12 ≠ 0 || (save && !saveable f) || (f ≠ 0x0C && !data.isEmpty) then bad
  else match f, d.assoc a with
    | 0x01, _ => put (bits dw11 3 5 = 0) 0x01 dw11
    | 0x02, _ =>
      if 4 < bits dw11 0 5 || 256 ≤ dw11 then bad
      else
        ({ d with power := { d.power with psNext := some (bits dw11 0 5) } } : Dev).putFeature h 0x02 dw11 save
    | 0x04, _ =>
      put ((bits dw11 16 4 = 0 || bits dw11 16 4 = 15) && bits dw11 20 2 < 2 && dw11 < 2 ^ 22)
        (if bits dw11 20 2 = 1 then 0x104 else 0x04) (bits dw11 0 16)
    | 0x0C, _ => match apstOf data with
      | some t => if 2 ≤ dw11 then bad else ({ d with host := { d.host with apst := t } } : Dev).putFeature h 0x0C dw11 save
      | none => bad
    | 0x07, some x => d.setQueues h a x dw11
    | 0x0B, some _ => (d.modAssoc a fun x => { x with aerConfig := dw11 }).finish h.queue h.cid .success
    | 0x0F, some _ =>
      if dw11 < 1000 || 3600000 < dw11 then bad
      else (d.modAssoc a fun x => { x with kato := dw11 }).finish h.queue h.cid .success
    | 0xC0, some x => d.setBase h a x dw11
    | 0xC1, some x => d.setClass h x save dw11
    | _, _ => bad

/-- A feature's value: 0 current, 1 default, 2 saved. -/
def featureValue (d : Dev) (f select dw11 : Nat) (x : Assoc) : Option Nat :=
  let device (key : Nat) : Nat := match select with
    | 0 => d.feature key
    | 1 => featureDefault key
    | _ => AMap.get d.host.saved key (featureDefault key)
  let own (cur dflt : Nat) : Nat := if select = 0 then cur else dflt
  match f with
  | 0x01 => some (device 0x01)
  | 0x02 => some (device 0x02)
  | 0x04 => some (device (if bits dw11 20 2 = 1 then 0x104 else 0x04))
  | 0x0C => some (device 0x0C)
  | 0x07 => some (own ((x.numQueues - 1) * 65537) (255 * 65537))
  | 0x0B => some (own x.aerConfig 0x3FF)
  | 0x0F => some x.kato
  | 0xC0 => some (own (x.qpBase.getD 0) 0)
  | 0xC1 => (pairOf x (bits dw11 0 16)).map fun q =>
    bits dw11 0 16 + 65536 * (match select with
      | 0 => d.classOf q
      | 1 => 2
      | _ => AMap.get d.host.qpClassSaved q 2)
  | _ => none

/-- Dword 11 of Get Features holds only what the feature uses of it (R3, R414): a sensor and a threshold's kind, or a queue ID. -/
def featureNames (f dw11 : Nat) : Bool :=
  match f with
  | 0x04 => bits dw11 0 16 = 0 && dw11 < 2 ^ 22
  | 0xC1 => dw11 < 2 ^ 16
  | _ => dw11 = 0

/-- Get Features (R414), with the APST table as data. Select 3 asks what a feature can do: bit 0 saveable, bit 1 of a namespace, bit 2 changeable. -/
def getFeaturesCmd (d : Dev) (h : Hdr) (f select dw11 : Nat) : Dev :=
  match d.assoc (d.assocOf h.queue) with
  | none => d.finish h.queue h.cid .invalidField
  | some x => match d.featureValue f select dw11 x with
    | none => d.finish h.queue h.cid .invalidField
    | some v =>
      if 3 < select || !featureNames f dw11 then d.finish h.queue h.cid .invalidField
      else if select = 3 then d.finish h.queue h.cid .success ((saveable f).toNat + 4)
      else
        let table := if select = 0 then d.host.apst else if select = 1 then shippedApst else d.host.apstSaved
        let d := if f = 0x0C then d.sendHost h.queue h.cid (.data h.queue h.cid (apstBytes table)) else d
        d.finish h.queue h.cid .success v

/-! Log pages and Identify (R412, R416). -/

/-- An entry of the Gate reset log. -/
def GateOutcome.bytes (x : GateOutcome) : List Byte :=
  toLE 2 x.queue ++ toLE 2 x.cid ++ toLE 1 x.opcode ++ toLE 1 0 ++ toLE 2 x.status.code ++ toLE 8 x.beat

/-- A record of the event log: the header of R337 and its payload. -/
def EventRec.bytes (e : EventRec) : List Byte :=
  toLE 2 e.source ++ toLE 1 (flag e.holdover) ++ toLE 1 e.event ++ toLE 4 e.seq ++ toLE 8 e.time ++ e.payload

/-- The event log in source order (R340). -/
def eventLog (d : Dev) : List EventRec := d.events.mergeSort fun a b => a.source ≤ b.source

/-- The opcodes of R413: I/O commands, then admin commands as 256 + opcode, those of the NVM Express specifications among them (PRESUMED, log
entry 42). -/
def supportedOpcodes : List Nat :=
  [0x00, 0x01, 0x02, 0x08, 0x09, 0xC1, 0xC2, 0xC5, 0xC6, 0xC9, 0xCA, 0xD0, 0xD1] ++
    [0x02, 0x06, 0x08, 0x09, 0x0A, 0x0C, 0x10, 0x11, 0x18, 0x7F, 0x80, 0x84, 0xD0, 0xD1, 0xD4, 0xD5, 0xD8, 0xDA, 0xDC].map (256 + ·)

/-- The values that the spec gives of a log page whose layout is that of the NVM Express specifications. -/
def pageValues (d : Dev) (x : Assoc) : Nat → Option (List Nat)
  | 0x01 => some (d.host.errors.flatMap fun e => [e.count, e.queue, e.cid, e.status.code])
  | 0x04 => some d.host.changedNs
  | 0x05 => some supportedOpcodes
  | 0x02 => some [bits (d.wearShows 0) 32 8, flag ((List.range 96).any fun g => d.groupRefuses g),
      (kelvin (d.tempOf 17)).toNat, flag (d.outside (d.tempOf 17))]
  | 0x03 => some ([d.squares.fwRunning, d.squares.fwNext] ++ d.squares.fw.flatMap fun f => [f.1, f.2.version])
  | 0x81 => some [d.host.sanitizeResult, (match d.host.wipe with
      | some w => if w.sanitize then w.sprog else d.host.sanitizeProgress
      | none => d.host.sanitizeProgress), 45, 6]
  | 0xC0 => some (match x.qpBase with
      | some b => b :: (List.range x.numQueues).map fun i => d.classOf (b + i)
      | none => [])
  | _ => none

/-- Get Log Page (R416). The entries of the Gate reset log that are read go. -/
def getLogPageCmd (d : Dev) (h : Hdr) (page length : Nat) : Dev :=
  match d.assoc (d.assocOf h.queue) with
  | none => d.finish h.queue h.cid .invalidField
  | some x =>
    if page = 0xC1 then
      (d.sendHost h.queue h.cid (.data h.queue h.cid ((d.eventLog.flatMap EventRec.bytes).take length))).finish h.queue h.cid .success
    else if page = 0xC2 then
      let got := (d.host.gateLog.filter fun g => g.nqn = x.nqn).take (length / 16)
      let d := { d with host := { d.host with gateLog := d.host.gateLog.filter fun g => !got.contains g } }
      (d.sendHost h.queue h.cid (.data h.queue h.cid (got.flatMap GateOutcome.bytes))).finish h.queue h.cid .success
    else match d.pageValues x page with
      | some vs =>
        let d := if page = 0x04 then { d with host := { d.host with changedNs := [] } } else d
        (d.sendHost h.queue h.cid (.page h.queue h.cid page vs)).finish h.queue h.cid .success
      | none => d.finish h.queue h.cid .invalidField

/-- Identify Controller: MDTS, SQES, CQES, MAXCMD, NN, ONCS, FRMW, NPSS, APSTA, SANICAP, FNA, IOCCSZ, IORCSZ, the five powers of bytes
3,072 to 3,091, the MP fields, and the entry and exit latencies of PS3 and PS4 in µs. The bits of ONCS, FRMW, SANICAP and FNA are the
NVM Express specifications' (PRESUMED, log entry 47). -/
def controllerValues : List Nat :=
  [9, 0x66, 0x44, 1024, 32, 0x1C, 0x14, 4, 1, 3 + 2 ^ 29, 4, 516, 1] ++ [1600000, 1100000, 700000, 220000, 60000] ++
    [0xFFFF, 0xFFFF, 0xFFFF, 22000, 6000] ++ [1000, 2000, 50000, 80000]

/-- Identify (R412): CNS 0 a namespace (its blocks, the block size), 1 the controller, 2 the namespaces above an NSID. -/
def identifyCmd (d : Dev) (h : Hdr) (cns nsid : Nat) : Dev :=
  let page (vs : List Nat) : Dev := (d.sendHost h.queue h.cid (.page h.queue h.cid cns vs)).finish h.queue h.cid .success
  match cns with
  | 0 => match d.nsDef nsid with
    | some n => page [n.size / 4096, 4096]
    | none => d.finish h.queue h.cid .invalidNamespace
  | 1 => if nsid = 0 then page controllerValues else d.finish h.queue h.cid .invalidField
  | 2 => page (((d.plan.namespaces.map NsDef.nsid).filter (nsid < ·)).mergeSort (· ≤ ·))
  | _ => d.finish h.queue h.cid .invalidField

/-! Other admin commands. -/

/-- Abort (R413): an entry that is still in its submission queue ends; Dword 0 says 1 where nothing was aborted. -/
def abortCmd (d : Dev) (h : Hdr) (sqid cid : Nat) : Dev :=
  let target := match d.assoc (d.assocOf h.queue) with
    | some x => if sqid = 0 then some h.queue else pairOf x sqid
    | none => none
  let hit (c : Instr) : Bool := match hdrOf c with
    | some y => some y.queue = target && y.cid = cid
    | none => false
  if d.host.waiting.any hit then
    let d := { d with host := { d.host with waiting := d.host.waiting.filter fun c => !hit c,
                                            entryWaits := d.host.entryWaits.filter fun w => !(some w.1 = target && w.2 = cid) } }
    (d.finish (target.getD 0) cid .commandAbortRequested).finish h.queue h.cid .success 0
  else d.finish h.queue h.cid .success 1

/-- Asynchronous Event Request (R416): a held event completes it at once, and at most 16 are outstanding. -/
def asyncCmd (d : Dev) (h : Hdr) : Dev :=
  let a := d.assocOf h.queue
  match d.assoc a with
  | none => d
  | some x => match x.held with
    | e :: rest => ((d.leave h.queue h.cid).modAssoc a fun x => { x with held := rest }).postAsync a h.cid e.1 e.2
    | [] =>
      if 16 ≤ x.aers.length then d.finish h.queue h.cid .asyncEventLimit
      else (d.leave h.queue h.cid).modAssoc a fun x => { x with aers := x.aers ++ [h.cid] }

/-- Format NVM (R433). -/
def formatCmd (d : Dev) (h : Hdr) (nsid lbaf ses : Nat) : Dev :=
  match d.formatCheck nsid lbaf ses with
  | some st => d.finish h.queue h.cid st
  | none => d.formatRun h.queue h.cid nsid ses

/-- Sanitize (R434, R435): 1 Exit Failure Mode, 2 Block Erase, 4 Crypto Erase. Only an unrestricted sanitize that failed leaves its
failure mode (PRESUMED, log entry 47). -/
def sanitizeCmd (d : Dev) (h : Hdr) (action : Nat) (ause noDealloc : Bool) : Dev :=
  if noDealloc || !(action = 1 || action = 2 || action = 4) then d.finish h.queue h.cid .invalidField
  else if action ≠ 1 then d.sanitizeRun h.queue h.cid action ause
  else match d.host.wipe with
    | some w =>
      if w.sanitize && w.failed then
        if w.ause then ({ d with host := { d.host with wipe := none } } : Dev).finish h.queue h.cid .success
        else d.finish h.queue h.cid .sanitizeFailed
      else d.finish h.queue h.cid .success
    | none => d.finish h.queue h.cid .success

/-! Fabrics commands (R408, R409, R413). -/

/-- Connect of an admin queue makes an association (R408, R441). The Keep Alive Timeout is in ms (PRESUMED, log entry 47). -/
def connectAdmin (d : Dev) (h : Hdr) (a port link : Nat) (rdma : Bool) (depth kato : Nat) (nqn : List Byte)
    (mtu maxReads maxDepth : Nat) : Dev :=
  if (d.assoc a).isSome then d.finish h.queue h.cid .commandSequenceError
  else if depth ≠ 32 || kato < 1000 || 3600000 < kato || 2 < mtu then d.finish h.queue h.cid .invalidField
  else
    let (id, d) := d.draw
    let x : Assoc := { port := port, link := link, rdma := rdma, nqn := nqn, kato := kato }
    let stat := lay 0 [(Fld.HIF_ASSOC_STAT_ACTIVE, 1), (Fld.HIF_ASSOC_STAT_PORT, port), (Fld.HIF_ASSOC_STAT_LINK, link),
      (Fld.HIF_ASSOC_STAT_TRANSPORT, flag rdma), (Fld.HIF_ASSOC_STAT_CNTLID, id.toNat % 65536)]
    let peer := lay 0 [(Fld.HIF_ASSOC_PEER_MTU, min mtu (bits (d.portConfig port) 16 2)),
      (Fld.HIF_ASSOC_PEER_MAX_READS, min maxReads 255), (Fld.HIF_ASSOC_PEER_MAX_DEPTH, min maxDepth 65535)]
    let d := (d.setReg (Reg.HIF_ASSOC_STAT a) stat).setReg (Reg.HIF_ASSOC_PEER a) (if rdma then peer else 0)
    let hs := d.host
    let d := { d with host := { hs with assocs := AMap.put hs.assocs a x, depths := AMap.put hs.depths h.queue 32,
                                        sqTail := AMap.put hs.sqTail h.queue 0, sqHead := AMap.put hs.sqHead h.queue 0,
                                        cqTail := AMap.put hs.cqTail h.queue 0 } }
    d.finish h.queue h.cid .success (id.toNat % 65536)

/-- Connect of an I/O queue (R408, R409). With no run of queue pairs left it completes with Internal Error (DESIGN CHOICE, log entry
48). -/
def connectIo (d : Dev) (h : Hdr) (a qid depth : Nat) (x : Assoc) : Dev :=
  match (match x.qpBase with
    | some b => some b
    | none => d.freeBase a x.numQueues) with
  | none => d.finish h.queue h.cid .internalError
  | some base =>
    let q := base + qid - 1
    if x.numQueues < qid || depth < 2 || 1024 < depth then d.finish h.queue h.cid .invalidField
    else if d.fbit (Reg.HIF_QP q) Fld.HIF_QP_ENABLED then d.finish h.queue h.cid .commandSequenceError
    else
      let d := d.modAssoc a fun x => { x with qpBase := some base, ioConnected := true }
      let d := d.setReg (Reg.HIF_QP q) (lay 8 [(Fld.HIF_QP_ENABLED, 1), (Fld.HIF_QP_RDMA, flag x.rdma), (Fld.HIF_QP_ASSOC, a),
        (Fld.HIF_QP_DEPTH, depth - 1)])
      let s := Reg.HIF_ASSOC_STAT a
      let d := (d.fset s Fld.HIF_ASSOC_STAT_QP_BASE base).fset s Fld.HIF_ASSOC_STAT_QP_COUNT
        (d.fget s Fld.HIF_ASSOC_STAT_QP_COUNT + 1)
      let hs := d.host
      let d := { d with host := { hs with depths := AMap.put hs.depths q depth, sqTail := AMap.put hs.sqTail q 0,
                                          sqHead := AMap.put hs.sqHead q 0, cqTail := AMap.put hs.cqTail q 0 } }
      d.finish h.queue h.cid .success

/-- The properties of the NVM Express over Fabrics specification, by offset and width (PRESUMED, log entry 47): CAP and VS are of the
module's making. -/
def property (x : Assoc) (offset : Nat) (wide : Bool) : Option Nat :=
  match offset, wide with
  | 0x00, true => some (Config.capProperty % 2 ^ 64)
  | 0x08, false => some (Config.vsProperty % 2 ^ 32)
  | 0x14, false => some x.cc
  | 0x1C, false => some (bits x.cc 0 1 + (if bits x.cc 14 2 = 0 then 0 else 8))
  | 0x20, false => some 0
  | _, _ => none

/-- Property Get: the value stands in Dwords 0 and 1. -/
def propertyGetCmd (d : Dev) (h : Hdr) (offset : Nat) (wide : Bool) : Dev :=
  match (d.assoc (d.assocOf h.queue)).bind fun x => property x offset wide with
  | some v => d.finishWith h.queue h.cid .success (v % 2 ^ 32) (v / 2 ^ 32)
  | none => d.finish h.queue h.cid .invalidField

/-- Property Set: CC is kept, and the NVM subsystem reset code in NSSR resets the module (R518). -/
def propertySetCmd (d : Dev) (h : Hdr) (offset value : Nat) : Dev :=
  if offset = 0x14 && value < 2 ^ 32 then
    (d.modAssoc (d.assocOf h.queue) fun x => { x with cc := value }).finish h.queue h.cid .success
  else if offset = 0x20 then
    if value = 0x4E564D65 then d.resetD 1 else d.finish h.queue h.cid .success
  else d.finish h.queue h.cid .invalidField

/-- An I/O queue ends: its waiting entries go, and its commands in flight are settled as R407 says for an association. -/
def endQueue (d : Dev) (a q : Nat) : Dev :=
  match d.assoc a with
  | none => d
  | some x =>
    let waits (c : Instr) : Bool := match hdrOf c with
      | some h => h.queue = q
      | none => false
    let flight := d.host.inflight.filter fun f => f.queue = q && f.orphan.isNone
    let orphan (f : Inflight) : Inflight := if f.queue = q && f.orphan.isNone then { f with orphan := some (x.port, x.nqn) } else f
    let d := { d with host := { d.host with waiting := d.host.waiting.filter fun c => !waits c,
                                            entryWaits := d.host.entryWaits.filter fun w => w.1 ≠ q,
                                            inflight := d.host.inflight.map orphan } }
    let d := flight.foldl (fun d f => d.settleFlight f) d
    let s := Reg.HIF_ASSOC_STAT a
    (d.setReg (Reg.HIF_QP q) 8).fset s Fld.HIF_ASSOC_STAT_QP_COUNT (d.fget s Fld.HIF_ASSOC_STAT_QP_COUNT - 1)

/-- Disconnect (R413): the association ends, or one of its I/O queues. -/
def disconnectCmd (d : Dev) (h : Hdr) (qid : Nat) : Dev :=
  let a := d.assocOf h.queue
  match d.assoc a with
  | none => d
  | some x =>
    if qid = 0 then (d.finish h.queue h.cid .success).endAssoc a
    else match pairOf x qid with
      | some q =>
        if d.fbit (Reg.HIF_QP q) Fld.HIF_QP_ENABLED then (d.finish h.queue h.cid .success).endQueue a q
        else d.finish h.queue h.cid .invalidField
      | none => d.finish h.queue h.cid .invalidField

end Dev

end Sys2Proof.Machine
end

