-- ==== Sys2Proof/Machine/Arrive.lean ====
section
/-! DEFINITION. The arrival of a host's command, the checks at its dispatch, arbitration (R417 to R420), range locks (R421, R422), and
the commands' bodies. -/

namespace Sys2Proof.Machine

/-! Kinds of command (R413). -/

inductive CommandKind
  | nvm | vendorIo | compute | admin | vendorAdmin | register | fabrics
  deriving DecidableEq, Repr

def kindOf : Instr → CommandKind
  | .flush .. | .write .. | .read .. | .writeZeroes .. | .deallocate .. | .secureDeallocate .. => .nvm
  | .compute .. => .compute
  | .query .. | .ingest .. | .delete .. | .create .. | .seal .. | .switch .. | .retire .. | .filterLoad .. | .repair .. | .stats ..
  | .allocate .. | .release .. | .update .. | .copyIn .. | .copyOut .. | .bind .. | .unbind .. | .report .. => .vendorIo
  | .planLoad .. | .planDiscard .. | .apply .. | .commit .. | .revert .. | .snapshot .. | .attest .. | .leaseLend .. | .leasePeer ..
  | .leaseAcquire .. | .leaseReturn .. | .leaseRevoke .. | .leaseStatus .. => .vendorAdmin
  | .connect .. | .propertyGet .. | .propertySet .. | .disconnect .. => .fabrics
  | .getLogPage .. | .identify .. | .abort .. | .setFeatures .. | .getFeatures .. | .asynchronousEventRequest .. | .firmwareImageDownload ..
  | .firmwareCommit .. | .keepAlive .. | .formatNvm .. | .sanitize .. => .admin
  | _ => .register

/-- The descriptor of a PLACE copy, and whether it runs to or from a namespace. -/
def copyDesc : Instr → Option (PlaceDesc × Bool)
  | .allocate _ desc _ => some (placeDesc desc, false)
  | .copyIn _ desc _ => some (placeDesc desc, false)
  | .copyOut _ desc => some (placeDesc desc, true)
  | _ => none

/-- The NSID of a command's submission entry. -/
def entryNs : Instr → Option Nat
  | .flush _ n => some n
  | .write _ n .. => some n
  | .read _ n .. => some n
  | .writeZeroes _ n .. => some n
  | .deallocate _ n _ => some n
  | .secureDeallocate _ n _ => some n
  | .ingest _ n .. => some n
  | .delete _ n .. => some n
  | .create _ n _ => some n
  | .seal _ n _ => some n
  | .switch _ n .. => some n
  | .retire _ n _ => some n
  | .repair _ n => some n
  | .stats _ n _ => some n
  | .formatNvm _ n .. => some n
  | _ => none

/-- The namespace that a command names in its submission entry or its descriptor. -/
def namedNs (c : Instr) : Option Nat :=
  match entryNs c, copyDesc c with
  | some n, _ => some n
  | none, some (p, _) => if p.sourceKind = 2 then some p.key else none
  | none, none => none

/-- Two namespace operands meet; 0xFFFFFFFF names every namespace. -/
def nsMeet (a b : Nat) : Bool := a = b || a = 0xFFFFFFFF || b = 0xFFFFFFFF

/-- The range locks that a command takes (R421, R422): namespace, first block, blocks. -/
def lockNeeds : Instr → List (Nat × Nat × Nat)
  | .write _ ns lba n _ => if n = 0 then [] else [(ns, lba, n)]
  | .writeZeroes _ ns lba n => if n = 0 then [] else [(ns, lba, n)]
  | .deallocate _ ns rs => (rs.filter fun r => r.blocks ≠ 0).map fun r => (ns, r.lba, r.blocks)
  | .secureDeallocate _ ns rs => (rs.filter fun r => r.blocks ≠ 0).map fun r => (ns, r.lba, r.blocks)
  | .ingest _ ns n given _ text b =>
    ((List.range n).map fun i =>
      let e := Dev.ingestEntry b given 0 i
      (Dev.textNs ns text, e.lba, ceilDiv e.record.length 4096)).filter fun r => r.2.2 ≠ 0
  | .delete _ ns _ _ secure text lba n => if secure && n ≠ 0 then [(Dev.textNs ns text, lba, n)] else []
  | .copyOut _ desc =>
    let p := placeDesc desc
    if p.sourceKind = 2 && p.length ≠ 0 then [(p.key, p.addr / 4096, ceilDiv (p.addr % 4096 + p.length) 4096)] else []
  | .formatNvm _ ns .. => [(ns, 0, 2 ^ 45)]
  | .sanitize _ a .. => if a = 1 then [] else [(0xFFFFFFFF, 0, 2 ^ 45)]
  | _ => []

/-- The range that a command reads and whose locks it honours (R421). -/
def lockReads : Instr → List (Nat × Nat × Nat)
  | .read _ ns lba n => [(ns, lba, n)]
  | c => match copyDesc c with
    | some (p, false) => if p.sourceKind = 2 then [(p.key, p.addr / 4096, ceilDiv (p.addr % 4096 + p.length) 4096)] else []
    | _ => []

namespace Dev

/-! The end of a command with a status before it runs. -/

def refuse (d : Dev) (c : Instr) (h : Hdr) (st : Status) : Dev :=
  match kindOf c, c with
  | .compute, .compute _ g .. => d.refuseCompute h.queue h.cid g st
  | .vendorIo, _ => d.finishPort h.queue h.cid st
  | .vendorAdmin, _ => d.finishSquare h.queue h.cid st
  | .register, _ => d.finishAccess h st
  | _, _ => d.finish h.queue h.cid st

/-! Checks at dispatch. -/

/-- Admin commands that are served while a sanitize runs (R435). -/
def servedInSanitize : Instr → Bool
  | .identify .. | .getLogPage .. | .getFeatures .. | .keepAlive .. | .asynchronousEventRequest .. | .registerRead .. => true
  | .fmtFlagsRead .. | .planErrRead .. | .railPeakRead .. | .tempMaxRead .. => true
  | .setFeatures _ f .. => f = 0x04 || f = 0x0B
  | .sanitize _ a .. => a = 1
  | _ => false

/-- A sanitize that failed is left by Exit Failure Mode or by another sanitize (PRESUMED: the NVM Express specifications, log entry
47). -/
def leavesFailure : Instr → Bool
  | .sanitize .. => true
  | _ => false

/-- Commands of an urgent queue pair (R418). -/
def urgentOk : Instr → Bool
  | .query .. | .delete .. => true
  | .deallocate _ _ rs => rs.all fun r => r.secure
  | .secureDeallocate _ _ rs => rs.all fun r => r.secure
  | _ => false

/-- The opcode belongs to the kind of queue (R413). -/
def onItsQueue (c : Instr) (q : Nat) : Bool :=
  match kindOf c with
  | .nvm | .vendorIo | .compute => !isAdmin q
  | .admin | .vendorAdmin | .fabrics => isAdmin q
  | .register => true

/-- Commands to which NSID 0xFFFFFFFF names every namespace (R433; Flush PRESUMED, log entry 42). -/
def allNs : Instr → Bool
  | .flush .. | .formatNvm .. => true
  | _ => false

/-- Does a command make the device move host memory by an RDMA key (R410)? -/
def needsRdma (c : Instr) : Bool := match c with
  | .query .. => true
  | _ => match copyDesc c with
    | some (p, _) => p.sourceKind = 1
    | none => false

/-- The status with which a command ends before it runs, in the order in which the checks are made (DEDUCED, log entry 49): its opcode
(R413), FUSE and reserved fields (R413, R3), the queue's class (R418), a sanitize (R435), a Format (R433), the transport (R410),
the namespace of its NSID (PRESUMED: Invalid Namespace or Format of the NVM Express specifications, log entry 42). -/
def dispatchCheck (d : Dev) (c : Instr) (h : Hdr) : Option Status :=
  let rdma := match d.assoc (d.assocOf h.queue) with
    | some x => x.rdma
    | none => true
  let wiped : Option Status := match d.host.wipe with
    | none => none
    | some w =>
      if w.sanitize then
        if isAdmin h.queue && (servedInSanitize c || (w.failed && leavesFailure c)) then none
        else some (if w.failed then .sanitizeFailed else .sanitizeInProgress)
      else match namedNs c with
        | some n => if nsMeet n w.ns then some .formatInProgress else none
        | none => none
  if h.unlisted || !onItsQueue c h.queue then some .invalidOpcode
  else if h.fuse ≠ 0 || h.reserved then some .invalidField
  else if !isAdmin h.queue && d.classOf h.queue = 0 && !urgentOk c then some .invalidField
  else if wiped.isSome then wiped
  else if needsRdma c && !rdma then some .invalidField
  else match entryNs c with
    | some n =>
      if (d.nsDef n).isSome || (allNs c && n = 0xFFFFFFFF) then none else some .invalidNamespace
    | none => none

/-! The bodies. -/

/-- A command runs. `ready`: the pieces that it had to read have been read. -/
def hostBody (d : Dev) (c : Instr) (ready : Bool) : Dev :=
  match c with
  | .flush h ns => d.flushCmd h ns
  | .write h ns lba n b => d.writeCmd h ns lba n (some b) ready c
  | .read h ns lba n => d.readCmd h ns lba n ready
  | .writeZeroes h ns lba n => d.writeCmd h ns lba n none ready c
  | .deallocate h ns rs => d.deallocCmd h ns rs ready c
  | .secureDeallocate h ns rs => d.deallocCmd h ns rs ready c
  | .query h n b => d.queryCmd h n b
  | .ingest h ns n given service text b => d.ingestCmd h ns n given service text b ready
  | .delete h ns id gen secure text lba n => d.deleteCmd h ns id gen secure text lba n
  | .compute h g n t0 hist list scale route gather buf => d.compute h g n t0 hist list scale route gather buf
  | .create h ns b => d.createCmd h ns b
  | .seal h ns v => d.sealCmd h ns v
  | .switch h ns v beat => d.switchCmd h ns v beat
  | .retire h ns v => d.retireCmd h ns v
  | .filterLoad h first n b => d.filterLoadCmd h first n b
  | .repair h ns => d.repairCmd h ns
  | .stats h ns len => d.statsCmd h ns len
  | .allocate h desc src => allocateCmd d h desc src false ready
  | .release h desc => releaseCmd d h desc
  | .update h desc => updateCmd d h desc
  | .copyIn h desc src => copyInCmd d h desc src false ready
  | .copyOut h desc => copyOutCmd d h desc false ready
  | .bind h desc => bindCmd d h desc
  | .unbind h desc => unbindCmd d h desc
  | .report h len => reportCmd d h len
  | .registerRead h a n wide len => d.registerReadCmd h a n wide len
  | .registerWrite h a wide v => d.registerWriteCmd h a wide v
  | .getLogPage h page len => d.getLogPageCmd h page len
  | .identify h cns ns => d.identifyCmd h cns ns
  | .abort h sq cid => d.abortCmd h sq cid
  | .setFeatures h f save dw11 x => d.setFeaturesCmd h f save dw11 x.dw12 x.data
  | .getFeatures h f sel dw11 => d.getFeaturesCmd h f sel dw11
  | .asynchronousEventRequest h => d.asyncCmd h
  | .firmwareImageDownload h o b => imageDownloadCmd d h o b
  | .firmwareCommit h slot action => firmwareCommitCmd d h slot action
  | .keepAlive h => d.finish h.queue h.cid .success
  | .formatNvm h ns lbaf ses => d.formatCmd h ns lbaf ses
  | .sanitize h action ause nd => d.sanitizeCmd h action ause nd
  | .propertyGet h o wide => d.propertyGetCmd h o wide
  | .propertySet h o v => d.propertySetCmd h o v
  | .disconnect h qid => d.disconnectCmd h qid
  | .planLoad h act b => planLoadCmd d h act b
  | .planDiscard h act len => planDiscardCmd d h act len
  | .apply h b => applyCmd d h b
  | .commit h => commitCmd d h
  | .revert h => revertCmd d h
  | .snapshot h kind len => snapshotCmd d h kind len
  | .attest h nonce len => attestCmd d h nonce len
  | .leaseLend h t0 t1 notice idle => leaseLendCmd d h t0 t1 notice idle
  | .leasePeer h peer b => leasePeerCmd d h peer b
  | .leaseAcquire h peer set tier gib => leaseAcquireCmd d h peer set tier gib
  | .leaseReturn h l => leaseReturnCmd d h l
  | .leaseRevoke h l notice => leaseRevokeCmd d h l notice
  | .leaseStatus h len => leaseStatusCmd d h len
  | c => match hdrOf c, accessOf d c with
    | some h, some (_, a) => d.accessCmd h a
    | _, _ => d

/-! Range locks. -/

/-- Two ranges of blocks overlap. -/
def lockMeets (l : RangeLock) (r : Nat × Nat × Nat) : Bool :=
  l.blocks ≠ 0 && nsMeet l.ns r.1 && decide (l.lba < r.2.1 + r.2.2) && decide (r.2.1 < l.lba + l.blocks)

/-- The locks registered before those of a command. -/
def earlierLocks (d : Dev) (h : Hdr) : List RangeLock := d.host.locks.takeWhile fun l => !(l.queue = h.queue && l.cid = h.cid)

/-- Does an earlier lock overlap what a command locks or reads? -/
def lockBlocked (d : Dev) (c : Instr) (h : Hdr) : Bool :=
  (lockNeeds c ++ lockReads c).any fun r => (d.earlierLocks h).any fun l => lockMeets l r

/-- A command registers its locks, or its place among them if it only reads (R421). -/
def registerLocks (d : Dev) (c : Instr) (h : Hdr) : Dev :=
  let mine := match lockNeeds c with
    | [] => if (lockReads c).isEmpty then [] else [RangeLock.mk h.queue h.cid 0 0 0]
    | rs => rs.map fun r => RangeLock.mk h.queue h.cid r.1 r.2.1 r.2.2
  { d with host := { d.host with locks := d.host.locks ++ mine } }

/-- A command waits for the earlier locks that overlap its own; it counts as one that waited (R421). -/
def waitLocked (d : Dev) (c : Instr) : Dev :=
  ({ d with host := { d.host with lockWaiters := d.host.lockWaiters ++ [c] } } : Dev).fadd Reg.HIF_LOCK Fld.HIF_LOCK_WAITS 1

/-- A command registers its locks, and then runs or waits (R421). -/
def runLocked (d : Dev) (c : Instr) (h : Hdr) : Dev :=
  let d := d.registerLocks c h
  if d.lockBlocked c h then d.waitLocked c else d.hostBody c false

/-- The entries of the range-lock table: 4,096. -/
def lockRoom (d : Dev) (c : Instr) : Bool :=
  decide ((d.host.locks.filter fun l => l.blocks ≠ 0).length + (lockNeeds c).length ≤ 4096)

/-! Room, and what holds a command in its submission queue (R420, R422, R438). -/

/-- The Gate of a command in flight. -/
def gateOf (d : Dev) (x : Inflight) : Nat := match x.orphan with
  | some (p, _) => p
  | none => d.portOf x.queue

/-- Commands dispatched and not completed at a Gate; those that wait for lock entries count (R422), and so do outstanding Asynchronous Event
Requests. -/
def dispatchedAt (d : Dev) (g : Nat) : Nat :=
  (d.host.inflight.filter fun x => d.gateOf x = g).length + (d.host.entryWaits.filter fun w => d.portOf w.1 = g).length
    + ((d.host.assocs.filter fun x => d.portOf (4096 + x.1) = g).map fun x => x.2.aers.length).sum

/-- A Gate has its reserve of 8,192 and the shared remainder of 49,152 (R408, R420). -/
def hasRoom (d : Dev) (g : Nat) : Bool :=
  let used := d.dispatchedAt g
  let other := d.dispatchedAt (1 - g)
  decide (used + other < 65536) && (decide (used < 8192) || decide ((used - 8192) + (other - 8192) < 49152))

/-- The QTR_, BLK_ and CELL_, and STK_ windows of the quarters (R31), whose access wakes the module from PS3 and PS4 (R438). -/
def wakesAt (a : Nat) : Bool :=
  let o := a % 0x1000000
  decide (0x1000000 ≤ a) && decide (a < 0x5000000) &&
    (decide (o < 0xA00000) || (decide (0xE00000 ≤ o) && decide (o < 0xE30000)))

def wakes (d : Dev) (c : Instr) : Bool :=
  match kindOf c with
  | .nvm | .vendorIo | .compute => true
  | .register => match c, accessOf d c with
    | .registerRead _ a .., _ => wakesAt a
    | .registerWrite _ a .., _ => wakesAt a
    | _, some (_, .write a ..) => wakesAt a
    | _, some (_, .read a ..) => wakesAt a
    | _, none => false
  | .vendorAdmin => match c with
    | .planLoad .. | .planDiscard .. | .apply .. | .commit .. | .revert .. | .snapshot .. => true
    | _ => false
  | _ => false

/-- A quiesce of the whole device holds the I/O commands (R54, R420). -/
def ioHeld (d : Dev) : Bool := d.plan.slots.any fun s => s.step = .quiescing && (match s.container with
  | some c => c.scope.kind = .device
  | none => false)

/-- May an entry at the head of its queue be dispatched now? A command that a check ends needs room alone. -/
def mayGo (d : Dev) (c : Instr) : Bool :=
  match hdrOf c with
  | none => false
  | some h =>
    d.hasRoom (d.portOf h.queue) && !(d.ioHeld && !isAdmin h.queue) && ((d.dispatchCheck c h).isSome ||
      (!(decide (3 ≤ d.power.ps) && d.wakes c) && d.lockRoom c &&
        (match c with
          | .compute h g .. => !d.computeWaits h.queue g
          | _ => true)))

/-! Arbitration (R417, R419). -/

def arb (d : Dev) (g : Nat) : GateArb := AMap.get d.host.arb g {}

def modArb (d : Dev) (g : Nat) (f : GateArb → GateArb) : Dev :=
  { d with host := { d.host with arb := AMap.put d.host.arb g (f (d.arb g)) } }

/-- The queue of a command. -/
def queueOf (c : Instr) : Nat := match hdrOf c with
  | some h => h.queue
  | none => 0

/-- The heads of a Gate's submission queues that may be dispatched. -/
def heads (d : Dev) (g : Nat) : List Instr :=
  let qs := ((d.host.waiting.map queueOf).dedup).filter fun q => d.portOf q = g
  (qs.filterMap fun q => d.host.waiting.find? fun c => queueOf c = q).filter d.mayGo

/-- The next queue after the one served last, in ascending order and round. -/
def nextQueue (qs : List Nat) (last : Option Nat) : Option Nat :=
  let least (l : List Nat) : Option Nat := l.foldl (fun m q => match m with
    | some x => some (min x q)
    | none => some q) none
  match last with
  | none => least qs
  | some x => match least (qs.filter (x < ·)) with
    | some q => some q
    | none => least qs

/-- The contender of a queue within a class: its district, or 16 for the queue pairs that map to none. -/
def contenderOf (d : Dev) (q : Nat) : Nat := (d.districtOf q).getD 16

def gateWeight (d : Dev) (x : Nat) : Nat := if x = 16 then 1 else (d.district x).gateWeight

/-- Deficit round robin among the contenders of a class: the contender, and the credits left. A round credits every contender with
work; those of weight zero take turns when no other has work (R24). -/
def chooseContender (d : Dev) (a : GateArb) (cls : Nat) (xs : List Nat) : Option (Nat × GateArb) :=
  let key (x : Nat) : Nat := 32 * cls + x
  let pay (a : GateArb) (x : Nat) : GateArb := { a with credits := AMap.put a.credits (key x) (AMap.get a.credits (key x) 0 - 1) }
  let rich := xs.filter fun x => 0 < AMap.get a.credits (key x) 0
  match rich with
  | x :: _ => some (x, pay a x)
  | [] => match xs.filter fun x => 0 < d.gateWeight x with
    | x :: ys =>
      let a := { a with credits := (x :: ys).foldl (fun m y => AMap.put m (key y) (d.gateWeight y)) a.credits }
      some (x, pay a x)
    | [] =>
      let turn' := 32 * cls + 31
      match nextQueue xs (AMap.look a.credits turn') with
      | some x => some (x, { a with credits := AMap.put a.credits turn' x })
      | none => none

/-- Weighted round robin among the classes: the class of the next grant. Each round gives a class its weight in grants. -/
def chooseClass (d : Dev) (a : GateArb) (cs : List Nat) : Option (Nat × GateArb) :=
  let w (c : Nat) : Nat := bits (d.feature 0x01) (8 * (4 - c)) 8 + 1
  let burst := 2 ^ bits (d.feature 0x01) 0 3
  let take (a : GateArb) (c : Nat) : GateArb :=
    { a with grants := AMap.put a.grants c (AMap.get a.grants c 0 - 1), burst := burst, burstClass := c }
  match cs.find? fun c => 0 < AMap.get a.grants c 0 with
  | some c => some (c, take a c)
  | none => match cs with
    | c :: _ => some (c, take { a with grants := cs.foldl (fun m c => AMap.put m c (w c)) a.grants } c)
    | [] => none

/-- The queue of a class that is served next, and the arbitration afterwards. -/
def serveClass (d : Dev) (a : GateArb) (cls : Nat) (qs : List Nat) : Option (Nat × GateArb) :=
  let mine := qs.filter fun q => d.classOf q = cls
  let xs := ((mine.map d.contenderOf).dedup).mergeSort (· ≤ ·)
  -- the credits of a contender without a waiting command go
  let a := { a with credits := a.credits.filter fun k => k.1 / 32 ≠ cls || k.1 % 32 = 31 || xs.contains (k.1 % 32) }
  match d.chooseContender a cls xs with
  | none => none
  | some (x, a) =>
    let key := 32 * cls + x
    match nextQueue (mine.filter fun q => d.contenderOf q = x) (AMap.look a.lastQueue key) with
    | some q => some (q, { a with lastQueue := AMap.put a.lastQueue key q })
    | none => none

/-- The queue that a Gate serves next, the arbitration afterwards, and whether a weighted burst was granted over urgent commands. -/
def arbitrate (d : Dev) (g : Nat) (qs : List Nat) : Option (Nat × GateArb × Bool) :=
  let a := d.arb g
  let admin := qs.filter isAdmin
  let io := qs.filter fun q => !isAdmin q
  let urgent := io.filter fun q => d.classOf q = 0
  let weighted := io.filter fun q => d.classOf q ≠ 0
  let classes := [1, 2, 3].filter fun c => weighted.any fun q => d.classOf q = c
  let limit := d.fget Reg.HIF_ARB Fld.HIF_ARB_URGENT_RUN
  match nextQueue admin (AMap.look a.lastQueue 1024) with
  | some q => some (q, { a with lastQueue := AMap.put a.lastQueue 1024 q }, false)
  | none =>
    -- the one burst ends when its class has nothing more
    let a := if a.yielding && !classes.contains a.burstClass then { a with yielding := false, urgentRun := 0, burst := 0 } else a
    let yield := !a.yielding && decide (limit ≤ a.urgentRun) && !weighted.isEmpty && !urgent.isEmpty
    if !urgent.isEmpty && !a.yielding && !yield then
      match nextQueue urgent (AMap.look a.lastQueue 0) with
      | some q => some (q, { a with urgentRun := a.urgentRun + 1, lastQueue := AMap.put a.lastQueue 0 q }, false)
      | none => none
    else
      let a := if yield then { a with yielding := true, burst := 0 } else a
      let grant := if a.burst ≠ 0 && classes.contains a.burstClass then some (a.burstClass, a) else d.chooseClass a classes
      match grant with
      | none => none
      | some (c, a) => match d.serveClass a c weighted with
        | none => none
        | some (q, a) =>
          let left := a.burst - 1
          let ended := a.yielding && left = 0
          some (q, { a with burst := left, yielding := a.yielding && left ≠ 0,
                            urgentRun := if ended || !a.yielding then 0 else a.urgentRun }, yield)

/-! Dispatch and arrival. -/

/-- An admin command makes the active Square fetch code outside its resident set, which suspends an erase of its flash; with a
standby in service the standby serves the command (R511). Which commands' code is resident is not in the spec: no command's
is (DESIGN CHOICE, log entry 54). -/
def fetchOutside (d : Dev) (c : Instr) : Dev :=
  match kindOf c, d.standby with
  | .admin, none | .vendorAdmin, none => d.suspendErase d.activeSq
  | _, _ => d

/-- A command leaves its submission queue and is in flight (R419, R420). -/
def leaveQueue (d : Dev) (c : Instr) (h : Hdr) : Dev :=
  let depth := AMap.get d.host.depths h.queue 32
  let d := { d with host := { d.host with sqHead := turn d.host.sqHead depth h.queue,
                                          entryWaits := d.host.entryWaits.filter fun w => w ≠ (h.queue, h.cid),
                                          inflight := d.host.inflight ++ [{ queue := h.queue, cid := h.cid, command := c, district := d.districtOf h.queue : Inflight }] } }
  let d := if !isAdmin h.queue && d.classOf h.queue = 0 then d.fadd Reg.HIF_URGENT Fld.HIF_URGENT_DISPATCHED 1 else d
  d.fetchOutside c

/-- A command in flight ends at a check or runs. -/
def dispatch (d : Dev) (c : Instr) (h : Hdr) : Dev :=
  let d := d.leaveQueue c h
  match d.dispatchCheck c h with
  | some st => d.refuse c h st
  | none => d.runLocked c h

/-- A Gate serves a queue: the arbitration moves on and the queue's head leaves it. -/
def serveQueue (d : Dev) (g q : Nat) (a : GateArb) (yields : Bool) : Dev :=
  let d := d.modArb g fun _ => a
  let d := if yields then d.fadd Reg.HIF_URGENT Fld.HIF_URGENT_YIELDS 1 else d
  { d with host := { d.host with waiting := d.host.waiting.eraseIdx (d.host.waiting.findIdx fun x => queueOf x = q) } }

/-- A Gate dispatches the next command of its submission queues, if one may go. -/
def dispatchNext (d : Dev) (g : Nat) : Dev :=
  let hs := d.heads g
  match d.arbitrate g (hs.map queueOf) with
  | none => d
  | some (q, a, yields) =>
    match hs.find? fun c => queueOf c = q with
    | none => d
    | some c => match hdrOf c with
      | none => d
      | some h => (d.serveQueue g q a yields).dispatch c h

/-- The module takes commands from a queue: its association exists, an I/O queue is connected, and the module is not shut down. -/
def queueOpen (d : Dev) (q : Nat) : Bool :=
  let a := d.assocOf q
  d.contain.shutdown = 0 && !d.media.down && !d.media.flushing && (d.assoc a).isSome &&
    (isAdmin q || d.fbit (Reg.HIF_QP q) Fld.HIF_QP_ENABLED)

/-- A command with this identifier is already in its queue or in flight. -/
def known (d : Dev) (h : Hdr) : Bool :=
  let same (c : Instr) : Bool := match hdrOf c with
    | some y => y.queue = h.queue && y.cid = h.cid
    | none => false
  (d.inflightOf h.queue h.cid).isSome || d.host.waiting.any same ||
    (isAdmin h.queue && (match d.assoc (h.queue - 4096) with
      | some x => x.aers.contains h.cid
      | none => false))

/-- A command that arrives in PS3 or PS4, or on the way there, and that those states do not serve, brings the module back (R438). -/
def wakeFor (d : Dev) (c : Instr) : Dev :=
  if !d.wakes c then d
  else if 3 ≤ d.power.ps then { d with power := { d.power with psNext := some d.power.lastOperational } }
  else match d.power.psNext with
    | some p => if 3 ≤ p then { d with power := { d.power with psNext := none } } else d
    | none => d

/-- A command for which the range-lock table has too few entries waits in its queue, and counts as one that waited (R422). -/
def noteEntryWait (d : Dev) (c : Instr) (h : Hdr) : Dev :=
  if d.lockRoom c || d.host.entryWaits.contains (h.queue, h.cid) then d
  else ({ d with host := { d.host with entryWaits := d.host.entryWaits ++ [(h.queue, h.cid)] } } : Dev).fadd Reg.HIF_LOCK
    Fld.HIF_LOCK_WAITS 1

/-- The head of a queue that lacks lock entries. -/
def noteHeads (d : Dev) (g : Nat) : Dev :=
  let qs := ((d.host.waiting.map queueOf).dedup).filter fun q => d.portOf q = g
  qs.foldl (fun d q => match d.host.waiting.find? fun c => queueOf c = q with
    | some c => match hdrOf c with
      | some h => if (d.dispatchCheck c h).isSome then d else d.noteEntryWait c h
      | none => d
    | none => d) d

/-- A command stands at the end of its submission queue. -/
def joinQueue (d : Dev) (c : Instr) (h : Hdr) : Dev :=
  { d with host := { d.host with sqTail := turn d.host.sqTail (AMap.get d.host.depths h.queue 32) h.queue,
                                 waiting := d.host.waiting ++ [c] } }

/-- A host's command arrives in its submission queue. It is dispatched at once where nothing else may go before it; otherwise it
waits for GATE_DISPATCH. A command from a queue that does not exist, or with an identifier already in use, changes nothing. -/
def arrive (d : Dev) (c : Instr) : Dev :=
  match hdrOf c with
  | none => d
  | some h =>
    if !d.queueOpen h.queue || d.known h then d
    else
      let g := d.portOf h.queue
      let d := d.wakeFor c
      let others := !(d.heads g).isEmpty
      let d := d.joinQueue c h
      if others then d else (d.dispatchNext g).noteHeads g

end Dev

/-! Meanings of the host's commands. -/

/-- CONNECT arrives over a link that is up (R408, R409). -/
def connectArrives (d : Dev) (c : Instr) : Dev :=
  match c with
  | .connect h a qid port link rdma depth kato nqn mtu reads deep =>
    if h.unlisted || h.queue ≠ 4096 + a || 2048 ≤ a || 2 ≤ port || 2 ≤ link || d.known h then d
    else if bits (d.fget (Reg.HIF_PORT_STAT port) Fld.HIF_PORT_STAT_LINK_UP) link 1 = 0 || d.contain.shutdown ≠ 0 then d
    else if h.fuse ≠ 0 || h.reserved then d.finish h.queue h.cid .invalidField
    else if (match d.host.wipe with
        | some w => w.sanitize
        | none => false) then d.finish h.queue h.cid .sanitizeInProgress
    else if qid = 0 then d.connectAdmin h a port link rdma depth kato nqn mtu reads deep
    else match d.assoc a with
      | some x => d.connectIo h a qid depth x
      | none => d
  | _ => d

/-- A Gate dispatches its next command (R417 to R420). -/
def gateDispatch (d : Dev) (g : Nat) : Dev := if 2 ≤ g then d else (d.dispatchNext g).noteHeads g

/-- A command that waited for an overlapping range lock proceeds once every earlier one is released (R421). -/
def rangeLockAcquire (d : Dev) (queue cid : Nat) : Dev :=
  let mine (c : Instr) : Bool := match hdrOf c with
    | some h => h.queue = queue && h.cid = cid
    | none => false
  match d.host.lockWaiters.find? mine with
  | none => d
  | some c => match hdrOf c with
    | none => d
    | some h =>
      if d.lockBlocked c h then d
      else ({ d with host := { d.host with lockWaiters := d.host.lockWaiters.filter fun x => !mine x } } : Dev).hostBody c false

def execFlush (h : Hdr) (nsid : Nat) (s : State) : Host.Outcome State Fault Refusal :=
  effect (fun d => d.arrive (.flush h nsid)) s
def execWrite (h : Hdr) (nsid lba blocks : Nat) (data : List Byte) (s : State) : Host.Outcome State Fault Refusal :=
  effect (fun d => d.arrive (.write h nsid lba blocks data)) s
def execRead (h : Hdr) (nsid lba blocks : Nat) (s : State) : Host.Outcome State Fault Refusal :=
  effect (fun d => d.arrive (.read h nsid lba blocks)) s
def execWriteZeroes (h : Hdr) (nsid lba blocks : Nat) (s : State) : Host.Outcome State Fault Refusal :=
  effect (fun d => d.arrive (.writeZeroes h nsid lba blocks)) s
def execDeallocate (h : Hdr) (nsid : Nat) (ranges : List LbaRange) (s : State) : Host.Outcome State Fault Refusal :=
  effect (fun d => d.arrive (.deallocate h nsid ranges)) s
def execSecureDeallocate (h : Hdr) (nsid : Nat) (ranges : List LbaRange) (s : State) : Host.Outcome State Fault Refusal :=
  effect (fun d => d.arrive (.secureDeallocate h nsid ranges)) s
def execQuery (h : Hdr) (count : Nat) (data : Fetch) (s : State) : Host.Outcome State Fault Refusal :=
  effect (fun d => d.arrive (.query h count data)) s
def execIngest (h : Hdr) (nsid count : Nat) (vectorsGiven : Bool) (service textNsid : Nat) (data : List Byte)
    (s : State) : Host.Outcome State Fault Refusal :=
  effect (fun d => d.arrive (.ingest h nsid count vectorsGiven service textNsid data)) s
def execDelete (h : Hdr) (nsid id gen : Nat) (secure : Bool) (textNsid textLba blocks : Nat)
    (s : State) : Host.Outcome State Fault Refusal :=
  effect (fun d => d.arrive (.delete h nsid id gen secure textNsid textLba blocks)) s
def execCompute (h : Hdr) (block opCount : Nat) (listInT0 : Bool)
    (scaleHistory opList scaleState routeState pairGather bufferLength : Nat) (s : State) : Host.Outcome State Fault Refusal :=
  effect (fun d => d.arrive (.compute h block opCount listInT0 scaleHistory opList scaleState routeState pairGather bufferLength)) s
def execCreate (h : Hdr) (nsid : Nat) (data : List Byte) (s : State) : Host.Outcome State Fault Refusal :=
  effect (fun d => d.arrive (.create h nsid data)) s
def execSeal (h : Hdr) (nsid version : Nat) (s : State) : Host.Outcome State Fault Refusal :=
  effect (fun d => d.arrive (.seal h nsid version)) s
def execSwitch (h : Hdr) (nsid version beat : Nat) (s : State) : Host.Outcome State Fault Refusal :=
  effect (fun d => d.arrive (.switch h nsid version beat)) s
def execRetire (h : Hdr) (nsid version : Nat) (s : State) : Host.Outcome State Fault Refusal :=
  effect (fun d => d.arrive (.retire h nsid version)) s
def execFilterLoad (h : Hdr) (first count : Nat) (data : List Byte) (s : State) : Host.Outcome State Fault Refusal :=
  effect (fun d => d.arrive (.filterLoad h first count data)) s
def execRepair (h : Hdr) (nsid : Nat) (s : State) : Host.Outcome State Fault Refusal :=
  effect (fun d => d.arrive (.repair h nsid)) s
def execStats (h : Hdr) (nsid length : Nat) (s : State) : Host.Outcome State Fault Refusal :=
  effect (fun d => d.arrive (.stats h nsid length)) s
def execAllocate (h : Hdr) (descriptor : List Byte) (source : Fetch) (s : State) : Host.Outcome State Fault Refusal :=
  effect (fun d => d.arrive (.allocate h descriptor source)) s
def execRelease (h : Hdr) (descriptor : List Byte) (s : State) : Host.Outcome State Fault Refusal :=
  effect (fun d => d.arrive (.release h descriptor)) s
def execUpdate (h : Hdr) (descriptor : List Byte) (s : State) : Host.Outcome State Fault Refusal :=
  effect (fun d => d.arrive (.update h descriptor)) s
def execCopyIn (h : Hdr) (descriptor : List Byte) (source : Fetch) (s : State) : Host.Outcome State Fault Refusal :=
  effect (fun d => d.arrive (.copyIn h descriptor source)) s
def execCopyOut (h : Hdr) (descriptor : List Byte) (s : State) : Host.Outcome State Fault Refusal :=
  effect (fun d => d.arrive (.copyOut h descriptor)) s
def execBind (h : Hdr) (descriptor : List Byte) (s : State) : Host.Outcome State Fault Refusal :=
  effect (fun d => d.arrive (.bind h descriptor)) s
def execUnbind (h : Hdr) (descriptor : List Byte) (s : State) : Host.Outcome State Fault Refusal :=
  effect (fun d => d.arrive (.unbind h descriptor)) s
def execReport (h : Hdr) (length : Nat) (s : State) : Host.Outcome State Fault Refusal :=
  effect (fun d => d.arrive (.report h length)) s
def execRegisterRead (h : Hdr) (address count : Nat) (wide : Bool) (length : Nat) (s : State) : Host.Outcome State Fault Refusal :=
  effect (fun d => d.arrive (.registerRead h address count wide length)) s
def execRegisterWrite (h : Hdr) (address : Nat) (wide : Bool) (value : Nat) (s : State) : Host.Outcome State Fault Refusal :=
  effect (fun d => d.arrive (.registerWrite h address wide value)) s
def execGetLogPage (h : Hdr) (page length : Nat) (s : State) : Host.Outcome State Fault Refusal :=
  effect (fun d => d.arrive (.getLogPage h page length)) s
def execIdentify (h : Hdr) (cns nsid : Nat) (s : State) : Host.Outcome State Fault Refusal :=
  effect (fun d => d.arrive (.identify h cns nsid)) s
def execAbort (h : Hdr) (sqid cid : Nat) (s : State) : Host.Outcome State Fault Refusal :=
  effect (fun d => d.arrive (.abort h sqid cid)) s
def execSetFeatures (h : Hdr) (feature : Nat) (save : Bool) (dw11 : Nat) (rest : FeatureRest) (s : State) : Host.Outcome State Fault Refusal :=
  effect (fun d => d.arrive (.setFeatures h feature save dw11 rest)) s
def execGetFeatures (h : Hdr) (feature select dw11 : Nat) (s : State) : Host.Outcome State Fault Refusal :=
  effect (fun d => d.arrive (.getFeatures h feature select dw11)) s
def execAsynchronousEventRequest (h : Hdr) (s : State) : Host.Outcome State Fault Refusal :=
  effect (fun d => d.arrive (.asynchronousEventRequest h)) s
def execFirmwareImageDownload (h : Hdr) (offset : Nat) (data : List Byte) (s : State) : Host.Outcome State Fault Refusal :=
  effect (fun d => d.arrive (.firmwareImageDownload h offset data)) s
def execFirmwareCommit (h : Hdr) (slot action : Nat) (s : State) : Host.Outcome State Fault Refusal :=
  effect (fun d => d.arrive (.firmwareCommit h slot action)) s
def execKeepAlive (h : Hdr) (s : State) : Host.Outcome State Fault Refusal :=
  effect (fun d => d.arrive (.keepAlive h)) s
def execFormatNvm (h : Hdr) (nsid lbaf ses : Nat) (s : State) : Host.Outcome State Fault Refusal :=
  effect (fun d => d.arrive (.formatNvm h nsid lbaf ses)) s
def execSanitize (h : Hdr) (action : Nat) (ause noDeallocate : Bool) (s : State) : Host.Outcome State Fault Refusal :=
  effect (fun d => d.arrive (.sanitize h action ause noDeallocate)) s
def execConnect (h : Hdr) (assoc qid port link : Nat) (rdma : Bool) (depth kato : Nat) (nqn : List Byte)
    (mtu maxReads maxDepth : Nat) (s : State) : Host.Outcome State Fault Refusal :=
  effect (fun d => connectArrives d (.connect h assoc qid port link rdma depth kato nqn mtu maxReads maxDepth)) s
def execPropertyGet (h : Hdr) (offset : Nat) (wide : Bool) (s : State) : Host.Outcome State Fault Refusal :=
  effect (fun d => d.arrive (.propertyGet h offset wide)) s
def execPropertySet (h : Hdr) (offset value : Nat) (s : State) : Host.Outcome State Fault Refusal :=
  effect (fun d => d.arrive (.propertySet h offset value)) s
def execDisconnect (h : Hdr) (qid : Nat) (s : State) : Host.Outcome State Fault Refusal :=
  effect (fun d => d.arrive (.disconnect h qid)) s
def execPlanLoad (h : Hdr) (activate : Bool) (data : List Byte) (s : State) : Host.Outcome State Fault Refusal :=
  effect (fun d => d.arrive (.planLoad h activate data)) s
def execPlanDiscard (h : Hdr) (activate : Bool) (length : Nat) (s : State) : Host.Outcome State Fault Refusal :=
  effect (fun d => d.arrive (.planDiscard h activate length)) s
def execApply (h : Hdr) (data : List Byte) (s : State) : Host.Outcome State Fault Refusal :=
  effect (fun d => d.arrive (.apply h data)) s
def execCommit (h : Hdr) (s : State) : Host.Outcome State Fault Refusal :=
  effect (fun d => d.arrive (.commit h)) s
def execRevert (h : Hdr) (s : State) : Host.Outcome State Fault Refusal :=
  effect (fun d => d.arrive (.revert h)) s
def execSnapshot (h : Hdr) (kind length : Nat) (s : State) : Host.Outcome State Fault Refusal :=
  effect (fun d => d.arrive (.snapshot h kind length)) s
def execAttest (h : Hdr) (nonce : List Byte) (length : Nat) (s : State) : Host.Outcome State Fault Refusal :=
  effect (fun d => d.arrive (.attest h nonce length)) s
def execLeaseLend (h : Hdr) (t0Gib t1Gib notice idle : Nat) (s : State) : Host.Outcome State Fault Refusal :=
  effect (fun d => d.arrive (.leaseLend h t0Gib t1Gib notice idle)) s
def execLeasePeer (h : Hdr) (peer : Nat) (data : List Byte) (s : State) : Host.Outcome State Fault Refusal :=
  effect (fun d => d.arrive (.leasePeer h peer data)) s
def execLeaseAcquire (h : Hdr) (peer set tier gib : Nat) (s : State) : Host.Outcome State Fault Refusal :=
  effect (fun d => d.arrive (.leaseAcquire h peer set tier gib)) s
def execLeaseReturn (h : Hdr) (lease : Nat) (s : State) : Host.Outcome State Fault Refusal :=
  effect (fun d => d.arrive (.leaseReturn h lease)) s
def execLeaseRevoke (h : Hdr) (lease notice : Nat) (s : State) : Host.Outcome State Fault Refusal :=
  effect (fun d => d.arrive (.leaseRevoke h lease notice)) s
def execLeaseStatus (h : Hdr) (length : Nat) (s : State) : Host.Outcome State Fault Refusal :=
  effect (fun d => d.arrive (.leaseStatus h length)) s

def execGateDispatch (gate : Nat) (s : State) : Host.Outcome State Fault Refusal := effect (fun d => gateDispatch d gate) s
def execRangeLockAcquire (queue cid : Nat) (s : State) : Host.Outcome State Fault Refusal :=
  effect (fun d => rangeLockAcquire d queue cid) s

end Sys2Proof.Machine
end

