-- ==== Sys2Proof/Machine/Reads.lean ====
section
/-! DEFINITION. The end of a flash read (R224 to R227, R390 to R393), for each of its readers. -/

namespace Sys2Proof.Machine

namespace Dev

/-! Recovery and its consequences. -/

/-- Can a page be rebuilt from the other members of its row (R390)? Not when a second member is out of reach or retired and not rebuilt, nor
where the row has no parity that can be read. -/
def rebuildable (d : Dev) (l : UnitLoc) : Bool :=
  let s := d.sb l.group l.bg
  let reads (m : Nat) : Bool := d.kerbOnline (kerbOf l.group m) && (d.dieOk (dieOf l.group m) || !d.media.rebuilding.contains (dieOf l.group m))
  !s.unprotected && decide (l.page < s.parityRows) && (s.members.filter (· ≠ l.member)).all reads

/-- The step of R390 that a read takes: a die that is retired, or whose Kerb is offline, is not read, and its pieces are rebuilt (R21,
R393). -/
def readStep (d : Dev) (k die step : Nat) (l : UnitLoc) : Nat :=
  let step := if d.dieOk die && d.kerbOnline k then step else max 4 step
  if step = 4 && !d.rebuildable l then 5 else step

/-- The counters of R403: every step that the read reached. On a die that is not read only the rebuild is counted. -/
def countSteps (d : Dev) (tried : Bool) (step n : Nat) : Dev :=
  let d := if tried && 2 ≤ step then d.fadd Reg.FTL_RD_SOFT Fld.FTL_RD_SOFT_PIECES n else d
  let d := if tried && 3 ≤ step then d.fadd Reg.FTL_RD_RETRY Fld.FTL_RD_RETRY_PIECES n else d
  match step with
  | 4 => d.fadd Reg.FTL_RD_REBUILD Fld.FTL_RD_REBUILD_PIECES n
  | 5 => d.fadd Reg.FTL_RD_UNREC Fld.FTL_RD_UNREC_PIECES n
  | _ => d

/-- The record of a read that needed more than step 1: severity 0, or 1 when the piece is lost. What its ADDRESS and DETAIL hold is not in
the spec: free values (log entry 50). -/
def logRead (d : Dev) (die step : Nat) : Dev :=
  if step < 2 then d
  else
    let (a, d) := d.draw
    let (b, d) := d.draw
    d.logError (srcChannel (die / 4)) 0x40 (0x030E + step) (if step = 5 then 1 else 0) 0 (srcChannel (die / 4)) none a.toNat b.toNat
      0xFFFFFFFF

/-- Page reads of a block group, and the rewrite that read disturb asks for (R391). -/
def addReads (d : Dev) (die b n : Nat) : Dev :=
  let key := 2048 * die + b
  let d := d.modBg key fun x => { x with reads := x.reads + n }
  if 200000 ≤ (d.bg key).reads && (d.mappedAt fun l => l.die = die && l.bg = b) ≠ [] then d.scheduleRewrite die b true else d

/-- A die whose reads needed more than 32 rebuilds in 24 hours is retired (R392). -/
def noteRebuild (d : Dev) (k j : Nat) : Dev :=
  let now := d.time.ns
  let d := d.modDie k j fun x => { x with rebuilds := (x.rebuilds.filter fun t => now - t < 86400000000000) ++ [now] }
  if 32 < (d.die k j).rebuilds.length then d.retireDie (32 * k + j) else d

/-- The bits above which a hard decode asks for a rewrite: REWRITE_BITS of the namespace (R377, R391). -/
def rewriteBits (d : Dev) (ns : Nat) : Nat := match d.nsDef ns with
  | some n => n.rewriteBits
  | none => 2 ^ 16

/-- What every read of a place does to the media: disturb, corrected bits, recovery, retirement. -/
def readEffects (d : Dev) (k j : Nat) (o : DieOp) (step bits n : Nat) (tried : Bool) : Dev :=
  let die := 32 * k + j
  let l := placeOf o.generation
  let d := (d.countSteps tried step n).logRead die step
  let d := if tried then d.addReads die l.bg (ceilDiv n 4) else d
  let others := ((d.sb l.group l.bg).members.filter fun m => m ≠ l.member && d.dieOk (dieOf l.group m))
  let d := if 4 ≤ step then others.foldl (fun d m =>
      (d.fadd (Reg.KERB_CH_PIECES (kerbOf l.group m) (localDie l.group / 4)) Fld.KERB_CH_PIECES_PIECES n).addReads (dieOf l.group m) l.bg
        (ceilDiv n 4)) d
    else d
  let d := if tried && ((step = 1 && d.rewriteBits o.ns < bits) || 2 ≤ step) then d.scheduleRewrite die l.bg false else d
  if tried && 4 ≤ step then d.noteRebuild k j else d

/-! The readers. -/

/-- Is a read of the mapping that its reader sees now: the present entry, or the earlier one that a query still sees? -/
def isFresh (d : Dev) (o : DieOp) : Bool :=
  let u := d.unitOf o.ns o.piece
  (match d.mapOf o.ns u with
    | some l => d.generationAt o.ns l = o.generation
    | none => false) ||
  d.media.stale.any fun s => s.ns = o.ns && s.unit = u && (match s.loc with
    | some l => d.generationAt o.ns l = o.generation
    | none => false)

/-- A command whose read stayed unreadable ends (R381, R356). -/
def hostUnread (d : Dev) (tag : Nat) : Dev :=
  let q := tag / 65536
  let cid := tag % 65536
  let d := d.forgetReads tag
  match d.inflightOf q cid with
  | none => d
  | some x =>
    match x.command with
    | .allocate h .. | .copyIn h .. | .copyOut h .. => d.endCopy x h .unrecoveredReadError
    | c => match hdrOf c with
      | some h => d.refuse c h .unrecoveredReadError
      | none => d

/-- The reads of a command have all ended: it runs. -/
def hostReady (d : Dev) (tag : Nat) : Dev :=
  if d.awaitsReads tag then d
  else match d.inflightOf (tag / 65536) (tag % 65536) with
    | some x => d.hostBody x.command true
    | none => d

/-- What a read that ended is for. -/
def deliver (d : Dev) (o : DieOp) (bad : Bool) : Dev :=
  match o.purpose with
  | .hostRead tag => if bad then d.hostUnread tag else d.hostReady tag
  | .head b => d.blockRead b o bad
  | .high b => d.blockRead b o bad
  | .side b _ => d.blockRead b o bad
  | .low b _ => d.blockRead b o bad
  | .record b _ => d.blockRead b o bad
  | .text i _ => d.textRead i bad
  | .gather b seq => d.gatherRead b seq bad
  | .passage i turn => d.passageRead i turn o.ns o.piece bad
  | .relocate u =>
    let l := placeOf o.generation
    (if bad then d else d.putUnits [ProgUnit.mk o.ns u l (some l) none]).checkErasures
  | _ => d

/-- A piece arrives: one whose mapping generation has changed since is discarded, counted and read again (R224, R226). -/
def arrives (d : Dev) (k : Nat) (o : DieOp) (bad : Bool) : Dev :=
  let relocation := match o.purpose with
    | .relocate _ => true
    | _ => false
  if relocation || (d.isFresh o && !o.dropped) then
    let d := if o.cacheable && !bad then d.cachePut k o.ns o.piece o.generation (o.cls = .speculative) else d
    d.deliver o bad
  else
    let d := d.fadd (Reg.KERB_CACHE k) Fld.KERB_CACHE_STALE_DROPS 1
    match o.purpose, d.mapOf o.ns (d.unitOf o.ns o.piece) with
    | .speculate, _ => if o.cls = .speculative then d.fadd (Reg.KERB_SPEC_WASTED k) Fld.KERB_SPEC_WASTED_READS 1 else d
    | _, some l => d.enqueueAt l { o with generation := if o.dropped && d.isFresh o then o.generation else d.generationAt o.ns l, dropped := false }
    | _, none => d.deliver o false

end Dev

/-- A die's read ends: the step of R390 that decoded it (5: none), and the bits that a hard decode corrected. A step above 5 says that the die
did not answer, even after a reset of its channel: it is retired (R392), and the piece is rebuilt (DESIGN CHOICE, log entry 32). -/
def flashPieceReadDone (d : Dev) (k j step0 bits : Nat) : Dev :=
  if 48 ≤ k || 32 ≤ j then d
  else match (d.die k j).busy with
    | none => d
    | some o =>
      if o.kind != .read then d
      else
        let die := 32 * k + j
        let d := if 5 < step0 then d.retireDie die else d
        let tried := d.dieOk die && d.kerbOnline k
        let step := d.readStep k die (if 5 < step0 then 4 else max 1 step0) (Dev.placeOf o.generation)
        let n := match o.purpose with
          | .high _ => 16
          | .relocate _ => if d.corpus o.ns then 16 else 1
          | _ => 1
        let d := d.modDie k j fun x => { x with busy := none }
        let d := if tried then d.fadd (Reg.KERB_CH_PIECES k (j / 4)) Fld.KERB_CH_PIECES_PIECES n else d
        let d := d.readEffects k j o step bits n tried
        (d.arrives k o (step = 5)).issue k j

def execFlashPieceReadDone (kerb die step correctedBits : Nat) (s : State) : Host.Outcome State Fault Refusal :=
  effect (fun d => flashPieceReadDone d kerb die step correctedBits) s

end Sys2Proof.Machine
end

