-- ==== Sys2Proof/Machine/Monitor.lean ====
section
/-! DEFINITION. The Drumbinu monitor (R538, R539, R558 to R560), and the rows of the register operations, which come from a host or from
the monitor. -/

namespace Sys2Proof.Machine

/-! The STATUS of a response (R558). -/

def monOk : Nat := 0
def monLevel : Nat := 1
def monInvalid : Nat := 2
def monLocked : Nat := 4
def monFailed : Nat := 6

namespace Dev

/-- ROM recovery: start-up has stopped in phase 2 (R516). -/
def romRecovery (d : Dev) : Bool := d.fget Reg.DEV_BOOT Fld.DEV_BOOT_PHASE = 2

/-- The monitor answers once a Square serves it: not before phase 2, not without a Square, not after a hold-up flush and not within
reset M. -/
def monitorUp (d : Dev) : Bool :=
  decide (2 ≤ d.fget Reg.DEV_BOOT Fld.DEV_BOOT_PHASE) && d.contain.shutdown ≠ 6 && !d.media.down && !d.pins.resetM

/-- A request is being served: its snapshot is not whole yet. -/
def monitorBusy (d : Dev) : Bool :=
  (match d.trace.standstill with
    | some s => s.request.isSome
    | none => false) || d.trace.snapshotWaiting.any fun c => match c with
      | .monitorSnapshot .. => true
      | _ => false

/-- A lockout lasts (R539). -/
def monitorLocked (d : Dev) : Bool := decide (d.time.ns < d.sec.lockUntil)

/-- A request of the monitor: discarded while another is served, answered again for a repeated SEQ, and refused above the session's
level, during a lockout, or in ROM recovery where it is not served there (R559, R560; DEDUCED, log entry 53). -/
def request (d : Dev) (type seq level : Nat) (rom : Bool) (f : Dev → Dev) : Dev :=
  if !d.monitorUp || d.monitorBusy then d
  else
    let d := { d with mon := { d.mon with newBaud := false } }
    match d.mon.lastSeq, d.mon.lastFrame with
    | some n, some frame =>
      if n = seq then d.emit frame
      else if d.romRecovery && !rom then d.reply type seq monInvalid []
      else if 0 < level && d.monitorLocked then d.reply type seq monLocked []
      else if d.sec.level < level then d.reply type seq monLevel []
      else f d
    | _, _ =>
      if d.romRecovery && !rom then d.reply type seq monInvalid []
      else if 0 < level && d.monitorLocked then d.reply type seq monLocked []
      else if d.sec.level < level then d.reply type seq monLevel []
      else f d

/-- What a read of a register by its address returns, with nothing cleared. -/
def look (d : Dev) (a : Nat) : Nat := match findReg a with
  | some (r, ix) => d.peek r ix a
  | none => 0

/-! Sessions. -/

/-- HELLO. The widths of its answer's parts are a DESIGN CHOICE (log entry 53). -/
def answerHello (d : Dev) (seq : Nat) : Dev :=
  d.reply 0x01 seq monOk (toLE 8 (d.look Reg.DEV_ID) ++ toLE 8 (d.look Reg.DEV_SQ) ++ toLE 1 d.sec.level ++ toLE 8 d.time.ns ++
    toLE 4 65536)

/-- CHALLENGE: 32 bytes of the DRBG. -/
def answerChallenge (d : Dev) (seq : Nat) : Dev :=
  let (c, d) := d.freeBytes 32
  ({ d with sec := { d.sec with challenge := some c } } : Dev).reply 0x02 seq monOk c

/-- The session's level changes. -/
def setLevel (d : Dev) (level ending : Nat) : Dev :=
  { d with sec := { d.sec with level := level, sessionEnd := ending } }

/-- A failed response (R539): the eighth in a row locks the monitor for 60 s, each further one for twice as long, up to 3,600 s. -/
def responseFails (d : Dev) (seq : Nat) : Dev :=
  let a := Reg.SEC_MON
  let d := d.fadd a Fld.SEC_MON_FAILS 1
  let n := d.fget a Fld.SEC_MON_FAILS
  let d := if n < 8 then d
    else
      let s := min 3600 (60 * 2 ^ min 6 (n - 8))
      { d with sec := { d.sec with lockUntil := d.time.ns + s * 1000000000, lockSeconds := s } }
  d.reply 0x03 seq monFailed []

/-- RESPOND (R539): the signature over the challenge, IDENTITY_HASH, LEVEL and DURATION_S. A challenge serves one response (DEDUCED, log
entry 53). A session above level 0 is measured under register 5 (R531). -/
def answerRespond (d : Dev) (seq slot level duration : Nat) (signature : List Byte) : Dev :=
  if d.monitorLocked then d.reply 0x03 seq monLocked []
  else match d.sec.challenge with
    | none => d.reply 0x03 seq monInvalid []
    | some c =>
      if level = 0 || 2 < level || duration = 0 || 86400 < duration || signature.length ≠ 7856 then d.reply 0x03 seq monInvalid []
      else
        let d := { d with sec := { d.sec with challenge := none } }
        let message := c ++ toLE 32 (sha256 Config.identityKey) ++ toLE 1 level ++ toLE 3 0 ++ toLE 4 duration
        let good := match d.keyAt slot with
          | some k => !k.revoked && bits k.kinds 4 1 = 1 && !(d.romRecovery && decide (2 ≤ slot)) &&
              Config.slhVerify k.key message signature
          | none => false
        if !good then d.responseFails seq
        else
          let d := (d.setReg Reg.SEC_MON (setBits (d.reg Reg.SEC_MON) 8 8 0)).setLevel level (d.time.ns + duration * 1000000000)
          let (x, d) := d.freeDigest
          (d.measure 5 x).reply 0x03 seq monOk (toLE 1 level)

/-- SET_BAUD: the answer is sent at the old rate. -/
def answerBaud (d : Dev) (seq rate : Nat) : Dev :=
  if [115200, 230400, 460800, 921600, 1500000, 3000000].contains rate then
    let d := d.reply 0x05 seq monOk []
    { d with mon := { d.mon with baud := rate, newBaud := true } }
  else d.reply 0x05 seq monInvalid []

/-! Registers and memory. -/

def answerRead (d : Dev) (seq a count bytes : Nat) (keep : Bool) : Dev :=
  if count = 0 || 8192 < count || !(bytes = 4 || bytes = 8) then d.reply 0x10 seq monInvalid []
  else match d.readRegs .monitor a bytes count keep with
    | .error _ => d.reply 0x10 seq monInvalid []
    | .ok (vs, d) => d.reply 0x10 seq monOk (vs.flatMap (toLE bytes))

/-- A register write of the monitor. One that starts a failover receives no answer (R559). -/
def answerWrite (d : Dev) (seq a bytes v : Nat) : Dev :=
  match d.writeReg .monitor a bytes v with
  | .error _ => d.reply 0x11 seq monInvalid []
  | .ok x => if x.squares.activeB = d.squares.activeB then x.reply 0x11 seq monOk [] else x

/-- Bytes in the tiers that the monitor names: 2 T0, 3 T1, 0 block memory. -/
def tierBytes : Nat → Nat
  | 0 => 2 ^ 23
  | 2 => 768 * 2 ^ 30
  | 3 => 4096 * 2 ^ 30
  | _ => 0

/-- The first global region of a tier (R483). -/
def tierRegion (tier : Nat) : Nat := if tier = 2 then 0 else 768

/-- Does a range of a tier, or of a block's memory, exist? The monitor names a block by its scope index (DEDUCED, log entry 53). -/
def memoryOk (tier block a n : Nat) : Bool :=
  decide (n ≤ 65536) && decide (a + n ≤ tierBytes tier) && (if tier = 0 then decide (block < 288) else block = 0)

/-- One byte of T0 or T1: of the object that lies there, or a free value where the model keeps no contents. -/
def tierByte (d : Dev) (tier a : Nat) : Byte × Dev :=
  match d.objectAt (tierRegion tier + a / 2 ^ 30) (a % 2 ^ 30) with
  | some (i, o) => (Mem.read d.objMem (2 ^ 36 * i + o), d)
  | none =>
    let (x, d) := d.draw
    (BitVec.ofNat 8 (x.toNat % 256), d)

def answerPeek (d : Dev) (seq tier block a n : Nat) : Dev :=
  if !memoryOk tier block a n then d.reply 0x12 seq monInvalid []
  else if tier = 0 then d.reply 0x12 seq monOk (d.loadBm block a n)
  else
    let (bytes, d) := (List.range n).foldl (fun (acc : List Byte × Dev) i =>
      let (x, d) := acc.2.tierByte tier (a + i)
      (acc.1 ++ [x], d)) ([], d)
    d.reply 0x12 seq monOk bytes

def answerPoke (d : Dev) (seq tier block a : Nat) (data : List Byte) : Dev :=
  if !memoryOk tier block a data.length then d.reply 0x13 seq monInvalid []
  else if tier = 0 then (d.storeBm block a data).reply 0x13 seq monOk []
  else
    let d := data.zipIdx.foldl (fun d (x, i) =>
      match d.objectAt (tierRegion tier + (a + i) / 2 ^ 30) ((a + i) % 2 ^ 30) with
      | some (j, o) => d.storeObj j o [x]
      | none => d) d
    d.reply 0x13 seq monOk []

/-! Counters, trace, plan. -/

/-- COUNTERS: the section of a block or a Kerb. -/
def answerCounters (d : Dev) (seq unit : Nat) : Dev :=
  if (unit / 4096 = 1 && unit % 4096 < 288) || (unit / 4096 = 2 && unit % 4096 < 48) then
    let (kind, d) := d.freeKind
    d.reply 0x20 seq monOk (d.counterSection unit kind)
  else d.reply 0x20 seq monInvalid []

/-- SNAPSHOT of the monitor: OFFSET 0 takes a new one, which waits for the one in progress (R556). -/
def answerSnapshot (d : Dev) (seq kind offset : Nat) : Dev :=
  if (snapshotMin kind).isNone then d.reply 0x21 seq monInvalid []
  else if offset ≠ 0 then d.replyPart seq offset
  else d.askSnapshot (.monitorSnapshot seq kind offset)

/-- TRACE_CTL: the three registers in turn, up to the first that refuses its value (DEDUCED, log entry 53). -/
def answerTraceCtl (d : Dev) (seq ctl cls trig : Nat) : Dev :=
  match d.writeReg .monitor Reg.TRC_CTL 4 ctl with
  | .error _ => d.reply 0x30 seq monInvalid []
  | .ok d => match d.writeReg .monitor Reg.TRC_CLASS 4 cls with
    | .error _ => d.reply 0x30 seq monInvalid []
    | .ok d => match d.writeReg .monitor Reg.TRC_TRIG 8 trig with
      | .error _ => d.reply 0x30 seq monInvalid []
      | .ok d => d.reply 0x30 seq monOk []

def answerTraceRead (d : Dev) (seq : Nat) : Dev :=
  let (bytes, d) := d.traceRead 65536
  d.reply 0x31 seq monOk bytes

/-- PLAN_STATE: the PLAN_ registers in the order of R65, then the annotation records, whose layout is not in the spec: 16 free bytes each
(log entry 53). -/
def answerPlan (d : Dev) (seq : Nat) : Dev :=
  let one (r : RegRow) (a : Nat) : List Byte := toLE r.bytes (d.look a)
  let regs := regRowsPlan.flatMap fun r => match r.dims with
    | [(n, stride)] => (List.range n).flatMap fun i => one r (r.base + stride * i)
    | _ => one r r.base
  let (notes, d) := d.freeBytes (16 * d.plan.annotations.length)
  d.reply 0x40 seq monOk (regs ++ notes)

/-! Resets, failover, recovery. -/

/-- RESET of the monitor (R518): a unit that does not exist, or that has no such reset, is answered INVALID. -/
def monitorReset (d : Dev) (letter : Char) (i : Nat) : Option Dev :=
  match letter with
  | 'A' => if i = 0 then some (d.computeAbort [] d.srcSquare) else none
  | 'B' => if i < 288 && (d.logicalOf i).isSome && !d.quarantined (i / 72) then some (d.resetB i) else none
  | 'K' => if i < 48 then some (if d.kerbTesting i then d.mergeReset 'K' i else d.kerbReset i) else none
  | 'G' => if i < 2 then some (d.gateReset i) else none
  | 'Q' => if i < 4 && !d.quarantined i then some (d.resetQ i 1) else none
  | 'D' => if i = 0 then some (d.resetD 2) else none
  | _ => none

def answerReset (d : Dev) (seq : Nat) (letter : Char) (i : Nat) : Dev :=
  match d.monitorReset letter i with
  | some d => d.reply 0x50 seq monOk []
  | none => d.reply 0x50 seq monInvalid []

/-- FAILOVER of the monitor (R505): without a standby it fails; with one, the request receives no answer (R559). -/
def answerFailover (d : Dev) (seq : Nat) : Dev := if d.standby.isNone then d.reply 0x51 seq monFailed [] else d.failover 5

/-- Reset C begins: nothing serves until COLD_START carries out start-up with what discovery finds (log entry 52). -/
def beginC (d : Dev) : Dev :=
  let d := { d with pins := { d.pins with ppsHeld := true }, squares := { d.squares with powered := false } }
  (d.closeGates.fset Reg.DEV_BOOT Fld.DEV_BOOT_PHASE 1).foff Reg.FTL_STAT Fld.FTL_STAT_READY

/-- IMAGE_DOWNLOAD, in ROM recovery (R516, R538): the last piece is verified, stored in slot 1 of each Square, and followed by reset C. -/
def answerImage (d : Dev) (seq offset : Nat) (last : Bool) (data : List Byte) : Dev :=
  if !d.romRecovery || 2 ^ 22 < offset + data.length then d.reply 0x60 seq monInvalid []
  else
    let old := if data.isEmpty then d.mon.image else d.mon.image ++ List.replicate (offset - d.mon.image.length) 0
    let b := overlay old offset data
    if !last then ({ d with mon := { d.mon with image := b } } : Dev).reply 0x60 seq monOk []
    else
      let d := { d with mon := { d.mon with image := [] } }
      match headerCheck d [1] (2 ^ 22) b with
      | .error r => (d.imageFails r.1).reply 0x60 seq monFailed []
      | .ok _ =>
        let (version, d) := d.draw
        let (mirror, d) := d.draw
        let f : FwSlot := ⟨version.toNat % 2 ^ 32, fieldLE b 0x18 4, mirror.toNat % 2 ^ 32, fieldLE b (b.length - 7872) 2, sha256 b⟩
        let o := d.squares.nextObject
        let d := d.killSectors fun x => x.kind = 1
        let d := (List.range (sectorsFor b.length)).foldl (fun d _ => (d.appendSector 0 (1, o)).appendSector 1 (1, o)) d
        let sq := { d.squares with fw := AMap.put d.squares.fw 1 f, fwNext := 1, nextObject := o + 1 }
        (({ d with squares := sq } : Dev).reply 0x60 seq monOk []).beginC

end Dev

/-! Meanings. -/

/-- BAUD_REVERT: no valid frame came at a new rate within 5 s (R560). -/
def baudRevert (d : Dev) : Dev :=
  if d.mon.newBaud then { d with mon := { d.mon with baud := 115200, newBaud := false } } else d

/-- A lockout runs out (R539). -/
def lockoutExpiry (d : Dev) : Dev :=
  if d.sec.lockUntil = 0 then d
  else
    let d := d.reach d.sec.lockUntil
    { d with sec := { d.sec with lockUntil := 0 } }

/-- A session's duration elapses (R539). -/
def sessionExpiry (d : Dev) : Dev := if d.sec.level = 0 then d else (d.reach d.sec.sessionEnd).setLevel 0 0

/-- A row of the register operations: a host's command, or a REG_READ or REG_WRITE of the monitor. -/
def registerRow (d : Dev) (c : Instr) : Dev :=
  match accessOf d c with
  | some (.host _, _) => d.arrive c
  | some (.monitor seq, .write a bytes v) => d.request 0x11 seq 1 false fun d => d.answerWrite seq a bytes v
  | some (.monitor seq, .read a bytes count) => d.request 0x10 seq 0 false fun d => d.answerRead seq a count bytes false
  | none => d

def execHello (seq : Nat) (s : State) : Host.Outcome State Fault Refusal :=
  effect (fun d => d.request 0x01 seq 0 true fun d => d.answerHello seq) s
def execChallenge (seq : Nat) (s : State) : Host.Outcome State Fault Refusal :=
  effect (fun d => d.request 0x02 seq 0 true fun d => d.answerChallenge seq) s
def execRespond (seq slot level duration : Nat) (signature : List Byte) (s : State) : Host.Outcome State Fault Refusal :=
  effect (fun d => d.request 0x03 seq 0 true fun d => d.answerRespond seq slot level duration signature) s
def execLogout (seq : Nat) (s : State) : Host.Outcome State Fault Refusal :=
  effect (fun d => d.request 0x04 seq 0 true fun d => (d.setLevel 0 0).reply 0x04 seq monOk []) s
def execSetBaud (seq rate : Nat) (s : State) : Host.Outcome State Fault Refusal :=
  effect (fun d => d.request 0x05 seq 0 true fun d => d.answerBaud seq rate) s
def execBaudRevert (s : State) : Host.Outcome State Fault Refusal := effect (fun d => baudRevert d) s
def execRegRead (seq address count bytes : Nat) (noClear : Bool) (s : State) : Host.Outcome State Fault Refusal :=
  effect (fun d => d.request 0x10 seq 0 false fun d => d.answerRead seq address count bytes noClear) s
def execRegWrite (seq address bytes value : Nat) (s : State) : Host.Outcome State Fault Refusal :=
  effect (fun d => d.request 0x11 seq 1 false fun d => d.answerWrite seq address bytes value) s
def execMemPeek (seq tier block address length : Nat) (s : State) : Host.Outcome State Fault Refusal :=
  effect (fun d => d.request 0x12 seq 2 false fun d => d.answerPeek seq tier block address length) s
def execMemPoke (seq tier block address : Nat) (data : List Byte) (s : State) : Host.Outcome State Fault Refusal :=
  effect (fun d => d.request 0x13 seq 2 false fun d => d.answerPoke seq tier block address data) s
def execCounters (seq unit : Nat) (s : State) : Host.Outcome State Fault Refusal :=
  effect (fun d => d.request 0x20 seq 0 false fun d => d.answerCounters seq unit) s
def execMonitorSnapshot (seq kind offset : Nat) (s : State) : Host.Outcome State Fault Refusal :=
  effect (fun d => d.request 0x21 seq 1 false fun d => d.answerSnapshot seq kind offset) s
def execTraceCtl (seq ctl cls trig : Nat) (s : State) : Host.Outcome State Fault Refusal :=
  effect (fun d => d.request 0x30 seq 1 false fun d => d.answerTraceCtl seq ctl cls trig) s
def execTraceRead (seq : Nat) (s : State) : Host.Outcome State Fault Refusal :=
  effect (fun d => d.request 0x31 seq 1 false fun d => d.answerTraceRead seq) s
def execPlanState (seq : Nat) (s : State) : Host.Outcome State Fault Refusal :=
  effect (fun d => d.request 0x40 seq 0 false fun d => d.answerPlan seq) s
def execMonitorReset (seq : Nat) (letter : Char) (index : Nat) (s : State) : Host.Outcome State Fault Refusal :=
  effect (fun d => d.request 0x50 seq 1 false fun d => d.answerReset seq letter index) s
def execMonitorFailover (seq : Nat) (s : State) : Host.Outcome State Fault Refusal :=
  effect (fun d => d.request 0x51 seq 2 false fun d => d.answerFailover seq) s
def execImageDownload (seq offset : Nat) (last : Bool) (data : List Byte) (s : State) : Host.Outcome State Fault Refusal :=
  effect (fun d => d.request 0x60 seq 2 true fun d => d.answerImage seq offset last data) s
/-- A bad frame is discarded without response (R559). -/
def execMonitorBadFrame (s : State) : Host.Outcome State Fault Refusal := effect (fun d => d) s
def execMonitorLockoutExpiry (s : State) : Host.Outcome State Fault Refusal := effect (fun d => lockoutExpiry d) s
def execSessionExpiry (s : State) : Host.Outcome State Fault Refusal := effect (fun d => sessionExpiry d) s

/-! The register operations. -/

def execAbandon (r : Requester) (slot : Nat) (s : State) : Host.Outcome State Fault Refusal :=
  effect (fun d => registerRow d (.abandon r slot)) s
def execCellInject (r : Requester) (block cell target : Nat) (s : State) : Host.Outcome State Fault Refusal :=
  effect (fun d => registerRow d (.cellInject r block cell target)) s
def execEccInject (r : Requester) (block : Nat) (s : State) : Host.Outcome State Fault Refusal :=
  effect (fun d => registerRow d (.eccInject r block)) s
def execKerbInject (r : Requester) (kerb : Nat) (s : State) : Host.Outcome State Fault Refusal :=
  effect (fun d => registerRow d (.kerbInject r kerb)) s
def execBlkCountClear (r : Requester) (block : Nat) (s : State) : Host.Outcome State Fault Refusal :=
  effect (fun d => registerRow d (.blkCountClear r block)) s
def execKerbCountClear (r : Requester) (kerb : Nat) (s : State) : Host.Outcome State Fault Refusal :=
  effect (fun d => registerRow d (.kerbCountClear r kerb)) s
def execCacheDrop (r : Requester) (kerb : Nat) (s : State) : Host.Outcome State Fault Refusal :=
  effect (fun d => registerRow d (.cacheDrop r kerb)) s
def execKerbCtlReset (r : Requester) (kerb : Nat) (s : State) : Host.Outcome State Fault Refusal :=
  effect (fun d => registerRow d (.kerbCtlReset r kerb)) s
def execFtlCountClear (r : Requester) (s : State) : Host.Outcome State Fault Refusal :=
  effect (fun d => registerRow d (.ftlCountClear r)) s
def execReclaimHold (r : Requester) (on : Bool) (s : State) : Host.Outcome State Fault Refusal :=
  effect (fun d => registerRow d (.reclaimHold r on)) s
def execHifCountClear (r : Requester) (s : State) : Host.Outcome State Fault Refusal :=
  effect (fun d => registerRow d (.hifCountClear r)) s
def execPortReset (r : Requester) (port : Nat) (s : State) : Host.Outcome State Fault Refusal :=
  effect (fun d => registerRow d (.portReset r port)) s
def execPwrCountClear (r : Requester) (s : State) : Host.Outcome State Fault Refusal :=
  effect (fun d => registerRow d (.pwrCountClear r)) s
def execLoopsFreeze (r : Requester) (on : Bool) (s : State) : Host.Outcome State Fault Refusal :=
  effect (fun d => registerRow d (.loopsFreeze r on)) s
def execSecCountClear (r : Requester) (s : State) : Host.Outcome State Fault Refusal :=
  effect (fun d => registerRow d (.secCountClear r)) s
def execFailover (r : Requester) (s : State) : Host.Outcome State Fault Refusal :=
  effect (fun d => registerRow d (.failover r)) s
def execDeviceReset (r : Requester) (s : State) : Host.Outcome State Fault Refusal :=
  effect (fun d => registerRow d (.deviceReset r)) s
def execQuarterReset (r : Requester) (quarter : Nat) (s : State) : Host.Outcome State Fault Refusal :=
  effect (fun d => registerRow d (.quarterReset r quarter)) s
def execBlockReset (r : Requester) (block : Nat) (s : State) : Host.Outcome State Fault Refusal :=
  effect (fun d => registerRow d (.blockReset r block)) s
def execForceHoldover (r : Requester) (on : Bool) (s : State) : Host.Outcome State Fault Refusal :=
  effect (fun d => registerRow d (.forceHoldover r on)) s
def execPpsOut (r : Requester) (on : Bool) (s : State) : Host.Outcome State Fault Refusal :=
  effect (fun d => registerRow d (.ppsOut r on)) s
def execTimeSet (r : Requester) (ns : Nat) (s : State) : Host.Outcome State Fault Refusal :=
  effect (fun d => registerRow d (.timeSet r ns)) s
def execTraceMode (r : Requester) (mode : Nat) (s : State) : Host.Outcome State Fault Refusal :=
  effect (fun d => registerRow d (.traceMode r mode)) s
def execTraceEnable (r : Requester) (on : Bool) (s : State) : Host.Outcome State Fault Refusal :=
  effect (fun d => registerRow d (.traceEnable r on)) s
def execArm (r : Requester) (s : State) : Host.Outcome State Fault Refusal :=
  effect (fun d => registerRow d (.arm r)) s
def execTrigger (r : Requester) (s : State) : Host.Outcome State Fault Refusal :=
  effect (fun d => registerRow d (.trigger r)) s
def execTraceClear (r : Requester) (s : State) : Host.Outcome State Fault Refusal :=
  effect (fun d => registerRow d (.traceClear r)) s
def execCounterSample (r : Requester) (n : Nat) (s : State) : Host.Outcome State Fault Refusal :=
  effect (fun d => registerRow d (.counterSample r n)) s
def execLightValueWrite (r : Requester) (light value : Nat) (s : State) : Host.Outcome State Fault Refusal :=
  effect (fun d => registerRow d (.lightValueWrite r light value)) s
def execLightAddWrite (r : Requester) (light addend : Nat) (s : State) : Host.Outcome State Fault Refusal :=
  effect (fun d => registerRow d (.lightAddWrite r light addend)) s
def execLightOwnerWrite (r : Requester) (light owner : Nat) (clearSaturated : Bool) (s : State) : Host.Outcome State Fault Refusal :=
  effect (fun d => registerRow d (.lightOwnerWrite r light owner clearSaturated)) s
def execBmwinWrite (r : Requester) (block district base length : Nat) (s : State) : Host.Outcome State Fault Refusal :=
  effect (fun d => registerRow d (.bmwinWrite r block district base length)) s
def execFmtFlagsRead (r : Requester) (district : Nat) (s : State) : Host.Outcome State Fault Refusal :=
  effect (fun d => registerRow d (.fmtFlagsRead r district)) s
def execPlanErrRead (r : Requester) (s : State) : Host.Outcome State Fault Refusal :=
  effect (fun d => registerRow d (.planErrRead r)) s
def execRailPeakRead (r : Requester) (rail : Nat) (s : State) : Host.Outcome State Fault Refusal :=
  effect (fun d => registerRow d (.railPeakRead r rail)) s
def execTempMaxRead (r : Requester) (sensor : Nat) (s : State) : Host.Outcome State Fault Refusal :=
  effect (fun d => registerRow d (.tempMaxRead r sensor)) s

end Sys2Proof.Machine
end

