-- ==== Sys2Proof/Machine/Module.lean ====
section
/-! DEFINITION. The module's pins, its input power and its management bus (R398, R518, R564 to R571), and the programs that end a hold-up
flush. -/

namespace Sys2Proof.Machine

namespace Dev

/-! The hold-up flush (R398). -/

/-- What the dies do in a hold-up flush: erases and reads stop, suspended operations are abandoned, and programs go on in the FLUSH
class. -/
def flushDies (d : Dev) : Dev :=
  let keep (o : DieOp) : Option DieOp := if o.kind = .program then some { o with cls := .flush } else none
  { d with kerbs := d.kerbs.map (fun (k : Nat × Kerb) => (k.1, { k.2 with dies := k.2.dies.map (fun (x : Nat × Die) =>
      (x.1, { x.2 with busy := x.2.busy.bind keep, suspended := none, resume := false,
                       queue := (x.2.suspended.toList ++ x.2.queue).filterMap keep })) })) }

/-- The pages of MUTABLE rows that are not full become programs of the flush. -/
def flushPartials (d : Dev) : Dev :=
  let ps := d.media.partials
  let d := d.modMedia fun m => { m with partials := [] }
  ps.foldl (fun d p => match p.2 with
    | u :: us => d.addProgram ⟨u.loc.group, u.loc.member, u.loc.bg, u.loc.page, false, true, u :: us⟩ .flush
    | [] => d) d

/-- A hold-up flush ends once every program is done: the module stays down. A MOD_RESET_N that rose and fell within the flush is
logged (R567). -/
def flushCheck (d : Dev) : Dev :=
  let busy (d : Dev) : Bool := !(d.media.programs.isEmpty && d.media.partials.isEmpty)
  if !d.media.flushing || busy d then d
  else
    let d := d.flushParity
    if busy d then d
    else
      let d := d.endFlush.modMedia fun m => { m with flushing := false, down := true }
      match d.pins.resetDuringFlush with
      | none => d
      | some t =>
        let d := { d with pins := { d.pins with resetDuringFlush := none, resetM := d.pins.modResetLow } }
        if d.pins.modResetLow then d
        else d.logNotice 0x62 (toLE 1 0 ++ List.replicate 7 0 ++ toLE 8 t ++ List.replicate 16 0)

/-- The hold-up flush begins (R398): the Gates accept nothing further, the quarters and Gates lose their power, and the programs of the
protected buffer go on. One that follows a controlled shutdown repeats nothing (R498). -/
def holdupFlush (d : Dev) : Dev :=
  if d.media.flushing || d.media.down then d
  else
    let d := (d.logFault d.srcSquare 0x060A 3 0 0).abandonErases
    let d := d.foff Reg.FTL_STAT Fld.FTL_STAT_READY
    if d.contain.shutdown ≠ 0 then d.modMedia fun m => { m with down := true }
    else
      let d := d.dropSlots.closeGates
      let d := { d with kerbs := d.kerbs.map (fun (k : Nat × Kerb) => (k.1, { k.2 with qblocks := [] })) }
      let d := d.modMedia fun m => { m with acks := [], victims := [], rewrites := [], flushing := true }
      let d := d.flushDies.flushPartials.drainUnplaced
      d.issueAll.flushCheck

/-! Reset M (R518, R567). -/

/-- The flush of reset M, on main power. -/
def flushForM (d : Dev) : Dev :=
  let d := if d.contain.shutdown ≠ 0 || d.media.down then d else d.dropSlots.closeGates.flushMedia
  { d.foff Reg.FTL_STAT Fld.FTL_STAT_READY with pins := { d.pins with resetM := true, ppsHeld := true } }

end Dev

/-- MOD_RESET_N has been low for 1 ms: the flush of reset M runs at once, or waits for the end of a hold-up flush. -/
def modReset (d : Dev) : Dev :=
  if d.pins.modResetLow then d
  else
    let d := { d with pins := { d.pins with modResetLow := true } }
    if d.media.flushing then { d with pins := { d.pins with resetDuringFlush := some d.time.ns } } else d.flushForM

/-- MOD_RESET_N returns high: start-up begins, unless the hold-up flush still runs. After a hold-up flush the module restarts only with
VIN in its range and PF_WARN_N high (R569). -/
def modResetRelease (d : Dev) (f : Discovery) : Dev :=
  if !d.pins.modResetLow then d
  else
    let d := { d with pins := { d.pins with modResetLow := false } }
    if !d.pins.resetM then d
    else if d.pins.pfWarnLow || d.pins.vinOut then { d with pins := { d.pins with resetM := false } }
    else d.startUp 'M' 0 f

/-- PF_WARN_N is asserted, and released (R398). -/
def pfWarn (d : Dev) : Dev := ({ d with pins := { d.pins with pfWarnLow := true } } : Dev).holdupFlush
def pfWarnRelease (d : Dev) : Dev := { d with pins := { d.pins with pfWarnLow := false } }

/-- VIN leaves its limits (R568, R569): below, as PF_WARN_N; above, the input switch opens and the flush runs from the bank. -/
def vinUnder (d : Dev) : Dev := ({ d with pins := { d.pins with vinOut := true } } : Dev).holdupFlush
def vinOver (d : Dev) : Dev := ({ d with pins := { d.pins with vinOut := true } } : Dev).holdupFlush

/-- The NVMe-MI endpoint answers once phase 2 has ended, in ROM recovery and in a controlled shutdown (R566); not after a hold-up flush,
nor within reset M, nor without a Square. -/
def miAnswers (d : Dev) : Bool := d.monitorUp

/-- Its Configuration Set, opcode 0x03 (PRESUMED: the NVMe-MI specification, log entry 47), may set the Addressing of the ports (R405): which
setting it makes is a free value. An endpoint that answers has told the controller of its events: SMB_ALERT_N is released (R564). -/
def nvmeMiCommand (d : Dev) (opcode : Nat) : Dev :=
  let (x, e) := d.draw
  let d := if opcode = 3 && miAnswers d then { e with host := { e.host with addressing := some x.toNat } } else d
  let d := if miAnswers d then { d with pins := { d.pins with smbAlert := false } } else d
  d.emit (.mi opcode (!miAnswers d))

/-- The Reset command of NVMe-MI starts reset M (R566). Discovery finds what it found before (DESIGN CHOICE, log entry 52). -/
def nvmeMiReset (d : Dev) : Dev :=
  if !miAnswers d then d.emit (.mi 0x07 true)
  else if d.media.flushing then d.emit (.mi 0x07 false)
  else
    let f := d.foundBefore
    ((d.emit (.mi 0x07 false)).flushForM).startUp 'M' 1 f

def execNandProgramDone (kerb die : Nat) (verified : Bool) (s : State) : Host.Outcome State Fault Refusal :=
  effect (fun d => (nandProgramDone d kerb die verified).flushCheck) s
def execModReset (s : State) : Host.Outcome State Fault Refusal := effect (fun d => modReset d) s
def execModResetRelease (found : Discovery) (s : State) : Host.Outcome State Fault Refusal :=
  effect (fun d => modResetRelease d found) s
def execPfWarn (s : State) : Host.Outcome State Fault Refusal := effect (fun d => pfWarn d) s
def execPfWarnRelease (s : State) : Host.Outcome State Fault Refusal := effect (fun d => pfWarnRelease d) s
def execVinUnderVoltage (s : State) : Host.Outcome State Fault Refusal := effect (fun d => vinUnder d) s
def execVinOverVoltage (s : State) : Host.Outcome State Fault Refusal := effect (fun d => vinOver d) s
def execNvmeMiCommand (opcode : Nat) (s : State) : Host.Outcome State Fault Refusal := effect (fun d => nvmeMiCommand d opcode) s
def execNvmeMiReset (s : State) : Host.Outcome State Fault Refusal := effect (fun d => nvmeMiReset d) s

end Sys2Proof.Machine
end

