-- ==== Sys2Proof/Machine/Dispatch.lean ====
section
/-! DEFINITION. The meaning of each command: one arm for each constructor. -/

namespace Sys2Proof.Machine

def exec (i : Instr) (s : State) : Host.Outcome State Fault Refusal :=
  match i with
  | .flush h nsid => Sys2Proof.Machine.execFlush h nsid s
  | .write h nsid lba blocks data => Sys2Proof.Machine.execWrite h nsid lba blocks data s
  | .read h nsid lba blocks => Sys2Proof.Machine.execRead h nsid lba blocks s
  | .writeZeroes h nsid lba blocks => Sys2Proof.Machine.execWriteZeroes h nsid lba blocks s
  | .deallocate h nsid ranges => Sys2Proof.Machine.execDeallocate h nsid ranges s
  | .secureDeallocate h nsid ranges => Sys2Proof.Machine.execSecureDeallocate h nsid ranges s
  | .secureDeallocDrained erasure => Sys2Proof.Machine.execSecureDeallocDrained erasure s
  | .query h count data => Sys2Proof.Machine.execQuery h count data s
  | .payloadFetchDone query payload => Sys2Proof.Machine.execPayloadFetchDone query payload s
  | .ingest h nsid count vectorsGiven service textNsid data => Sys2Proof.Machine.execIngest h nsid count vectorsGiven service textNsid data s
  | .delete h nsid id gen secure textNsid textLba blocks => Sys2Proof.Machine.execDelete h nsid id gen secure textNsid textLba blocks s
  | .compute h block opCount listInT0 scaleHistory opList scaleState routeState pairGather bufferLength => Sys2Proof.Machine.execCompute h block opCount listInT0 scaleHistory opList scaleState routeState pairGather bufferLength s
  | .create h nsid data => Sys2Proof.Machine.execCreate h nsid data s
  | .seal h nsid version => Sys2Proof.Machine.execSeal h nsid version s
  | .switch h nsid version beat => Sys2Proof.Machine.execSwitch h nsid version beat s
  | .retire h nsid version => Sys2Proof.Machine.execRetire h nsid version s
  | .filterLoad h first count data => Sys2Proof.Machine.execFilterLoad h first count data s
  | .repair h nsid => Sys2Proof.Machine.execRepair h nsid s
  | .stats h nsid length => Sys2Proof.Machine.execStats h nsid length s
  | .allocate h descriptor source => Sys2Proof.Machine.execAllocate h descriptor source s
  | .release h descriptor => Sys2Proof.Machine.execRelease h descriptor s
  | .releaseComplete object => Sys2Proof.Machine.execReleaseComplete object s
  | .update h descriptor => Sys2Proof.Machine.execUpdate h descriptor s
  | .copyIn h descriptor source => Sys2Proof.Machine.execCopyIn h descriptor source s
  | .copyOut h descriptor => Sys2Proof.Machine.execCopyOut h descriptor s
  | .bind h descriptor => Sys2Proof.Machine.execBind h descriptor s
  | .unbind h descriptor => Sys2Proof.Machine.execUnbind h descriptor s
  | .report h length => Sys2Proof.Machine.execReport h length s
  | .registerRead h address count wide length => Sys2Proof.Machine.execRegisterRead h address count wide length s
  | .registerWrite h address wide value => Sys2Proof.Machine.execRegisterWrite h address wide value s
  | .getLogPage h page length => Sys2Proof.Machine.execGetLogPage h page length s
  | .identify h cns nsid => Sys2Proof.Machine.execIdentify h cns nsid s
  | .abort h sqid cid => Sys2Proof.Machine.execAbort h sqid cid s
  | .setFeatures h feature save dw11 rest => Sys2Proof.Machine.execSetFeatures h feature save dw11 rest s
  | .getFeatures h feature select dw11 => Sys2Proof.Machine.execGetFeatures h feature select dw11 s
  | .asynchronousEventRequest h => Sys2Proof.Machine.execAsynchronousEventRequest h s
  | .firmwareImageDownload h offset data => Sys2Proof.Machine.execFirmwareImageDownload h offset data s
  | .firmwareCommit h slot action => Sys2Proof.Machine.execFirmwareCommit h slot action s
  | .keepAlive h => Sys2Proof.Machine.execKeepAlive h s
  | .keepAliveExpiry assoc => Sys2Proof.Machine.execKeepAliveExpiry assoc s
  | .formatNvm h nsid lbaf ses => Sys2Proof.Machine.execFormatNvm h nsid lbaf ses s
  | .sanitize h action ause noDeallocate => Sys2Proof.Machine.execSanitize h action ause noDeallocate s
  | .connect h assoc qid port link rdma depth kato nqn mtu maxReads maxDepth => Sys2Proof.Machine.execConnect h assoc qid port link rdma depth kato nqn mtu maxReads maxDepth s
  | .propertyGet h offset wide => Sys2Proof.Machine.execPropertyGet h offset wide s
  | .propertySet h offset value => Sys2Proof.Machine.execPropertySet h offset value s
  | .disconnect h qid => Sys2Proof.Machine.execDisconnect h qid s
  | .planLoad h activate data => Sys2Proof.Machine.execPlanLoad h activate data s
  | .planDiscard h activate length => Sys2Proof.Machine.execPlanDiscard h activate length s
  | .apply h data => Sys2Proof.Machine.execApply h data s
  | .commit h => Sys2Proof.Machine.execCommit h s
  | .revert h => Sys2Proof.Machine.execRevert h s
  | .quiesceDrained slot => Sys2Proof.Machine.execQuiesceDrained slot s
  | .quiesceTimeout slot => Sys2Proof.Machine.execQuiesceTimeout slot s
  | .snapshot h kind length => Sys2Proof.Machine.execSnapshot h kind length s
  | .standstillLatch unitKind index => Sys2Proof.Machine.execStandstillLatch unitKind index s
  | .snapshotUnitTimeout unitKind index => Sys2Proof.Machine.execSnapshotUnitTimeout unitKind index s
  | .attest h nonce length => Sys2Proof.Machine.execAttest h nonce length s
  | .leaseLend h t0Gib t1Gib notice idle => Sys2Proof.Machine.execLeaseLend h t0Gib t1Gib notice idle s
  | .leasePeer h peer data => Sys2Proof.Machine.execLeasePeer h peer data s
  | .leaseAcquire h peer set tier gib => Sys2Proof.Machine.execLeaseAcquire h peer set tier gib s
  | .leaseAcquireTimeout lease => Sys2Proof.Machine.execLeaseAcquireTimeout lease s
  | .leaseReturn h lease => Sys2Proof.Machine.execLeaseReturn h lease s
  | .leaseRevoke h lease notice => Sys2Proof.Machine.execLeaseRevoke h lease notice s
  | .leaseStatus h length => Sys2Proof.Machine.execLeaseStatus h length s
  | .leaseNoticeReceived lease deadline => Sys2Proof.Machine.execLeaseNoticeReceived lease deadline s
  | .leaseDeadline lease => Sys2Proof.Machine.execLeaseDeadline lease s
  | .leaseIdleTimeout peer => Sys2Proof.Machine.execLeaseIdleTimeout peer s
  | .nvmeMiCommand opcode => Sys2Proof.Machine.execNvmeMiCommand opcode s
  | .hello seq => Sys2Proof.Machine.execHello seq s
  | .challenge seq => Sys2Proof.Machine.execChallenge seq s
  | .respond seq slot level duration signature => Sys2Proof.Machine.execRespond seq slot level duration signature s
  | .logout seq => Sys2Proof.Machine.execLogout seq s
  | .setBaud seq rate => Sys2Proof.Machine.execSetBaud seq rate s
  | .regRead seq address count bytes noClear => Sys2Proof.Machine.execRegRead seq address count bytes noClear s
  | .regWrite seq address bytes value => Sys2Proof.Machine.execRegWrite seq address bytes value s
  | .memPeek seq tier block address length => Sys2Proof.Machine.execMemPeek seq tier block address length s
  | .memPoke seq tier block address data => Sys2Proof.Machine.execMemPoke seq tier block address data s
  | .counters seq unit => Sys2Proof.Machine.execCounters seq unit s
  | .monitorSnapshot seq kind offset => Sys2Proof.Machine.execMonitorSnapshot seq kind offset s
  | .traceCtl seq ctl cls trig => Sys2Proof.Machine.execTraceCtl seq ctl cls trig s
  | .traceRead seq => Sys2Proof.Machine.execTraceRead seq s
  | .planState seq => Sys2Proof.Machine.execPlanState seq s
  | .monitorReset seq letter index => Sys2Proof.Machine.execMonitorReset seq letter index s
  | .monitorFailover seq => Sys2Proof.Machine.execMonitorFailover seq s
  | .imageDownload seq offset last data => Sys2Proof.Machine.execImageDownload seq offset last data s
  | .abandon r slot => Sys2Proof.Machine.execAbandon r slot s
  | .cellInject r block cell target => Sys2Proof.Machine.execCellInject r block cell target s
  | .eccInject r block => Sys2Proof.Machine.execEccInject r block s
  | .kerbInject r kerb => Sys2Proof.Machine.execKerbInject r kerb s
  | .blkCountClear r block => Sys2Proof.Machine.execBlkCountClear r block s
  | .kerbCountClear r kerb => Sys2Proof.Machine.execKerbCountClear r kerb s
  | .cacheDrop r kerb => Sys2Proof.Machine.execCacheDrop r kerb s
  | .kerbCtlReset r kerb => Sys2Proof.Machine.execKerbCtlReset r kerb s
  | .ftlCountClear r => Sys2Proof.Machine.execFtlCountClear r s
  | .reclaimHold r on => Sys2Proof.Machine.execReclaimHold r on s
  | .hifCountClear r => Sys2Proof.Machine.execHifCountClear r s
  | .portReset r port => Sys2Proof.Machine.execPortReset r port s
  | .pwrCountClear r => Sys2Proof.Machine.execPwrCountClear r s
  | .loopsFreeze r on => Sys2Proof.Machine.execLoopsFreeze r on s
  | .secCountClear r => Sys2Proof.Machine.execSecCountClear r s
  | .failover r => Sys2Proof.Machine.execFailover r s
  | .deviceReset r => Sys2Proof.Machine.execDeviceReset r s
  | .quarterReset r quarter => Sys2Proof.Machine.execQuarterReset r quarter s
  | .blockReset r block => Sys2Proof.Machine.execBlockReset r block s
  | .forceHoldover r on => Sys2Proof.Machine.execForceHoldover r on s
  | .ppsOut r on => Sys2Proof.Machine.execPpsOut r on s
  | .timeSet r ns => Sys2Proof.Machine.execTimeSet r ns s
  | .traceMode r mode => Sys2Proof.Machine.execTraceMode r mode s
  | .traceEnable r on => Sys2Proof.Machine.execTraceEnable r on s
  | .arm r => Sys2Proof.Machine.execArm r s
  | .trigger r => Sys2Proof.Machine.execTrigger r s
  | .traceClear r => Sys2Proof.Machine.execTraceClear r s
  | .counterSample r n => Sys2Proof.Machine.execCounterSample r n s
  | .lightValueWrite r light value => Sys2Proof.Machine.execLightValueWrite r light value s
  | .lightAddWrite r light addend => Sys2Proof.Machine.execLightAddWrite r light addend s
  | .lightOwnerWrite r light owner clearSaturated => Sys2Proof.Machine.execLightOwnerWrite r light owner clearSaturated s
  | .bmwinWrite r block district base length => Sys2Proof.Machine.execBmwinWrite r block district base length s
  | .fmtFlagsRead r district => Sys2Proof.Machine.execFmtFlagsRead r district s
  | .planErrRead r => Sys2Proof.Machine.execPlanErrRead r s
  | .railPeakRead r rail => Sys2Proof.Machine.execRailPeakRead r rail s
  | .tempMaxRead r sensor => Sys2Proof.Machine.execTempMaxRead r sensor s
  | .gateDispatch gate => Sys2Proof.Machine.execGateDispatch gate s
  | .rangeLockAcquire queue cid => Sys2Proof.Machine.execRangeLockAcquire queue cid s
  | .arrayMac block => Sys2Proof.Machine.execArrayMac block s
  | .arrayElemwise block => Sys2Proof.Machine.execArrayElemwise block s
  | .arrayL1 block => Sys2Proof.Machine.execArrayL1 block s
  | .arrayL2 block => Sys2Proof.Machine.execArrayL2 block s
  | .arrayHamming block => Sys2Proof.Machine.execArrayHamming block s
  | .arrayMin block => Sys2Proof.Machine.execArrayMin block s
  | .arrayMax block => Sys2Proof.Machine.execArrayMax block s
  | .vecAdd block => Sys2Proof.Machine.execVecAdd block s
  | .vecSub block => Sys2Proof.Machine.execVecSub block s
  | .vecMul block => Sys2Proof.Machine.execVecMul block s
  | .vecDiv block => Sys2Proof.Machine.execVecDiv block s
  | .vecFma block => Sys2Proof.Machine.execVecFma block s
  | .vecMin block => Sys2Proof.Machine.execVecMin block s
  | .vecMax block => Sys2Proof.Machine.execVecMax block s
  | .vecCvt block => Sys2Proof.Machine.execVecCvt block s
  | .vecQuant block => Sys2Proof.Machine.execVecQuant block s
  | .vecSel block => Sys2Proof.Machine.execVecSel block s
  | .vecRowsum block => Sys2Proof.Machine.execVecRowsum block s
  | .vecRowmax block => Sys2Proof.Machine.execVecRowmax block s
  | .vecSoftmax block => Sys2Proof.Machine.execVecSoftmax block s
  | .vecRowstats block => Sys2Proof.Machine.execVecRowstats block s
  | .vecMergestats block => Sys2Proof.Machine.execVecMergestats block s
  | .vecLayernorm block => Sys2Proof.Machine.execVecLayernorm block s
  | .vecRmsnorm block => Sys2Proof.Machine.execVecRmsnorm block s
  | .sfuFunction block => Sys2Proof.Machine.execSfuFunction block s
  | .sfuMicroProgram block => Sys2Proof.Machine.execSfuMicroProgram block s
  | .dmaOp block => Sys2Proof.Machine.execDmaOp block s
  | .dmaAsyncDone block => Sys2Proof.Machine.execDmaAsyncDone block s
  | .lightSet block => Sys2Proof.Machine.execLightSet block s
  | .lightAdd block => Sys2Proof.Machine.execLightAdd block s
  | .lightWait block slot => Sys2Proof.Machine.execLightWait block slot s
  | .lightExpiry block slot => Sys2Proof.Machine.execLightExpiry block slot s
  | .shadowLoadDone block => Sys2Proof.Machine.execShadowLoadDone block s
  | .pairGather block => Sys2Proof.Machine.execPairGather block s
  | .commandBoundary block => Sys2Proof.Machine.execCommandBoundary block s
  | .expertDispatch block => Sys2Proof.Machine.execExpertDispatch block s
  | .cellParityError block cell source entry column => Sys2Proof.Machine.execCellParityError block cell source entry column s
  | .spareSelfTestDone block passed => Sys2Proof.Machine.execSpareSelfTestDone block passed s
  | .blockMemoryUncorrectable block address => Sys2Proof.Machine.execBlockMemoryUncorrectable block address s
  | .sequencerWatchdog block => Sys2Proof.Machine.execSequencerWatchdog block s
  | .queueIntegrityError block => Sys2Proof.Machine.execQueueIntegrityError block s
  | .blockMemoryCorrected block address => Sys2Proof.Machine.execBlockMemoryCorrected block address s
  | .bucketLeak region => Sys2Proof.Machine.execBucketLeak region s
  | .queryBlockAdmit kerb qblock => Sys2Proof.Machine.execQueryBlockAdmit kerb qblock s
  | .suspendTimeout kerb die => Sys2Proof.Machine.execSuspendTimeout kerb die s
  | .flashPieceReadDone kerb die step correctedBits => Sys2Proof.Machine.execFlashPieceReadDone kerb die step correctedBits s
  | .thetaShare kerb => Sys2Proof.Machine.execThetaShare kerb s
  | .thetaReturn kerb query theta => Sys2Proof.Machine.execThetaReturn kerb query theta s
  | .nandProgramDone kerb die verified => Sys2Proof.Machine.execNandProgramDone kerb die verified s
  | .nandEraseDone kerb die verified => Sys2Proof.Machine.execNandEraseDone kerb die verified s
  | .mutableRowTimeout group => Sys2Proof.Machine.execMutableRowTimeout group s
  | .reclaimVictim group profile => Sys2Proof.Machine.execReclaimVictim group profile s
  | .kerbFault kerb cause location => Sys2Proof.Machine.execKerbFault kerb cause location s
  | .kerbResetDone kerb passed => Sys2Proof.Machine.execKerbResetDone kerb passed s
  | .linkError arcade unit => Sys2Proof.Machine.execLinkError arcade unit s
  | .sweepPassStart nsid => Sys2Proof.Machine.execSweepPassStart nsid s
  | .sweepPassEnd nsid => Sys2Proof.Machine.execSweepPassEnd nsid s
  | .repairBackground nsid => Sys2Proof.Machine.execRepairBackground nsid s
  | .stageRunDone query output => Sys2Proof.Machine.execStageRunDone query output s
  | .gateMerge query => Sys2Proof.Machine.execGateMerge query s
  | .rdmaWriteAck queue ack => Sys2Proof.Machine.execRdmaWriteAck queue ack s
  | .jobBatchStart job => Sys2Proof.Machine.execJobBatchStart job s
  | .jobBatchEnd job vectors => Sys2Proof.Machine.execJobBatchEnd job vectors s
  | .beatStart inputWatts railMicrojoules => Sys2Proof.Machine.execBeatStart inputWatts railMicrojoules s
  | .energyMeterInterval blockUj kerbUj stackUj arcadeUj other => Sys2Proof.Machine.execEnergyMeterInterval blockUj kerbUj stackUj arcadeUj other s
  | .objectMoveExtent object => Sys2Proof.Machine.execObjectMoveExtent object s
  | .patrolScrub region address found => Sys2Proof.Machine.execPatrolScrub region address found s
  | .stackReadUncorrectable stack channel address queue cid => Sys2Proof.Machine.execStackReadUncorrectable stack channel address queue cid s
  | .spareCopyDone stack => Sys2Proof.Machine.execSpareCopyDone stack s
  | .lpddrReadUncorrectable arcade address queue cid => Sys2Proof.Machine.execLpddrReadUncorrectable arcade address queue cid s
  | .avenueFlitCrc quarter retries failingLanes => Sys2Proof.Machine.execAvenueFlitCrc quarter retries failingLanes s
  | .routerUncorrectable quarter boulevardStop => Sys2Proof.Machine.execRouterUncorrectable quarter boulevardStop s
  | .boulevardCrc segment failingLanes => Sys2Proof.Machine.execBoulevardCrc segment failingLanes s
  | .arcadeFault arcade => Sys2Proof.Machine.execArcadeFault arcade s
  | .gateFault port => Sys2Proof.Machine.execGateFault port s
  | .linkTrainingDone port link media cableDm => Sys2Proof.Machine.execLinkTrainingDone port link media cableDm s
  | .ethernetUncorrectable port corrected => Sys2Proof.Machine.execEthernetUncorrectable port corrected s
  | .ecnCeReceived port qp => Sys2Proof.Machine.execEcnCeReceived port qp s
  | .cnpReceived port qp => Sys2Proof.Machine.execCnpReceived port qp s
  | .pfcFrameReceived port priority pause => Sys2Proof.Machine.execPfcFrameReceived port priority pause s
  | .ptpSync port offset => Sys2Proof.Machine.execPtpSync port offset s
  | .ppsInPulse offset intervalOk => Sys2Proof.Machine.execPpsInPulse offset intervalOk s
  | .backgroundSlotStart slot => Sys2Proof.Machine.execBackgroundSlotStart slot s
  | .backgroundSlotEnd slot => Sys2Proof.Machine.execBackgroundSlotEnd slot s
  | .quarterDvfs quarter temperature watts work => Sys2Proof.Machine.execQuarterDvfs quarter temperature watts work s
  | .readThreshold die offset marginMv => Sys2Proof.Machine.execReadThreshold die offset marginMv s
  | .widen usePercent => Sys2Proof.Machine.execWiden usePercent s
  | .stackRefresh stack => Sys2Proof.Machine.execStackRefresh stack s
  | .linkEq kind index overThreshold => Sys2Proof.Machine.execLinkEq kind index overThreshold s
  | .sensorSample sensor value current => Sys2Proof.Machine.execSensorSample sensor value current s
  | .thermalTrip sensor => Sys2Proof.Machine.execThermalTrip sensor s
  | .overCurrent rail => Sys2Proof.Machine.execOverCurrent rail s
  | .underVoltage rail => Sys2Proof.Machine.execUnderVoltage rail s
  | .protectionRelease loop unit => Sys2Proof.Machine.execProtectionRelease loop unit s
  | .overrideRampStep loop unit => Sys2Proof.Machine.execOverrideRampStep loop unit s
  | .protectionHoldTimeout loop unit => Sys2Proof.Machine.execProtectionHoldTimeout loop unit s
  | .configSectorEraseDone square verified => Sys2Proof.Machine.execConfigSectorEraseDone square verified s
  | .configEraseResume square => Sys2Proof.Machine.execConfigEraseResume square s
  | .configCopyForward square => Sys2Proof.Machine.execConfigCopyForward square s
  | .coldStart found => Sys2Proof.Machine.execColdStart found s
  | .modResetRelease found => Sys2Proof.Machine.execModResetRelease found s
  | .holdupBankTest microfarad => Sys2Proof.Machine.execHoldupBankTest microfarad s
  | .quarterResetDone quarter passed => Sys2Proof.Machine.execQuarterResetDone quarter passed s
  | .blockResetDone block passed => Sys2Proof.Machine.execBlockResetDone block passed s
  | .squareSelfTestDone passed => Sys2Proof.Machine.execSquareSelfTestDone passed s
  | .ptpAnnounce port clockClass stepsRemoved identity => Sys2Proof.Machine.execPtpAnnounce port clockClass stepsRemoved identity s
  | .peerLeaseMessage message => Sys2Proof.Machine.execPeerLeaseMessage message s
  | .ethernetLinkDown port link => Sys2Proof.Machine.execEthernetLinkDown port link s
  | .sanitizePhaseDone erased => Sys2Proof.Machine.execSanitizePhaseDone erased s
  | .t3BatchSend => Sys2Proof.Machine.execT3BatchSend s
  | .nvmeMiReset => Sys2Proof.Machine.execNvmeMiReset s
  | .baudRevert => Sys2Proof.Machine.execBaudRevert s
  | .monitorBadFrame => Sys2Proof.Machine.execMonitorBadFrame s
  | .monitorLockoutExpiry => Sys2Proof.Machine.execMonitorLockoutExpiry s
  | .sessionExpiry => Sys2Proof.Machine.execSessionExpiry s
  | .computeAbortEnd => Sys2Proof.Machine.execComputeAbortEnd s
  | .journalCheckpoint => Sys2Proof.Machine.execJournalCheckpoint s
  | .gatherWindowClose => Sys2Proof.Machine.execGatherWindowClose s
  | .sweepWindowClose => Sys2Proof.Machine.execSweepWindowClose s
  | .hotnessDecay => Sys2Proof.Machine.execHotnessDecay s
  | .powerStateTransition => Sys2Proof.Machine.execPowerStateTransition s
  | .apstIdleTimeout => Sys2Proof.Machine.execApstIdleTimeout s
  | .placement => Sys2Proof.Machine.execPlacement s
  | .sourceLossTimeout => Sys2Proof.Machine.execSourceLossTimeout s
  | .ppsOutPulse => Sys2Proof.Machine.execPpsOutPulse s
  | .timeJournal => Sys2Proof.Machine.execTimeJournal s
  | .heartbeat => Sys2Proof.Machine.execHeartbeat s
  | .heartbeatMiss => Sys2Proof.Machine.execHeartbeatMiss s
  | .activeSquareFault => Sys2Proof.Machine.execActiveSquareFault s
  | .standbySquareFault => Sys2Proof.Machine.execStandbySquareFault s
  | .squaresLost => Sys2Proof.Machine.execSquaresLost s
  | .modReset => Sys2Proof.Machine.execModReset s
  | .pfWarn => Sys2Proof.Machine.execPfWarn s
  | .vinUnderVoltage => Sys2Proof.Machine.execVinUnderVoltage s
  | .vinOverVoltage => Sys2Proof.Machine.execVinOverVoltage s
  | .telemetrySample => Sys2Proof.Machine.execTelemetrySample s
  | .pfWarnRelease => Sys2Proof.Machine.execPfWarnRelease s

end Sys2Proof.Machine
end

