-- ==== Sys2Proof/WellFormed.lean ====
section
/-! DEFINITION. The commands that can arrive at the module: every operand fits the field that carries it (R424, R425, R430, R439,
R558, R560), and every index names a unit that the module has. -/

namespace Sys2Proof

/-! The operand checks. -/

def okField (w n : Nat) : Bool := decide (n < 2 ^ w)
/-- A physical block by its scope index 72q + b (R43). -/
def okBlock (b : Nat) : Bool := decide (b < 288)
/-- A global Kerb number: twelve in each quarter. -/
def okKerb (k : Nat) : Bool := decide (k < 48)
def okCell (c : Nat) : Bool := decide (c < 4)
def okQuarter (q : Nat) : Bool := decide (q < 4)
/-- A port, and its Gate. -/
def okPort (p : Nat) : Bool := decide (p < 2)
/-- A light (R329). -/
def okLight (l : Nat) : Bool := decide (l < 65536)
def okDistrict (x : Nat) : Bool := decide (x < 16)
/-- A slot of a block's command queue (R130). -/
def okSlot (i : Nat) : Bool := decide (i < 16)
/-- A die of a Kerb, by its local index (R374). -/
def okDie (e : Nat) : Bool := decide (e < 32)
/-- A parity group of the flash (R374). -/
def okGroup (g : Nat) : Bool := decide (g < 96)
/-- A T0 stack: three in each quarter. -/
def okStack (n : Nat) : Bool := decide (n < 12)
/-- An Arcade: two in each quarter. -/
def okArcade (a : Nat) : Bool := decide (a < 8)
/-- A global region of T0 or T1 of 1 GiB (R483). -/
def okRegion (r : Nat) : Bool := decide (r < 4864)
def okSensor (i : Nat) : Bool := decide (i < 226)
def okRail (i : Nat) : Bool := decide (i < 14)
/-- A loop that overrides are counted for (PWR_LOOP). -/
def okLoop (i : Nat) : Bool := decide (i < 12)
/-- A background slot of the plan: at most 16. -/
def okWindow (i : Nat) : Bool := decide (i < 16)
/-- A key slot (R527). -/
def okKey (i : Nat) : Bool := decide (i < 16)
/-- A queue: a global I/O queue pair, or 4,096 + a for the admin queue of association a (R407). -/
def okQueue (q : Nat) : Bool := decide (q < 6144)
/-- The command whose read met an error: a host's, by its queue and identifier, or with 8,192 + b the one that block b runs, whoever issued
it (R479). -/
def okReader (q : Nat) : Bool := okQueue q || (decide (8192 ≤ q) && decide (q < 8192 + 288))
/-- A place among the device's four amendments (R37). -/
def okAmendment (i : Nat) : Bool := decide (i < 4)
def okSquare (i : Nat) : Bool := decide (i < 2)

/-- The entry part: queue, CID and FUSE. -/
def Hdr.wf (h : Hdr) : Bool := okQueue h.queue && okField 16 h.cid && okField 2 h.fuse

def Requester.wf : Requester → Bool
  | .host h => h.wf
  | .monitor seq => okField 32 seq

def LbaRange.wf (r : LbaRange) : Bool := okField 64 r.lba && okField 32 r.blocks

/-- The descriptor of PLACE has 64 bytes (R352). -/
def okDescriptor (b : List Byte) : Bool := decide (b.length = 64)

/-- The device's discovery names units that it has (R461). -/
def Discovery.wf (f : Discovery) : Bool :=
  decide (f.stacksGib.length = 12) && decide (f.packages.length = 8) && f.failedBlocks.all okBlock &&
    f.failedCells.all (fun c => okBlock c.1 && decide (c.2 < 4)) && f.failedKerbs.all (fun k => decide (k < 48)) &&
    f.failedQuarters.all (fun q => decide (q < 4)) && f.failedArcades.all (fun a => decide (a < 8)) &&
    f.failedGates.all (fun p => decide (p < 2)) && f.failedErases.all (fun x => decide (x < 1536 * 2048)) &&
    f.failedSectors.all fun x => decide (x.1 < 2) && decide (x.2 < 4096)

/-- Every operand fits its field. -/
def Instr.wf : Instr → Bool
  | .flush h nsid => h.wf && okField 32 nsid
  | .write h nsid lba blocks _ => h.wf && okField 32 nsid && okField 64 lba && decide (blocks ≤ 65536)
  | .read h nsid lba blocks => h.wf && okField 32 nsid && okField 64 lba && decide (blocks ≤ 65536)
  | .writeZeroes h nsid lba blocks => h.wf && okField 32 nsid && okField 64 lba && decide (blocks ≤ 65536)
  | .deallocate h nsid ranges => h.wf && okField 32 nsid && ranges.all LbaRange.wf && decide (ranges.length ≤ 256)
  | .secureDeallocate h nsid ranges => h.wf && okField 32 nsid && ranges.all LbaRange.wf && decide (ranges.length ≤ 256)
  | .secureDeallocDrained _ => true
  | .query h count _ => h.wf && okField 9 count
  | .payloadFetchDone _ _ => true
  | .ingest h nsid count _ service textNsid _ =>
    h.wf && okField 32 nsid && okField 13 count && okField 16 service && okField 32 textNsid
  | .delete h nsid id gen _ textNsid textLba blocks =>
    h.wf && okField 32 nsid && okField 40 id && okField 8 gen && okField 32 textNsid && okField 64 textLba && okField 16 blocks
  | .compute h block opCount _ scaleHistory opList scaleState routeState gather _ =>
    h.wf && okField 8 block && okField 7 opCount && okField 8 scaleHistory && okField 64 opList && okField 32 scaleState &&
      okField 32 routeState && okField 32 gather
  | .create h nsid _ => h.wf && okField 32 nsid
  | .seal h nsid version => h.wf && okField 32 nsid && okField 32 version
  | .switch h nsid version beat => h.wf && okField 32 nsid && okField 32 version && okField 64 beat
  | .retire h nsid version => h.wf && okField 32 nsid && okField 32 version
  | .filterLoad h first count _ => h.wf && okField 8 first && okField 9 count
  | .repair h nsid => h.wf && okField 32 nsid
  | .stats h nsid _ => h.wf && okField 32 nsid
  | .allocate h descriptor _ => h.wf && okDescriptor descriptor
  | .release h descriptor => h.wf && okDescriptor descriptor
  | .releaseComplete object => okField 32 object
  | .update h descriptor => h.wf && okDescriptor descriptor
  | .copyIn h descriptor _ => h.wf && okDescriptor descriptor
  | .copyOut h descriptor => h.wf && okDescriptor descriptor
  | .bind h descriptor => h.wf && okDescriptor descriptor
  | .unbind h descriptor => h.wf && okDescriptor descriptor
  | .report h _ => h.wf
  | .registerRead h address count _ _ => h.wf && okField 64 address && okField 16 count
  | .registerWrite h address _ value => h.wf && okField 64 address && okField 64 value
  | .getLogPage h page _ => h.wf && okField 8 page
  | .identify h cns nsid => h.wf && okField 8 cns && okField 32 nsid
  | .abort h sqid cid => h.wf && okField 16 sqid && okField 16 cid
  | .setFeatures h feature _ dw11 rest =>
    h.wf && okField 8 feature && okField 32 dw11 && okField 32 rest.dw12 && (rest.data.isEmpty || rest.data.length = 256)
  | .getFeatures h feature select dw11 => h.wf && okField 8 feature && okField 3 select && okField 32 dw11
  | .asynchronousEventRequest h => h.wf
  | .firmwareImageDownload h offset _ => h.wf && okField 34 offset
  | .firmwareCommit h slot action => h.wf && okField 3 slot && okField 3 action
  | .keepAlive h => h.wf
  | .keepAliveExpiry assoc => okField 11 assoc
  | .formatNvm h nsid lbaf ses => h.wf && okField 32 nsid && okField 4 lbaf && okField 3 ses
  | .sanitize h action _ _ => h.wf && okField 3 action
  | .connect h assoc qid port link _ depth kato _ mtu _ _ =>
    h.wf && okField 11 assoc && okField 16 qid && okPort port && okField 1 link && okField 16 depth && okField 32 kato &&
      okField 16 mtu
  | .propertyGet h offset _ => h.wf && okField 32 offset
  | .propertySet h offset value => h.wf && okField 32 offset && okField 64 value
  | .disconnect h qid => h.wf && okField 16 qid
  | .planLoad h _ _ => h.wf
  | .planDiscard h _ _ => h.wf
  | .apply h _ => h.wf
  | .commit h => h.wf
  | .revert h => h.wf
  | .quiesceDrained slot => okAmendment slot
  | .quiesceTimeout slot => okAmendment slot
  | .snapshot h kind _ => h.wf && okField 8 kind
  | .standstillLatch unitKind index => okField 4 unitKind && okField 12 index
  | .snapshotUnitTimeout unitKind index => okField 4 unitKind && okField 12 index
  | .attest h nonce _ => h.wf && decide (nonce.length = 16)
  | .leaseLend h t0Gib t1Gib notice idle => h.wf && okField 32 t0Gib && okField 32 t1Gib && okField 16 notice && okField 32 idle
  | .leasePeer h peer _ => h.wf && okField 6 peer
  | .leaseAcquire h peer set tier gib => h.wf && okField 6 peer && okField 4 set && okField 1 tier && okField 32 gib
  | .leaseAcquireTimeout lease => okField 32 lease
  | .leaseReturn h lease => h.wf && okField 32 lease
  | .leaseRevoke h lease notice => h.wf && okField 32 lease && okField 32 notice
  | .leaseStatus h _ => h.wf
  | .leaseNoticeReceived lease deadline => okField 32 lease && okField 64 deadline
  | .leaseDeadline lease => okField 32 lease
  | .leaseIdleTimeout peer => okField 6 peer
  | .nvmeMiCommand opcode => okField 8 opcode
  | .hello seq => okField 32 seq
  | .challenge seq => okField 32 seq
  | .respond seq slot level duration _ => okField 32 seq && okKey slot && okField 8 level && okField 32 duration
  | .logout seq => okField 32 seq
  | .setBaud seq rate => okField 32 seq && okField 32 rate
  | .regRead seq address count bytes _ => okField 32 seq && okField 64 address && okField 16 count && okField 8 bytes
  | .regWrite seq address bytes value => okField 32 seq && okField 64 address && okField 8 bytes && okField 64 value
  | .memPeek seq tier block address _ => okField 32 seq && okField 8 tier && okField 16 block && okField 64 address
  | .memPoke seq tier block address _ => okField 32 seq && okField 8 tier && okField 16 block && okField 64 address
  | .counters seq unit => okField 32 seq && okField 16 unit
  | .monitorSnapshot seq kind offset => okField 32 seq && okField 8 kind && okField 32 offset
  | .traceCtl seq ctl cls trig => okField 32 seq && okField 32 ctl && okField 32 cls && okField 64 trig
  | .traceRead seq => okField 32 seq
  | .planState seq => okField 32 seq
  | .monitorReset seq _ index => okField 32 seq && okField 16 index
  | .monitorFailover seq => okField 32 seq
  | .imageDownload seq offset _ _ => okField 32 seq && okField 32 offset
  | .abandon r slot => r.wf && okAmendment slot
  | .cellInject r block cell target => r.wf && okBlock block && okCell cell && okField 3 target
  | .eccInject r block => r.wf && okBlock block
  | .kerbInject r kerb => r.wf && okKerb kerb
  | .blkCountClear r block => r.wf && okBlock block
  | .kerbCountClear r kerb => r.wf && okKerb kerb
  | .cacheDrop r kerb => r.wf && okKerb kerb
  | .kerbCtlReset r kerb => r.wf && okKerb kerb
  | .ftlCountClear r => r.wf
  | .reclaimHold r _ => r.wf
  | .hifCountClear r => r.wf
  | .portReset r port => r.wf && okPort port
  | .pwrCountClear r => r.wf
  | .loopsFreeze r _ => r.wf
  | .secCountClear r => r.wf
  | .failover r => r.wf
  | .deviceReset r => r.wf
  | .quarterReset r quarter => r.wf && okQuarter quarter
  | .blockReset r block => r.wf && okBlock block
  | .forceHoldover r _ => r.wf
  | .ppsOut r _ => r.wf
  | .timeSet r ns => r.wf && okField 64 ns
  | .traceMode r mode => r.wf && okField 2 mode
  | .traceEnable r _ => r.wf
  | .arm r => r.wf
  | .trigger r => r.wf
  | .traceClear r => r.wf
  | .counterSample r n => r.wf && okField 4 n
  | .lightValueWrite r light value => r.wf && okLight light && okField 32 value
  | .lightAddWrite r light addend => r.wf && okLight light && okField 32 addend
  | .lightOwnerWrite r light owner _ => r.wf && okLight light && okDistrict owner
  | .bmwinWrite r block district base length => r.wf && okBlock block && okDistrict district && okField 8 base && okField 8 length
  | .fmtFlagsRead r district => r.wf && okDistrict district
  | .planErrRead r => r.wf
  | .railPeakRead r rail => r.wf && okRail rail
  | .tempMaxRead r sensor => r.wf && okSensor sensor
  | .gateDispatch gate => okPort gate
  | .rangeLockAcquire queue cid => okQueue queue && okField 16 cid
  | .arrayMac block => okBlock block
  | .arrayElemwise block => okBlock block
  | .arrayL1 block => okBlock block
  | .arrayL2 block => okBlock block
  | .arrayHamming block => okBlock block
  | .arrayMin block => okBlock block
  | .arrayMax block => okBlock block
  | .vecAdd block => okBlock block
  | .vecSub block => okBlock block
  | .vecMul block => okBlock block
  | .vecDiv block => okBlock block
  | .vecFma block => okBlock block
  | .vecMin block => okBlock block
  | .vecMax block => okBlock block
  | .vecCvt block => okBlock block
  | .vecQuant block => okBlock block
  | .vecSel block => okBlock block
  | .vecRowsum block => okBlock block
  | .vecRowmax block => okBlock block
  | .vecSoftmax block => okBlock block
  | .vecRowstats block => okBlock block
  | .vecMergestats block => okBlock block
  | .vecLayernorm block => okBlock block
  | .vecRmsnorm block => okBlock block
  | .sfuFunction block => okBlock block
  | .sfuMicroProgram block => okBlock block
  | .dmaOp block => okBlock block
  | .dmaAsyncDone block => okBlock block
  | .lightSet block => okBlock block
  | .lightAdd block => okBlock block
  | .lightWait block slot => okBlock block && okSlot slot
  | .lightExpiry block slot => okBlock block && okSlot slot
  | .shadowLoadDone block => okBlock block
  | .pairGather block => okBlock block
  | .commandBoundary block => okBlock block
  | .expertDispatch block => okBlock block
  | .cellParityError block cell _ _ _ => okBlock block && okCell cell
  | .spareSelfTestDone block _ => okBlock block
  | .blockMemoryUncorrectable block address => okBlock block && okField 23 address
  | .sequencerWatchdog block => okBlock block
  | .queueIntegrityError block => okBlock block
  | .blockMemoryCorrected block address => okBlock block && okField 23 address
  | .bucketLeak region => okRegion region
  | .queryBlockAdmit kerb _ => okKerb kerb
  | .suspendTimeout kerb die => okKerb kerb && okDie die
  | .flashPieceReadDone kerb die _ _ => okKerb kerb && okDie die
  | .thetaShare kerb => okKerb kerb
  | .thetaReturn kerb _ _ => okKerb kerb
  | .nandProgramDone kerb die _ => okKerb kerb && okDie die
  | .nandEraseDone kerb die _ => okKerb kerb && okDie die
  | .mutableRowTimeout group => okGroup group
  | .reclaimVictim group _ => okGroup group
  | .kerbFault kerb _ _ => okKerb kerb
  | .kerbResetDone kerb _ => okKerb kerb
  | .linkError arcade unit => if arcade then okArcade unit else okKerb unit
  | .sweepPassStart nsid => okField 32 nsid
  | .sweepPassEnd nsid => okField 32 nsid
  | .repairBackground nsid => okField 32 nsid
  | .stageRunDone _ _ => true
  | .gateMerge _ => true
  | .rdmaWriteAck queue ack => okQueue queue && okField 16 ack.cid && ack.failed.all (okField 8)
  | .jobBatchStart job => okField 32 job
  | .jobBatchEnd job _ => okField 32 job
  | .beatStart _ _ => true
  | .energyMeterInterval blockUj kerbUj stackUj arcadeUj _ =>
    (blockUj.all fun x => okBlock x.1) && (kerbUj.all fun x => okKerb x.1) && (stackUj.all fun x => okStack x.1) &&
      (arcadeUj.all fun x => okArcade x.1)
  | .objectMoveExtent object => okField 32 object
  | .patrolScrub region _ _ => okRegion region
  | .stackReadUncorrectable stack _ _ queue cid => okStack stack && okReader queue && okField 16 cid
  | .spareCopyDone stack => okStack stack
  | .lpddrReadUncorrectable arcade _ queue cid => okArcade arcade && okReader queue && okField 16 cid
  | .avenueFlitCrc quarter _ _ => okQuarter quarter
  | .routerUncorrectable quarter _ => okQuarter quarter
  | .boulevardCrc segment _ => okField 3 segment
  | .arcadeFault arcade => okArcade arcade
  | .gateFault port => okPort port
  | .linkTrainingDone port link _ _ => okPort port && okField 1 link
  | .ethernetUncorrectable port _ => okPort port
  | .ecnCeReceived port _ => okPort port
  | .cnpReceived port _ => okPort port
  | .pfcFrameReceived port priority _ => okPort port && okField 3 priority
  | .ptpSync port _ => okPort port
  | .ppsInPulse _ _ => true
  | .backgroundSlotStart slot => okWindow slot
  | .backgroundSlotEnd slot => okWindow slot
  | .quarterDvfs quarter _ _ _ => okQuarter quarter
  | .readThreshold die _ _ => decide (die < 1536)
  | .widen usePercent => decide (usePercent ≤ 100)
  | .stackRefresh stack => okStack stack
  | .linkEq _ _ _ => true
  | .sensorSample sensor _ _ => okSensor sensor
  | .thermalTrip sensor => okSensor sensor
  | .overCurrent rail => okRail rail
  | .underVoltage rail => okRail rail
  | .protectionRelease loop _ => okLoop loop
  | .overrideRampStep loop _ => okLoop loop
  | .protectionHoldTimeout loop _ => okLoop loop
  | .configSectorEraseDone square _ => okSquare square
  | .configEraseResume square => okSquare square
  | .configCopyForward square => okSquare square
  | .coldStart found => found.wf
  | .modResetRelease found => found.wf
  | .holdupBankTest _ => true
  | .quarterResetDone quarter _ => okQuarter quarter
  | .blockResetDone block _ => okBlock block
  | .squareSelfTestDone _ => true
  | .ptpAnnounce port clockClass stepsRemoved identity =>
    okPort port && okField 8 clockClass && okField 16 stepsRemoved && okField 64 identity
  | .peerLeaseMessage m => match m with
    | .request _ _ set tier gib key => okField 4 set && okField 8 tier && okField 32 gib && key.length = 32
    | .grant _ key | .refuse _ key | .giveBack _ _ key | .contact _ key | .lost _ key => key.length = 32
  | .ethernetLinkDown port link => okPort port && okField 1 link
  | .sanitizePhaseDone _ => true
  | .t3BatchSend => true
  | .nvmeMiReset => true
  | .baudRevert => true
  | .monitorBadFrame => true
  | .monitorLockoutExpiry => true
  | .sessionExpiry => true
  | .computeAbortEnd => true
  | .journalCheckpoint => true
  | .gatherWindowClose => true
  | .sweepWindowClose => true
  | .hotnessDecay => true
  | .powerStateTransition => true
  | .apstIdleTimeout => true
  | .placement => true
  | .sourceLossTimeout => true
  | .ppsOutPulse => true
  | .timeJournal => true
  | .heartbeat => true
  | .heartbeatMiss => true
  | .activeSquareFault => true
  | .standbySquareFault => true
  | .squaresLost => true
  | .modReset => true
  | .pfWarn => true
  | .vinUnderVoltage => true
  | .vinOverVoltage => true
  | .telemetrySample => true
  | .pfWarnRelease => true

end Sys2Proof
end

