-- ==== Sys2Proof/Safety.lean ====
section
/-! DEFINITION. The words in which the statements speak: how a command completes, when a host's command is admitted and when the
monitor's request is served, what an operation of a block's command needs, and the canonical form of the memories. -/

namespace Sys2Proof.Machine

/-! Completion. -/

/-- The module as the next command finds it: what it sent during the step before is gone. -/
def State.clear (s : State) : Dev := { s.dev with out := [] }

/-- A command completes: exec answers a next state whose module is the given one, with the queue as it was. -/
def Completes (c : Instr) (s : State) (d : Dev) : Prop := exec c s = .next { s with dev := d }

/-! Host commands (R407 to R422). -/

/-- A command with its place in its submission queue, as the Gate of its port serves that queue and dispatches it. -/
def inFlight (d : Dev) (c : Instr) (h : Hdr) (a : GateArb) (yields : Bool) : Dev :=
  ((((d.wakeFor c).joinQueue c h).serveQueue (d.portOf h.queue) h.queue a yields).leaveQueue c h)

/-- A host's command is admitted: its queue is open, its identifier is new, no other submission entry waits, its Gate has room and
nothing holds it (R420, R422, R438), the checks at its dispatch pass, and no earlier lock overlaps its own (R421). `r` is the
module in which its body runs. -/
structure Admits (d : Dev) (c : Instr) (h : Hdr) (r : Dev) : Prop where
  header : hdrOf c = some h
  isOpen : d.queueOpen h.queue = true
  fresh : d.known h = false
  alone : d.host.waiting = []
  free : ((d.wakeFor c).joinQueue c h).mayGo c = true
  served : ∃ a y, ((d.wakeFor c).joinQueue c h).arbitrate (d.portOf h.queue) [h.queue] = some (h.queue, a, y) ∧
    (inFlight d c h a y).dispatchCheck c h = none ∧ r = (inFlight d c h a y).registerLocks c h
  unlocked : r.lockBlocked c h = false

/-- What the Gate does once a command's body has run: it notes queue heads that lack lock entries. -/
def ranTo (d : Dev) (h : Hdr) (r : Dev) : Dev := r.noteHeads (d.portOf h.queue)

/-! The monitor (R538, R539, R558 to R560). -/

/-- The module as a request of the monitor finds it. -/
def Dev.heard (d : Dev) : Dev := { d with mon := { d.mon with newBaud := false } }

/-- A request of the monitor is served: the monitor is up and free, the frame is no repetition, the session's level allows it, no
lockout lasts, and in ROM recovery it is one of the requests served there. -/
def Serves (d : Dev) (seq level : Nat) (rom : Bool) : Prop :=
  d.monitorUp = true ∧ d.monitorBusy = false ∧ (d.mon.lastFrame = none ∨ d.mon.lastSeq ≠ some seq) ∧
    (d.romRecovery = true → rom = true) ∧ (0 < level → d.monitorLocked = false) ∧ level ≤ d.sec.level

/-- The module once the monitor's register write has made it `x`: it answers OK, and one that changed the active Square receives no
answer (R559). -/
def answered (d x : Dev) (seq : Nat) : Dev :=
  if x.squares.activeB = d.squares.activeB then x.reply 0x11 seq monOk [] else x

/-- The stored value of a control register fits it, and its reserved and write-only fields hold 0 (R6). -/
def Tidy (d : Dev) (a : Nat) : Prop := ∀ r ix, findReg a = some (r, ix) →
  d.reg a < 2 ^ (8 * r.bytes) ∧ ∀ f ∈ r.fields, f.acc ≠ .rw → bits (d.reg a) f.lo f.width = 0

/-- Every field of a register that a read clears holds 0. -/
def ReadClear (d : Dev) (a : Nat) : Prop := ∀ r ix, findReg a = some (r, ix) →
  ∀ f ∈ r.fields, f.acc = .rc → bits (d.reg a) f.lo f.width = 0

/-! Operations of a block's command. -/

/-- Operation `o` of the command `x` in slot `i` is the next of block `b`, of the wanted kind and with no zero count. -/
def NextOp (d : Dev) (b : Nat) (want : Desc → Bool) (i : Nat) (x : Slot) (o : Desc) : Prop :=
  d.nextOp b = some (i, x, o) ∧ want o = true ∧ o.empty = false

/-- The array operations by their MODE codes (R139, R141). -/
def arrayRows : List (Nat × (Nat → Instr)) :=
  [(0, .arrayMac), (1, .arrayElemwise), (2, .arrayL1), (3, .arrayL2), (4, .arrayHamming), (5, .arrayMin), (6, .arrayMax)]

/-- The vector operations by their codes (R142). -/
def vectorRows : List (Nat × (Nat → Instr)) :=
  [(0x01, .vecAdd), (0x02, .vecSub), (0x03, .vecMul), (0x04, .vecDiv), (0x05, .vecFma), (0x06, .vecMin), (0x07, .vecMax),
   (0x08, .vecCvt), (0x09, .vecQuant), (0x0A, .vecSel), (0x10, .vecRowsum), (0x11, .vecRowmax), (0x12, .vecSoftmax),
   (0x13, .vecRowstats), (0x14, .vecMergestats), (0x15, .vecLayernorm), (0x16, .vecRmsnorm)]

/-- The result codes of an array operation, from the buffers as its cells pass the boundaries that they can. -/
def arrayCodes (d : Dev) (b : Nat) (o : Desc) (y : ArrOp) : List Nat :=
  (arrayFM ((settle d b o y).bankOf b) o y (arrayIn (settle d b o y) b o y)).run0.1.1

/-- The module as the shadow loads of a block complete in it: the cells of the array operation that issues next have passed the
boundaries that they can. -/
def loadState (d : Dev) (b : Nat) : Dev :=
  match nextArray d b with
  | some (_, _, o, y) => settle d b o y
  | none => d

/-- The result codes of a vector operation on the operands in block memory. -/
def vectorCodes (d : Dev) (b : Nat) (x : Slot) (o : Desc) (a w f : Fmt) : List Nat :=
  let v : VecFmt := ⟨a, o.aSigned, w, o.wSigned, f, o.foSigned, (Rnd.ofCode o.rnd).getD .rne, x.keep⟩
  let bs := if CheckCtx.needsB o.mode then d.codesAt b o.aux w (CheckCtx.bCount o) else []
  let cs := if CheckCtx.needsC o.mode then d.codesAt b o.aux2 w (o.m * o.k) else []
  (vectorFM v o (d.codesAt b o.inA a (o.m * o.k)) bs cs).run0.1.1

/-- The result codes of an operation of the special-function unit. -/
def sfuCodes (d : Dev) (b : Nat) (x : Slot) (o : Desc) (a f : Fmt) : List Nat :=
  ((do
    let xs ← decodeAll a o.aSigned x.keep (d.codesAt b o.inA a (o.m * o.k))
    xs.mapM fun e => applyFnTo (d.bankOf b) o.mode f o.foSigned x.keep e : FM (List Nat))).run0.1

/-! Frames. -/

/-- The three memories of bytes: block memory, placed objects, namespaces. -/
def Dev.mems (d : Dev) : Mem × Mem × Mem := (d.bmem, d.objMem, d.nsMem)

/-- Every byte of every memory reads in `e` as it does in `d`. -/
def SameMemory (d e : Dev) : Prop :=
  ∀ a, Mem.read e.bmem a = Mem.read d.bmem a ∧ Mem.read e.objMem a = Mem.read d.objMem a ∧
    Mem.read e.nsMem a = Mem.read d.nsMem a

/-- Every byte outside `n` bytes of block memory from offset `o` of block `b` reads in `e` as it does in `d`. -/
def SameOutside (d e : Dev) (b o n : Nat) : Prop :=
  ∀ a, ((a < 2 ^ 23 * b + o ∨ 2 ^ 23 * b + o + n ≤ a) → Mem.read e.bmem a = Mem.read d.bmem a) ∧
    Mem.read e.objMem a = Mem.read d.objMem a ∧ Mem.read e.nsMem a = Mem.read d.nsMem a

/-- The command does the operation `o` that block `b` issues next for the command of slot `i`: the codes lie packed at its output, every
byte outside them reads as before in every memory, and the operation after `o` is due. -/
def Gives (c : Instr) (s : State) (b i : Nat) (x : Slot) (o : Desc) (f : Fmt) (codes : List Nat) : Prop :=
  ∃ t y, Completes c s t ∧ t.loadBm b o.out (packCodes f codes).length = packCodes f codes ∧
    SameOutside s.dev t b o.out (packCodes f codes).length ∧ t.slot b i = some y ∧ y.next = x.next + 1

/-- A pass of a batch has prefilled a query's sequences and what it gave is there before the batch's next run ends (R288, R289). -/
def ranEarly (b : Batch) (i : Nat) (q : Query) : Bool := decide (3 ≤ b.kind) && b.result.isNone && Dev.servedIn b i q

/-- Batch `bi`, which is `b`, has something for query `i`: `d` is the module and `y` the batch once its run has been followed up. -/
def RunGave (c : Dev) (i bi : Nat) (q : Query) (b : Batch) (d : Dev) (y : Batch) : Prop :=
  (ranEarly b i q = true ∧ d = c ∧ y = b) ∨
    (ranEarly b i q = false ∧ d = c.runEnded bi b ∧ AMap.look d.batches bi = some y ∧ y.result = some .success ∧
      Dev.servedIn y i q = true)

/-- Every memory is in its canonical form. -/
def Canonical (s : State) : Prop :=
  Mem.wf s.dev.bmem = true ∧ Mem.wf s.dev.objMem = true ∧ Mem.wf s.dev.nsMem = true

end Sys2Proof.Machine
end

