-- ==== Sys2Proof/Certificates/Slice0/Obligations.lean ====
section
/-! DEFINITION. The statements for the provers. -/

open Sys2Proof Sys2Proof.Machine

/-! The machine. -/

/-- A step takes the command at the front of the queue and runs exec on it with the rest of the queue left waiting; with an empty
queue the module idles (DESIGN CHOICE, log entry 2). -/
def Obligations.StepRunsFrontCommand : Prop :=
  (∀ (s : State) (c : Instr), step { s with pending := c :: s.pending } = exec c s) ∧
    ∀ s : State, s.pending = [] → step s = .next s

/-- A queue of commands runs to its end without a fault or a refusal, in its order: after as many steps as it has commands it is
empty, and the module is what the commands make of it one after the other. -/
def Obligations.QueueRunsToItsEnd : Prop :=
  ∃ act : Instr → Dev → Dev, (∀ (c : Instr) (s : State), exec c s = .next { s with dev := act c s.dev }) ∧
    ∀ s : State, Host.Core.run Sys2Proof.core s.pending.length s =
      .next { dev := s.pending.foldl (fun d c => act c d) s.dev, pending := [] }

/-- Every memory keeps its canonical form through every step, from every state: strictly rising addresses, and no entry equal to what
an unlisted byte reads as. -/
def Obligations.MemoryStaysCanonical : Prop :=
  ∀ s t : State, Canonical s → step s = .next t → Canonical t

/-- After reset every memory is in its canonical form and lists nothing, and no command waits. -/
def Obligations.ResetMemoryCanonical : Prop :=
  Canonical State.reset ∧ State.reset.pending = [] ∧ State.reset.dev.bmem = [] ∧ State.reset.dev.objMem = [] ∧
    State.reset.dev.nsMem = []

/-- Two memories in canonical form that read the same at every address are the same list. -/
def Obligations.CanonicalMemoriesAgree : Prop :=
  ∀ m n : Mem, Mem.wf m = true → Mem.wf n = true → (∀ a, Mem.read m a = Mem.read n a) → m = n

/-- Bytes stored in a memory read back as they were stored, every other byte reads as before, and the form stays canonical. -/
def Obligations.StoredBytesReadBack : Prop :=
  ∀ (m : Mem) (a : Nat) (bytes : List Byte), Mem.wf m = true →
    Mem.load (Mem.store m a bytes) a bytes.length = bytes ∧
    (∀ x, x < a ∨ a + bytes.length ≤ x → Mem.read (Mem.store m a bytes) x = Mem.read m x) ∧
    Mem.wf (Mem.store m a bytes) = true

/-- A register that is written reads back as it was written and every other register keeps its value; a field that is written holds
the value's low bits, and the register's fields that lie beside it keep theirs. -/
def Obligations.RegisterFieldsHoldWhatIsWritten : Prop :=
  ∀ (d : Dev) (a : Nat) (f g : Fld) (v : Nat),
    (d.fset a f v).fget a f = v % 2 ^ f.width ∧ (∀ b, b ≠ a → (d.fset a f v).reg b = d.reg b) ∧
    (f.lo + f.width ≤ g.lo ∨ g.lo + g.width ≤ f.lo → (d.fset a f v).fget a g = d.fget a g)

/-! The operations of a block's running command. -/

/-- ARRAY_MAC, ARRAY_ELEMWISE, ARRAY_L1, ARRAY_L2, ARRAY_HAMMING, ARRAY_MIN and ARRAY_MAX: the array operation that a block issues next,
with its weights in the buffers of every cell that takes part and no metadata error in them, completes: its codes lie packed at its
output, every byte outside them reads as before in every memory, and the next operation is due. -/
def Obligations.ArrayOperationsComplete : Prop :=
  ∀ (s : State) (b i : Nat) (x : Slot) (o : Desc) (y : ArrOp), Canonical s → s.clear.nextOp b = some (i, x, o) → o.isArray = true →
    o.empty = false → arrOpOf s.clear b x.district x.keep o = some y → (x.badMeta.filter fun m => m.1 = x.next) = [] →
    (inService s.clear b).isEmpty = false → weightsHere s.clear b y = true →
    (o.mode = 0 → Gives (.arrayMac b) s b i x o y.f (arrayCodes s.clear b o y)) ∧
    (o.mode = 1 → Gives (.arrayElemwise b) s b i x o y.f (arrayCodes s.clear b o y)) ∧
    (o.mode = 2 → Gives (.arrayL1 b) s b i x o y.f (arrayCodes s.clear b o y)) ∧
    (o.mode = 3 → Gives (.arrayL2 b) s b i x o y.f (arrayCodes s.clear b o y)) ∧
    (o.mode = 4 → Gives (.arrayHamming b) s b i x o y.f (arrayCodes s.clear b o y)) ∧
    (o.mode = 5 → Gives (.arrayMin b) s b i x o y.f (arrayCodes s.clear b o y)) ∧
    (o.mode = 6 → Gives (.arrayMax b) s b i x o y.f (arrayCodes s.clear b o y))

/-- VEC_ADD, VEC_SUB, VEC_MUL, VEC_DIV, VEC_FMA, VEC_MIN, VEC_MAX, VEC_CVT, VEC_QUANT, VEC_SEL, VEC_ROWSUM, VEC_ROWMAX, VEC_SOFTMAX,
VEC_ROWSTATS, VEC_MERGESTATS, VEC_LAYERNORM and VEC_RMSNORM: the vector operation that a block issues next completes: the codes of its
function on its operands lie packed at its output, every byte outside them reads as before, and the next operation is due. -/
def Obligations.VectorOperationsComplete : Prop :=
  ∀ (s : State) (b i : Nat) (x : Slot) (o : Desc) (a w f : Fmt), Canonical s → s.clear.nextOp b = some (i, x, o) →
    o.isVector = true → o.empty = false → o.fmtA = some a → o.fmtW = some w → o.fmtOut = some f →
    (o.mode = 0x01 → Gives (.vecAdd b) s b i x o f (vectorCodes s.clear b x o a w f)) ∧
    (o.mode = 0x02 → Gives (.vecSub b) s b i x o f (vectorCodes s.clear b x o a w f)) ∧
    (o.mode = 0x03 → Gives (.vecMul b) s b i x o f (vectorCodes s.clear b x o a w f)) ∧
    (o.mode = 0x04 → Gives (.vecDiv b) s b i x o f (vectorCodes s.clear b x o a w f)) ∧
    (o.mode = 0x05 → Gives (.vecFma b) s b i x o f (vectorCodes s.clear b x o a w f)) ∧
    (o.mode = 0x06 → Gives (.vecMin b) s b i x o f (vectorCodes s.clear b x o a w f)) ∧
    (o.mode = 0x07 → Gives (.vecMax b) s b i x o f (vectorCodes s.clear b x o a w f)) ∧
    (o.mode = 0x08 → Gives (.vecCvt b) s b i x o f (vectorCodes s.clear b x o a w f)) ∧
    (o.mode = 0x09 → Gives (.vecQuant b) s b i x o f (vectorCodes s.clear b x o a w f)) ∧
    (o.mode = 0x0A → Gives (.vecSel b) s b i x o f (vectorCodes s.clear b x o a w f)) ∧
    (o.mode = 0x10 → Gives (.vecRowsum b) s b i x o f (vectorCodes s.clear b x o a w f)) ∧
    (o.mode = 0x11 → Gives (.vecRowmax b) s b i x o f (vectorCodes s.clear b x o a w f)) ∧
    (o.mode = 0x12 → Gives (.vecSoftmax b) s b i x o f (vectorCodes s.clear b x o a w f)) ∧
    (o.mode = 0x13 → Gives (.vecRowstats b) s b i x o f (vectorCodes s.clear b x o a w f)) ∧
    (o.mode = 0x14 → Gives (.vecMergestats b) s b i x o f (vectorCodes s.clear b x o a w f)) ∧
    (o.mode = 0x15 → Gives (.vecLayernorm b) s b i x o f (vectorCodes s.clear b x o a w f)) ∧
    (o.mode = 0x16 → Gives (.vecRmsnorm b) s b i x o f (vectorCodes s.clear b x o a w f))

/-- SFU_FUNCTION and SFU_MICRO_PROGRAM: an operation of the special-function unit that a block issues next completes, for a built-in
function or a user table, and for a micro-program: the codes of its function on its operands lie packed at its output, every byte
outside them reads as before, and the next operation is due. -/
def Obligations.SpecialFunctionsComplete : Prop :=
  ∀ (s : State) (b i : Nat) (x : Slot) (o : Desc) (a f : Fmt), Canonical s → s.clear.nextOp b = some (i, x, o) → o.isSfu = true →
    o.empty = false → o.fmtA = some a → o.fmtOut = some f →
    (o.mode < 0x80 → Gives (.sfuFunction b) s b i x o f (sfuCodes s.clear b x o a f)) ∧
    (0x80 ≤ o.mode → Gives (.sfuMicroProgram b) s b i x o f (sfuCodes s.clear b x o a f))

/-- An operation with a zero count, of whichever class its block issues next, is done without reading or writing any byte: the
memories are what they were. -/
def Obligations.ZeroCountsDoNothing : Prop :=
  ∀ (s : State) (b i : Nat) (x : Slot) (o : Desc), s.clear.nextOp b = some (i, x, o) → o.empty = true →
    (∀ p ∈ arrayRows, wantArray p.1 o = true → Completes (p.2 b) s (s.clear.opDone b i x.district {})) ∧
    (∀ p ∈ vectorRows, wantVector p.1 o = true → Completes (p.2 b) s (s.clear.opDone b i x.district {})) ∧
    (s.clear.opDone b i x.district {}).mems = s.dev.mems

/-- DMA_OP and DMA_ASYNC_DONE: a DMA operation without ASYNC moves its rows and is done, and between two places of a block's memory one
row lands as it was read and no other byte changes; one with ASYNC is in flight and has moved nothing yet; the oldest in flight moves
its rows and is in flight no more. -/
def Obligations.DmaOperationsComplete : Prop :=
  (∀ (s : State) (b i : Nat) (x : Slot) (o : Desc), s.clear.nextOp b = some (i, x, o) → o.isDma = true → o.empty = false →
    o.isAsync = false → ∃ t y, Completes (.dmaOp b) s t ∧ t.mems = (dmaMove s.clear b x.district o).mems ∧
      t.slot b i = some y ∧ y.next = x.next + 1) ∧
  (∀ (s : State) (b i : Nat) (x : Slot) (o : Desc), Canonical s → s.clear.nextOp b = some (i, x, o) → o.isDma = true →
    o.empty = false → o.isAsync = false → o.srcTier = 0 → o.dstTier = 0 → o.rows = 1 → ∃ t, Completes (.dmaOp b) s t ∧
      t.loadBm b o.dst o.rowBytes = s.clear.loadBm b o.src o.rowBytes ∧ SameOutside s.dev t b o.dst o.rowBytes) ∧
  (∀ (s : State) (b i : Nat) (x : Slot) (o : Desc), s.clear.nextOp b = some (i, x, o) → o.isDma = true → o.empty = false →
    o.isAsync = true → ∃ t y, Completes (.dmaOp b) s t ∧ (t.block b).dma = (s.clear.block b).dma ++ [AsyncDma.mk i x.next o.raw] ∧
      t.mems = s.dev.mems ∧ t.slot b i = some y ∧ y.next = x.next + 1) ∧
  (∀ (s : State) (b : Nat) (a : AsyncDma) (rest : List AsyncDma) (x : Slot), (s.clear.block b).dma = a :: rest →
    s.clear.slot b a.slot = some x → ∃ t, Completes (.dmaAsyncDone b) s t ∧ (t.block b).dma = rest ∧
      t.mems = (dmaMove s.clear b x.district (Desc.of a.op)).mems)

/-- LIGHT_SET, LIGHT_ADD, LIGHT_WAIT and LIGHT_EXPIRY: SET and ADD act on their light once no DMA of their command is in flight; the WAIT
that stands first in a waiting command is issued; one whose expiry beat has begun expires. -/
def Obligations.LightOperationsComplete : Prop :=
  (∀ (s : State) (b i : Nat) (x : Slot) (o : Desc), s.clear.nextOp b = some (i, x, o) → o.isLight = true → o.mode = 1 →
    o.empty = false → s.clear.dmaOf b i = false → Completes (.lightSet b) s
      ((s.clear.lightSet o.light o.value x.district ((s.clear.logicalOf b).getD 0)).opDone b i x.district {})) ∧
  (∀ (s : State) (b i : Nat) (x : Slot) (o : Desc), s.clear.nextOp b = some (i, x, o) → o.isLight = true → o.mode = 2 →
    o.empty = false → s.clear.dmaOf b i = false → Completes (.lightAdd b) s
      ((s.clear.lightAdd o.light o.value x.district ((s.clear.logicalOf b).getD 0)).opDone b i x.district {})) ∧
  (∀ (s : State) (b i : Nat) (x : Slot) (raw : List Byte) (rest : List (List Byte)), s.clear.slot b i = some x →
    x.state = .waiting → x.wait = none → x.ops = raw :: rest → Completes (.lightWait b i) s
      (s.clear.registerWait b i (Desc.of raw).light (Desc.of raw).value (Desc.of raw).timeout x.district)) ∧
  (∀ (s : State) (b i : Nat) (w : Wait), (s.clear.waits.find? fun w => w.block = b && w.slot = i) = some w →
    w.expiry ≤ s.clear.beat → Completes (.lightExpiry b i) s (s.clear.expireWait w))

/-- SHADOW_LOAD_DONE, PAIR_GATHER, EXPERT_DISPATCH and COMMAND_BOUNDARY, where they are due: the loads in progress complete in their cells'
shadow buffers and no byte of memory changes; a pair gather is done, or waits for the passages that it reads and has changed no byte;
a dispatch runs after the last operation; at a boundary the running command completes, the bank swaps and the next command starts. -/
def Obligations.CommandStepsComplete : Prop :=
  (∀ (s : State) (b c : Nat) (w : Want) (rest : List (Nat × Want)) (x : Slot),
    loadWanted (loadState s.clear b) b = (c, w) :: rest → (loadState s.clear b).slot b w.slot = some x → w.o.sparse = false →
      ∃ t y, Completes (.shadowLoadDone b) s t ∧ t.mems = s.dev.mems ∧ t.slot b w.slot = some y ∧ y.loadedOp = some w.ix ∧
        (rest = [] → ∀ z, (t.block b).cells[c]? = some z → ∃ u, z.shadow = some u ∧ u.key = w.key)) ∧
  (∀ (s : State) (b i : Nat) (x : Slot), s.clear.running b = some (i, x) → bits x.pairGather 31 1 = 1 → x.gathered = false →
    x.gatherWait = none → x.failed = none → ∃ t y, Completes (.pairGather b) s t ∧ t.slot b i = some y ∧
      (y.gathered = true ∨ (∃ n, y.gatherWait = some (n + 1)) ∧ t.mems = s.dev.mems)) ∧
  (∀ (s : State) (b i : Nat) (x : Slot), s.clear.running b = some (i, x) → bits x.routeState 31 1 = 1 →
    x.dispatched = false → x.failed = none → x.ops.length ≤ x.next → s.clear.dmaOf b i = false →
    (bits x.pairGather 31 1 = 0 ∨ x.gathered = true) → Completes (.expertDispatch b) s (s.clear.expertDispatch b i x)) ∧
  (∀ (s : State) (b : Nat), Completes (.commandBoundary b) s ((((s.clear.boundary b).relieve b).driveStages).driveJobs))

/-! Faults and containment. -/

/-- CELL_PARITY_ERROR and SPARE_SELF_TEST_DONE: a parity error of one cell in service of a block that is not in self-test is counted, logged
with its severity, ends the running command unless the error stands in a shadow buffer for a command that has not started, and fences
the cell; one on every cell at once aborts; a spare that passed its self-test takes the failed block's place, and one that failed is
retired and another is sought. -/
def Obligations.CellFaultsComplete : Prop :=
  (∀ (s : State) (b c source entry column : Nat) (e : Dev) (spares : Bool), source ≤ 5 → c < 4 →
    ((inService s.clear b).map (·.1)).contains c = true → s.clear.blockTesting b = false →
    e = cellError source entry column b s.clear c →
    spares = (source = 1 && ((e.running b).isNone || (!shadowNeeded e b c && shadowAhead e b c))) →
    Completes (.cellParityError b c source entry column) s
      ((cellFenced (cellStops (e.logError (s.clear.srcOfBlock b) 0x40 0x0101 (if spares then 0 else 1) 0 (s.clear.srcOfBlock b)
        ((s.clear.running b).map fun x => x.2.district) 0 (entry + 2 ^ 16 * column) 0xFFFFFFFF) b spares) b c
          (s.clear.srcOfBlock b)).driveStages).driveJobs) ∧
  (∀ (s : State) (b source entry column : Nat) (e : Dev), source ≤ 5 → ((inService s.clear b).map (·.1)).isEmpty = false →
    s.clear.blockTesting b = false → e = ((inService s.clear b).map (·.1)).foldl (cellError source entry column b) s.clear →
    Completes (.cellParityError b 4 source entry column) s
      ((e.logError (s.clear.srcOfBlock b) 0x40 0x0102 2 (letterCode 'A') (s.clear.srcOfBlock b)
        ((s.clear.running b).map fun x => x.2.district) 0 0 0xFFFFFFFF).computeAbort [b] (s.clear.srcOfBlock b))) ∧
  (∀ (s : State) (spare b : Nat) (e : Dev), (s.clear.contain.sparing.find? fun x => x.2 = spare) = some (b, spare) →
    e = ((({ s.clear with contain := { s.clear.contain with
      sparing := s.clear.contain.sparing.filter fun x => x.2 ≠ spare } } : Dev).endBlockTest spare).modBlock spare
        fun x => { x with selfTest := false }) →
    Completes (.spareSelfTestDone spare true) s
      ((({ e with contain := { e.contain with spared := e.contain.spared ++ [(b, spare)] } } : Dev).relieve b).driveStages).driveJobs ∧
    Completes (.spareSelfTestDone spare false) s
      ((((e.annotateRetired spare).modBlock spare fun x => { x with role := .retired }).seekSpare b).driveStages).driveJobs)

/-- BLOCK_MEMORY_UNCORRECTABLE, SEQUENCER_WATCHDOG, QUEUE_INTEGRITY_ERROR and BLOCK_MEMORY_CORRECTED: an uncorrectable read, a watchdog of a
block that runs a command and an integrity error of its queue take effect as faults of the block, each with its code; a corrected
error is counted, and in a block that is not in self-test it adds to its region's bucket. -/
def Obligations.BlockFaultsComplete : Prop :=
  (∀ (s : State) (b a : Nat), s.clear.blockTesting b = false → ∃ e : Dev,
    e = (if bits (s.clear.reg (Reg.BLK_ERR b)) 0 3 = 0 then
      (s.clear.setError (Reg.BLK_ERR b) 0 3 3).setReg (Reg.BLK_ERR_ADDR b) (a % 2 ^ 23) else s.clear.setError (Reg.BLK_ERR b) 0 3 3) ∧
    Completes (.blockMemoryUncorrectable b a) s ((e.logError (s.clear.srcOfBlock b) 0x40 0x0201 2 (letterCode 'A')
      (s.clear.srcOfBlock b) ((s.clear.running b).map fun x => x.2.district) a 0 (4864 + b)).computeAbort [b]
        (s.clear.srcOfBlock b))) ∧
  (∀ (s : State) (b : Nat), s.clear.blockTesting b = false → (s.clear.running b).isSome = true →
    Completes (.sequencerWatchdog b) s (((s.clear.setError (Reg.BLK_ERR b) 1 3 3).logError (s.clear.srcOfBlock b) 0x40 0x0202 2
      (letterCode 'A') (s.clear.srcOfBlock b) ((s.clear.running b).map fun x => x.2.district) 0 0 (4864 + b)).computeAbort [b]
        (s.clear.srcOfBlock b))) ∧
  (∀ (s : State) (b : Nat), s.clear.blockTesting b = false →
    Completes (.queueIntegrityError b) s (((s.clear.setError (Reg.BLK_ERR b) 2 3 3).logError (s.clear.srcOfBlock b) 0x40 0x0203 2
      (letterCode 'A') (s.clear.srcOfBlock b) ((s.clear.running b).map fun x => x.2.district) 0 0 (4864 + b)).computeAbort [b]
        (s.clear.srcOfBlock b))) ∧
  (∀ (s : State) (b a : Nat), s.clear.blockTesting b = false → Completes (.blockMemoryCorrected b a) s
    ((s.clear.fadd (Reg.BLK_ECC b) Fld.BLK_ECC_CORRECTED 1).bucketAdd (4864 + b)))

/-- COMPUTE_ABORT_END, when an abort is active: the module takes compute work again, the faulty blocks of quarters that are not
quarantined are retired, blocks whose spare has passed its self-test give way, and the stages and jobs go on. -/
def Obligations.ComputeAbortEnds : Prop :=
  ∀ (s : State) (d e : Dev), s.clear.contain.abortActive = true →
    d = { s.clear with contain := { s.clear.contain with abortActive := false, faulty := [] } } →
    e = (s.clear.contain.faulty.filter fun b => !s.clear.quarantined (b / 72)).foldl (fun d b => d.retireBlock b) d →
    d.contain.abortActive = false ∧
    Completes .computeAbortEnd s ((e.contain.spared.foldl (fun d x => d.relieve x.1) e).driveStages).driveJobs

/-- BUCKET_LEAK, PATROL_SCRUB, STACK_READ_UNCORRECTABLE, SPARE_COPY_DONE and LPDDR_READ_UNCORRECTABLE: a bucket leaks by one at the beats that
are multiples of its LEAK_BEATS and keeps its level at others; a line that patrol scrub corrects is counted and adds to its bucket, and
one that it cannot correct is counted, logged and repaired; the read of a unit's last line counts its pass (the model's choice, log
entry 73); an uncorrectable read is counted and logged under its code, its reader fails, the move of its object is abandoned, and a read
of T0 repairs the line and retires the channel that it is traced to; a spare channel takes over when its copy
ends. -/
def Obligations.MemoryErrorsComplete : Prop :=
  (∀ (s : State) (r : Nat), s.clear.beat % (s.clear.eccOf r).2 = 0 →
    Completes (.bucketLeak r) s (s.clear.setBucket r (s.clear.bucketLevel r - 1))) ∧
  (∀ (s : State) (r : Nat), s.clear.beat % (s.clear.eccOf r).2 ≠ 0 → Completes (.bucketLeak r) s s.clear) ∧
  (∀ (s : State) (r a : Nat), s.clear.slotNames 0 = true → r < 4864 → ∃ d, d.mems = s.dev.mems ∧ d.events = s.dev.events ∧
    d.fget (eccReg r) Fld.STK_ECC_SCRUB_PASSES =
      min (2 ^ 16 - 1) (s.dev.fget (eccReg r) Fld.STK_ECC_SCRUB_PASSES + (endsPass s.clear r a).toNat) ∧
    Completes (.patrolScrub r a .good) s d ∧
    Completes (.patrolScrub r a .corrected) s ((d.fadd (eccReg r) Fld.STK_ECC_CORRECTED 1).bucketAdd r) ∧
    Completes (.patrolScrub r a .uncorrectable) s
      ((((d.fadd (eccReg r) Fld.STK_ECC_UNCORR 1).logError (d.regionSource r) 0x40 (if r < 768 then 0x0501 else 0x0504) 1 0
        (d.regionSource r) none a 0 r).abandonMove r a).repairLine r a)) ∧
  (∀ (s : State) (k c a q cid : Nat) (e : Dev),
    e = (s.clear.fadd (Reg.STK_ECC k) Fld.STK_ECC_UNCORR 1).fadd Reg.CNT_CONTAIN_CNT Fld.CNT_CONTAIN_CNT_UNCORR_MEM 1 →
    (32 ≤ c → Completes (.stackReadUncorrectable k c a q cid) s
      ((((e.logError (srcStack k) 0x40 0x0501 1 0 (srcStack k) (e.readerDistrict q cid) a c (64 * k + a / 2 ^ 30)).failReader q cid).abandonMove
        (64 * k + a / 2 ^ 30) (a % 2 ^ 30)).repairLine (64 * k + a / 2 ^ 30) (a % 2 ^ 30)).driveStages.driveJobs) ∧
    (c < 32 → Completes (.stackReadUncorrectable k c a q cid) s
      (((((e.logError (srcStack k) 0x40 0x0501 1 0 (srcStack k) (e.readerDistrict q cid) a c (64 * k + a / 2 ^ 30)).failReader q cid).abandonMove
        (64 * k + a / 2 ^ 30) (a % 2 ^ 30)).repairLine (64 * k + a / 2 ^ 30) (a % 2 ^ 30)).spareChannel k c).driveStages.driveJobs)) ∧
  (∀ (s : State) (k : Nat), s.clear.fbit (Reg.STK_SPARE k) Fld.STK_SPARE_COPYING = true → ∃ t, Completes (.spareCopyDone k) s t ∧
    t.fbit (Reg.STK_SPARE k) Fld.STK_SPARE_COPYING = false ∧ t.fbit (Reg.STK_SPARE k) Fld.STK_SPARE_USED = true ∧
    t.mems = s.dev.mems) ∧
  (∀ (s : State) (n a q cid : Nat) (e : Dev),
    e = (s.clear.fadd (Reg.ARC_ECC n) Fld.ARC_ECC_UNCORR 1).fadd Reg.CNT_CONTAIN_CNT Fld.CNT_CONTAIN_CNT_UNCORR_MEM 1 →
    Completes (.lpddrReadUncorrectable n a q cid) s
      (((e.logError (srcArcade n) 0x40 0x0504 1 0 (srcArcade n) (e.readerDistrict q cid) a 0 (768 + 512 * n + a / 2 ^ 30)).failReader q
        cid).abandonMove (768 + 512 * n + a / 2 ^ 30) (a % 2 ^ 30)).driveStages.driveJobs)

/-- AVENUE_FLIT_CRC, ROUTER_UNCORRECTABLE, BOULEVARD_CRC and ARCADE_FAULT: three failed lanes of an Avenue direction, and an uncorrectable
router error, quarantine the quarter; five failed lanes of a Boulevard segment, and an Arcade's fault, shut the module down; fewer
failed lanes are logged and change no byte of memory. -/
def Obligations.CrossingErrorsComplete : Prop :=
  (∀ (s : State) (q r lanes : Nat), 3 ≤ lanes → ∃ d : Dev, Completes (.avenueFlitCrc q r lanes) s
    (d.quarantine q 0x0403 (s.clear.srcSquare) lanes) ∧ d.contain.quarantined = s.dev.contain.quarantined ∧ d.mems = s.dev.mems) ∧
  (∀ (s : State) (q r lanes : Nat), lanes < 3 → ∃ e, Completes (.avenueFlitCrc q r lanes) s e ∧
    s.dev.events.length < e.events.length ∧ e.contain.quarantined = s.dev.contain.quarantined ∧ e.mems = s.dev.mems) ∧
  (∀ (s : State) (q : Nat) (stop : Bool), Completes (.routerUncorrectable q stop) s
    (s.clear.quarantine q (if stop then 0x0407 else 0x0404) s.clear.srcSquare 0)) ∧
  (∀ (s : State) (n lanes : Nat), 5 ≤ lanes → ∃ d : Dev, Completes (.boulevardCrc n lanes) s (d.shutDown 2 0x0602 s.clear.srcSquare n) ∧
    d.contain.shutdown = s.dev.contain.shutdown ∧ d.mems = s.dev.mems) ∧
  (∀ (s : State) (n lanes : Nat), lanes < 5 → ∃ e, Completes (.boulevardCrc n lanes) s e ∧
    s.dev.events.length < e.events.length ∧ e.contain.shutdown = s.dev.contain.shutdown ∧ e.mems = s.dev.mems) ∧
  (∀ (s : State) (n : Nat), Completes (.arcadeFault n) s (s.clear.shutDown 3 0x0605 (srcArcade n) 0))

/-- KERB_FAULT, KERB_RESET_DONE and LINK_ERROR complete in every state: a fault of a Kerb not in self-test is logged, and resets the Kerb; an
uncorrectable error of the page cache is logged and discards the piece that it names without a reset; a fault of a Kerb in self-test
only shows; a Kerb whose reset ended well serves again, on its other link if that is up, and one whose checkers failed is offline; an
error on the active link of a Kerb or an Arcade takes that link out of use, and an Arcade with no link left shuts
the module down. -/
def Obligations.KerbFaultsComplete : Prop :=
  (∀ (s : State) (k cause a : Nat), cause ≤ 4 → cause ≠ 1 → s.clear.kerbTesting k = false →
    Completes (.kerbFault k cause a) s
      (((s.clear.kerbError k cause a).logError (srcKerb k) 0x40 (0x0301 + cause) 2 (letterCode 'K') (srcKerb k) none 0 a
        0xFFFFFFFF).kerbReset k)) ∧
  (∀ (s : State) (k a : Nat) (p : CachePiece), s.clear.kerbTesting k = false → (s.clear.kerb k).cache[bits a 8 18]? = some p →
    Completes (.kerbFault k 1 a) s (((s.clear.kerbError k 1 a).logError (srcKerb k) 0x40 0x0302 0 0 (srcKerb k) none 0 a
      0xFFFFFFFF).cacheDropWhere k fun x => x = p)) ∧
  (∀ (s : State) (k a : Nat), s.clear.kerbTesting k = false → (s.clear.kerb k).cache[bits a 8 18]? = none →
    Completes (.kerbFault k 1 a) s ((s.clear.kerbError k 1 a).logError (srcKerb k) 0x40 0x0302 0 0 (srcKerb k) none 0 a
      0xFFFFFFFF)) ∧
  (∀ (s : State) (k cause a : Nat), (cause ≤ 4 → s.clear.kerbTesting k = true →
      Completes (.kerbFault k cause a) s (s.clear.kerbError k cause a)) ∧
    (4 < cause → Completes (.kerbFault k cause a) s s.clear)) ∧
  (∀ (s : State) (k : Nat) (ok : Bool), (s.clear.kerb k).resetting = false → Completes (.kerbResetDone k ok) s s.clear) ∧
  (∀ (s : State) (k : Nat), (s.clear.kerb k).resetting = true → Completes (.kerbResetDone k true) s
    (((s.clear.endKerbTest k).modKerb k fun x =>
      { x with resetting := false, link := if (if x.link = 0 then x.secondUp else x.homeUp) then 1 - x.link else x.link }).issueAll)) ∧
  (∀ (s : State) (k : Nat), (s.clear.kerb k).resetting = true → Completes (.kerbResetDone k false) s
    (((s.clear.endKerbTest k).modKerb k fun x => { x with resetting := false, homeUp := false, secondUp := false }).kerbOffline k)) ∧
  (∀ (s : State) (k : Nat), Completes (.linkError false k) s
    (((s.clear.kerbError k 5 0).logError (srcKerb k) 0x40 0x0306
      (if (if (s.clear.kerb k).link = 0 then (s.clear.kerb k).secondUp else (s.clear.kerb k).homeUp) then 0 else 2) 0
      (srcKerb k) none 0 (s.clear.kerb k).link 0xFFFFFFFF).linkLost k (s.clear.kerb k).link)) ∧
  (∀ (s : State) (u : Nat) (e : Dev), e = (s.clear.draw.2.logError (srcArcade u) 0x40 (s.clear.draw.1.toNat % 2 ^ 16) 0 0 (srcArcade u)
    none 0 (s.clear.fget (Reg.ARC_STAT u) Fld.ARC_STAT_LINK) 0xFFFFFFFF).linkLost (48 + u)
      (s.clear.fget (Reg.ARC_STAT u) Fld.ARC_STAT_LINK) →
    (e.arcadeLinkUp u false = true ∨ e.arcadeLinkUp u true = true → Completes (.linkError true u) s e) ∧
    (e.arcadeLinkUp u false = false → e.arcadeLinkUp u true = false →
      Completes (.linkError true u) s (e.shutDown 3 0x0605 (srcArcade u) 0)))

/-! Kerbs, flash, queries and jobs. -/

/-- QUERY_BLOCK_ADMIT, THETA_SHARE and THETA_RETURN: a query block on a list that has room is admitted and its head is read; a Kerb sends its
threshold of a query searched on several Kerbs, and the Gate keeps the best; the Kerb adopts the Gate's where it is better than its
own, and keeps its own where it is not. -/
def Obligations.QueryBlocksComplete : Prop :=
  (∀ (s : State) (k id : Nat) (b : QBlock) (v : Version) (qq : QbQuery) (rest : List QbQuery) (e : Dev),
    s.clear.qblock k id = some b → b.admitted = false → s.clear.canAdmit k b = true → s.clear.versionFor b = some v →
    b.queries = qq :: rest → b.phase = .head →
    e = (s.clear.modQb k id fun b => { b with admitted := true }).startHead k { b with admitted := true } v →
    Completes (.queryBlockAdmit k id) s ((e.qbRun k id (e.qbFuel k id)).afterKerb k)) ∧
  (∀ (s : State) (k : Nat), (s.clear.policy k).thresholdShare = false → Completes (.thetaShare k) s s.clear) ∧
  (∀ (s : State) (k : Nat) (q : Query) (v : Version) (t : Datum), (s.clear.policy k).thresholdShare = true →
    s.clear.residents k = [q] → 2 ≤ q.kerbs.length → s.clear.versionOf q.desc.ns q.version = some v →
    t = thetaOf v.params.dist (q.service.depth q.desc.k) (AMap.get q.heaps k []) →
    (q.gateTheta = none → Completes (.thetaShare k) s
      ((s.clear.modQuery q.id fun q => { q with gateTheta := some t }).emit (.theta q.id k (enc32 t)))) ∧
    (∀ g, q.gateTheta = some g → Completes (.thetaShare k) s
      ((s.clear.modQuery q.id fun q => { q with gateTheta := some (thetaBest v.params.dist g t) }).emit (.theta q.id k (enc32 t))))) ∧
  (∀ (s : State) (k i : Nat) (q : Query) (v : Version) (t : Datum), s.clear.queryOf i = some q →
    s.clear.versionOf q.desc.ns q.version = some v → q.gateTheta = some t →
    (betterScore v.params.dist t (s.clear.thetaAt k v.params.dist q) = true → Completes (.thetaReturn k i (BitVec.ofNat 32 (enc32 t))) s
      (s.clear.modQuery i fun q => { q with thetas := AMap.put q.thetas k t })) ∧
    (betterScore v.params.dist t (s.clear.thetaAt k v.params.dist q) = false → Completes (.thetaReturn k i (BitVec.ofNat 32 (enc32 t))) s
      s.clear))

/-- SUSPEND_TIMEOUT, MUTABLE_ROW_TIMEOUT, RECLAIM_VICTIM, JOURNAL_CHECKPOINT and SECURE_DEALLOC_DRAINED complete in every state. A suspended
operation is due again and its die takes its next operation; the page that a member of an open MUTABLE superblock has begun is
programmed as it stands, its place for further units is gone, and a group without an open MUTABLE superblock is left as it is; a
group with fewer than 12 free superblocks reclaims its victim in the class of writes, one with more does so in the class of background
work where a slot names reclaim and it is not held, and otherwise nothing changes; in a slot that names it, once more than 4 GiB were
journalled, the checkpoint takes the journalled mapping and is counted, and otherwise nothing changes; a secure erasure is journalled
and its superblocks are emptied once no earlier view holds its ranges, and nothing changes before or after that. -/
def Obligations.MediaEventsComplete : Prop :=
  (∀ (s : State) (k e : Nat), Completes (.suspendTimeout k e) s
    ((s.clear.modDie k e fun x => { x with resume := x.suspended.isSome }).issue k e)) ∧
  (∀ (s : State) (g : Nat), (s.clear.media.sbs.filter fun x => x.1 / 2048 = g && x.2.state = .open && x.2.mutable) = [] →
    Completes (.mutableRowTimeout g) s s.clear) ∧
  (∀ (s : State) (g b m : Nat) (z : SuperBlock) (u : ProgUnit) (us : List ProgUnit), b < 2048 →
    (2048 * g + b, z) ∈ s.clear.media.sbs → z.state = .open → z.mutable = true → m ∈ s.clear.dataMembers g b →
    AMap.sorted s.clear.media.partials = true → AMap.look s.clear.media.partials (16 * g + m) = some (u :: us) → u.loc.bg = b →
    ∃ t, Completes (.mutableRowTimeout g) s t ∧ AMap.look t.media.partials (16 * g + m) = none ∧
      Program.mk g m b (AMap.get (s.clear.sb g b).cursors m 0 - 1) false false (u :: us) ∈ t.media.programs) ∧
  (∀ (s : State) (g : Nat), ∃ t, Completes (.mutableRowTimeout g) s t ∧ t.mems = s.dev.mems) ∧
  (∀ (s : State) (g p b : Nat), (s.clear.freeSbs g).length < 12 → s.clear.chooseVictim g (p = 2) false = some b →
    Completes (.reclaimVictim g p) s (s.clear.addVictim g b .write [])) ∧
  (∀ (s : State) (g p b : Nat), 12 ≤ (s.clear.freeSbs g).length → s.clear.slotNames 6 = true →
    s.clear.fbit Reg.FTL_CTL Fld.FTL_CTL_RECLAIM_HOLD = false →
    s.clear.chooseVictim g (p = 2) (decide (32 ≤ (s.clear.freeSbs g).length)) = some b →
    Completes (.reclaimVictim g p) s (s.clear.addVictim g b .background [])) ∧
  (∀ (s : State) (g p : Nat), 12 ≤ (s.clear.freeSbs g).length ∧ (s.clear.slotNames 6 = false ∨
    s.clear.fbit Reg.FTL_CTL Fld.FTL_CTL_RECLAIM_HOLD = true) ∨
    s.clear.chooseVictim g (p = 2) (decide (32 ≤ (s.clear.freeSbs g).length)) = none → Completes (.reclaimVictim g p) s s.clear) ∧
  (∀ s : State, s.clear.slotNames 11 = true → 2 ^ 32 < s.clear.media.sinceCheckpoint → ∃ t, Completes .journalCheckpoint s t ∧
    t.media.checkpoint = s.clear.journalledMap ∧ t.mems = s.dev.mems ∧
    t.fget Reg.FTL_JOURNAL Fld.FTL_JOURNAL_CHECKPOINTS = min (s.clear.fget Reg.FTL_JOURNAL Fld.FTL_JOURNAL_CHECKPOINTS + 1)
      (2 ^ Fld.FTL_JOURNAL_CHECKPOINTS.width - 1)) ∧
  (∀ s : State, s.clear.slotNames 11 = false ∨ s.clear.media.sinceCheckpoint ≤ 2 ^ 32 → Completes .journalCheckpoint s s.clear) ∧
  (∀ (s : State) (i : Nat) (e : Erasure), AMap.look s.clear.media.erasures i = some e → e.journalled = false →
    (s.clear.media.stale.any fun x => s.clear.covers e x.ns x.unit) = false →
    Completes (.secureDeallocDrained i) s (s.clear.eraseCopies i e)) ∧
  (∀ (s : State) (i : Nat), (∀ e, AMap.look s.clear.media.erasures i = some e → e.journalled = true ∨
    (s.clear.media.stale.any fun x => s.clear.covers e x.ns x.unit) = true) → Completes (.secureDeallocDrained i) s s.clear)

/-- NAND_PROGRAM_DONE, NAND_ERASE_DONE and FLASH_PIECE_READ_DONE: a verified program counts its pieces, its units are programmed and the die
takes its next operation; one that does not verify is put first in the die's queue again; a verified erase raises its block group's
epoch and drops its cached pieces; a read that its die answers takes its effects on the media, and its piece arrives. -/
def Obligations.DieOperationsEnd : Prop :=
  (∀ (s : State) (k j : Nat) (o : DieOp) (e : Dev), j < 32 → (s.clear.die k j).busy = some o → o.kind = .program → o.purpose = .program →
    e = (s.clear.modDie k j fun x => { x with busy := none }).fadd (Reg.KERB_CH_PIECES k (j / 4)) Fld.KERB_CH_PIECES_PIECES 16 →
    (∀ p, (e.media.programs.find? fun p => p.group = groupOfDie (32 * k + j) && p.member = memberOfDie (32 * k + j) && p.sb = o.ns &&
      p.page = o.piece) = some p →
      Completes (.nandProgramDone k j true) s ((e.programmed p o.cls).issue k j).flushCheck ∧
      Completes (.nandProgramDone k j false) s
        ((e.modDie k j fun x => { x with queue := { o with since := 0, suspends := 0 } :: x.queue }).issue k j).flushCheck)) ∧
  (∀ (s : State) (k j : Nat) (o : DieOp) (e : Dev), s.clear.host.wipe = none → (s.clear.die k j).busy = some o → o.kind = .erase →
    s.clear.victimOf (groupOfDie (32 * k + j)) o.piece = none →
    e = (((s.clear.modDie k j fun x => { x with busy := none }).modBg (2048 * (32 * k + j) + o.piece) fun x =>
      { x with epoch := (x.epoch + 1) % 2 ^ 32, intent := false, reads := 0 }).cacheDropWhere k fun p =>
        Dev.generationBg p.generation = 2048 * (32 * k + j) + o.piece).journalPut (.eraseDone (32 * k + j) o.piece) →
    e.victimOf (groupOfDie (32 * k + j)) o.piece = none → Completes (.nandEraseDone k j true) s
      ((e.modMedia fun m => { m with rewrites := m.rewrites.filter (· ≠ 2048 * (32 * k + j) + o.piece) }).issue k j)) ∧
  (∀ (s : State) (k j step bits : Nat) (o : DieOp) (e : Dev), k < 48 → j < 32 → step ≤ 5 → (s.clear.die k j).busy = some o → o.kind = .read →
    s.clear.dieOk (32 * k + j) = true → s.clear.kerbOnline k = true →
    e = (s.clear.modDie k j fun x => { x with busy := none }).fadd (Reg.KERB_CH_PIECES k (j / 4)) Fld.KERB_CH_PIECES_PIECES
      (match o.purpose with
        | .high _ => 16
        | .relocate _ => if s.clear.corpus o.ns then 16 else 1
        | _ => 1) →
    Completes (.flashPieceReadDone k j step bits) s
      (((e.readEffects k j o (s.clear.readStep k (32 * k + j) (max 1 step) (Dev.placeOf o.generation)) bits (match o.purpose with
        | .high _ => 16
        | .relocate _ => if s.clear.corpus o.ns then 16 else 1
        | _ => 1) true).arrives k o (s.clear.readStep k (32 * k + j) (max 1 step) (Dev.placeOf o.generation) = 5)).issue k j))

/-- PAYLOAD_FETCH_DONE, GATHER_WINDOW_CLOSE and SWEEP_WINDOW_CLOSE: a payload that has come is held by its query, which waits for its window,
and GATHER_FILL encodes it early with others of its service where its setting says so (R470; log entry 24 says when a batch is formed);
where a gather close came before the payload of a SWEEP query its stages start at once; one that could not be read fails the query
with Data Transfer Error; a gather close brings a waiting query to its version and starts its stages, and starts those of a waiting
SWEEP query; a sweep close forms the pass of a waiting SWEEP query; a window's changed fields are in force after its close. -/
def Obligations.WindowEventsComplete : Prop :=
  (∀ (s : State) (i : Nat) (q : Query) (b : List Byte), s.clear.queryOf i = some q → q.phase = .fetching → q.resolved = false →
    (q.desc.payloadKind = 0 ∨ b.length % (if q.desc.payloadKind = 1 then 4 else 2) = 0) →
    ∃ (t : Dev) (z : Query), t.queryOf i = some z ∧ z.payload = b ∧
      z.paid = true ∧ z.phase = .waiting ∧ (q.desc.payloadKind = 1 → z.vector = table32 b 0 (b.length / 4)) ∧
      t.mems = s.dev.mems ∧
      (q.closeBeat = 0 → Completes (.payloadFetchDone i (.bytes b)) s (t.encodeAhead q.service) ∧
        (s.clear.earlyRows = 0 → t.encodeAhead q.service = t)) ∧
      (q.closeBeat ≠ 0 → Completes (.payloadFetchDone i (.bytes b)) s (t.startStages i).driveStages)) ∧
  (∀ (s : State) (i : Nat) (q : Query), s.clear.queryOf i = some q → q.phase = .fetching →
    Completes (.payloadFetchDone i .unreadable) s ((s.clear.failQuery i .dataTransferError false).driveStages)) ∧
  (∀ (s : State) (i : Nat) (q : Query) (d e : Dev), d = s.clear.reach s.clear.gatherAt → d.changes = [] → d.queries = [(i, q)] →
    q.id = i → q.desc.sweep = false → q.resolved = false → q.phase = .waiting → q.arrivalNs < d.time.ns → q.desc.atBeat = false →
    e = ((((d.resolve i).modQuery i fun q => { q with closeBeat := d.beat + 1 }).gatherRecord q.service.id 1
      q.ahead.toList.length (((d.resolve i).modQuery i fun q => { q with closeBeat := d.beat + 1 }).portOf q.queue)).startStages i) →
    Completes .gatherWindowClose s
      ({ e with time := { e.time with lastGather := e.time.ns } } : Dev).adoptGather.driveStages.gatherFill) ∧
  (∀ (s : State) (i : Nat) (q : Query) (d e : Dev), d = s.clear.reach s.clear.gatherAt → d.changes = [] → d.queries = [(i, q)] →
    q.id = i → q.desc.sweep = true → q.closeBeat = 0 → q.phase = .waiting → q.arrivalNs < d.time.ns →
    e = ((d.modQuery i fun q => { q with closeBeat := d.beat + 1 }).gatherRecord q.service.id 1 q.ahead.toList.length
      ((d.modQuery i fun q => { q with closeBeat := d.beat + 1 }).portOf q.queue)).startStages i →
    Completes .gatherWindowClose s
      ({ e with time := { e.time with lastGather := e.time.ns } } : Dev).adoptGather.driveStages.gatherFill) ∧
  (∀ (s : State) (d : Dev), d = s.clear.reach s.clear.gatherAt → d.changes = [] → d.queries = [] →
    Completes .gatherWindowClose s
      ({ d with time := { d.time with lastGather := d.time.ns } } : Dev).adoptGather.driveStages.gatherFill) ∧
  (∀ (s : State) (i : Nat) (q z : Query) (d e : Dev), d = s.clear.reach s.clear.sweepAt → d.changes = [] → d.queries = [(i, q)] →
    q.id = i → d.sweepLeft = [] → q.desc.sweep = true → q.resolved = false → q.phase = .route → q.arrivalNs < d.time.ns →
    q.desc.atBeat = false → e = d.resolve i → e.queryOf i = some z → z.resolved = true → z.failed = none → e.sweepLeft = [] →
    Completes .sweepWindowClose s (Dev.adoptSweep { e.formPass q.desc.ns [i] with
      time := { (e.formPass q.desc.ns [i]).time with lastSweep := (e.formPass q.desc.ns [i]).time.ns } })) ∧
  (∀ (s : State) (d : Dev), d = s.clear.reach s.clear.sweepAt → d.changes = [] → d.queries = [] → d.sweepLeft = [] →
    Completes .sweepWindowClose s ({ d with time := { d.time with lastSweep := d.time.ns } } : Dev).adoptSweep)

/-- SWEEP_PASS_START and SWEEP_PASS_END: the first pass of an index whose queries have all been routed starts, with the lists that they
probe in ascending order, and its first block is sent; one whose lists have all been read at every Kerb ends with its record, its
queries are merged, and DRAINING versions that nothing uses any more are RETIRED. -/
def Obligations.SweepPassesComplete : Prop :=
  (∀ (s : State) (ns : Nat) (p : Pass) (qs : List Query) (ls : List Nat) (l : Nat) (rest : List Nat),
    s.clear.passes = [p] → p.ns = ns → p.started = false → qs = (p.queries.filter s.clear.alive).filterMap s.clear.queryOf →
    (∀ q ∈ qs, 3 ≤ Dev.phaseRank q.phase) → ls = sortBy (fun a b => decide (a < b)) ((qs.flatMap Dev.roundLists).dedup) →
    ls = l :: rest → Completes (.sweepPassStart ns) s
      (({ s.clear with passes := [{ p with started := true, startNs := s.clear.time.ns, lists := ls,
                                           left := (qs.filter fun q => (Dev.roundLists q).contains l).map (·.id) }] } : Dev).passNext
        ns 4096)) ∧
  (∀ (s : State) (ns : Nat) (p : Pass) (d e : Dev), s.clear.passes = [p] → p.ns = ns → p.started = true → p.lists = [] →
    (s.clear.kerbs.any fun k => k.2.qblocks.any fun b => b.sweeping ns) = false →
    d = (s.clear.traceEvent s.clear.srcSquare 0x13 (toLE 4 (match p.queries.findSome? s.clear.queryOf with
        | some q => q.version
        | none => 0) ++ capLE 4 p.queries.length ++ toLE 8 p.windowBeat ++ capLE 4 p.read ++ capLE 4 p.rereads ++
        capLE 4 ((p.routeNs - p.readyNs) / 1000) ++ capLE 4 ((s.clear.time.ns - p.startNs) / 1000000) ++
        List.replicate 16 0)).modVersion ns (match p.queries.findSome? s.clear.queryOf with
        | some q => q.version
        | none => 0) (fun v => { v with passes := v.passes + 1, reread := v.reread + p.rereads }) →
    e = { d with passes := [] } →
    Completes (.sweepPassEnd ns) s ((p.queries.filter e.alive).foldl (fun d i =>
      (d.modQuery i fun q => { q with probed := q.probes }).merge i) e).retireIdle.driveStages)

/-- STAGE_RUN_DONE: what a stage's run gave for a query takes it on: ENCODE its vector, ROUTE its ranking best first with ties to the lower
list, RERANK its scores and the cut of the cascade, whose survivors are compacted for the next stage, EXTRACT its spans or its next
token; while no run of the batch has completed there is nothing for it, and a success that has not prefilled its sequences only takes
the stages on; a run whose command failed fails the query with that status, and one that gives nothing fails it with Compute Aborted. -/
def Obligations.StageRunsComplete : Prop :=
  (∀ (d : Dev) (q : Query) (v : Version), d.versionOf q.desc.ns q.version = some v → v.params.graph = false →
    d.rankFor q = (Dev.rankLists v.params.dist (q.scores.take v.params.lists)).take (q.probes * 2 ^ q.entry.widenLimit)) ∧
  ∀ (s : State) (i bi : Nat) (q : Query) (b : Batch), s.clear.queryOf i = some q → s.clear.batchOf i = some (bi, b) →
    (∀ y out, ranEarly b i q = false → AMap.look (s.clear.runEnded bi b).batches bi = some y → y.result = none →
      Completes (.stageRunDone i out) s (s.clear.runEnded bi b)) ∧
    (∀ y out, ranEarly b i q = false → AMap.look (s.clear.runEnded bi b).batches bi = some y → y.result = some .success →
      Dev.servedIn y i q = false → Completes (.stageRunDone i out) s (s.clear.runEnded bi b).driveStages) ∧
    (∀ y out st, ranEarly b i q = false → AMap.look (s.clear.runEnded bi b).batches bi = some y → y.result = some st →
      st ≠ .success → Completes (.stageRunDone i out) s
        ((((s.clear.runEnded bi b).leaveBatch bi i).failQuery i st true).driveStages)) ∧
    ∀ (d : Dev) (y : Batch), RunGave s.clear i bi q b d y →
      Completes (.stageRunDone i .failed) s (((d.leaveBatch bi i).failQuery i .computeAborted true).driveStages) ∧
      (∀ es, q.phase = .waiting → Dev.finiteAll (es.map fun x => dec32 x.toNat) = true →
        Completes (.stageRunDone i (.vector es)) s ((((d.leaveBatch bi i).mark i 0).modQuery i fun q =>
          { q with vector := es.map fun x => dec32 x.toNat }).driveStages)) ∧
      (∀ es, q.phase = .encode → Dev.finiteAll (es.map fun x => dec32 x.toNat) = true →
        Completes (.stageRunDone i (.vector es)) s ((((d.leaveBatch bi i).mark i 0).modQuery i fun q =>
          { q with vector := es.map fun x => dec32 x.toNat, phase := .route }).driveStages)) ∧
      (∀ scores e, q.phase = .route → e = (d.leaveBatch bi i).modQuery i (fun x => { x with scores := scores, phase := .search }) →
        e.passes = [] → Completes (.stageRunDone i (.ranking scores)) s
          (e.modQuery i fun x => { x with ranking := e.rankFor x }).driveStages) ∧
      (∀ es, q.phase = .extract → q.service.generate = false → Completes (.stageRunDone i (.spans es)) s
        (((((d.leaveBatch bi i).modQuery i fun q' => { q' with
          spans := ((q.cands.take q.desc.k).zip es).map fun x => d.spanBytes q x.1 x.2 }).mark i 4).returnQuery i).driveStages)) ∧
      (∀ vs k c cs keep e, q.phase = .rerank k → q.service.cascade[k]? = some c →
        cs = (q.cands.zip (vs.map fun x => dec32 x.toNat)).map (fun (y, x) => { y with score := x, source := k + 1 }) →
        keep = cascadeExit c.keep q.desc.k c.exitBelow cs →
        e = ((d.leaveBatch bi i).modQuery i fun q =>
          { q with cands := keep, exits := q.exits ++ [cs.length - keep.length] }).provisionalRecord i →
        Completes (.stageRunDone i (.scores vs)) s (if k + 1 < q.service.cascadeStages && !keep.isEmpty then
          ((e.compact y keep.length).modQuery i fun q => { q with phase := .rerank (k + 1) }).driveStages
          else ((e.mark i 3).extractOrReturn i).driveStages)) ∧
      (∀ scores, q.phase = .extract → q.service.generate = true →
        Completes (.stageRunDone i (.step scores)) s (d.decodeStep bi i q scores))

/-- GATE_MERGE, RDMA_WRITE_ACK and REPAIR_BACKGROUND: the Gate merges a query whose Kerbs are done; the acknowledgement of a command's result
writes takes its queries on, and the command completes with its last one; the completion of another command that wrote is posted at its
acknowledgement; repair runs in a slot that names it, and does nothing outside one. -/
def Obligations.ResultEventsComplete : Prop :=
  (∀ (s : State) (i : Nat) (q : Query), s.clear.queryOf i = some q → q.phase = .search → q.desc.sweep = false →
    q.probed ≠ 0 → s.clear.searching i = false → Completes (.gateMerge i) s ((s.clear.merge i).driveStages)) ∧
  (∀ (s : State) (queue cid : Nat) (q : Query), s.clear.queriesOf queue cid = [q] → q.phase = .returning → q.unacked = true →
    q.finalWaits = false → Completes (.rdmaWriteAck queue { cid := cid }) s
      (((((s.clear.mark q.id 5).modQuery q.id fun q => { q with unacked := false, streaming := false, phase := .done }).settleQuery
        queue cid).ackEnd queue cid false).driveStages)) ∧
  (∀ (s : State) (queue cid : Nat) (q : Query), s.clear.queriesOf queue cid = [q] → q.phase = .returning → q.unacked = true →
    Completes (.rdmaWriteAck queue { cid := cid, failed := [q.index] }) s
      ((((s.clear.modQuery q.id fun q => { q with failed := some (q.failed.getD .dataTransferError), phase := .done, unacked := false,
                                                  streaming := false, finalWaits := false }).settleQuery queue cid).ackEnd queue cid true).driveStages)) ∧
  (∀ (s : State) (queue cid : Nat) (bad : List Nat), s.clear.queriesOf queue cid = [] →
    Completes (.rdmaWriteAck queue { cid := cid, failed := bad }) s
      (((s.clear.forget []).retireIdle.ackEnd queue cid (!bad.isEmpty)).driveStages)) ∧
  (∀ (s : State) (ns : Nat), s.clear.slotNames 8 = true → Completes (.repairBackground ns) s (s.clear.repairAll ns)) ∧
  (∀ (s : State) (ns : Nat), s.clear.slotNames 8 = false → Completes (.repairBackground ns) s s.clear)

/-- JOB_BATCH_START and JOB_BATCH_END: a running job whose batch may start takes its IDs and reads their passages, and stops with
DISTRICT_NOT_RESIDENT where a stage block of it is gone; a batch whose runs have ended appends its vectors, and NEXT_ID passes it; a
batch whose runs go on is left as it is. -/
def Obligations.JobEventsComplete : Prop :=
  (∀ (s : State) (i : Nat) (j : Job), AMap.look s.clear.jobs i = some j → j.state = .running → j.stage = 0 →
    s.clear.power.ps < 4 → 1000 * j.cycles < j.duty * s.clear.stageCycles j → j.slotsOnly = false →
    s.clear.jobBlocked j = true → Completes (.jobBatchStart i) s (s.clear.stopJob i .districtNotResident)) ∧
  (∀ (s : State) (i : Nat) (j : Job) (ids embed : List Nat) (after : Nat) (e : Dev), AMap.look s.clear.jobs i = some j → j.state = .running →
    j.stage = 0 → s.clear.power.ps < 4 → 1000 * j.cycles < j.duty * s.clear.stageCycles j → j.slotsOnly = false →
    s.clear.jobBlocked j = false → s.clear.takeIds j (j.idFirst + j.idCount - j.nextId) j.batchRows j.nextId = (ids, after) →
    e = (if j.nextId < after then s.clear.touchRead j.district (handleIndex j.coverage) (ceilDiv (after - j.nextId) 8)
      ((j.nextId - j.idFirst) / 8) else s.clear) →
    embed = ids.filter (fun id => !(e.idState j.ns id).free && !(e.idState j.ns id).tomb && !(e.idState j.ns id).exhausted) →
    Completes (.jobBatchStart i) s ((e.setJob i fun j' => { j' with
      batch := ids, embed := embed, after := after, startBeat := if j.begun then j.startBeat else e.beat, begun := true,
      stage := 6, turn := j'.turn + 1, reads := 0, lost := [], result := none }).readPassages i)) ∧
  (∀ (s : State) (i : Nat) (j : Job) (vs : List (Nat × List (BitVec 32) × List (BitVec 32))),
    AMap.look s.clear.jobs i = some j → j.stage ≠ 5 → Completes (.jobBatchEnd i vs) s s.clear) ∧
  (∀ (s : State) (i : Nat) (j : Job) (v : Version), AMap.look s.clear.jobs i = some j → j.state = .running → j.stage = 5 →
    j.embed = [] → j.lost = [] → j.nextId / 2 ^ 28 = j.after / 2 ^ 28 → s.clear.versionOf j.ns j.target = some v →
    ∃ e : Dev, e.bmem = s.dev.bmem ∧ e.nsMem = s.dev.nsMem ∧ (∃ z, AMap.look e.jobs i = some z ∧ z.nextId = j.after ∧ z.stage = 0 ∧
      z.skipped = j.skipped + j.batch.length) ∧ Completes (.jobBatchEnd i []) s (((e.jobBoundary i).follow i).driveJobs))

/-! Commands of hosts. -/

/-- A Flush, Write, Read, Write Zeroes, or Deallocate with or without the secure bit, that is admitted and that no earlier lock
holds, runs when it arrives: the next state is what its effect makes of the module, after the Gate has noted its queues' heads. -/
def Obligations.NvmCommandsRun : Prop :=
  (∀ (s : State) (h : Hdr) (r : Dev) (ns : Nat), Admits s.clear (.flush h ns) h r →
    Completes (.flush h ns) s (ranTo s.clear h (r.flushCmd h ns))) ∧
  (∀ (s : State) (h : Hdr) (r : Dev) (ns lba n : Nat) (b : List Byte), Admits s.clear (.write h ns lba n b) h r →
    Completes (.write h ns lba n b) s (ranTo s.clear h (r.writeCmd h ns lba n (some b) false (.write h ns lba n b)))) ∧
  (∀ (s : State) (h : Hdr) (r : Dev) (ns lba n : Nat), Admits s.clear (.read h ns lba n) h r →
    Completes (.read h ns lba n) s (ranTo s.clear h (r.readCmd h ns lba n false))) ∧
  (∀ (s : State) (h : Hdr) (r : Dev) (ns lba n : Nat), Admits s.clear (.writeZeroes h ns lba n) h r →
    Completes (.writeZeroes h ns lba n) s (ranTo s.clear h (r.writeCmd h ns lba n none false (.writeZeroes h ns lba n)))) ∧
  (∀ (s : State) (h : Hdr) (r : Dev) (ns : Nat) (rs : List LbaRange), Admits s.clear (.deallocate h ns rs) h r →
    Completes (.deallocate h ns rs) s (ranTo s.clear h (r.deallocCmd h ns rs false (.deallocate h ns rs)))) ∧
  (∀ (s : State) (h : Hdr) (r : Dev) (ns : Nat) (rs : List LbaRange), Admits s.clear (.secureDeallocate h ns rs) h r →
    Completes (.secureDeallocate h ns rs) s (ranTo s.clear h (r.deallocCmd h ns rs false (.secureDeallocate h ns rs))))

/-- An admitted command of search, indexes or compute runs when it arrives: QUERY, INGEST, DELETE, COMPUTE, CREATE, SEAL, SWITCH,
RETIRE, FILTER_LOAD, REPAIR, STATS. -/
def Obligations.SearchCommandsRun : Prop :=
  (∀ (s : State) (h : Hdr) (r : Dev) (n : Nat) (b : Fetch), Admits s.clear (.query h n b) h r →
    Completes (.query h n b) s (ranTo s.clear h (r.queryCmd h n b))) ∧
  (∀ (s : State) (h : Hdr) (r : Dev) (ns n : Nat) (given : Bool) (service text : Nat) (b : List Byte), Admits s.clear (.ingest h ns n given service text b) h r →
    Completes (.ingest h ns n given service text b) s (ranTo s.clear h (r.ingestCmd h ns n given service text b false))) ∧
  (∀ (s : State) (h : Hdr) (r : Dev) (ns id gen : Nat) (secure : Bool) (text lba n : Nat), Admits s.clear (.delete h ns id gen secure text lba n) h r →
    Completes (.delete h ns id gen secure text lba n) s (ranTo s.clear h (r.deleteCmd h ns id gen secure text lba n))) ∧
  (∀ (s : State) (h : Hdr) (r : Dev) (g n : Nat) (t0 : Bool) (hist list scale route gather buf : Nat), Admits s.clear (.compute h g n t0 hist list scale route gather buf) h r →
    Completes (.compute h g n t0 hist list scale route gather buf) s (ranTo s.clear h (r.compute h g n t0 hist list scale route gather buf))) ∧
  (∀ (s : State) (h : Hdr) (r : Dev) (ns : Nat) (b : List Byte), Admits s.clear (.create h ns b) h r →
    Completes (.create h ns b) s (ranTo s.clear h (r.createCmd h ns b))) ∧
  (∀ (s : State) (h : Hdr) (r : Dev) (ns v : Nat), Admits s.clear (.seal h ns v) h r →
    Completes (.seal h ns v) s (ranTo s.clear h (r.sealCmd h ns v))) ∧
  (∀ (s : State) (h : Hdr) (r : Dev) (ns v beat : Nat), Admits s.clear (.switch h ns v beat) h r →
    Completes (.switch h ns v beat) s (ranTo s.clear h (r.switchCmd h ns v beat))) ∧
  (∀ (s : State) (h : Hdr) (r : Dev) (ns v : Nat), Admits s.clear (.retire h ns v) h r →
    Completes (.retire h ns v) s (ranTo s.clear h (r.retireCmd h ns v))) ∧
  (∀ (s : State) (h : Hdr) (r : Dev) (first n : Nat) (b : List Byte), Admits s.clear (.filterLoad h first n b) h r →
    Completes (.filterLoad h first n b) s (ranTo s.clear h (r.filterLoadCmd h first n b))) ∧
  (∀ (s : State) (h : Hdr) (r : Dev) (ns : Nat), Admits s.clear (.repair h ns) h r →
    Completes (.repair h ns) s (ranTo s.clear h (r.repairCmd h ns))) ∧
  (∀ (s : State) (h : Hdr) (r : Dev) (ns len : Nat), Admits s.clear (.stats h ns len) h r →
    Completes (.stats h ns len) s (ranTo s.clear h (r.statsCmd h ns len)))

/-- An admitted PLACE command, or REPORT, runs when it arrives. -/
def Obligations.PlacementCommandsRun : Prop :=
  (∀ (s : State) (h : Hdr) (r : Dev) (desc : List Byte) (src : Fetch), Admits s.clear (.allocate h desc src) h r →
    Completes (.allocate h desc src) s (ranTo s.clear h (allocateCmd r h desc src false false))) ∧
  (∀ (s : State) (h : Hdr) (r : Dev) (desc : List Byte), Admits s.clear (.release h desc) h r →
    Completes (.release h desc) s (ranTo s.clear h (releaseCmd r h desc))) ∧
  (∀ (s : State) (h : Hdr) (r : Dev) (desc : List Byte), Admits s.clear (.update h desc) h r →
    Completes (.update h desc) s (ranTo s.clear h (updateCmd r h desc))) ∧
  (∀ (s : State) (h : Hdr) (r : Dev) (desc : List Byte) (src : Fetch), Admits s.clear (.copyIn h desc src) h r →
    Completes (.copyIn h desc src) s (ranTo s.clear h (copyInCmd r h desc src false false))) ∧
  (∀ (s : State) (h : Hdr) (r : Dev) (desc : List Byte), Admits s.clear (.copyOut h desc) h r →
    Completes (.copyOut h desc) s (ranTo s.clear h (copyOutCmd r h desc false false))) ∧
  (∀ (s : State) (h : Hdr) (r : Dev) (desc : List Byte), Admits s.clear (.bind h desc) h r →
    Completes (.bind h desc) s (ranTo s.clear h (bindCmd r h desc))) ∧
  (∀ (s : State) (h : Hdr) (r : Dev) (desc : List Byte), Admits s.clear (.unbind h desc) h r →
    Completes (.unbind h desc) s (ranTo s.clear h (unbindCmd r h desc))) ∧
  (∀ (s : State) (h : Hdr) (r : Dev) (len : Nat), Admits s.clear (.report h len) h r →
    Completes (.report h len) s (ranTo s.clear h (reportCmd r h len)))

/-- An admitted register access, NVMe admin command or Fabrics command runs when it arrives. -/
def Obligations.AdminCommandsRun : Prop :=
  (∀ (s : State) (h : Hdr) (r : Dev) (a n : Nat) (wide : Bool) (len : Nat), Admits s.clear (.registerRead h a n wide len) h r →
    Completes (.registerRead h a n wide len) s (ranTo s.clear h (r.registerReadCmd h a n wide len))) ∧
  (∀ (s : State) (h : Hdr) (r : Dev) (a : Nat) (wide : Bool) (v : Nat), Admits s.clear (.registerWrite h a wide v) h r →
    Completes (.registerWrite h a wide v) s (ranTo s.clear h (r.registerWriteCmd h a wide v))) ∧
  (∀ (s : State) (h : Hdr) (r : Dev) (page len : Nat), Admits s.clear (.getLogPage h page len) h r →
    Completes (.getLogPage h page len) s (ranTo s.clear h (r.getLogPageCmd h page len))) ∧
  (∀ (s : State) (h : Hdr) (r : Dev) (cns ns : Nat), Admits s.clear (.identify h cns ns) h r →
    Completes (.identify h cns ns) s (ranTo s.clear h (r.identifyCmd h cns ns))) ∧
  (∀ (s : State) (h : Hdr) (r : Dev) (sq cid : Nat), Admits s.clear (.abort h sq cid) h r →
    Completes (.abort h sq cid) s (ranTo s.clear h (r.abortCmd h sq cid))) ∧
  (∀ (s : State) (h : Hdr) (r : Dev) (f : Nat) (save : Bool) (dw11 : Nat) (x : FeatureRest), Admits s.clear (.setFeatures h f save dw11 x) h r →
    Completes (.setFeatures h f save dw11 x) s (ranTo s.clear h (r.setFeaturesCmd h f save dw11 x.dw12 x.data))) ∧
  (∀ (s : State) (h : Hdr) (r : Dev) (f sel dw11 : Nat), Admits s.clear (.getFeatures h f sel dw11) h r →
    Completes (.getFeatures h f sel dw11) s (ranTo s.clear h (r.getFeaturesCmd h f sel dw11))) ∧
  (∀ (s : State) (h : Hdr) (r : Dev), Admits s.clear (.asynchronousEventRequest h) h r →
    Completes (.asynchronousEventRequest h) s (ranTo s.clear h (r.asyncCmd h))) ∧
  (∀ (s : State) (h : Hdr) (r : Dev) (o : Nat) (b : List Byte), Admits s.clear (.firmwareImageDownload h o b) h r →
    Completes (.firmwareImageDownload h o b) s (ranTo s.clear h (imageDownloadCmd r h o b))) ∧
  (∀ (s : State) (h : Hdr) (r : Dev) (slot action : Nat), Admits s.clear (.firmwareCommit h slot action) h r →
    Completes (.firmwareCommit h slot action) s (ranTo s.clear h (firmwareCommitCmd r h slot action))) ∧
  (∀ (s : State) (h : Hdr) (r : Dev), Admits s.clear (.keepAlive h) h r →
    Completes (.keepAlive h) s (ranTo s.clear h (r.finish h.queue h.cid .success))) ∧
  (∀ (s : State) (h : Hdr) (r : Dev) (ns lbaf ses : Nat), Admits s.clear (.formatNvm h ns lbaf ses) h r →
    Completes (.formatNvm h ns lbaf ses) s (ranTo s.clear h (r.formatCmd h ns lbaf ses))) ∧
  (∀ (s : State) (h : Hdr) (r : Dev) (action : Nat) (ause nd : Bool), Admits s.clear (.sanitize h action ause nd) h r →
    Completes (.sanitize h action ause nd) s (ranTo s.clear h (r.sanitizeCmd h action ause nd))) ∧
  (∀ (s : State) (h : Hdr) (r : Dev) (o : Nat) (wide : Bool), Admits s.clear (.propertyGet h o wide) h r →
    Completes (.propertyGet h o wide) s (ranTo s.clear h (r.propertyGetCmd h o wide))) ∧
  (∀ (s : State) (h : Hdr) (r : Dev) (o v : Nat), Admits s.clear (.propertySet h o v) h r →
    Completes (.propertySet h o v) s (ranTo s.clear h (r.propertySetCmd h o v))) ∧
  (∀ (s : State) (h : Hdr) (r : Dev) (qid : Nat), Admits s.clear (.disconnect h qid) h r →
    Completes (.disconnect h qid) s (ranTo s.clear h (r.disconnectCmd h qid)))

/-- An admitted plan command, SNAPSHOT or ATTEST runs when it arrives. -/
def Obligations.PlanCommandsRun : Prop :=
  (∀ (s : State) (h : Hdr) (r : Dev) (act : Bool) (b : List Byte), Admits s.clear (.planLoad h act b) h r →
    Completes (.planLoad h act b) s (ranTo s.clear h (planLoadCmd r h act b))) ∧
  (∀ (s : State) (h : Hdr) (r : Dev) (act : Bool) (len : Nat), Admits s.clear (.planDiscard h act len) h r →
    Completes (.planDiscard h act len) s (ranTo s.clear h (planDiscardCmd r h act len))) ∧
  (∀ (s : State) (h : Hdr) (r : Dev) (b : List Byte), Admits s.clear (.apply h b) h r →
    Completes (.apply h b) s (ranTo s.clear h (applyCmd r h b))) ∧
  (∀ (s : State) (h : Hdr) (r : Dev), Admits s.clear (.commit h) h r →
    Completes (.commit h) s (ranTo s.clear h (commitCmd r h))) ∧
  (∀ (s : State) (h : Hdr) (r : Dev), Admits s.clear (.revert h) h r →
    Completes (.revert h) s (ranTo s.clear h (revertCmd r h))) ∧
  (∀ (s : State) (h : Hdr) (r : Dev) (kind len : Nat), Admits s.clear (.snapshot h kind len) h r →
    Completes (.snapshot h kind len) s (ranTo s.clear h (snapshotCmd r h kind len))) ∧
  (∀ (s : State) (h : Hdr) (r : Dev) (nonce : List Byte) (len : Nat), Admits s.clear (.attest h nonce len) h r →
    Completes (.attest h nonce len) s (ranTo s.clear h (attestCmd r h nonce len)))

/-- An admitted lease command runs when it arrives. -/
def Obligations.LeaseCommandsRun : Prop :=
  (∀ (s : State) (h : Hdr) (r : Dev) (t0 t1 notice idle : Nat), Admits s.clear (.leaseLend h t0 t1 notice idle) h r →
    Completes (.leaseLend h t0 t1 notice idle) s (ranTo s.clear h (leaseLendCmd r h t0 t1 notice idle))) ∧
  (∀ (s : State) (h : Hdr) (r : Dev) (peer : Nat) (b : List Byte), Admits s.clear (.leasePeer h peer b) h r →
    Completes (.leasePeer h peer b) s (ranTo s.clear h (leasePeerCmd r h peer b))) ∧
  (∀ (s : State) (h : Hdr) (r : Dev) (peer set tier gib : Nat), Admits s.clear (.leaseAcquire h peer set tier gib) h r →
    Completes (.leaseAcquire h peer set tier gib) s (ranTo s.clear h (leaseAcquireCmd r h peer set tier gib))) ∧
  (∀ (s : State) (h : Hdr) (r : Dev) (l : Nat), Admits s.clear (.leaseReturn h l) h r →
    Completes (.leaseReturn h l) s (ranTo s.clear h (leaseReturnCmd r h l))) ∧
  (∀ (s : State) (h : Hdr) (r : Dev) (l notice : Nat), Admits s.clear (.leaseRevoke h l notice) h r →
    Completes (.leaseRevoke h l notice) s (ranTo s.clear h (leaseRevokeCmd r h l notice))) ∧
  (∀ (s : State) (h : Hdr) (r : Dev) (len : Nat), Admits s.clear (.leaseStatus h len) h r →
    Completes (.leaseStatus h len) s (ranTo s.clear h (leaseStatusCmd r h len)))

/-- CONNECT over a link that is up completes: with QID 0 it makes the association, with another it connects an I/O queue of one. -/
def Obligations.ConnectsComplete : Prop :=
  ∀ (s : State) (h : Hdr) (a port link : Nat) (rdma : Bool) (depth kato : Nat) (nqn : List Byte) (mtu reads deep : Nat),
    h.queue = 4096 + a → a < 2048 → port < 2 → link < 2 → s.clear.known h = false →
    bits (s.clear.fget (Reg.HIF_PORT_STAT port) Fld.HIF_PORT_STAT_LINK_UP) link 1 = 1 → s.clear.contain.shutdown = 0 →
    h.unlisted = false → h.fuse = 0 → h.reserved = false → (∀ w, s.clear.host.wipe = some w → w.sanitize = false) →
    Completes (.connect h a 0 port link rdma depth kato nqn mtu reads deep) s
      (s.clear.connectAdmin h a port link rdma depth kato nqn mtu reads deep) ∧
    ∀ qid x, qid ≠ 0 → s.clear.assoc a = some x → Completes (.connect h a qid port link rdma depth kato nqn mtu reads deep) s
      (s.clear.connectIo h a qid depth x)

/-- A Gate that has a queue to serve dispatches its head; a command whose earlier locks are gone proceeds; an association whose
keep-alive timer expires ends. -/
def Obligations.GateEventsComplete : Prop :=
  (∀ (s : State) (g q : Nat) (a : GateArb) (y : Bool) (c : Instr) (h : Hdr), g < 2 →
    s.clear.arbitrate g ((s.clear.heads g).map Dev.queueOf) = some (q, a, y) →
    ((s.clear.heads g).find? fun c => Dev.queueOf c = q) = some c → hdrOf c = some h →
    ((s.clear.serveQueue g q a y).leaveQueue c h).dispatchCheck c h = none →
    (((s.clear.serveQueue g q a y).leaveQueue c h).registerLocks c h).lockBlocked c h = false →
    Completes (.gateDispatch g) s
      (((((s.clear.serveQueue g q a y).leaveQueue c h).registerLocks c h).hostBody c false).noteHeads g)) ∧
  (∀ (s : State) (q cid : Nat) (c : Instr) (h : Hdr), s.clear.host.lockWaiters = [c] → hdrOf c = some h → h.queue = q →
    h.cid = cid → s.clear.lockBlocked c h = false → Completes (.rangeLockAcquire q cid) s
      (({ s.clear with host := { s.clear.host with lockWaiters := [] } } : Dev).hostBody c false)) ∧
  (∀ (s : State) (a : Nat) (x : Assoc), AMap.look s.clear.host.assocs a = some x →
    Completes (.keepAliveExpiry a) s (s.clear.endAssoc a))

/-! Register accesses and the monitor. -/

/-- An admitted row of the register operations of a host runs as the REGISTER_READ or REGISTER_WRITE that it is. -/
def Obligations.HostRegisterOperationsRun : Prop :=
  ∀ (s : State) (c : Instr) (h : Hdr) (r : Dev) (x : Access), Admits s.clear c h r → accessOf r c = some (.host h, x) →
    Completes c s (ranTo s.clear h (r.accessCmd h x))

/-- Each register operation that the monitor asks for in a session of level 1, and whose write the rules of its register allow, takes
effect and is answered: errors are injected in self-test, counters are cleared, resets run, lights and windows change, the loops,
the trace and device time follow. -/
def Obligations.RegisterWritesTakeEffect : Prop :=
  ∀ (s : State) (seq : Nat), Serves s.clear seq 1 false →
    (∀ i, i < 4 → Tidy s.clear.heard Reg.PLAN_CTL → ∃ v, Completes (.abandon (.monitor seq) i) s
      (answered s.clear.heard ((s.clear.heard.setReg Reg.PLAN_CTL v).abandon i 0x11) seq)) ∧
    (∀ b c t, b < 288 → c < 4 → t < 7 → s.clear.quarantined (b / 72) = false → s.clear.blockTesting b = true →
      (∀ x, (s.clear.block b).cells[c]? = some x → x.fenced = false) → ∃ e, Completes (.cellInject (.monitor seq) b c t) s e ∧
        e.fget (Reg.CELL_INJECT b c) Fld.CELL_INJECT_TARGET = t ∧ e.fbit (Reg.CELL_INJECT b c) Fld.CELL_INJECT_ARM = true) ∧
    (∀ b, b < 288 → s.clear.quarantined (b / 72) = false → s.clear.blockTesting b = true →
      ∃ e, Completes (.eccInject (.monitor seq) b) s e ∧ e.fbit (Reg.BLK_CTL b) Fld.BLK_CTL_ECC_INJECT = true) ∧
    (∀ k, k < 48 → s.clear.kerbTesting k = true →
      ∃ e, Completes (.kerbInject (.monitor seq) k) s e ∧ e.fbit (Reg.KERB_CTL k) Fld.KERB_CTL_INJECT = true) ∧
    (∀ b, b < 288 → s.clear.quarantined (b / 72) = false → Tidy s.clear.heard (Reg.BLK_CTL b) →
      s.clear.fbit (Reg.BLK_CTL b) Fld.BLK_CTL_ECC_INJECT = false → ∃ e, Completes (.blkCountClear (.monitor seq) b) s e ∧
        e.reg (Reg.BLK_CMDS b) = 0 ∧ e.reg (Reg.BLK_DMA_BYTES b) = 0 ∧ e.reg (Reg.BLK_ECC b) = 0) ∧
    (∀ k, k < 48 → Tidy s.clear.heard (Reg.KERB_CTL k) → s.clear.fbit (Reg.KERB_CTL k) Fld.KERB_CTL_INJECT = false →
      (∃ v, Completes (.kerbCountClear (.monitor seq) k) s
        (answered s.clear.heard ((s.clear.heard.setReg (Reg.KERB_CTL k) v).clearKerbCounters k) seq)) ∧
      (∃ v, Completes (.cacheDrop (.monitor seq) k) s
        (answered s.clear.heard ((s.clear.heard.setReg (Reg.KERB_CTL k) v).dropCache k) seq)) ∧
      (s.clear.kerbTesting k = false → ∃ v, Completes (.kerbCtlReset (.monitor seq) k) s
        (answered s.clear.heard ((s.clear.heard.setReg (Reg.KERB_CTL k) v).kerbReset k) seq))) ∧
    (Tidy s.clear.heard Reg.FTL_CTL → (∃ v, Completes (.ftlCountClear (.monitor seq)) s
        (answered s.clear.heard (((s.clear.heard.setReg Reg.FTL_CTL v).clearCounters regRowsFtl 3).modMedia fun m => { m with padded := [] }) seq)) ∧
      ∀ on, ∃ e, Completes (.reclaimHold (.monitor seq) on) s e ∧ e.fbit Reg.FTL_CTL Fld.FTL_CTL_RECLAIM_HOLD = on ∧
        e.mems = s.dev.mems) ∧
    Completes (.hifCountClear (.monitor seq)) s (answered s.clear.heard (s.clear.heard.clearCounters regRowsHif 7) seq) ∧
    (∀ p, p < 2 → Completes (.portReset (.monitor seq) p) s (answered s.clear.heard (s.clear.heard.gateReset p) seq)) ∧
    (Tidy s.clear.heard Reg.PWR_CTL → (∃ v, Completes (.pwrCountClear (.monitor seq)) s
        (answered s.clear.heard ((s.clear.heard.setReg Reg.PWR_CTL v).clearCounters regRowsPwr 3) seq)) ∧
      ∀ on, ∃ e, Completes (.loopsFreeze (.monitor seq) on) s e ∧ e.frozen = on ∧ e.mems = s.dev.mems) ∧
    Completes (.secCountClear (.monitor seq)) s (answered s.clear.heard
      ((s.clear.heard.fset Reg.SEC_STAT Fld.SEC_STAT_VERIFY_FAILS 0).fset Reg.SEC_ATTEST Fld.SEC_ATTEST_SIGNED 0) seq) ∧
    (∀ q, s.clear.standby = some q → Completes (.failover (.monitor seq)) s
      (answered s.clear.heard (s.clear.heard.failTo q 4) seq)) ∧
    Completes (.deviceReset (.monitor seq)) s (answered s.clear.heard (s.clear.heard.resetD 0) seq) ∧
    (∀ q, q < 4 → s.clear.quarantined q = false → Completes (.quarterReset (.monitor seq) q) s
      (answered s.clear.heard (s.clear.heard.resetQ q 0) seq)) ∧
    (∀ b, b < 288 → s.clear.quarantined (b / 72) = false → (s.clear.logicalOf b).isSome = true →
      Completes (.blockReset (.monitor seq) b) s (answered s.clear.heard (s.clear.heard.resetB b) seq)) ∧
    (Tidy s.clear.heard Reg.TIME_CTL → ∀ on,
      (∃ v, bits v 0 1 = on.toNat ∧ Completes (.forceHoldover (.monitor seq) on) s
        (answered s.clear.heard (forceHold (s.clear.heard.setReg Reg.TIME_CTL v) on) seq)) ∧
      ∃ v, bits v 1 1 = on.toNat ∧ Completes (.ppsOut (.monitor seq) on) s
        (answered s.clear.heard (forceHold (s.clear.heard.setReg Reg.TIME_CTL v) s.clear.forced) seq)) ∧
    (∀ ns, s.clear.time.lock = .freeRun → s.clear.plan.timeBase.source = 2 → s.clear.time.ns ≤ ns → ns < 2 ^ 64 →
      Completes (.timeSet (.monitor seq) ns) s (answered s.clear.heard (s.clear.heard.stepForward ns) seq)) ∧
    (Tidy s.clear.heard Reg.TRC_CTL → s.clear.fget Reg.TRC_CTL Fld.TRC_CTL_MODE < 3 →
      (∀ m, m < 3 → s.clear.fbit Reg.TRC_CTL Fld.TRC_CTL_ENABLE = false →
        ∃ e, Completes (.traceMode (.monitor seq) m) s e ∧ e.fget Reg.TRC_CTL Fld.TRC_CTL_MODE = m) ∧
      (∀ on, ∃ e, Completes (.traceEnable (.monitor seq) on) s e ∧ e.fbit Reg.TRC_CTL Fld.TRC_CTL_ENABLE = on) ∧
      (∃ v, Completes (.arm (.monitor seq)) s
        (answered s.clear.heard (s.clear.heard.setReg Reg.TRC_CTL v).armTrace seq)) ∧
      (∃ v, Completes (.trigger (.monitor seq)) s
        (answered s.clear.heard ((s.clear.heard.setReg Reg.TRC_CTL v).traceTrigger 1 0 0) seq)) ∧
      (∃ v, Completes (.traceClear (.monitor seq)) s
        (answered s.clear.heard ((s.clear.heard.setReg Reg.TRC_CTL v).emptyTrace.setReg Reg.TRC_LOST 0) seq)) ∧
      ∀ n, n < 16 → ∃ e, Completes (.counterSample (.monitor seq) n) s e ∧
        e.fget Reg.TRC_CTL Fld.TRC_CTL_COUNTER_SAMPLE = n) ∧
    (∀ l v, l < 65536 → v < 2 ^ 32 →
      Completes (.lightValueWrite (.monitor seq) l v) s (answered s.clear.heard (s.clear.heard.writeLight l false v) seq) ∧
      Completes (.lightAddWrite (.monitor seq) l v) s (answered s.clear.heard (s.clear.heard.writeLight l true v) seq)) ∧
    (∀ l o (c : Bool), l < 65536 → o < 16 →
      o = s.clear.lightOwner l ∨ s.clear.fget (Reg.LGT_CTL l) Fld.LGT_CTL_WAITERS = 0 →
      ∃ e, Completes (.lightOwnerWrite (.monitor seq) l o c) s e ∧ e.lightOwner l = o ∧
        (c = true → e.fbit (Reg.LGT_CTL l) Fld.LGT_CTL_SATURATED = false)) ∧
    ∀ b x base len, b < 288 → x < 16 → base + len ≤ 128 → s.clear.quarantined (b / 72) = false →
      (s.clear.logicalOf b).isSome = true → (∀ y, y < 16 → y ≠ x → (s.clear.window b y).2 = 0 ∨ len = 0 ∨
        (s.clear.window b y).1 + (s.clear.window b y).2 ≤ 65536 * base ∨ 65536 * (base + len) ≤ (s.clear.window b y).1) →
      ∃ e, Completes (.bmwinWrite (.monitor seq) b x base len) s e ∧ e.window b x = (65536 * base, 65536 * len)

/-- A read of a register whose fields a read clears, by the monitor, answers with the register's value and clears those fields. -/
def Obligations.ReadsClear : Prop :=
  ∀ (s : State) (seq : Nat), Serves s.clear seq 0 false →
    (∀ x, x < 16 → ∃ e, Completes (.fmtFlagsRead (.monitor seq) x) s e ∧ ReadClear e (Reg.CNT_FMT_FLAGS x) ∧
      e.out = [.frame 0x90 seq monOk (toLE 8 (s.clear.look (Reg.CNT_FMT_FLAGS x)))]) ∧
    (∃ e, Completes (.planErrRead (.monitor seq)) s e ∧ ReadClear e Reg.PLAN_ERR ∧
      e.out = [.frame 0x90 seq monOk (toLE 4 (s.clear.look Reg.PLAN_ERR))]) ∧
    (∀ i, i < 14 → ∃ e, Completes (.railPeakRead (.monitor seq) i) s e ∧ ReadClear e (Reg.PWR_RAIL i) ∧
      e.out = [.frame 0x90 seq monOk (toLE 8 (s.clear.look (Reg.PWR_RAIL i)))]) ∧
    ∀ i, 16 ≤ i → i < 226 → ∃ e, Completes (.tempMaxRead (.monitor seq) i) s e ∧ ReadClear e (Reg.PWR_TEMP i) ∧
      e.out = [.frame 0x90 seq monOk (toLE 8 (s.clear.look (Reg.PWR_TEMP i)))]

/-- Every request of the monitor that is served completes with its answer. -/
def Obligations.MonitorRequestsComplete : Prop :=
  ∀ (s : State) (seq : Nat),
    (Serves s.clear seq 0 true →
      Completes (.hello seq) s (s.clear.heard.answerHello seq) ∧
      Completes (.challenge seq) s (s.clear.heard.answerChallenge seq) ∧
      (∀ slot level duration signature, Completes (.respond seq slot level duration signature) s
        (s.clear.heard.answerRespond seq slot level duration signature)) ∧
      Completes (.logout seq) s ((s.clear.heard.setLevel 0 0).reply 0x04 seq monOk []) ∧
      ∀ rate ∈ [115200, 230400, 460800, 921600, 1500000, 3000000], ∃ e, Completes (.setBaud seq rate) s e ∧
        e.mon.baud = rate ∧ e.mon.newBaud = true ∧ e.out = [.frame 0x85 seq monOk []]) ∧
    (Serves s.clear seq 0 false →
      (∀ a n w keep, Completes (.regRead seq a n w keep) s (s.clear.heard.answerRead seq a n w keep)) ∧
      (∀ u, Completes (.counters seq u) s (s.clear.heard.answerCounters seq u)) ∧
      Completes (.planState seq) s (s.clear.heard.answerPlan seq)) ∧
    (Serves s.clear seq 1 false →
      (∀ a w v x, s.clear.heard.writeReg .monitor a w v = .ok x → Completes (.regWrite seq a w v) s
        (answered s.clear.heard x seq)) ∧
      (∀ kind o, Completes (.monitorSnapshot seq kind o) s (s.clear.heard.answerSnapshot seq kind o)) ∧
      (∀ ctl cls trig, Completes (.traceCtl seq ctl cls trig) s (s.clear.heard.answerTraceCtl seq ctl cls trig)) ∧
      Completes (.traceRead seq) s (s.clear.heard.answerTraceRead seq) ∧
      ∀ l i x, s.clear.heard.monitorReset l i = some x → Completes (.monitorReset seq l i) s (x.reply 0x50 seq monOk [])) ∧
    (Serves s.clear seq 2 false →
      (∀ b a n, b < 288 → n ≤ 65536 → a + n ≤ 2 ^ 23 → Completes (.memPeek seq 0 b a n) s
        (s.clear.heard.reply 0x12 seq monOk (s.clear.loadBm b a n))) ∧
      (∀ t b a n, Completes (.memPeek seq t b a n) s (s.clear.heard.answerPeek seq t b a n)) ∧
      (∀ b a data, b < 288 → data.length ≤ 65536 → a + data.length ≤ 2 ^ 23 → Completes (.memPoke seq 0 b a data) s
        ((s.clear.heard.storeBm b a data).reply 0x13 seq monOk [])) ∧
      (∀ t b a data, Completes (.memPoke seq t b a data) s (s.clear.heard.answerPoke seq t b a data)) ∧
      ∀ q, s.clear.standby = some q → Completes (.monitorFailover seq) s (s.clear.heard.failTo q 5)) ∧
    (Serves s.clear seq 2 true →
      ∀ o last data, Completes (.imageDownload seq o last data) s (s.clear.heard.answerImage seq o last data))

/-- A request above the level of the session is answered LEVEL and does nothing else: no byte of any memory and no register changes. -/
def Obligations.MonitorRefusesAboveLevel : Prop :=
  ∀ (s : State) (seq : Nat), s.clear.monitorUp = true → s.clear.monitorBusy = false →
    (s.clear.mon.lastFrame = none ∨ s.clear.mon.lastSeq ≠ some seq) → s.clear.romRecovery = false →
    s.clear.monitorLocked = false →
    (s.clear.sec.level < 1 →
      (∀ a w v, Completes (.regWrite seq a w v) s (s.clear.heard.reply 0x11 seq monLevel [])) ∧
      (∀ k o, Completes (.monitorSnapshot seq k o) s (s.clear.heard.reply 0x21 seq monLevel [])) ∧
      (∀ a b c, Completes (.traceCtl seq a b c) s (s.clear.heard.reply 0x30 seq monLevel [])) ∧
      Completes (.traceRead seq) s (s.clear.heard.reply 0x31 seq monLevel []) ∧
      ∀ l i, Completes (.monitorReset seq l i) s (s.clear.heard.reply 0x50 seq monLevel [])) ∧
    (s.clear.sec.level < 2 →
      (∀ t b a n, Completes (.memPeek seq t b a n) s (s.clear.heard.reply 0x12 seq monLevel [])) ∧
      (∀ t b a x, Completes (.memPoke seq t b a x) s (s.clear.heard.reply 0x13 seq monLevel [])) ∧
      Completes (.monitorFailover seq) s (s.clear.heard.reply 0x51 seq monLevel []) ∧
      ∀ o l x, Completes (.imageDownload seq o l x) s (s.clear.heard.reply 0x60 seq monLevel [])) ∧
    ∀ type, (s.clear.heard.reply type seq monLevel []).mems = s.dev.mems ∧
      (s.clear.heard.reply type seq monLevel []).regs = s.dev.regs

/-- The monitor's other events complete: a bad frame is discarded, a new rate reverts, a lockout runs out, a session ends. -/
def Obligations.MonitorEventsComplete : Prop :=
  (∀ s : State, Completes .monitorBadFrame s s.clear) ∧
  (∀ s : State, s.clear.mon.newBaud = true → Completes .baudRevert s
    { s.clear with mon := { s.clear.mon with baud := 115200, newBaud := false } }) ∧
  (∀ s : State, s.clear.sec.lockUntil ≠ 0 → ∃ e, Completes .monitorLockoutExpiry s e ∧ e.monitorLocked = false ∧
    s.clear.sec.lockUntil ≤ e.time.ns ∧ e.mems = s.dev.mems) ∧
  (∀ s : State, s.clear.sec.level ≠ 0 → ∃ e, Completes .sessionExpiry s e ∧ e.sec.level = 0 ∧
    s.clear.sec.sessionEnd ≤ e.time.ns ∧ e.mems = s.dev.mems)

/-! The plan, snapshots, configuration flash. -/

/-- Events of amendments, of configuration flash and of snapshots complete where they are due: a scope that drained in time takes
its amendment, a quiesce beyond its limit is abandoned with cause 0x10, an erase ends or resumes, a live sector is copied forward, a unit's section
joins the snapshot, a sample is taken. -/
def Obligations.PlanEventsComplete : Prop :=
  (∀ (s : State) (i : Nat) (c : Container), (s.clear.amend i).container = some c → (s.clear.amend i).step = .quiescing →
    s.clear.drained c.scope = true →
    (s.clear.beat ≤ (s.clear.amend i).startBeat + c.quiesceLimit → Completes (.quiesceDrained i) s (s.clear.applyAmend i)) ∧
    ((s.clear.amend i).startBeat + c.quiesceLimit < s.clear.beat → Completes (.quiesceDrained i) s (s.clear.abandon i 0x10))) ∧
  (∀ (s : State) (i : Nat) (c : Container) (d : Dev), (s.clear.amend i).container = some c → (s.clear.amend i).step = .quiescing →
    d = s.clear.reach (((s.clear.amend i).startBeat + c.quiesceLimit) * s.clear.period) →
    (d.drained c.scope = true ∧ d.beat ≤ (s.clear.amend i).startBeat + c.quiesceLimit →
      Completes (.quiesceTimeout i) s (d.applyAmend i)) ∧
    (d.drained c.scope = false ∨ (s.clear.amend i).startBeat + c.quiesceLimit < d.beat →
      Completes (.quiesceTimeout i) s (d.abandon i 0x10))) ∧
  (∀ (s : State) (q n m : Nat) (ok : Bool), q < 2 → (s.clear.flash q).erasing = some (n, m) → (s.clear.flash q).suspended = false →
    Completes (.configSectorEraseDone q ok) s ((s.clear.sectorErased q ok).settleWrites)) ∧
  (∀ (s : State) (q : Nat), q < 2 → ∃ e, Completes (.configEraseResume q) s e ∧ (e.flash q).suspended = false ∧
    e.mems = s.dev.mems) ∧
  (∀ (s : State) (q p : Nat), q < 2 → s.clear.sqState q ≠ .outOfService → (s.clear.flash 0).erasing = none →
    (s.clear.flash 1).erasing = none → s.clear.squares.writeSets = [] → oldestLive (s.clear.flash q) = some p →
    Completes (.configCopyForward q) s (s.clear.beginErase q (some p))) ∧
  (∀ (s : State) (kind i : Nat) (x : Standstill), s.clear.trace.standstill = some x →
    Completes (.standstillLatch kind i) s
      ((s.clear.reach x.latchTime).addSections (4096 * kind + i % 4096) (s.clear.unitSilent kind i)) ∧
    Completes (.snapshotUnitTimeout kind i) s
      ((s.clear.reach (x.latchTime + 10000000)).addSections (4096 * kind + i % 4096) true)) ∧
  (∀ s : State, s.clear.fbit Reg.TRC_TELEM Fld.TRC_TELEM_ENABLE = true → s.clear.slotNames 7 = true →
    s.clear.trace.nextSample ≤ s.clear.beat → Completes .telemetrySample s s.clear.telemetryTake)

/-! Placement and leases. -/

/-- The placement loop's events complete where they are due: a released object goes, one extent of a moving object is copied and
counted, the only movable object outside T0 is brought in, hotness is halved at each beat that is a multiple of 4,096. -/
def Obligations.PlacementEventsComplete : Prop :=
  (∀ (s : State) (i : Nat) (o : Obj), AMap.look s.clear.place.objs i = some o → o.releasing.isSome = true → o.uses = 0 →
    Completes (.releaseComplete i) s (s.clear.dropObject i)) ∧
  (∀ (s : State) (i x : Nat) (o : Obj) (m : Moving), AMap.look s.clear.place.objs i = some o → o.moving = some m →
    s.clear.slotNames 9 = true → o.lost = false → s.clear.place.moveCycle = s.clear.beat / s.clear.plan.windows.slotCycle →
    s.clear.place.movedExtents < 512 * s.clear.plan.caps.moveGib →
    s.clear.shareUsed o.district m.tier < s.clear.shareOf o.district m.tier → s.clear.nextPlace o m = some x →
    ∃ e, Completes (.objectMoveExtent i) s e ∧ e.place.movedExtents = s.clear.place.movedExtents + 1 ∧ e.mems = s.dev.mems) ∧
  (∀ (s : State) (i : Nat) (o : Obj), s.clear.frozen = false → s.clear.slotNames 9 = true → s.clear.place.objs = [(i, o)] →
    Dev.canMove o 0 = true → s.clear.plan.caps.moveGib ≠ 0 → s.clear.moveRoom o 0 = true →
    Completes .placement s (s.clear.startMove i 0)) ∧
  (∀ s : State, s.clear.beat % 4096 = 0 → ∃ e, Completes .hotnessDecay s e ∧ e.mems = s.dev.mems ∧
    e.place.objs = s.clear.place.objs.map fun (i, o) => (i, { o with reads := o.reads / 2, writes := o.writes / 2 })) ∧
  (∀ s : State, s.clear.beat % 4096 ≠ 0 → Completes .hotnessDecay s s.clear)

/-- The events of leases complete where they are due: a request that found no answer fails, the notice of a revocation is passed on,
leases end at their deadline or with an idle peer, a peer's request under its key is granted from the pool and one under another key is passed
over (the model's choice, log entry 29), a batch of copies is sent and its copy runs, which holds up those after it while it waits. -/
def Obligations.LeaseEventsComplete : Prop :=
  (∀ (s : State) (l q cid : Nat) (x : Lease), s.clear.lease l = some x → x.state = .asked → x.waiting = some (q, cid) →
    Completes (.leaseAcquireTimeout l) s
      (({ s.clear with place := { s.clear.place with leases := AMap.drop s.clear.place.leases l } } : Dev).finishSquare q cid
        .leaseRevoked)) ∧
  (∀ (s : State) (l deadline : Nat) (x : Lease), s.clear.lease l = some x → x.borrower = true → x.state = .active →
    Completes (.leaseNoticeReceived l deadline) s
      ((s.clear.modLease l fun x => { x with state := .revoking, deadline := deadline }).emit
        (.leaseNotice l x.set deadline)).asyncVendor) ∧
  (∀ (s : State) (l : Nat) (x : Lease), s.clear.lease l = some x → x.state = .revoking → x.deadline ≤ s.clear.beat →
    Completes (.leaseDeadline l) s (s.clear.endLease l)) ∧
  (∀ (s : State) (p l : Nat) (x : Peer) (y : Lease), AMap.look s.clear.place.peers p = some x →
    x.lastContact + s.clear.place.lendIdle ≤ s.clear.beat → s.clear.place.leases = [(l, y)] → y.borrower = false → y.peer = p →
    Completes (.leaseIdleTimeout p) s (s.clear.endLease l)) ∧
  (∀ (s : State) (p l set tier gib : Nat) (x : Peer), AMap.look s.clear.place.peers p = some x → tier ≤ 1 → gib ≠ 0 →
    gib ≤ s.clear.pool tier → ∀ key, x.hash = sha256Bytes key → ∃ e, Completes (.peerLeaseMessage (.request p l set tier gib key)) s e ∧
      e.out = [.peer p l 1 gib] ∧ e.place.nextLease = s.clear.place.nextLease + 1 ∧ e.mems = s.dev.mems) ∧
  (∀ (s : State) (p l set tier gib : Nat) (key : List Byte), (∀ x, AMap.look s.clear.place.peers p = some x →
    x.hash ≠ sha256Bytes key) → Completes (.peerLeaseMessage (.request p l set tier gib key)) s s.clear) ∧
  (∀ s : State, (∀ c ∈ s.clear.place.t3, s.clear.beat ≤ c.beat ∧ c.sent = false) → Completes .t3BatchSend s s.clear) ∧
  (∀ (s : State) (c : T3Copy) (h : Hdr) (x : List Byte) (e : Dev), s.clear.place.t3 = [c] → c.beat < s.clear.beat →
    c.sent = false → c.begun = false → c.command = .copyOut h x →
    e = copyOutCmd (({ s.clear with place := { s.clear.place with t3 := [] } } : Dev).emit (.t3Batch [(c.queue, c.cid)])) h x true
      false →
    Completes .t3BatchSend s (if (e.inflightOf c.queue c.cid).isSome then
      { e with place := { e.place with t3 := { c with sent := true, begun := true } :: e.place.t3 } } else e))

/-! Power and the loops. -/

/-- A beat passes: device time is at the next beat, stopped districts may start again and the meters begin anew; PWR_STAT shows the
input power; meters that agree with rail 0 within 5% raise no fault. -/
def Obligations.BeatsComplete : Prop :=
  (∀ (s : State) (w uj : Nat), w < 2 ^ Fld.PWR_STAT_INPUT_W.width → 0 < s.clear.period → ∃ e, Completes (.beatStart w uj) s e ∧
    (s.clear.beat + 1) * s.clear.period ≤ e.time.ns ∧ e.power.throttled = [] ∧ e.power.meterUj = 0 ∧ e.power.beatUj = [] ∧
    e.fget Reg.PWR_STAT Fld.PWR_STAT_INPUT_W = w ∧ e.mems = s.dev.mems ∧
    (20 * ((s.clear.power.meterUj - uj) + (uj - s.clear.power.meterUj)) ≤ uj → e.events = s.dev.events)) ∧
  (∀ (s : State) (bs ks ss xs : List (Nat × Nat)) (rest : Nat), ∃ e, Completes (.energyMeterInterval bs ks ss xs rest) s e ∧
    e.power.basis = [] ∧ e.mems = s.dev.mems ∧ e.power.meterUj = s.clear.power.meterUj +
      ((bs.map Prod.snd).sum + (ks.map Prod.snd).sum + (ss.map Prod.snd).sum + (xs.map Prod.snd).sum + rest))

/-- The adaptive loops complete: a quarter's clock stays between its bounds, a read threshold within its steps, a widening limit
between its floor and the plan's limit, a link above its threshold goes down to be retrained; no loop touches a byte of memory. -/
def Obligations.AdaptiveLoopsComplete : Prop :=
  (∀ (s : State) (q : Nat) (t : Int) (w : Nat) (work : Bool), q < 4 → s.clear.frozen = false → s.clear.quarantined q = false →
    s.clear.power.ps < 3 → (s.clear.clockBounds q).2.1 < 1024 → ∃ e, Completes (.quarterDvfs q t w work) s e ∧
      (s.clear.clockBounds q).1 ≤ e.fget (Reg.PWR_QTR q) Fld.PWR_QTR_TARGET_MHZ ∧
      e.fget (Reg.PWR_QTR q) Fld.PWR_QTR_TARGET_MHZ ≤ (s.clear.clockBounds q).2.1 ∧ e.mems = s.dev.mems) ∧
  (∀ (s : State) (die : Nat) (o : Int) (margin : Nat), s.clear.slotNames 2 = true → s.clear.frozen = false →
    ∃ e, Completes (.readThreshold die o margin) s e ∧ e.mems = s.dev.mems ∧ AMap.look e.power.margins die = some margin ∧
      AMap.look e.power.thresholds die = some (min (s.clear.plan.caps.threshMax : Int)
        (max (-(s.clear.plan.caps.threshMax : Int)) o))) ∧
  (∀ (s : State) (use x : Nat), s.clear.frozen = false → x < 16 → (s.clear.district x).enable = true →
    ∃ e n, Completes (.widen use) s e ∧ AMap.look e.power.widenLimit x = some n ∧ n ≤ (s.clear.district x).widenLimit ∧
      min s.clear.plan.caps.widenFloor (s.clear.district x).widenLimit ≤ n ∧ e.mems = s.dev.mems) ∧
  (∀ (s : State) (i : Nat), s.clear.frozen = false → s.clear.slotNames 3 = true → i < 4 →
    Completes (.linkEq 0 i true) s (s.clear.setLink (i / 2) (i % 2) false))

/-- STACK_REFRESH of a stack that its loop serves: 1×, 2× or 4× by the stack's temperature (codes 0, 1 and 2; a sixteenth of a degree is
the unit), never less than REFRESH_MIN, and no loop's count of conflicts or of overrides changes. -/
def Obligations.RefreshFollowsTemperature : Prop :=
  ∀ (s : State) (k : Nat), k < 12 → s.clear.frozen = false → s.clear.quarantined (k / 3) = false →
    s.clear.plan.caps.refreshMin ≤ 2 → ∃ e, Completes (.stackRefresh k) s e ∧
      e.fget (Reg.STK_STAT k) Fld.STK_STAT_REFRESH = max s.clear.plan.caps.refreshMin
        (if s.clear.tempOf (96 + k) ≤ 85 * 16 then 0 else if s.clear.tempOf (96 + k) ≤ 95 * 16 then 1 else 2) ∧
      (∀ loop, loop < 12 → e.reg (Reg.PWR_LOOP loop) = s.dev.reg (Reg.PWR_LOOP loop)) ∧ e.mems = s.dev.mems

/-- Samples and protection complete: a rail's sample shows its voltage and current and keeps the greatest current, a temperature shows
and keeps the greatest; a loop acts beyond its limit, its release is logged where the release condition holds, the setting returns
step by step, and a hold ends in a quarantine or a shutdown. -/
def Obligations.ProtectionCompletes : Prop :=
  (∀ (s : State) (r : Nat) (v : Int) (c : Nat), r < 14 → 0 ≤ v → v < 65536 → c < 65536 →
    ∃ e, Completes (.sensorSample r v c) s e ∧ e.fget (Reg.PWR_RAIL r) Fld.PWR_RAIL_MV = v.toNat ∧
      e.fget (Reg.PWR_RAIL r) Fld.PWR_RAIL_CURRENT = c ∧ e.fget (Reg.PWR_RAIL r) Fld.PWR_RAIL_PEAK =
        max (s.clear.fget (Reg.PWR_RAIL r) Fld.PWR_RAIL_PEAK) c ∧ e.mems = s.dev.mems) ∧
  (∀ (s : State) (i : Nat) (v : Int), 36 ≤ i → hasSensor i = true → -32768 ≤ v → v < 32768 → ∃ e, Completes (.sensorSample i v 0) s e ∧
    e.tempOf i = v ∧ e.fbit (Reg.PWR_TEMP i) Fld.PWR_TEMP_VALID = true ∧ e.mems = s.dev.mems) ∧
  (∀ (s : State) (i t : Nat), Dev.tripAt i = some t → (t : Int) ≤ s.clear.tempOf i → Completes (.thermalTrip i) s
    (s.clear.startOverride 8 i 350 (s.clear.measured 8 i))) ∧
  (∀ (s : State) (r limit : Nat), Dev.railLimits[r]? = some limit → limit < s.clear.measured 9 r → Completes (.overCurrent r) s
    (s.clear.startOverride 9 r (max 350 (match Dev.clockQuarter r with
      | some q => s.clear.fget (Reg.PWR_QTR q) Fld.PWR_QTR_FREQ_MHZ / 2
      | none => 0)) (s.clear.measured 9 r))) ∧
  (∀ (s : State) (r : Nat), 1 ≤ r → r ≤ 12 → 100 * s.clear.measured 10 r < 95 * s.clear.nominal r → Completes (.underVoltage r) s
    (s.clear.startOverride 10 r 350 (s.clear.measured 10 r))) ∧
  (∀ (s : State) (l u : Nat) (o : Override), s.clear.override l u = some o → o.releasing = false →
    s.clear.releases l u = true → Completes (.protectionRelease l u) s
      ((s.clear.modOverride l u fun o => some { o with releasing := true }).logOverride 0x51 l (srcSensor u) o.bound o.applied
        (s.clear.measured l u))) ∧
  (∀ (s : State) (l u q : Nat) (o : Override), s.clear.override l u = some o → o.releasing = true →
    Dev.clockQuarter u = some q → o.applied + 25 < s.clear.fget (Reg.PWR_QTR q) Fld.PWR_QTR_TARGET_MHZ →
    Completes (.overrideRampStep l u) s (s.clear.modOverride l u fun x => some { x with applied := o.applied + 25 })) ∧
  (∀ (s : State) (u q : Nat) (o : Override), s.clear.override 8 u = some o → o.releasing = false → Dev.clockQuarter u = some q →
    Completes (.protectionHoldTimeout 8 u) s (s.clear.quarantine q 0x0405 (srcSensor u) (s.clear.measured 8 u))) ∧
  (∀ (s : State) (u : Nat) (o : Override), s.clear.override 10 u = some o → o.releasing = false → Dev.clockQuarter u = none →
    Completes (.protectionHoldTimeout 10 u) s (s.clear.shutDown 5 0x0609 (srcSensor u) (s.clear.measured 10 u)))

/-! Ports and time. -/

/-- The events of a port complete: a trained link comes up with what its module allows, the second link where the port is split, and
nothing changes where the Gate or the module is down; a lost link goes down; an uncorrectable codeword is counted and logged; congestion
is answered, send rates fall and priorities pause as the port's settings allow, and otherwise nothing changes; a Gate's fault is logged
with reset G. None touches a byte of memory but through the commands that reset G settles. -/
def Obligations.PortEventsComplete : Prop :=
  (∀ (s : State) (p l media dm : Nat), p < 2 → l < 2 → (l = 1 → bits (s.clear.reg (Reg.HIF_PORT_CFG p)) 0 1 = 1) →
    media = 1 ∨ media = 2 ∨ media = 3 → dm < 256 → s.clear.contain.shutdown = 0 →
    s.clear.contain.gatesDown.contains p = false →
    ∃ e, Completes (.linkTrainingDone p l media dm) s e ∧
      bits (e.fget (Reg.HIF_PORT_STAT p) Fld.HIF_PORT_STAT_LINK_UP) l 1 = 1 ∧
      e.fget (Reg.HIF_PORT_STAT p) Fld.HIF_PORT_STAT_MEDIA = media ∧
      e.fget (Reg.HIF_PORT_STAT p) Fld.HIF_PORT_STAT_CABLE_DM = (if media = 3 then 255 else dm) ∧ e.mems = s.dev.mems) ∧
  (∀ (s : State) (p l media dm : Nat), s.clear.contain.shutdown ≠ 0 ∨ s.clear.contain.gatesDown.contains p = true →
    Completes (.linkTrainingDone p l media dm) s s.clear) ∧
  (∀ (s : State) (p l : Nat), p < 2 → l < 2 → ∃ e, Completes (.ethernetLinkDown p l) s e ∧
    bits (e.fget (Reg.HIF_PORT_STAT p) Fld.HIF_PORT_STAT_LINK_UP) l 1 = 0 ∧ e.mems = s.dev.mems) ∧
  (∀ (s : State) (p n : Nat), p < 2 → ∃ e : Dev, Completes (.ethernetUncorrectable p n) s (e.logFault (srcPort p) 0x0604 0 0 0) ∧
    e.fget (Reg.HIF_PORT_FEC p) Fld.HIF_PORT_FEC_UNCORRECTED =
      min (s.clear.fget (Reg.HIF_PORT_FEC p) Fld.HIF_PORT_FEC_UNCORRECTED + 1) (2 ^ 32 - 1) ∧ e.mems = s.dev.mems) ∧
  (∀ (s : State) (p qp : Nat), p < 2 → bits (s.clear.portConfig p) 4 1 = 1 →
    Completes (.ecnCeReceived p qp) s (s.clear.emit (.cnp qp)) ∧
    ∃ e, Completes (.cnpReceived p qp) s e ∧ AMap.get e.host.slowed qp 0 = AMap.get s.dev.host.slowed qp 0 + 1 ∧
      e.mems = s.dev.mems) ∧
  (∀ (s : State) (p qp : Nat), bits (s.clear.portConfig p) 4 1 = 0 →
    Completes (.ecnCeReceived p qp) s s.clear ∧ Completes (.cnpReceived p qp) s s.clear) ∧
  (∀ (s : State) (p prio : Nat) (pause : Bool), p < 2 → prio < 8 → bits (s.clear.portConfig p) (8 + prio) 1 = 1 →
    ∃ e, Completes (.pfcFrameReceived p prio pause) s e ∧ e.host.paused.contains (8 * p + prio) = pause ∧ e.mems = s.dev.mems) ∧
  (∀ (s : State) (p prio : Nat) (pause : Bool), bits (s.clear.portConfig p) (8 + prio) 1 = 0 →
    Completes (.pfcFrameReceived p prio pause) s s.clear) ∧
  (∀ (s : State) (p : Nat), p < 2 → Completes (.gateFault p) s
    ((s.clear.logFault (srcPort p) 0x0603 2 (letterCode 'G') 0).gateReset p))

/-- The events of device time and of power states complete. -/
def Obligations.TimeEventsComplete : Prop :=
  (∀ (s : State) (p cls steps id : Nat), p < 2 → cls < 256 → steps < 65536 → id < 2 ^ 64 →
    ∃ e m, Completes (.ptpAnnounce p cls steps id) s e ∧ AMap.look e.time.masters p = some m ∧ m.clockClass = cls ∧
      m.stepsRemoved = steps ∧ m.identity = id ∧ e.mems = s.dev.mems) ∧
  (∀ (s : State) (p : Nat) (o : Int) (e : Dev), s.clear.forced = false → s.clear.plan.timeBase.source = 0 →
    e = { s.clear with time := { s.clear.time with masters := AMap.upd s.clear.time.masters p fun m =>
      { m with lastSync := some s.clear.time.ns } } } → e.chosenPort = some p →
    Completes (.ptpSync p o) s ((e.showMaster p).measured' (p + 1) o)) ∧
  (∀ (s : State) (o : Int), s.clear.forced = false → s.clear.plan.timeBase.source = 2 → Completes (.ppsInPulse o true) s
    (Dev.measured' { (s.clear.fon Reg.TIME_STAT Fld.TIME_STAT_PPS_PRESENT) with time := { s.clear.time with ppsUsable := true } }
      3 o)) ∧
  (∀ s : State, s.clear.time.lock = .locked → ∃ e, Completes .sourceLossTimeout s (Dev.enterLock e .holdover) ∧
    e.time.ppsUsable = false ∧ e.mems = s.dev.mems) ∧
  (∀ s : State, s.clear.fbit Reg.TIME_CTL Fld.TIME_CTL_PPS_OUT = true → s.clear.pins.ppsHeld = false →
    ∃ e, Completes .ppsOutPulse s e ∧ e.out = [.ppsPulse] ∧ e.mems = s.dev.mems) ∧
  (∀ s : State, Completes .timeJournal s { s.clear with time := { s.clear.time with journalled := some s.clear.time.ns } }) ∧
  (∀ (s : State) (i : Nat) (x : SlotEntry), s.clear.plan.windows.slots[i]? = some x → x.length ≠ 0 →
    s.clear.time.openSlots.contains i = false →
    s.clear.beat % s.clear.plan.windows.slotCycle = x.start % s.clear.plan.windows.slotCycle → 0 < s.clear.plan.windows.slotCycle →
    ∃ e, Completes (.backgroundSlotStart i) s e ∧ e.time.openSlots.contains i = true ∧ e.mems = s.dev.mems) ∧
  (∀ (s : State) (i : Nat) (x : SlotEntry), s.clear.plan.windows.slots[i]? = some x → s.clear.time.openSlots.contains i = true →
    x.length ≠ s.clear.plan.windows.slotCycle → ∃ e, Completes (.backgroundSlotEnd i) s e ∧
      e.time.openSlots.contains i = false ∧ e.mems = s.dev.mems) ∧
  (∀ (s : State) (ps : Nat), s.clear.power.psNext = some ps → Completes .powerStateTransition s (s.clear.enterPower ps)) ∧
  (∀ (s : State) (ps ms : Nat), s.clear.isIdle = true → s.clear.apstOn = true →
    AMap.look s.clear.host.apst s.clear.power.ps = some (ps, ms) → s.clear.power.ps < ps →
    (ps = 4 → (s.clear.place.leases.any fun l => !l.2.borrower && l.2.tier = 0 && l.2.state ≠ .ended) = false) →
    Completes .apstIdleTimeout s { s.clear with power := { s.clear.power with psNext := some ps } })

/-! The Squares, resets and the module's pins. -/

/-- HEARTBEAT, HEARTBEAT_MISS, ACTIVE_SQUARE_FAULT, STANDBY_SQUARE_FAULT, SQUARES_LOST, SQUARE_SELF_TEST_DONE, QUARTER_RESET_DONE and
BLOCK_RESET_DONE complete in every state. An active Square that is in service sends its heartbeat; a missed one makes the standby active,
where there is one; a fault of the active Square is logged and makes the standby active, and without one both Squares are lost; a fault
of the standby is logged and takes it out of service; the loss of both takes effect once; a Square that passed its self-test is the
standby, and one that failed stays out of service; a quarter or block whose reset has ended is in service again, and one that failed its
self-test is quarantined or retired; where none of this is due nothing changes. -/
def Obligations.SquareEventsComplete : Prop :=
  (∀ s : State, (s.clear.sqState s.clear.activeSq ≠ .outOfService → Completes .heartbeat s (s.clear.emit .heartbeat)) ∧
    (s.clear.sqState s.clear.activeSq = .outOfService → Completes .heartbeat s s.clear)) ∧
  (∀ s : State, (∀ q, s.clear.standby = some q → Completes .heartbeatMiss s (s.clear.failTo q 1)) ∧
    (s.clear.standby = none → Completes .heartbeatMiss s s.clear)) ∧
  (∀ (s : State) (e : Dev), e = s.clear.logFault s.clear.srcSquare 0x0606 2 0 0 →
    (∀ q, e.standby = some q → Completes .activeSquareFault s (e.failTo q 2)) ∧
    (e.standby = none → e.contain.shutdown ≠ 6 → Completes .activeSquareFault s e.loseSquares) ∧
    (e.standby = none → e.contain.shutdown = 6 → Completes .activeSquareFault s e)) ∧
  (∀ s : State, (∀ q, s.clear.standby = some q → Completes .standbySquareFault s
      ((s.clear.logFault (0x6000 + q) 0x0607 2 0 0).sqOut q)) ∧
    (s.clear.standby = none → Completes .standbySquareFault s s.clear)) ∧
  (∀ s : State, (s.clear.contain.shutdown ≠ 6 → Completes .squaresLost s s.clear.loseSquares) ∧
    (s.clear.contain.shutdown = 6 → Completes .squaresLost s s.clear)) ∧
  (∀ s : State, (s.clear.squares.testing = true → (∃ e : Dev, Completes (.squareSelfTestDone true) s e.driveWrites ∧
      e.squares.testing = false ∧ e.sqState (1 - s.clear.activeSq) = .standby ∧ e.mems = s.dev.mems) ∧
      Completes (.squareSelfTestDone false) s { s.clear with squares := { s.clear.squares with testing := false } }) ∧
    (s.clear.squares.testing = false → ∀ ok, Completes (.squareSelfTestDone ok) s s.clear)) ∧
  (∀ (s : State) (q : Nat), (s.clear.contain.resettingQuarters.contains q = true →
      (∃ e : Dev, Completes (.quarterResetDone q true) s e.driveStages.driveJobs ∧
        e.contain.resettingQuarters.contains q = false) ∧
      ∃ e : Dev, ∃ x : Word, Completes (.quarterResetDone q false) s (e.quarantine q (x.toNat % 2 ^ 16) e.srcSquare 0) ∧
        e.contain.resettingQuarters.contains q = false) ∧
    (s.clear.contain.resettingQuarters.contains q = false → ∀ ok, Completes (.quarterResetDone q ok) s s.clear)) ∧
  (∀ (s : State) (b : Nat), (s.clear.contain.resettingBlocks.contains b = true →
      ∃ e : Dev, e.contain.resettingBlocks.contains b = false ∧
        Completes (.blockResetDone b true) s (((e.endBlockTest b).reapply b).driveStages).driveJobs ∧
        Completes (.blockResetDone b false) s ((e.endBlockTest b).retireBlock b)) ∧
    (s.clear.contain.resettingBlocks.contains b = false → ∀ ok, Completes (.blockResetDone b ok) s s.clear))

/-- COLD_START, MOD_RESET, MOD_RESET_RELEASE, HOLDUP_BANK_TEST, NVME_MI_COMMAND, NVME_MI_RESET, PF_WARN, PF_WARN_RELEASE,
VIN_UNDER_VOLTAGE, VIN_OVER_VOLTAGE and SANITIZE_PHASE_DONE complete in every state. Power starts the module up; reset M flushes first, or is noted
while a hold-up flush runs, and its release starts the module up unless the input is not good; the bank's test selects write-through
mode; an NVMe-MI command is answered where the endpoint serves it, which releases SMB_ALERT_N, and a Configuration Set may give the
ports another addressing (the model's choice, log entry 47); its Reset is reset M; warnings and input limits begin the hold-up flush;
each phase of a sanitize leads to the next, or to its failure; where none of this is due nothing changes. -/
def Obligations.ModuleEventsComplete : Prop :=
  (∀ (s : State) (f : Discovery), Completes (.coldStart f) s (s.clear.startUp 'C' 0 f)) ∧
  (∀ (s : State) (d : Dev), d = { s.clear with pins := { s.clear.pins with modResetLow := true } } →
    (s.clear.pins.modResetLow = false → s.clear.media.flushing = false → Completes .modReset s d.flushForM) ∧
    (s.clear.pins.modResetLow = false → s.clear.media.flushing = true → Completes .modReset s
      { d with pins := { d.pins with resetDuringFlush := some s.clear.time.ns } }) ∧
    (s.clear.pins.modResetLow = true → Completes .modReset s s.clear)) ∧
  (∀ (s : State) (f : Discovery) (d : Dev), d = { s.clear with pins := { s.clear.pins with modResetLow := false } } →
    (s.clear.pins.modResetLow = true → s.clear.pins.resetM = true → s.clear.pins.pfWarnLow = false → s.clear.pins.vinOut = false →
      Completes (.modResetRelease f) s (d.startUp 'M' 0 f)) ∧
    (s.clear.pins.modResetLow = true → s.clear.pins.resetM = true → s.clear.pins.pfWarnLow = true ∨ s.clear.pins.vinOut = true →
      Completes (.modResetRelease f) s { d with pins := { d.pins with resetM := false } }) ∧
    (s.clear.pins.modResetLow = true → s.clear.pins.resetM = false → Completes (.modResetRelease f) s d) ∧
    (s.clear.pins.modResetLow = false → Completes (.modResetRelease f) s s.clear)) ∧
  (∀ (s : State) (n : Nat), Completes (.holdupBankTest n) s (s.clear.holdup n)) ∧
  (∀ (s : State) (op : Nat), (miAnswers s.clear = true → op ≠ 3 → Completes (.nvmeMiCommand op) s
      (({ s.clear with pins := { s.clear.pins with smbAlert := false } } : Dev).emit (.mi op false))) ∧
    (miAnswers s.clear = true → op = 3 → ∃ (e : Dev) (x : Nat), Completes (.nvmeMiCommand op) s e ∧
      e.host.addressing = some x ∧ e.pins = { s.clear.pins with smbAlert := false } ∧ e.out = [.mi 3 false] ∧ e.mems = s.dev.mems) ∧
    (miAnswers s.clear = false → Completes (.nvmeMiCommand op) s (s.clear.emit (.mi op true)))) ∧
  (∀ s : State, (miAnswers s.clear = true → s.clear.media.flushing = false → Completes .nvmeMiReset s
      (((s.clear.emit (.mi 0x07 false)).flushForM).startUp 'M' 1 s.clear.foundBefore)) ∧
    (miAnswers s.clear = true → s.clear.media.flushing = true → Completes .nvmeMiReset s (s.clear.emit (.mi 0x07 false))) ∧
    (miAnswers s.clear = false → Completes .nvmeMiReset s (s.clear.emit (.mi 0x07 true)))) ∧
  (∀ s : State, Completes .pfWarn s ({ s.clear with pins := { s.clear.pins with pfWarnLow := true } } : Dev).holdupFlush) ∧
  (∀ s : State, Completes .pfWarnRelease s { s.clear with pins := { s.clear.pins with pfWarnLow := false } }) ∧
  (∀ s : State, Completes .vinUnderVoltage s ({ s.clear with pins := { s.clear.pins with vinOut := true } } : Dev).holdupFlush) ∧
  (∀ s : State, Completes .vinOverVoltage s ({ s.clear with pins := { s.clear.pins with vinOut := true } } : Dev).holdupFlush) ∧
  (∀ (s : State) (w : Wipe), s.clear.host.wipe = some w → w.sanitize = true → w.failed = false →
    (w.phase = 1 → ∀ b, Completes (.sanitizePhaseDone b) s (s.clear.sanitizePhase2 w)) ∧
    (w.phase = 2 → Completes (.sanitizePhaseDone false) s (s.clear.sanitizeFails w) ∧ Completes (.sanitizePhaseDone true) s s.clear) ∧
    (w.phase = 3 → ∀ b, Completes (.sanitizePhaseDone b) s s.clear.sanitizeDone)) ∧
  (∀ (s : State) (b : Bool), (∀ w, s.clear.host.wipe = some w → w.sanitize = false ∨ w.failed = true) →
    Completes (.sanitizePhaseDone b) s s.clear)

/-! Arbitration. -/

/-- With no admin command waiting, an urgent and a weighted command waiting, and fewer than URGENT_RUN urgent dispatches in a row, a
Gate serves an urgent queue; after URGENT_RUN of them it serves a weighted queue, goes on with the queues of that
burst's class until the burst has ended or its class has nothing more, and then counts urgent dispatches from zero; URGENT_RUN is 32 as shipped. -/
def Obligations.UrgentRunYieldsABurst : Prop :=
  State.reset.dev.fget Reg.HIF_ARB Fld.HIF_ARB_URGENT_RUN = 32 ∧
  ∀ (d : Dev) (g : Nat) (qs : List Nat), (∀ q ∈ qs, Dev.isAdmin q = false) → (∀ q ∈ qs, d.classOf q ≤ 3) →
    (∃ q ∈ qs, d.classOf q = 0) → (∃ q ∈ qs, d.classOf q ≠ 0) →
    ((d.arb g).yielding = false → (d.arb g).urgentRun < d.fget Reg.HIF_ARB Fld.HIF_ARB_URGENT_RUN →
      ∃ q a, d.arbitrate g qs = some (q, a, false) ∧ q ∈ qs ∧ d.classOf q = 0 ∧ a.urgentRun = (d.arb g).urgentRun + 1 ∧
        a.yielding = false) ∧
    ((d.arb g).yielding = true ∧ (∃ q ∈ qs, d.classOf q ≠ 0 ∧ d.classOf q = (d.arb g).burstClass) ∨
      (d.arb g).yielding = false ∧ d.fget Reg.HIF_ARB Fld.HIF_ARB_URGENT_RUN ≤ (d.arb g).urgentRun →
      ∃ q a, d.arbitrate g qs = some (q, a, !(d.arb g).yielding) ∧ q ∈ qs ∧ d.classOf q ≠ 0 ∧
        (a.burst ≠ 0 → a.yielding = true) ∧ (a.burst = 0 → a.yielding = false ∧ a.urgentRun = 0)) ∧
    ((d.arb g).yielding = true → (∀ q ∈ qs, d.classOf q ≠ 0 → d.classOf q ≠ (d.arb g).burstClass) →
      0 < d.fget Reg.HIF_ARB Fld.HIF_ARB_URGENT_RUN →
      ∃ q a, d.arbitrate g qs = some (q, a, false) ∧ q ∈ qs ∧ d.classOf q = 0 ∧ a.urgentRun = 1 ∧ a.yielding = false)

/-- A Gate with a command waiting in a queue of one of the four classes, or an admin queue, always serves one of its waiting queues, and
an admin queue before any other. -/
def Obligations.GatesServeAWaitingQueue : Prop :=
  ∀ (d : Dev) (g : Nat) (qs : List Nat), qs ≠ [] → (∀ q ∈ qs, d.classOf q ≤ 3) →
    ∃ q a y, d.arbitrate g qs = some (q, a, y) ∧ q ∈ qs ∧ ((∃ p ∈ qs, Dev.isAdmin p = true) → Dev.isAdmin q = true)

/-! Arithmetic, lights and the event log. -/

/-- Integer addition, subtraction and multiplication in the vector unit answer the exact result, or the nearer end of the destination's
range where it lies outside, and then set SATURATED; a division by zero answers the destination's maximum for a dividend that is not
negative and its minimum for one that is, and raises DIV_BY_ZERO alone. -/
def Obligations.IntegerArithmeticSaturates : Prop :=
  ∀ (v : VecFmt) (scale : Nat) (i j : Int) (c : Datum), v.a.isInt = true → v.w.isInt = true → v.out.isInt = true →
    (∀ p ∈ [(0x01, i + j), (0x02, i - j), (0x03, i * j)],
      (vecElem v scale p.1 (.ofInt i) (.ofInt j) c).run0.1 =
        ofSigned v.out.width (max (v.out.intRange v.outSigned).1 (min (v.out.intRange v.outSigned).2 p.2)) ∧
      ((vecElem v scale p.1 (.ofInt i) (.ofInt j) c).run0.2.saturated = true ↔
        p.2 < (v.out.intRange v.outSigned).1 ∨ (v.out.intRange v.outSigned).2 < p.2)) ∧
    (vecElem v scale 0x04 (.ofInt i) (.ofInt 0) c).run0 =
      (ofSigned v.out.width (if i < 0 then (v.out.intRange v.outSigned).1 else (v.out.intRange v.outSigned).2),
        { divByZero := true })

/-- SET gives a light its operand and ADD adds to it, stopping at 0xFFFF_FFFF and then setting SATURATED; each releases every WAIT on
that light that the new value meets, and leaves every other WAIT and every byte of memory as they were. -/
def Obligations.LightsSaturateAndRelease : Prop :=
  ∀ (d : Dev) (l v dist blk : Nat), l < 65536 → v < 2 ^ 32 →
    ((d.lightSet l v dist blk).lightValue l = v ∧
      (d.lightSet l v dist blk).waits = d.waits.filter (fun w => !(w.light = l && w.operand ≤ v)) ∧
      (d.lightSet l v dist blk).mems = d.mems) ∧
    ((d.lightAdd l v dist blk).lightValue l = min (d.lightValue l + v) 0xFFFFFFFF ∧
      (0xFFFFFFFF ≤ d.lightValue l + v → (d.lightAdd l v dist blk).fbit (Reg.LGT_CTL l) Fld.LGT_CTL_SATURATED = true) ∧
      (d.lightAdd l v dist blk).waits =
        d.waits.filter (fun w => !(w.light = l && w.operand ≤ min (d.lightValue l + v) 0xFFFFFFFF)) ∧
      (d.lightAdd l v dist blk).mems = d.mems)

/-- An event joins the event log with its time, its holdover flag and the next number of its source; the records before it and every
byte of memory stay. Where the trace does not record it, its source's number advances by one modulo 2^32 and no other source's does. -/
def Obligations.EventsAreNumberedBySource : Prop :=
  ∀ (d : Dev) (source event : Nat) (payload : List Byte),
    (d.logEvent source event payload).events = d.events ++
      [EventRec.mk source event (AMap.get d.seqs source 0) d.time.ns d.holdover payload] ∧
    (d.logEvent source event payload).mems = d.mems ∧
    (Dev.traceClass event = none →
      AMap.get (d.logEvent source event payload).seqs source 0 = (AMap.get d.seqs source 0 + 1) % 2 ^ 32 ∧
      ∀ x, x ≠ source → AMap.get (d.logEvent source event payload).seqs x 0 = AMap.get d.seqs x 0)
end

