-- ==== Sys2Proof/Laws/Memory.lean ====
section
/-! SUPPORT. Sparse maps and memories: what a look finds after a put or a drop, and that every operation on a memory keeps its
canonical form. -/

namespace Sys2Proof.Machine

/-! Sparse maps. -/

@[simp] theorem AMap.look_nil {α : Type} (k : Nat) : AMap.look ([] : AMap α) k = none := rfl

/-- The value put at a key is found there. -/
@[simp] theorem AMap.look_put {α : Type} (m : AMap α) (k : Nat) (v : α) : AMap.look (AMap.put m k v) k = some v := by
  induction m with
  | nil => simp [AMap.put, AMap.look]
  | cons e t ih =>
    obtain ⟨j, w⟩ := e
    unfold AMap.put
    split
    · simp [AMap.look]
    · split
      · simp [AMap.look]
      · simp only [AMap.look, ih]
        rw [if_neg (by omega)]

/-- Every other key is found as before. -/
theorem AMap.look_put_ne {α : Type} (m : AMap α) {k b : Nat} (v : α) (h : b ≠ k) :
    AMap.look (AMap.put m k v) b = AMap.look m b := by
  induction m with
  | nil => simp [AMap.put, AMap.look, Ne.symm h]
  | cons e t ih =>
    obtain ⟨j, w⟩ := e
    unfold AMap.put
    split
    · simp [AMap.look, Ne.symm h]
    · split
      · subst_vars
        simp [AMap.look, Ne.symm h]
      · simp only [AMap.look, ih]

/-- `k` lies below every key of a map. -/
def AMap.Below {α : Type} (k : Nat) (m : AMap α) : Prop := ∀ e ∈ m, k < e.1

/-- A map is sorted when its first key lies below the others and they are sorted. -/
theorem AMap.sorted_cons {α : Type} (j : Nat) (w : α) (t : AMap α) :
    AMap.sorted ((j, w) :: t) = true ↔ AMap.Below j t ∧ AMap.sorted t = true := by
  induction t generalizing j w with
  | nil => simp [AMap.sorted, AMap.Below]
  | cons e t ih =>
    obtain ⟨i, x⟩ := e
    rw [AMap.sorted]
    simp only [Bool.and_eq_true, decide_eq_true_eq]
    constructor
    · rintro ⟨hj, hs⟩
      refine ⟨?_, hs⟩
      intro e he
      rcases List.mem_cons.1 he with rfl | he
      · exact hj
      · exact Nat.lt_trans hj (((ih i x).1 hs).1 e he)
    · rintro ⟨hb, hs⟩
      exact ⟨hb (i, x) (by simp), hs⟩

theorem AMap.below_put {α : Type} {i k : Nat} {v : α} {m : AMap α} (h : AMap.Below i m) (hk : i < k) :
    AMap.Below i (AMap.put m k v) := by
  induction m with
  | nil => intro e he; simp [AMap.put] at he; subst he; exact hk
  | cons e t ih =>
    obtain ⟨j, w⟩ := e
    have ht : AMap.Below i t := fun e he => h e (List.mem_cons_of_mem _ he)
    unfold AMap.put
    split
    · intro e he
      rcases List.mem_cons.1 he with rfl | he
      · exact hk
      · exact h e he
    · split
      · intro e he
        rcases List.mem_cons.1 he with rfl | he
        · exact hk
        · exact ht e he
      · intro e he
        rcases List.mem_cons.1 he with rfl | he
        · exact h (j, w) (by simp)
        · exact ih ht e he

/-- A put keeps the keys strictly rising. -/
theorem AMap.sorted_put {α : Type} (m : AMap α) (k : Nat) (v : α) (h : AMap.sorted m = true) :
    AMap.sorted (AMap.put m k v) = true := by
  induction m with
  | nil => simp [AMap.put, AMap.sorted]
  | cons e t ih =>
    obtain ⟨j, w⟩ := e
    obtain ⟨hb, ht⟩ := (AMap.sorted_cons j w t).1 h
    unfold AMap.put
    split
    next hk =>
      refine (AMap.sorted_cons _ _ _).2 ⟨?_, h⟩
      intro e he
      rcases List.mem_cons.1 he with rfl | he
      · exact hk
      · exact Nat.lt_trans hk (hb e he)
    next hk =>
      split
      next he => subst he; exact (AMap.sorted_cons _ _ _).2 ⟨hb, ht⟩
      next he => exact (AMap.sorted_cons _ _ _).2 ⟨AMap.below_put hb (by omega), ih ht⟩

/-- The entries that a drop leaves were there before. -/
theorem AMap.mem_of_mem_drop {α : Type} {m : AMap α} {k : Nat} {e : Nat × α} (h : e ∈ AMap.drop m k) : e ∈ m := by
  induction m with
  | nil => simp [AMap.drop] at h
  | cons d t ih =>
    obtain ⟨j, w⟩ := d
    unfold AMap.drop at h
    split at h
    · exact List.mem_cons_of_mem _ h
    · rcases List.mem_cons.1 h with rfl | h
      · simp
      · exact List.mem_cons_of_mem _ (ih h)

/-- A drop keeps the keys strictly rising. -/
theorem AMap.sorted_drop {α : Type} (m : AMap α) (k : Nat) (h : AMap.sorted m = true) :
    AMap.sorted (AMap.drop m k) = true := by
  induction m with
  | nil => simp [AMap.drop, AMap.sorted]
  | cons e t ih =>
    obtain ⟨j, w⟩ := e
    obtain ⟨hb, ht⟩ := (AMap.sorted_cons j w t).1 h
    unfold AMap.drop
    split
    · exact ht
    · exact (AMap.sorted_cons _ _ _).2 ⟨fun e he => hb e (AMap.mem_of_mem_drop he), ih ht⟩

/-- A key below a whole map is not in it. -/
theorem AMap.look_of_below {α : Type} {m : AMap α} {k : Nat} (h : AMap.Below k m) : AMap.look m k = none := by
  induction m with
  | nil => rfl
  | cons e t ih =>
    obtain ⟨j, w⟩ := e
    have hj : k < j := h (j, w) (by simp)
    simp only [AMap.look]
    rw [if_neg (by omega)]
    exact ih fun e he => h e (List.mem_cons_of_mem _ he)

/-- A dropped key of a sorted map is not found any more. -/
theorem AMap.look_drop {α : Type} (m : AMap α) (k : Nat) (h : AMap.sorted m = true) : AMap.look (AMap.drop m k) k = none := by
  induction m with
  | nil => rfl
  | cons e t ih =>
    obtain ⟨j, w⟩ := e
    obtain ⟨hb, ht⟩ := (AMap.sorted_cons j w t).1 h
    unfold AMap.drop
    split
    next hj => subst hj; exact AMap.look_of_below hb
    next hj => simp only [AMap.look]; rw [if_neg hj]; exact ih ht

/-- Every other key is found as before. -/
theorem AMap.look_drop_ne {α : Type} (m : AMap α) {k b : Nat} (h : b ≠ k) : AMap.look (AMap.drop m k) b = AMap.look m b := by
  induction m with
  | nil => rfl
  | cons e t ih =>
    obtain ⟨j, w⟩ := e
    unfold AMap.drop
    split
    next hj => subst hj; simp [AMap.look, Ne.symm h]
    next hj => simp only [AMap.look, ih]

theorem AMap.mem_put {α : Type} {m : AMap α} {k : Nat} {v : α} {e : Nat × α} (h : e ∈ AMap.put m k v) : e = (k, v) ∨ e ∈ m := by
  induction m with
  | nil => simpa [AMap.put] using h
  | cons d t ih =>
    obtain ⟨j, w⟩ := d
    unfold AMap.put at h
    split at h
    · exact List.mem_cons.1 h
    · split at h
      · rcases List.mem_cons.1 h with h | h
        · exact .inl h
        · exact .inr (List.mem_cons_of_mem _ h)
      · rcases List.mem_cons.1 h with h | h
        · exact .inr (by simp [h])
        · exact (ih h).imp id (List.mem_cons_of_mem _)

/-! Memories. -/

/-- The two halves of the canonical form. -/
theorem Mem.wf_iff (m : Mem) : Mem.wf m = true ↔ AMap.sorted (α := Byte) m = true ∧ ∀ c ∈ m, c.2 ≠ memDefault := by
  simp [Mem.wf]

@[simp] theorem Mem.wf_nil : Mem.wf [] = true := rfl

@[simp] theorem Mem.read_nil (a : Nat) : Mem.read [] a = memDefault := rfl

/-- Writing one byte keeps the canonical form. -/
theorem Mem.wf_write (m : Mem) (a : Nat) (b : Byte) (h : Mem.wf m = true) : Mem.wf (Mem.write m a b) = true := by
  obtain ⟨hs, hd⟩ := (Mem.wf_iff m).1 h
  unfold Mem.write
  split
  · exact (Mem.wf_iff _).2 ⟨AMap.sorted_drop m a hs, fun c hc => hd c (AMap.mem_of_mem_drop hc)⟩
  next hb =>
    refine (Mem.wf_iff _).2 ⟨AMap.sorted_put m a b hs, fun c hc => ?_⟩
    rcases AMap.mem_put hc with rfl | hc
    · exact hb
    · exact hd c hc

/-- The byte written reads back. -/
theorem Mem.read_write (m : Mem) (a : Nat) (b : Byte) (h : Mem.wf m = true) : Mem.read (Mem.write m a b) a = b := by
  unfold Mem.write
  split
  next hb => rw [Mem.read, AMap.get, AMap.look_drop m a ((Mem.wf_iff m).1 h).1]; exact hb.symm
  next hb => rw [Mem.read, AMap.get, AMap.look_put]; rfl

/-- Every other byte reads as before. -/
theorem Mem.read_write_ne (m : Mem) {a x : Nat} (b : Byte) (h : x ≠ a) : Mem.read (Mem.write m a b) x = Mem.read m x := by
  unfold Mem.write
  split
  · rw [Mem.read, AMap.get, AMap.look_drop_ne m h]; rfl
  · rw [Mem.read, AMap.get, AMap.look_put_ne m b h]; rfl

/-- Writing bytes keeps the canonical form. -/
theorem Mem.wf_store (m : Mem) (a : Nat) (bytes : List Byte) (h : Mem.wf m = true) : Mem.wf (Mem.store m a bytes) = true := by
  induction bytes generalizing m a with
  | nil => exact h
  | cons b t ih => exact ih _ _ (Mem.wf_write m a b h)

/-- Bytes outside a store read as before. -/
theorem Mem.read_store_ne (m : Mem) (a : Nat) (bytes : List Byte) (x : Nat) (h : x < a ∨ a + bytes.length ≤ x) :
    Mem.read (Mem.store m a bytes) x = Mem.read m x := by
  induction bytes generalizing m a with
  | nil => rfl
  | cons b t ih =>
    simp only [List.length_cons] at h
    rw [Mem.store, ih _ _ (by omega), Mem.read_write_ne m b (by omega)]

theorem AMap.sorted_filter {α : Type} (m : AMap α) (p : Nat × α → Bool) (h : AMap.sorted m = true) :
    AMap.sorted (m.filter p) = true := by
  induction m with
  | nil => rfl
  | cons e t ih =>
    obtain ⟨j, w⟩ := e
    obtain ⟨hb, ht⟩ := (AMap.sorted_cons j w t).1 h
    rw [List.filter_cons]
    split
    · exact (AMap.sorted_cons _ _ _).2 ⟨fun e he => hb e (List.mem_of_mem_filter he), ih ht⟩
    · exact ih ht

/-- Zeroing a range keeps the canonical form. -/
theorem Mem.wf_zero (m : Mem) (a n : Nat) (h : Mem.wf m = true) : Mem.wf (Mem.zero m a n) = true := by
  obtain ⟨hs, hd⟩ := (Mem.wf_iff m).1 h
  exact (Mem.wf_iff _).2 ⟨AMap.sorted_filter m _ hs, fun c hc => hd c (List.mem_of_mem_filter hc)⟩

theorem AMap.look_filter {α : Type} (m : AMap α) (p : Nat → Bool) (x : Nat) :
    AMap.look (m.filter fun c => p c.1) x = if p x then AMap.look m x else none := by
  induction m with
  | nil => simp
  | cons e t ih =>
    obtain ⟨j, w⟩ := e
    rw [List.filter_cons]
    by_cases hj : j = x
    · subst hj
      cases hp : p j <;> simp [AMap.look, ih, hp]
    · cases hp : p j <;> simp [AMap.look, ih, hj]

/-- A zeroed range reads as what an unlisted byte reads as, and every other byte as before. -/
theorem Mem.read_zero (m : Mem) (a n x : Nat) :
    Mem.read (Mem.zero m a n) x = if x < a ∨ a + n ≤ x then Mem.read m x else memDefault := by
  have := AMap.look_filter (α := Byte) m (fun j => decide (j < a) || decide (a + n ≤ j)) x
  rw [Mem.read, AMap.get, Mem.zero, this]
  by_cases h : x < a ∨ a + n ≤ x
  · rw [if_pos h, if_pos (by simpa using h)]; rfl
  · rw [if_neg h, if_neg (by simpa using h)]; rfl

@[simp] theorem Mem.length_load (m : Mem) (a n : Nat) : (Mem.load m a n).length = n := by
  induction n generalizing a with
  | zero => rfl
  | succ n ih => simp [Mem.load, ih]

end Sys2Proof.Machine
end

