-- ==== Sys2Proof/Laws/State.lean ====
section
/-! SUPPORT. What each named update of the module leaves of every field, and what a register, a block and a Kerb read as after one. -/

namespace Sys2Proof.Machine

/-! The queue and the module. -/

@[simp] theorem State.withDev_pending (s : State) (d : Dev) : ({ s with dev := d } : State).pending = s.pending := rfl
@[simp] theorem State.withDev_dev (s : State) (d : Dev) : ({ s with dev := d } : State).dev = d := rfl
@[simp] theorem State.withPending_dev (s : State) (q : List Instr) : ({ s with pending := q } : State).dev = s.dev := rfl
@[simp] theorem State.withPending_pending (s : State) (q : List Instr) : ({ s with pending := q } : State).pending = q := rfl

/-- What an effect on the module answers. -/
@[simp] theorem effect_eq (f : Dev → Dev) (s : State) : effect f s = .next { s with dev := f { s.dev with out := [] } } := rfl

/-! setReg. -/

@[simp] theorem Dev.setReg_regs (d : Dev) (a v : Nat) : (d.setReg a v).regs = AMap.put d.regs a v := rfl
@[simp] theorem Dev.setReg_out (d : Dev) (a v : Nat) : (d.setReg a v).out = d.out := rfl
@[simp] theorem Dev.setReg_events (d : Dev) (a v : Nat) : (d.setReg a v).events = d.events := rfl
@[simp] theorem Dev.setReg_seqs (d : Dev) (a v : Nat) : (d.setReg a v).seqs = d.seqs := rfl
@[simp] theorem Dev.setReg_plan (d : Dev) (a v : Nat) : (d.setReg a v).plan = d.plan := rfl
@[simp] theorem Dev.setReg_blocks (d : Dev) (a v : Nat) : (d.setReg a v).blocks = d.blocks := rfl
@[simp] theorem Dev.setReg_bmem (d : Dev) (a v : Nat) : (d.setReg a v).bmem = d.bmem := rfl
@[simp] theorem Dev.setReg_waits (d : Dev) (a v : Nat) : (d.setReg a v).waits = d.waits := rfl
@[simp] theorem Dev.setReg_kerbs (d : Dev) (a v : Nat) : (d.setReg a v).kerbs = d.kerbs := rfl
@[simp] theorem Dev.setReg_versions (d : Dev) (a v : Nat) : (d.setReg a v).versions = d.versions := rfl
@[simp] theorem Dev.setReg_ids (d : Dev) (a v : Nat) : (d.setReg a v).ids = d.ids := rfl
@[simp] theorem Dev.setReg_texts (d : Dev) (a v : Nat) : (d.setReg a v).texts = d.texts := rfl
@[simp] theorem Dev.setReg_changes (d : Dev) (a v : Nat) : (d.setReg a v).changes = d.changes := rfl
@[simp] theorem Dev.setReg_staleIds (d : Dev) (a v : Nat) : (d.setReg a v).staleIds = d.staleIds := rfl
@[simp] theorem Dev.setReg_filters (d : Dev) (a v : Nat) : (d.setReg a v).filters = d.filters := rfl
@[simp] theorem Dev.setReg_services (d : Dev) (a v : Nat) : (d.setReg a v).services = d.services := rfl
@[simp] theorem Dev.setReg_queries (d : Dev) (a v : Nat) : (d.setReg a v).queries = d.queries := rfl
@[simp] theorem Dev.setReg_nextQuery (d : Dev) (a v : Nat) : (d.setReg a v).nextQuery = d.nextQuery := rfl
@[simp] theorem Dev.setReg_batches (d : Dev) (a v : Nat) : (d.setReg a v).batches = d.batches := rfl
@[simp] theorem Dev.setReg_nextBatch (d : Dev) (a v : Nat) : (d.setReg a v).nextBatch = d.nextBatch := rfl
@[simp] theorem Dev.setReg_sweepLeft (d : Dev) (a v : Nat) : (d.setReg a v).sweepLeft = d.sweepLeft := rfl
@[simp] theorem Dev.setReg_nextBlock (d : Dev) (a v : Nat) : (d.setReg a v).nextBlock = d.nextBlock := rfl
@[simp] theorem Dev.setReg_passes (d : Dev) (a v : Nat) : (d.setReg a v).passes = d.passes := rfl
@[simp] theorem Dev.setReg_jobs (d : Dev) (a v : Nat) : (d.setReg a v).jobs = d.jobs := rfl
@[simp] theorem Dev.setReg_place (d : Dev) (a v : Nat) : (d.setReg a v).place = d.place := rfl
@[simp] theorem Dev.setReg_objMem (d : Dev) (a v : Nat) : (d.setReg a v).objMem = d.objMem := rfl
@[simp] theorem Dev.setReg_media (d : Dev) (a v : Nat) : (d.setReg a v).media = d.media := rfl
@[simp] theorem Dev.setReg_nsMem (d : Dev) (a v : Nat) : (d.setReg a v).nsMem = d.nsMem := rfl
@[simp] theorem Dev.setReg_host (d : Dev) (a v : Nat) : (d.setReg a v).host = d.host := rfl
@[simp] theorem Dev.setReg_time (d : Dev) (a v : Nat) : (d.setReg a v).time = d.time := rfl
@[simp] theorem Dev.setReg_power (d : Dev) (a v : Nat) : (d.setReg a v).power = d.power := rfl
@[simp] theorem Dev.setReg_contain (d : Dev) (a v : Nat) : (d.setReg a v).contain = d.contain := rfl
@[simp] theorem Dev.setReg_squares (d : Dev) (a v : Nat) : (d.setReg a v).squares = d.squares := rfl
@[simp] theorem Dev.setReg_sec (d : Dev) (a v : Nat) : (d.setReg a v).sec = d.sec := rfl
@[simp] theorem Dev.setReg_mon (d : Dev) (a v : Nat) : (d.setReg a v).mon = d.mon := rfl
@[simp] theorem Dev.setReg_trace (d : Dev) (a v : Nat) : (d.setReg a v).trace = d.trace := rfl
@[simp] theorem Dev.setReg_pins (d : Dev) (a v : Nat) : (d.setReg a v).pins = d.pins := rfl
@[simp] theorem Dev.setReg_drawn (d : Dev) (a v : Nat) : (d.setReg a v).drawn = d.drawn := rfl

/-! setBlock. -/

@[simp] theorem Dev.setBlock_regs (d : Dev) (b : Nat) (x : Block) : (d.setBlock b x).regs = d.regs := rfl
@[simp] theorem Dev.setBlock_out (d : Dev) (b : Nat) (x : Block) : (d.setBlock b x).out = d.out := rfl
@[simp] theorem Dev.setBlock_events (d : Dev) (b : Nat) (x : Block) : (d.setBlock b x).events = d.events := rfl
@[simp] theorem Dev.setBlock_seqs (d : Dev) (b : Nat) (x : Block) : (d.setBlock b x).seqs = d.seqs := rfl
@[simp] theorem Dev.setBlock_plan (d : Dev) (b : Nat) (x : Block) : (d.setBlock b x).plan = d.plan := rfl
@[simp] theorem Dev.setBlock_blocks (d : Dev) (b : Nat) (x : Block) : (d.setBlock b x).blocks = AMap.put d.blocks b x := rfl
@[simp] theorem Dev.setBlock_bmem (d : Dev) (b : Nat) (x : Block) : (d.setBlock b x).bmem = d.bmem := rfl
@[simp] theorem Dev.setBlock_waits (d : Dev) (b : Nat) (x : Block) : (d.setBlock b x).waits = d.waits := rfl
@[simp] theorem Dev.setBlock_kerbs (d : Dev) (b : Nat) (x : Block) : (d.setBlock b x).kerbs = d.kerbs := rfl
@[simp] theorem Dev.setBlock_versions (d : Dev) (b : Nat) (x : Block) : (d.setBlock b x).versions = d.versions := rfl
@[simp] theorem Dev.setBlock_ids (d : Dev) (b : Nat) (x : Block) : (d.setBlock b x).ids = d.ids := rfl
@[simp] theorem Dev.setBlock_texts (d : Dev) (b : Nat) (x : Block) : (d.setBlock b x).texts = d.texts := rfl
@[simp] theorem Dev.setBlock_changes (d : Dev) (b : Nat) (x : Block) : (d.setBlock b x).changes = d.changes := rfl
@[simp] theorem Dev.setBlock_staleIds (d : Dev) (b : Nat) (x : Block) : (d.setBlock b x).staleIds = d.staleIds := rfl
@[simp] theorem Dev.setBlock_filters (d : Dev) (b : Nat) (x : Block) : (d.setBlock b x).filters = d.filters := rfl
@[simp] theorem Dev.setBlock_services (d : Dev) (b : Nat) (x : Block) : (d.setBlock b x).services = d.services := rfl
@[simp] theorem Dev.setBlock_queries (d : Dev) (b : Nat) (x : Block) : (d.setBlock b x).queries = d.queries := rfl
@[simp] theorem Dev.setBlock_nextQuery (d : Dev) (b : Nat) (x : Block) : (d.setBlock b x).nextQuery = d.nextQuery := rfl
@[simp] theorem Dev.setBlock_batches (d : Dev) (b : Nat) (x : Block) : (d.setBlock b x).batches = d.batches := rfl
@[simp] theorem Dev.setBlock_nextBatch (d : Dev) (b : Nat) (x : Block) : (d.setBlock b x).nextBatch = d.nextBatch := rfl
@[simp] theorem Dev.setBlock_sweepLeft (d : Dev) (b : Nat) (x : Block) : (d.setBlock b x).sweepLeft = d.sweepLeft := rfl
@[simp] theorem Dev.setBlock_nextBlock (d : Dev) (b : Nat) (x : Block) : (d.setBlock b x).nextBlock = d.nextBlock := rfl
@[simp] theorem Dev.setBlock_passes (d : Dev) (b : Nat) (x : Block) : (d.setBlock b x).passes = d.passes := rfl
@[simp] theorem Dev.setBlock_jobs (d : Dev) (b : Nat) (x : Block) : (d.setBlock b x).jobs = d.jobs := rfl
@[simp] theorem Dev.setBlock_place (d : Dev) (b : Nat) (x : Block) : (d.setBlock b x).place = d.place := rfl
@[simp] theorem Dev.setBlock_objMem (d : Dev) (b : Nat) (x : Block) : (d.setBlock b x).objMem = d.objMem := rfl
@[simp] theorem Dev.setBlock_media (d : Dev) (b : Nat) (x : Block) : (d.setBlock b x).media = d.media := rfl
@[simp] theorem Dev.setBlock_nsMem (d : Dev) (b : Nat) (x : Block) : (d.setBlock b x).nsMem = d.nsMem := rfl
@[simp] theorem Dev.setBlock_host (d : Dev) (b : Nat) (x : Block) : (d.setBlock b x).host = d.host := rfl
@[simp] theorem Dev.setBlock_time (d : Dev) (b : Nat) (x : Block) : (d.setBlock b x).time = d.time := rfl
@[simp] theorem Dev.setBlock_power (d : Dev) (b : Nat) (x : Block) : (d.setBlock b x).power = d.power := rfl
@[simp] theorem Dev.setBlock_contain (d : Dev) (b : Nat) (x : Block) : (d.setBlock b x).contain = d.contain := rfl
@[simp] theorem Dev.setBlock_squares (d : Dev) (b : Nat) (x : Block) : (d.setBlock b x).squares = d.squares := rfl
@[simp] theorem Dev.setBlock_sec (d : Dev) (b : Nat) (x : Block) : (d.setBlock b x).sec = d.sec := rfl
@[simp] theorem Dev.setBlock_mon (d : Dev) (b : Nat) (x : Block) : (d.setBlock b x).mon = d.mon := rfl
@[simp] theorem Dev.setBlock_trace (d : Dev) (b : Nat) (x : Block) : (d.setBlock b x).trace = d.trace := rfl
@[simp] theorem Dev.setBlock_pins (d : Dev) (b : Nat) (x : Block) : (d.setBlock b x).pins = d.pins := rfl
@[simp] theorem Dev.setBlock_drawn (d : Dev) (b : Nat) (x : Block) : (d.setBlock b x).drawn = d.drawn := rfl

/-! setKerb. -/

@[simp] theorem Dev.setKerb_regs (d : Dev) (k : Nat) (x : Kerb) : (d.setKerb k x).regs = d.regs := rfl
@[simp] theorem Dev.setKerb_out (d : Dev) (k : Nat) (x : Kerb) : (d.setKerb k x).out = d.out := rfl
@[simp] theorem Dev.setKerb_events (d : Dev) (k : Nat) (x : Kerb) : (d.setKerb k x).events = d.events := rfl
@[simp] theorem Dev.setKerb_seqs (d : Dev) (k : Nat) (x : Kerb) : (d.setKerb k x).seqs = d.seqs := rfl
@[simp] theorem Dev.setKerb_plan (d : Dev) (k : Nat) (x : Kerb) : (d.setKerb k x).plan = d.plan := rfl
@[simp] theorem Dev.setKerb_blocks (d : Dev) (k : Nat) (x : Kerb) : (d.setKerb k x).blocks = d.blocks := rfl
@[simp] theorem Dev.setKerb_bmem (d : Dev) (k : Nat) (x : Kerb) : (d.setKerb k x).bmem = d.bmem := rfl
@[simp] theorem Dev.setKerb_waits (d : Dev) (k : Nat) (x : Kerb) : (d.setKerb k x).waits = d.waits := rfl
@[simp] theorem Dev.setKerb_kerbs (d : Dev) (k : Nat) (x : Kerb) : (d.setKerb k x).kerbs = AMap.put d.kerbs k x := rfl
@[simp] theorem Dev.setKerb_versions (d : Dev) (k : Nat) (x : Kerb) : (d.setKerb k x).versions = d.versions := rfl
@[simp] theorem Dev.setKerb_ids (d : Dev) (k : Nat) (x : Kerb) : (d.setKerb k x).ids = d.ids := rfl
@[simp] theorem Dev.setKerb_texts (d : Dev) (k : Nat) (x : Kerb) : (d.setKerb k x).texts = d.texts := rfl
@[simp] theorem Dev.setKerb_changes (d : Dev) (k : Nat) (x : Kerb) : (d.setKerb k x).changes = d.changes := rfl
@[simp] theorem Dev.setKerb_staleIds (d : Dev) (k : Nat) (x : Kerb) : (d.setKerb k x).staleIds = d.staleIds := rfl
@[simp] theorem Dev.setKerb_filters (d : Dev) (k : Nat) (x : Kerb) : (d.setKerb k x).filters = d.filters := rfl
@[simp] theorem Dev.setKerb_services (d : Dev) (k : Nat) (x : Kerb) : (d.setKerb k x).services = d.services := rfl
@[simp] theorem Dev.setKerb_queries (d : Dev) (k : Nat) (x : Kerb) : (d.setKerb k x).queries = d.queries := rfl
@[simp] theorem Dev.setKerb_nextQuery (d : Dev) (k : Nat) (x : Kerb) : (d.setKerb k x).nextQuery = d.nextQuery := rfl
@[simp] theorem Dev.setKerb_batches (d : Dev) (k : Nat) (x : Kerb) : (d.setKerb k x).batches = d.batches := rfl
@[simp] theorem Dev.setKerb_nextBatch (d : Dev) (k : Nat) (x : Kerb) : (d.setKerb k x).nextBatch = d.nextBatch := rfl
@[simp] theorem Dev.setKerb_sweepLeft (d : Dev) (k : Nat) (x : Kerb) : (d.setKerb k x).sweepLeft = d.sweepLeft := rfl
@[simp] theorem Dev.setKerb_nextBlock (d : Dev) (k : Nat) (x : Kerb) : (d.setKerb k x).nextBlock = d.nextBlock := rfl
@[simp] theorem Dev.setKerb_passes (d : Dev) (k : Nat) (x : Kerb) : (d.setKerb k x).passes = d.passes := rfl
@[simp] theorem Dev.setKerb_jobs (d : Dev) (k : Nat) (x : Kerb) : (d.setKerb k x).jobs = d.jobs := rfl
@[simp] theorem Dev.setKerb_place (d : Dev) (k : Nat) (x : Kerb) : (d.setKerb k x).place = d.place := rfl
@[simp] theorem Dev.setKerb_objMem (d : Dev) (k : Nat) (x : Kerb) : (d.setKerb k x).objMem = d.objMem := rfl
@[simp] theorem Dev.setKerb_media (d : Dev) (k : Nat) (x : Kerb) : (d.setKerb k x).media = d.media := rfl
@[simp] theorem Dev.setKerb_nsMem (d : Dev) (k : Nat) (x : Kerb) : (d.setKerb k x).nsMem = d.nsMem := rfl
@[simp] theorem Dev.setKerb_host (d : Dev) (k : Nat) (x : Kerb) : (d.setKerb k x).host = d.host := rfl
@[simp] theorem Dev.setKerb_time (d : Dev) (k : Nat) (x : Kerb) : (d.setKerb k x).time = d.time := rfl
@[simp] theorem Dev.setKerb_power (d : Dev) (k : Nat) (x : Kerb) : (d.setKerb k x).power = d.power := rfl
@[simp] theorem Dev.setKerb_contain (d : Dev) (k : Nat) (x : Kerb) : (d.setKerb k x).contain = d.contain := rfl
@[simp] theorem Dev.setKerb_squares (d : Dev) (k : Nat) (x : Kerb) : (d.setKerb k x).squares = d.squares := rfl
@[simp] theorem Dev.setKerb_sec (d : Dev) (k : Nat) (x : Kerb) : (d.setKerb k x).sec = d.sec := rfl
@[simp] theorem Dev.setKerb_mon (d : Dev) (k : Nat) (x : Kerb) : (d.setKerb k x).mon = d.mon := rfl
@[simp] theorem Dev.setKerb_trace (d : Dev) (k : Nat) (x : Kerb) : (d.setKerb k x).trace = d.trace := rfl
@[simp] theorem Dev.setKerb_pins (d : Dev) (k : Nat) (x : Kerb) : (d.setKerb k x).pins = d.pins := rfl
@[simp] theorem Dev.setKerb_drawn (d : Dev) (k : Nat) (x : Kerb) : (d.setKerb k x).drawn = d.drawn := rfl

/-! setId. -/

@[simp] theorem Dev.setId_regs (d : Dev) (ns id : Nat) (x : IdState) : (d.setId ns id x).regs = d.regs := rfl
@[simp] theorem Dev.setId_out (d : Dev) (ns id : Nat) (x : IdState) : (d.setId ns id x).out = d.out := rfl
@[simp] theorem Dev.setId_events (d : Dev) (ns id : Nat) (x : IdState) : (d.setId ns id x).events = d.events := rfl
@[simp] theorem Dev.setId_seqs (d : Dev) (ns id : Nat) (x : IdState) : (d.setId ns id x).seqs = d.seqs := rfl
@[simp] theorem Dev.setId_plan (d : Dev) (ns id : Nat) (x : IdState) : (d.setId ns id x).plan = d.plan := rfl
@[simp] theorem Dev.setId_blocks (d : Dev) (ns id : Nat) (x : IdState) : (d.setId ns id x).blocks = d.blocks := rfl
@[simp] theorem Dev.setId_bmem (d : Dev) (ns id : Nat) (x : IdState) : (d.setId ns id x).bmem = d.bmem := rfl
@[simp] theorem Dev.setId_waits (d : Dev) (ns id : Nat) (x : IdState) : (d.setId ns id x).waits = d.waits := rfl
@[simp] theorem Dev.setId_kerbs (d : Dev) (ns id : Nat) (x : IdState) : (d.setId ns id x).kerbs = d.kerbs := rfl
@[simp] theorem Dev.setId_versions (d : Dev) (ns id : Nat) (x : IdState) : (d.setId ns id x).versions = d.versions := rfl
@[simp] theorem Dev.setId_ids (d : Dev) (ns id : Nat) (x : IdState) : (d.setId ns id x).ids = AMap.put d.ids (2 ^ 40 * d.idOwner ns + id) x := rfl
@[simp] theorem Dev.setId_texts (d : Dev) (ns id : Nat) (x : IdState) : (d.setId ns id x).texts = d.texts := rfl
@[simp] theorem Dev.setId_changes (d : Dev) (ns id : Nat) (x : IdState) : (d.setId ns id x).changes = d.changes := rfl
@[simp] theorem Dev.setId_staleIds (d : Dev) (ns id : Nat) (x : IdState) : (d.setId ns id x).staleIds = d.staleIds := rfl
@[simp] theorem Dev.setId_filters (d : Dev) (ns id : Nat) (x : IdState) : (d.setId ns id x).filters = d.filters := rfl
@[simp] theorem Dev.setId_services (d : Dev) (ns id : Nat) (x : IdState) : (d.setId ns id x).services = d.services := rfl
@[simp] theorem Dev.setId_queries (d : Dev) (ns id : Nat) (x : IdState) : (d.setId ns id x).queries = d.queries := rfl
@[simp] theorem Dev.setId_nextQuery (d : Dev) (ns id : Nat) (x : IdState) : (d.setId ns id x).nextQuery = d.nextQuery := rfl
@[simp] theorem Dev.setId_batches (d : Dev) (ns id : Nat) (x : IdState) : (d.setId ns id x).batches = d.batches := rfl
@[simp] theorem Dev.setId_nextBatch (d : Dev) (ns id : Nat) (x : IdState) : (d.setId ns id x).nextBatch = d.nextBatch := rfl
@[simp] theorem Dev.setId_sweepLeft (d : Dev) (ns id : Nat) (x : IdState) : (d.setId ns id x).sweepLeft = d.sweepLeft := rfl
@[simp] theorem Dev.setId_nextBlock (d : Dev) (ns id : Nat) (x : IdState) : (d.setId ns id x).nextBlock = d.nextBlock := rfl
@[simp] theorem Dev.setId_passes (d : Dev) (ns id : Nat) (x : IdState) : (d.setId ns id x).passes = d.passes := rfl
@[simp] theorem Dev.setId_jobs (d : Dev) (ns id : Nat) (x : IdState) : (d.setId ns id x).jobs = d.jobs := rfl
@[simp] theorem Dev.setId_place (d : Dev) (ns id : Nat) (x : IdState) : (d.setId ns id x).place = d.place := rfl
@[simp] theorem Dev.setId_objMem (d : Dev) (ns id : Nat) (x : IdState) : (d.setId ns id x).objMem = d.objMem := rfl
@[simp] theorem Dev.setId_media (d : Dev) (ns id : Nat) (x : IdState) : (d.setId ns id x).media = d.media := rfl
@[simp] theorem Dev.setId_nsMem (d : Dev) (ns id : Nat) (x : IdState) : (d.setId ns id x).nsMem = d.nsMem := rfl
@[simp] theorem Dev.setId_host (d : Dev) (ns id : Nat) (x : IdState) : (d.setId ns id x).host = d.host := rfl
@[simp] theorem Dev.setId_time (d : Dev) (ns id : Nat) (x : IdState) : (d.setId ns id x).time = d.time := rfl
@[simp] theorem Dev.setId_power (d : Dev) (ns id : Nat) (x : IdState) : (d.setId ns id x).power = d.power := rfl
@[simp] theorem Dev.setId_contain (d : Dev) (ns id : Nat) (x : IdState) : (d.setId ns id x).contain = d.contain := rfl
@[simp] theorem Dev.setId_squares (d : Dev) (ns id : Nat) (x : IdState) : (d.setId ns id x).squares = d.squares := rfl
@[simp] theorem Dev.setId_sec (d : Dev) (ns id : Nat) (x : IdState) : (d.setId ns id x).sec = d.sec := rfl
@[simp] theorem Dev.setId_mon (d : Dev) (ns id : Nat) (x : IdState) : (d.setId ns id x).mon = d.mon := rfl
@[simp] theorem Dev.setId_trace (d : Dev) (ns id : Nat) (x : IdState) : (d.setId ns id x).trace = d.trace := rfl
@[simp] theorem Dev.setId_pins (d : Dev) (ns id : Nat) (x : IdState) : (d.setId ns id x).pins = d.pins := rfl
@[simp] theorem Dev.setId_drawn (d : Dev) (ns id : Nat) (x : IdState) : (d.setId ns id x).drawn = d.drawn := rfl

/-! storeBm. -/

@[simp] theorem Dev.storeBm_regs (d : Dev) (b a : Nat) (bytes : List Byte) : (d.storeBm b a bytes).regs = d.regs := rfl
@[simp] theorem Dev.storeBm_out (d : Dev) (b a : Nat) (bytes : List Byte) : (d.storeBm b a bytes).out = d.out := rfl
@[simp] theorem Dev.storeBm_events (d : Dev) (b a : Nat) (bytes : List Byte) : (d.storeBm b a bytes).events = d.events := rfl
@[simp] theorem Dev.storeBm_seqs (d : Dev) (b a : Nat) (bytes : List Byte) : (d.storeBm b a bytes).seqs = d.seqs := rfl
@[simp] theorem Dev.storeBm_plan (d : Dev) (b a : Nat) (bytes : List Byte) : (d.storeBm b a bytes).plan = d.plan := rfl
@[simp] theorem Dev.storeBm_blocks (d : Dev) (b a : Nat) (bytes : List Byte) : (d.storeBm b a bytes).blocks = d.blocks := rfl
@[simp] theorem Dev.storeBm_bmem (d : Dev) (b a : Nat) (bytes : List Byte) : (d.storeBm b a bytes).bmem = Mem.store d.bmem (2 ^ 23 * b + a) bytes := rfl
@[simp] theorem Dev.storeBm_waits (d : Dev) (b a : Nat) (bytes : List Byte) : (d.storeBm b a bytes).waits = d.waits := rfl
@[simp] theorem Dev.storeBm_kerbs (d : Dev) (b a : Nat) (bytes : List Byte) : (d.storeBm b a bytes).kerbs = d.kerbs := rfl
@[simp] theorem Dev.storeBm_versions (d : Dev) (b a : Nat) (bytes : List Byte) : (d.storeBm b a bytes).versions = d.versions := rfl
@[simp] theorem Dev.storeBm_ids (d : Dev) (b a : Nat) (bytes : List Byte) : (d.storeBm b a bytes).ids = d.ids := rfl
@[simp] theorem Dev.storeBm_texts (d : Dev) (b a : Nat) (bytes : List Byte) : (d.storeBm b a bytes).texts = d.texts := rfl
@[simp] theorem Dev.storeBm_changes (d : Dev) (b a : Nat) (bytes : List Byte) : (d.storeBm b a bytes).changes = d.changes := rfl
@[simp] theorem Dev.storeBm_staleIds (d : Dev) (b a : Nat) (bytes : List Byte) : (d.storeBm b a bytes).staleIds = d.staleIds := rfl
@[simp] theorem Dev.storeBm_filters (d : Dev) (b a : Nat) (bytes : List Byte) : (d.storeBm b a bytes).filters = d.filters := rfl
@[simp] theorem Dev.storeBm_services (d : Dev) (b a : Nat) (bytes : List Byte) : (d.storeBm b a bytes).services = d.services := rfl
@[simp] theorem Dev.storeBm_queries (d : Dev) (b a : Nat) (bytes : List Byte) : (d.storeBm b a bytes).queries = d.queries := rfl
@[simp] theorem Dev.storeBm_nextQuery (d : Dev) (b a : Nat) (bytes : List Byte) : (d.storeBm b a bytes).nextQuery = d.nextQuery := rfl
@[simp] theorem Dev.storeBm_batches (d : Dev) (b a : Nat) (bytes : List Byte) : (d.storeBm b a bytes).batches = d.batches := rfl
@[simp] theorem Dev.storeBm_nextBatch (d : Dev) (b a : Nat) (bytes : List Byte) : (d.storeBm b a bytes).nextBatch = d.nextBatch := rfl
@[simp] theorem Dev.storeBm_sweepLeft (d : Dev) (b a : Nat) (bytes : List Byte) : (d.storeBm b a bytes).sweepLeft = d.sweepLeft := rfl
@[simp] theorem Dev.storeBm_nextBlock (d : Dev) (b a : Nat) (bytes : List Byte) : (d.storeBm b a bytes).nextBlock = d.nextBlock := rfl
@[simp] theorem Dev.storeBm_passes (d : Dev) (b a : Nat) (bytes : List Byte) : (d.storeBm b a bytes).passes = d.passes := rfl
@[simp] theorem Dev.storeBm_jobs (d : Dev) (b a : Nat) (bytes : List Byte) : (d.storeBm b a bytes).jobs = d.jobs := rfl
@[simp] theorem Dev.storeBm_place (d : Dev) (b a : Nat) (bytes : List Byte) : (d.storeBm b a bytes).place = d.place := rfl
@[simp] theorem Dev.storeBm_objMem (d : Dev) (b a : Nat) (bytes : List Byte) : (d.storeBm b a bytes).objMem = d.objMem := rfl
@[simp] theorem Dev.storeBm_media (d : Dev) (b a : Nat) (bytes : List Byte) : (d.storeBm b a bytes).media = d.media := rfl
@[simp] theorem Dev.storeBm_nsMem (d : Dev) (b a : Nat) (bytes : List Byte) : (d.storeBm b a bytes).nsMem = d.nsMem := rfl
@[simp] theorem Dev.storeBm_host (d : Dev) (b a : Nat) (bytes : List Byte) : (d.storeBm b a bytes).host = d.host := rfl
@[simp] theorem Dev.storeBm_time (d : Dev) (b a : Nat) (bytes : List Byte) : (d.storeBm b a bytes).time = d.time := rfl
@[simp] theorem Dev.storeBm_power (d : Dev) (b a : Nat) (bytes : List Byte) : (d.storeBm b a bytes).power = d.power := rfl
@[simp] theorem Dev.storeBm_contain (d : Dev) (b a : Nat) (bytes : List Byte) : (d.storeBm b a bytes).contain = d.contain := rfl
@[simp] theorem Dev.storeBm_squares (d : Dev) (b a : Nat) (bytes : List Byte) : (d.storeBm b a bytes).squares = d.squares := rfl
@[simp] theorem Dev.storeBm_sec (d : Dev) (b a : Nat) (bytes : List Byte) : (d.storeBm b a bytes).sec = d.sec := rfl
@[simp] theorem Dev.storeBm_mon (d : Dev) (b a : Nat) (bytes : List Byte) : (d.storeBm b a bytes).mon = d.mon := rfl
@[simp] theorem Dev.storeBm_trace (d : Dev) (b a : Nat) (bytes : List Byte) : (d.storeBm b a bytes).trace = d.trace := rfl
@[simp] theorem Dev.storeBm_pins (d : Dev) (b a : Nat) (bytes : List Byte) : (d.storeBm b a bytes).pins = d.pins := rfl
@[simp] theorem Dev.storeBm_drawn (d : Dev) (b a : Nat) (bytes : List Byte) : (d.storeBm b a bytes).drawn = d.drawn := rfl

/-! storeObj. -/

@[simp] theorem Dev.storeObj_regs (d : Dev) (i o : Nat) (bytes : List Byte) : (d.storeObj i o bytes).regs = d.regs := rfl
@[simp] theorem Dev.storeObj_out (d : Dev) (i o : Nat) (bytes : List Byte) : (d.storeObj i o bytes).out = d.out := rfl
@[simp] theorem Dev.storeObj_events (d : Dev) (i o : Nat) (bytes : List Byte) : (d.storeObj i o bytes).events = d.events := rfl
@[simp] theorem Dev.storeObj_seqs (d : Dev) (i o : Nat) (bytes : List Byte) : (d.storeObj i o bytes).seqs = d.seqs := rfl
@[simp] theorem Dev.storeObj_plan (d : Dev) (i o : Nat) (bytes : List Byte) : (d.storeObj i o bytes).plan = d.plan := rfl
@[simp] theorem Dev.storeObj_blocks (d : Dev) (i o : Nat) (bytes : List Byte) : (d.storeObj i o bytes).blocks = d.blocks := rfl
@[simp] theorem Dev.storeObj_bmem (d : Dev) (i o : Nat) (bytes : List Byte) : (d.storeObj i o bytes).bmem = d.bmem := rfl
@[simp] theorem Dev.storeObj_waits (d : Dev) (i o : Nat) (bytes : List Byte) : (d.storeObj i o bytes).waits = d.waits := rfl
@[simp] theorem Dev.storeObj_kerbs (d : Dev) (i o : Nat) (bytes : List Byte) : (d.storeObj i o bytes).kerbs = d.kerbs := rfl
@[simp] theorem Dev.storeObj_versions (d : Dev) (i o : Nat) (bytes : List Byte) : (d.storeObj i o bytes).versions = d.versions := rfl
@[simp] theorem Dev.storeObj_ids (d : Dev) (i o : Nat) (bytes : List Byte) : (d.storeObj i o bytes).ids = d.ids := rfl
@[simp] theorem Dev.storeObj_texts (d : Dev) (i o : Nat) (bytes : List Byte) : (d.storeObj i o bytes).texts = d.texts := rfl
@[simp] theorem Dev.storeObj_changes (d : Dev) (i o : Nat) (bytes : List Byte) : (d.storeObj i o bytes).changes = d.changes := rfl
@[simp] theorem Dev.storeObj_staleIds (d : Dev) (i o : Nat) (bytes : List Byte) : (d.storeObj i o bytes).staleIds = d.staleIds := rfl
@[simp] theorem Dev.storeObj_filters (d : Dev) (i o : Nat) (bytes : List Byte) : (d.storeObj i o bytes).filters = d.filters := rfl
@[simp] theorem Dev.storeObj_services (d : Dev) (i o : Nat) (bytes : List Byte) : (d.storeObj i o bytes).services = d.services := rfl
@[simp] theorem Dev.storeObj_queries (d : Dev) (i o : Nat) (bytes : List Byte) : (d.storeObj i o bytes).queries = d.queries := rfl
@[simp] theorem Dev.storeObj_nextQuery (d : Dev) (i o : Nat) (bytes : List Byte) : (d.storeObj i o bytes).nextQuery = d.nextQuery := rfl
@[simp] theorem Dev.storeObj_batches (d : Dev) (i o : Nat) (bytes : List Byte) : (d.storeObj i o bytes).batches = d.batches := rfl
@[simp] theorem Dev.storeObj_nextBatch (d : Dev) (i o : Nat) (bytes : List Byte) : (d.storeObj i o bytes).nextBatch = d.nextBatch := rfl
@[simp] theorem Dev.storeObj_sweepLeft (d : Dev) (i o : Nat) (bytes : List Byte) : (d.storeObj i o bytes).sweepLeft = d.sweepLeft := rfl
@[simp] theorem Dev.storeObj_nextBlock (d : Dev) (i o : Nat) (bytes : List Byte) : (d.storeObj i o bytes).nextBlock = d.nextBlock := rfl
@[simp] theorem Dev.storeObj_passes (d : Dev) (i o : Nat) (bytes : List Byte) : (d.storeObj i o bytes).passes = d.passes := rfl
@[simp] theorem Dev.storeObj_jobs (d : Dev) (i o : Nat) (bytes : List Byte) : (d.storeObj i o bytes).jobs = d.jobs := rfl
@[simp] theorem Dev.storeObj_place (d : Dev) (i o : Nat) (bytes : List Byte) : (d.storeObj i o bytes).place = d.place := rfl
@[simp] theorem Dev.storeObj_objMem (d : Dev) (i o : Nat) (bytes : List Byte) : (d.storeObj i o bytes).objMem = Mem.store d.objMem (2 ^ 36 * i + o) bytes := rfl
@[simp] theorem Dev.storeObj_media (d : Dev) (i o : Nat) (bytes : List Byte) : (d.storeObj i o bytes).media = d.media := rfl
@[simp] theorem Dev.storeObj_nsMem (d : Dev) (i o : Nat) (bytes : List Byte) : (d.storeObj i o bytes).nsMem = d.nsMem := rfl
@[simp] theorem Dev.storeObj_host (d : Dev) (i o : Nat) (bytes : List Byte) : (d.storeObj i o bytes).host = d.host := rfl
@[simp] theorem Dev.storeObj_time (d : Dev) (i o : Nat) (bytes : List Byte) : (d.storeObj i o bytes).time = d.time := rfl
@[simp] theorem Dev.storeObj_power (d : Dev) (i o : Nat) (bytes : List Byte) : (d.storeObj i o bytes).power = d.power := rfl
@[simp] theorem Dev.storeObj_contain (d : Dev) (i o : Nat) (bytes : List Byte) : (d.storeObj i o bytes).contain = d.contain := rfl
@[simp] theorem Dev.storeObj_squares (d : Dev) (i o : Nat) (bytes : List Byte) : (d.storeObj i o bytes).squares = d.squares := rfl
@[simp] theorem Dev.storeObj_sec (d : Dev) (i o : Nat) (bytes : List Byte) : (d.storeObj i o bytes).sec = d.sec := rfl
@[simp] theorem Dev.storeObj_mon (d : Dev) (i o : Nat) (bytes : List Byte) : (d.storeObj i o bytes).mon = d.mon := rfl
@[simp] theorem Dev.storeObj_trace (d : Dev) (i o : Nat) (bytes : List Byte) : (d.storeObj i o bytes).trace = d.trace := rfl
@[simp] theorem Dev.storeObj_pins (d : Dev) (i o : Nat) (bytes : List Byte) : (d.storeObj i o bytes).pins = d.pins := rfl
@[simp] theorem Dev.storeObj_drawn (d : Dev) (i o : Nat) (bytes : List Byte) : (d.storeObj i o bytes).drawn = d.drawn := rfl

/-! storeNs. -/

@[simp] theorem Dev.storeNs_regs (d : Dev) (ns o : Nat) (bytes : List Byte) : (d.storeNs ns o bytes).regs = d.regs := rfl
@[simp] theorem Dev.storeNs_out (d : Dev) (ns o : Nat) (bytes : List Byte) : (d.storeNs ns o bytes).out = d.out := rfl
@[simp] theorem Dev.storeNs_events (d : Dev) (ns o : Nat) (bytes : List Byte) : (d.storeNs ns o bytes).events = d.events := rfl
@[simp] theorem Dev.storeNs_seqs (d : Dev) (ns o : Nat) (bytes : List Byte) : (d.storeNs ns o bytes).seqs = d.seqs := rfl
@[simp] theorem Dev.storeNs_plan (d : Dev) (ns o : Nat) (bytes : List Byte) : (d.storeNs ns o bytes).plan = d.plan := rfl
@[simp] theorem Dev.storeNs_blocks (d : Dev) (ns o : Nat) (bytes : List Byte) : (d.storeNs ns o bytes).blocks = d.blocks := rfl
@[simp] theorem Dev.storeNs_bmem (d : Dev) (ns o : Nat) (bytes : List Byte) : (d.storeNs ns o bytes).bmem = d.bmem := rfl
@[simp] theorem Dev.storeNs_waits (d : Dev) (ns o : Nat) (bytes : List Byte) : (d.storeNs ns o bytes).waits = d.waits := rfl
@[simp] theorem Dev.storeNs_kerbs (d : Dev) (ns o : Nat) (bytes : List Byte) : (d.storeNs ns o bytes).kerbs = d.kerbs := rfl
@[simp] theorem Dev.storeNs_versions (d : Dev) (ns o : Nat) (bytes : List Byte) : (d.storeNs ns o bytes).versions = d.versions := rfl
@[simp] theorem Dev.storeNs_ids (d : Dev) (ns o : Nat) (bytes : List Byte) : (d.storeNs ns o bytes).ids = d.ids := rfl
@[simp] theorem Dev.storeNs_texts (d : Dev) (ns o : Nat) (bytes : List Byte) : (d.storeNs ns o bytes).texts = d.texts := rfl
@[simp] theorem Dev.storeNs_changes (d : Dev) (ns o : Nat) (bytes : List Byte) : (d.storeNs ns o bytes).changes = d.changes := rfl
@[simp] theorem Dev.storeNs_staleIds (d : Dev) (ns o : Nat) (bytes : List Byte) : (d.storeNs ns o bytes).staleIds = d.staleIds := rfl
@[simp] theorem Dev.storeNs_filters (d : Dev) (ns o : Nat) (bytes : List Byte) : (d.storeNs ns o bytes).filters = d.filters := rfl
@[simp] theorem Dev.storeNs_services (d : Dev) (ns o : Nat) (bytes : List Byte) : (d.storeNs ns o bytes).services = d.services := rfl
@[simp] theorem Dev.storeNs_queries (d : Dev) (ns o : Nat) (bytes : List Byte) : (d.storeNs ns o bytes).queries = d.queries := rfl
@[simp] theorem Dev.storeNs_nextQuery (d : Dev) (ns o : Nat) (bytes : List Byte) : (d.storeNs ns o bytes).nextQuery = d.nextQuery := rfl
@[simp] theorem Dev.storeNs_batches (d : Dev) (ns o : Nat) (bytes : List Byte) : (d.storeNs ns o bytes).batches = d.batches := rfl
@[simp] theorem Dev.storeNs_nextBatch (d : Dev) (ns o : Nat) (bytes : List Byte) : (d.storeNs ns o bytes).nextBatch = d.nextBatch := rfl
@[simp] theorem Dev.storeNs_sweepLeft (d : Dev) (ns o : Nat) (bytes : List Byte) : (d.storeNs ns o bytes).sweepLeft = d.sweepLeft := rfl
@[simp] theorem Dev.storeNs_nextBlock (d : Dev) (ns o : Nat) (bytes : List Byte) : (d.storeNs ns o bytes).nextBlock = d.nextBlock := rfl
@[simp] theorem Dev.storeNs_passes (d : Dev) (ns o : Nat) (bytes : List Byte) : (d.storeNs ns o bytes).passes = d.passes := rfl
@[simp] theorem Dev.storeNs_jobs (d : Dev) (ns o : Nat) (bytes : List Byte) : (d.storeNs ns o bytes).jobs = d.jobs := rfl
@[simp] theorem Dev.storeNs_place (d : Dev) (ns o : Nat) (bytes : List Byte) : (d.storeNs ns o bytes).place = d.place := rfl
@[simp] theorem Dev.storeNs_objMem (d : Dev) (ns o : Nat) (bytes : List Byte) : (d.storeNs ns o bytes).objMem = d.objMem := rfl
@[simp] theorem Dev.storeNs_media (d : Dev) (ns o : Nat) (bytes : List Byte) : (d.storeNs ns o bytes).media = d.media := rfl
@[simp] theorem Dev.storeNs_nsMem (d : Dev) (ns o : Nat) (bytes : List Byte) : (d.storeNs ns o bytes).nsMem = Mem.store d.nsMem (2 ^ 49 * ns + o) bytes := rfl
@[simp] theorem Dev.storeNs_host (d : Dev) (ns o : Nat) (bytes : List Byte) : (d.storeNs ns o bytes).host = d.host := rfl
@[simp] theorem Dev.storeNs_time (d : Dev) (ns o : Nat) (bytes : List Byte) : (d.storeNs ns o bytes).time = d.time := rfl
@[simp] theorem Dev.storeNs_power (d : Dev) (ns o : Nat) (bytes : List Byte) : (d.storeNs ns o bytes).power = d.power := rfl
@[simp] theorem Dev.storeNs_contain (d : Dev) (ns o : Nat) (bytes : List Byte) : (d.storeNs ns o bytes).contain = d.contain := rfl
@[simp] theorem Dev.storeNs_squares (d : Dev) (ns o : Nat) (bytes : List Byte) : (d.storeNs ns o bytes).squares = d.squares := rfl
@[simp] theorem Dev.storeNs_sec (d : Dev) (ns o : Nat) (bytes : List Byte) : (d.storeNs ns o bytes).sec = d.sec := rfl
@[simp] theorem Dev.storeNs_mon (d : Dev) (ns o : Nat) (bytes : List Byte) : (d.storeNs ns o bytes).mon = d.mon := rfl
@[simp] theorem Dev.storeNs_trace (d : Dev) (ns o : Nat) (bytes : List Byte) : (d.storeNs ns o bytes).trace = d.trace := rfl
@[simp] theorem Dev.storeNs_pins (d : Dev) (ns o : Nat) (bytes : List Byte) : (d.storeNs ns o bytes).pins = d.pins := rfl
@[simp] theorem Dev.storeNs_drawn (d : Dev) (ns o : Nat) (bytes : List Byte) : (d.storeNs ns o bytes).drawn = d.drawn := rfl

/-! draw. -/

@[simp] theorem Dev.draw_regs (d : Dev) : d.draw.2.regs = d.regs := rfl
@[simp] theorem Dev.draw_out (d : Dev) : d.draw.2.out = d.out := rfl
@[simp] theorem Dev.draw_events (d : Dev) : d.draw.2.events = d.events := rfl
@[simp] theorem Dev.draw_seqs (d : Dev) : d.draw.2.seqs = d.seqs := rfl
@[simp] theorem Dev.draw_plan (d : Dev) : d.draw.2.plan = d.plan := rfl
@[simp] theorem Dev.draw_blocks (d : Dev) : d.draw.2.blocks = d.blocks := rfl
@[simp] theorem Dev.draw_bmem (d : Dev) : d.draw.2.bmem = d.bmem := rfl
@[simp] theorem Dev.draw_waits (d : Dev) : d.draw.2.waits = d.waits := rfl
@[simp] theorem Dev.draw_kerbs (d : Dev) : d.draw.2.kerbs = d.kerbs := rfl
@[simp] theorem Dev.draw_versions (d : Dev) : d.draw.2.versions = d.versions := rfl
@[simp] theorem Dev.draw_ids (d : Dev) : d.draw.2.ids = d.ids := rfl
@[simp] theorem Dev.draw_texts (d : Dev) : d.draw.2.texts = d.texts := rfl
@[simp] theorem Dev.draw_changes (d : Dev) : d.draw.2.changes = d.changes := rfl
@[simp] theorem Dev.draw_staleIds (d : Dev) : d.draw.2.staleIds = d.staleIds := rfl
@[simp] theorem Dev.draw_filters (d : Dev) : d.draw.2.filters = d.filters := rfl
@[simp] theorem Dev.draw_services (d : Dev) : d.draw.2.services = d.services := rfl
@[simp] theorem Dev.draw_queries (d : Dev) : d.draw.2.queries = d.queries := rfl
@[simp] theorem Dev.draw_nextQuery (d : Dev) : d.draw.2.nextQuery = d.nextQuery := rfl
@[simp] theorem Dev.draw_batches (d : Dev) : d.draw.2.batches = d.batches := rfl
@[simp] theorem Dev.draw_nextBatch (d : Dev) : d.draw.2.nextBatch = d.nextBatch := rfl
@[simp] theorem Dev.draw_sweepLeft (d : Dev) : d.draw.2.sweepLeft = d.sweepLeft := rfl
@[simp] theorem Dev.draw_nextBlock (d : Dev) : d.draw.2.nextBlock = d.nextBlock := rfl
@[simp] theorem Dev.draw_passes (d : Dev) : d.draw.2.passes = d.passes := rfl
@[simp] theorem Dev.draw_jobs (d : Dev) : d.draw.2.jobs = d.jobs := rfl
@[simp] theorem Dev.draw_place (d : Dev) : d.draw.2.place = d.place := rfl
@[simp] theorem Dev.draw_objMem (d : Dev) : d.draw.2.objMem = d.objMem := rfl
@[simp] theorem Dev.draw_media (d : Dev) : d.draw.2.media = d.media := rfl
@[simp] theorem Dev.draw_nsMem (d : Dev) : d.draw.2.nsMem = d.nsMem := rfl
@[simp] theorem Dev.draw_host (d : Dev) : d.draw.2.host = d.host := rfl
@[simp] theorem Dev.draw_time (d : Dev) : d.draw.2.time = d.time := rfl
@[simp] theorem Dev.draw_power (d : Dev) : d.draw.2.power = d.power := rfl
@[simp] theorem Dev.draw_contain (d : Dev) : d.draw.2.contain = d.contain := rfl
@[simp] theorem Dev.draw_squares (d : Dev) : d.draw.2.squares = d.squares := rfl
@[simp] theorem Dev.draw_sec (d : Dev) : d.draw.2.sec = d.sec := rfl
@[simp] theorem Dev.draw_mon (d : Dev) : d.draw.2.mon = d.mon := rfl
@[simp] theorem Dev.draw_trace (d : Dev) : d.draw.2.trace = d.trace := rfl
@[simp] theorem Dev.draw_pins (d : Dev) : d.draw.2.pins = d.pins := rfl
@[simp] theorem Dev.draw_drawn (d : Dev) : d.draw.2.drawn = d.drawn + 1 := rfl

/-! What reads back. -/

/-- A register that was written reads as it was written. -/
@[simp] theorem Dev.reg_setReg (d : Dev) (a v : Nat) : (d.setReg a v).reg a = v := by
  rw [Dev.reg, Dev.setReg_regs, AMap.look_put]; rfl

/-- Every other register reads as before. -/
theorem Dev.reg_setReg_ne (d : Dev) (v : Nat) {a b : Nat} (h : b ≠ a) : (d.setReg a v).reg b = d.reg b := by
  rw [Dev.reg, Dev.setReg_regs, AMap.look_put_ne _ _ h]; rfl

@[simp] theorem Dev.block_setBlock (d : Dev) (b : Nat) (x : Block) : (d.setBlock b x).block b = x := by
  rw [Dev.block, AMap.get, Dev.setBlock_blocks, AMap.look_put]; rfl

theorem Dev.block_setBlock_ne (d : Dev) (x : Block) {a b : Nat} (h : a ≠ b) : (d.setBlock b x).block a = d.block a := by
  rw [Dev.block, AMap.get, Dev.setBlock_blocks, AMap.look_put_ne _ _ h]; rfl

@[simp] theorem Dev.kerb_setKerb (d : Dev) (k : Nat) (x : Kerb) : (d.setKerb k x).kerb k = x := by
  rw [Dev.kerb, AMap.get, Dev.setKerb_kerbs, AMap.look_put]; rfl

theorem Dev.kerb_setKerb_ne (d : Dev) (x : Kerb) {a k : Nat} (h : a ≠ k) : (d.setKerb k x).kerb a = d.kerb a := by
  rw [Dev.kerb, AMap.get, Dev.setKerb_kerbs, AMap.look_put_ne _ _ h]; rfl

/-- Each of the three stores keeps its memory in canonical form. -/
theorem Dev.storeBm_wf (d : Dev) (b a : Nat) (bytes : List Byte) (h : Mem.wf d.bmem = true) :
    Mem.wf (d.storeBm b a bytes).bmem = true := Mem.wf_store _ _ _ h

theorem Dev.storeObj_wf (d : Dev) (i o : Nat) (bytes : List Byte) (h : Mem.wf d.objMem = true) :
    Mem.wf (d.storeObj i o bytes).objMem = true := Mem.wf_store _ _ _ h

theorem Dev.storeNs_wf (d : Dev) (ns o : Nat) (bytes : List Byte) (h : Mem.wf d.nsMem = true) :
    Mem.wf (d.storeNs ns o bytes).nsMem = true := Mem.wf_store _ _ _ h

/-- After reset every memory is in canonical form. -/
theorem State.reset_bmem_wf : Mem.wf State.reset.dev.bmem = true := rfl
theorem State.reset_objMem_wf : Mem.wf State.reset.dev.objMem = true := rfl
theorem State.reset_nsMem_wf : Mem.wf State.reset.dev.nsMem = true := rfl

end Sys2Proof.Machine
end

