-- ==== Sys2Proof/Laws/Blocks.lean ====
section
/-! SUPPORT. What the operations of a block's running command can do: the shared steps before the store keep every byte and the place of
every command in its list, and the store and the end of the operation are said once. -/

namespace Sys2Proof.Machine

/-- `e` has the bytes of `d`, and every command stands at the same operation of its list. -/
def KeepsWork (d e : Dev) : Prop :=
  (e.bmem = d.bmem ∧ e.objMem = d.objMem ∧ e.nsMem = d.nsMem) ∧
    ∀ b i, (e.slot b i).map (·.next) = (d.slot b i).map (·.next)

theorem KeepsWork.refl (d : Dev) : KeepsWork d d := ⟨⟨rfl, rfl, rfl⟩, fun _ _ => rfl⟩

theorem KeepsWork.trans {d e f : Dev} (h : KeepsWork d e) (g : KeepsWork e f) : KeepsWork d f :=
  ⟨⟨g.1.1.trans h.1.1, g.1.2.1.trans h.1.2.1, g.1.2.2.trans h.1.2.2⟩, fun b i => (g.2 b i).trans (h.2 b i)⟩

theorem KeepsWork.setReg (d : Dev) (a v : Nat) : KeepsWork d (d.setReg a v) := ⟨⟨rfl, rfl, rfl⟩, fun _ _ => rfl⟩

theorem KeepsWork.fset (d : Dev) (a : Nat) (f : Fld) (n : Nat) : KeepsWork d (d.fset a f n) := .setReg d _ _

theorem KeepsWork.fadd (d : Dev) (a : Nat) (f : Fld) (n : Nat) : KeepsWork d (d.fadd a f n) := .setReg d _ _

theorem KeepsWork.draw (d : Dev) : KeepsWork d d.draw.2 := ⟨⟨rfl, rfl, rfl⟩, fun _ _ => rfl⟩

theorem KeepsWork.foldl {α : Type} (f : Dev → α → Dev) (h : ∀ d a, KeepsWork d (f d a)) (l : List α) (d : Dev) :
    KeepsWork d (l.foldl f d) := by
  induction l generalizing d with
  | nil => exact .refl d
  | cons a t ih => exact (h d a).trans (ih _)

theorem AMap.look_upd {α : Type} (m : AMap α) (i j : Nat) (f : α → α) :
    AMap.look (AMap.upd m i f) j = if j = i then (AMap.look m j).map f else AMap.look m j := by
  induction m with
  | nil => simp [AMap.upd, AMap.look]
  | cons p t ih =>
    obtain ⟨k, v⟩ := p
    simp only [AMap.upd, List.map_cons] at ih ⊢
    by_cases hk : k = j <;> by_cases hi : k = i <;> simp_all [AMap.look]

theorem Dev.slot_modBlock (d : Dev) (b : Nat) (f : Block → Block) (c i : Nat) :
    (d.modBlock b f).slot c i = if c = b then AMap.look (f (d.block b)).slots i else d.slot c i := by
  unfold Dev.slot Dev.modBlock
  split
  · next h => subst h; simp
  · next h => rw [Dev.block_setBlock_ne d _ h]

theorem Dev.slot_modSlot (d : Dev) (b i : Nat) (f : Slot → Slot) (c j : Nat) :
    (d.modSlot b i f).slot c j = if c = b ∧ j = i then (d.slot c j).map f else d.slot c j := by
  unfold Dev.modSlot
  rw [Dev.slot_modBlock]
  by_cases h : c = b
  · subst h; simp [AMap.look_upd, Dev.slot]
  · simp [h]

/-- A change of a block that leaves its slots as they are. -/
theorem KeepsWork.modBlock (d : Dev) (b : Nat) (f : Block → Block) (h : ∀ x, (f x).slots = x.slots) : KeepsWork d (d.modBlock b f) := by
  refine ⟨⟨rfl, rfl, rfl⟩, fun c i => ?_⟩
  rw [Dev.slot_modBlock]
  split
  · next hc => subst hc; rw [h]; rfl
  · rfl

/-- A change of a slot that leaves its place in the list as it is. -/
theorem KeepsWork.modSlot (d : Dev) (b i : Nat) (f : Slot → Slot) (h : ∀ x, (f x).next = x.next) : KeepsWork d (d.modSlot b i f) := by
  refine ⟨⟨rfl, rfl, rfl⟩, fun c j => ?_⟩
  rw [Dev.slot_modSlot]
  split
  · next hc => cases d.slot c j <;> simp [h]
  · rfl

theorem KeepsWork.modCell (d : Dev) (b c : Nat) (f : Cell → Cell) : KeepsWork d (d.modCell b c f) := .modBlock d b _ fun _ => rfl

theorem countReuse_keeps (d : Dev) (b c : Nat) (run : List BufTag) : KeepsWork d (countReuse d b c run) := by
  unfold countReuse
  dsimp only
  split
  · exact .refl d
  · exact .fadd d _ _ _

theorem settle_keeps (d : Dev) (b : Nat) (o : Desc) (x : ArrOp) : KeepsWork d (settle d b o x) := by
  unfold settle
  refine .foldl _ (fun d c => ?_) _ d
  exact (KeepsWork.modCell d b c.1 _).trans (countReuse_keeps _ b _ _)

theorem Dev.raiseFlags_keeps (d : Dev) (dist : Nat) (f : Flags) : KeepsWork d (d.raiseFlags dist f) := by
  unfold Dev.raiseFlags
  dsimp only
  split <;> split <;> exact .refl d

theorem Dev.withFlags_keeps {α : Type} (d : Dev) (dist : Nat) (x : FM α) : KeepsWork d (d.withFlags dist x).2 := d.raiseFlags_keeps dist _

theorem observe_keeps (d : Dev) (b i : Nat) (x : Slot) (o : Obs) : KeepsWork d (observe d b i x o) := by
  unfold observe
  split
  · exact .modSlot d b i _ fun _ => rfl
  · exact .refl d

theorem Dev.countOp_keeps (d : Dev) (g cls fmt n : Nat) : KeepsWork d (d.countOp g cls fmt n) := by
  unfold Dev.countOp Dev.opCount
  split
  · exact .refl d
  · exact .fset d _ _ _

theorem countVector_keeps (d : Dev) (b : Nat) (x : Desc) : KeepsWork d (countVector d b x) := by
  unfold countVector
  split
  · exact .refl d
  · dsimp only
    split <;> split <;>
      first | exact d.countOp_keeps _ _ _ _ | exact (d.countOp_keeps _ _ _ _).trans (Dev.countOp_keeps _ _ _ _ _)

theorem countArray_keeps (d : Dev) (b : Nat) (s : ArrStats) : KeepsWork d (countArray d b s) := by
  unfold countArray
  refine ((((KeepsWork.foldl _ (fun d p => KeepsWork.fadd d _ _ _) s.passes d).trans
    (.foldl _ (fun d p => KeepsWork.fadd d _ _ _) s.rows _)).trans (.fadd _ _ _ _)).trans (.fadd _ _ _ _)).trans (.fadd _ _ _ _)

theorem countArrayOps_keeps (d : Dev) (b : Nat) (o : Desc) (y : ArrOp) (st : ArrStats) : KeepsWork d (countArrayOps d b o y st) := by
  have opt : ∀ (d e : Dev) (p : Prop) [Decidable p] (g c f n : Nat), KeepsWork d e → KeepsWork d (if p then e else e.countOp g c f n) := by
    intro d e p _ g c f n h
    split
    · exact h
    · exact h.trans (e.countOp_keeps g c f n)
  unfold countArrayOps
  split
  · exact .refl d
  · exact opt _ _ _ _ _ _ _ (opt _ _ _ _ _ _ _ (by split <;> exact d.countOp_keeps _ _ _ _))

theorem stallCells_keeps (d : Dev) (b i : Nat) (f : Fld) (cells : List Nat) : KeepsWork d (stallCells d b i f cells) := by
  unfold stallCells
  refine .foldl _ (fun d c => ?_) _ d
  exact ((KeepsWork.draw d).trans (.fadd _ _ _ _)).trans (.modSlot _ b i _ fun _ => rfl)

theorem drainCells_keeps (d : Dev) (b : Nat) (cells : List Nat) : KeepsWork d (drainCells d b cells) := by
  refine .foldl _ (fun d c => ?_) _ d
  dsimp only
  split
  · exact (countReuse_keeps d b c _).trans (.modCell _ b c _)
  · exact .modCell d b c _

theorem Dev.addBasis_keeps (d : Dev) (u dist n : Nat) : KeepsWork d (d.addBasis u dist n) := by
  unfold Dev.addBasis
  dsimp only
  split
  · exact .refl d
  · exact ⟨⟨rfl, rfl, rfl⟩, fun _ _ => rfl⟩

theorem Dev.charge_keeps (d : Dev) (b dist : Nat) (c : Cost) : KeepsWork d (d.charge b dist c) := by
  have one : ∀ (d : Dev) (p : Prop) [Decidable p] (a : Nat) (f : Fld) (n : Nat), KeepsWork d (if p then d else d.fadd a f n) := by
    intro d p _ a f n
    split
    · exact .refl d
    · exact .fadd d a f n
  unfold Dev.charge
  exact (((d.addBasis_keeps _ _ _).trans (one _ _ _ _ _)).trans (one _ _ _ _ _)).trans (one _ _ _ _ _)

/-- The end of an operation keeps every byte, and the command stands at the next operation. -/
theorem Dev.opDone_spec (d : Dev) (b i dist : Nat) (c : Cost) (x : Slot) (h : d.slot b i = some x) :
    ((d.opDone b i dist c).bmem = d.bmem ∧ (d.opDone b i dist c).objMem = d.objMem ∧ (d.opDone b i dist c).nsMem = d.nsMem) ∧
      ∃ y, (d.opDone b i dist c).slot b i = some y ∧ y.next = x.next + 1 := by
  have h1 : KeepsWork d (if c.bytes = 0 then d.charge b dist c else
      (d.charge b dist c).fadd (Reg.BLK_DMA_BYTES b) Fld.BLK_DMA_BYTES_BYTES c.bytes) := by
    split
    · exact d.charge_keeps b dist c
    · exact (d.charge_keeps b dist c).trans (.fadd _ _ _ _)
  unfold Dev.opDone
  dsimp only
  generalize (if c.bytes = 0 then d.charge b dist c else
      (d.charge b dist c).fadd (Reg.BLK_DMA_BYTES b) Fld.BLK_DMA_BYTES_BYTES c.bytes) = e at h1 ⊢
  refine ⟨h1.1, ?_⟩
  have h2 := h1.2 b i
  rw [h] at h2
  cases hs : e.slot b i with
  | none => simp [hs] at h2
  | some z =>
    rw [hs] at h2
    simp only [Option.map_some, Option.some.injEq] at h2
    refine ⟨_, by rw [Dev.slot_modSlot, if_pos ⟨rfl, rfl⟩, hs]; rfl, by simp [h2]⟩

/-- The operation that a block issues next belongs to a command in its slot. -/
theorem Dev.slot_of_nextOp {d : Dev} {b i : Nat} {x : Slot} {o : Desc} (h : d.nextOp b = some (i, x, o)) : d.slot b i = some x := by
  unfold Dev.nextOp at h
  split at h
  · cases h
  · next j y hr =>
    have hs : d.slot b j = some y := by
      unfold Dev.running at hr
      cases hb : (d.block b).running with
      | none => simp [hb] at hr
      | some k =>
        simp only [hb, Option.bind_some] at hr
        cases hk : d.slot b k with
        | none => simp [hk] at hr
        | some z =>
          simp only [hk, Option.map_some, Option.some.injEq, Prod.mk.injEq] at hr
          obtain ⟨rfl, rfl⟩ := hr
          exact hk
    split at h
    · cases h
    · split at h
      · cases h
      · dsimp only at h
        split at h
        · cases h
        · cases h; exact hs

/-- A block's next operation, when it is of the wanted kind and has no zero count, is done: `f` did it and the next one is due, or the
engine stalls. -/
theorem runOp_spec {d : Dev} {b i : Nat} {x : Slot} {o : Desc} {want : Desc → Bool} (f : Dev → Nat → Slot → Desc → Option (Dev × Cost))
    (h : d.nextOp b = some (i, x, o)) (hw : want o = true) (he : o.empty = false) :
    runOp d b want f = match f d i x o with
      | some (e, c) => e.opDone b i x.district c
      | none => d := by
  unfold runOp
  simp only [h, hw, he, Bool.not_true, Bool.false_eq_true, if_false] <;> rfl

end Sys2Proof.Machine
end

