-- ==== Sys2Proof/Laws/Events.lean ====
section
/-! SUPPORT. What recording an event can do: it changes the trace, its registers and the sequence numbers, adds to the event log and posts
asynchronous events with their pin, and nothing else. -/

namespace Sys2Proof.Machine

/-- `e` differs from `d` by events recorded only: the log grows at its end. -/
def LogOnly (d e : Dev) : Prop :=
  ∃ rs sq l tr o h p, e = { d with regs := rs, seqs := sq, events := d.events ++ l, trace := tr, out := o, host := h, pins := p }

theorem LogOnly.refl (d : Dev) : LogOnly d d := ⟨d.regs, d.seqs, [], d.trace, d.out, d.host, d.pins, by rw [List.append_nil]⟩

theorem LogOnly.trans {d e f : Dev} (h : LogOnly d e) (g : LogOnly e f) : LogOnly d f := by
  obtain ⟨rs, sq, l, tr, o, hs, p, rfl⟩ := h
  obtain ⟨rs', sq', l', tr', o', hs', p', rfl⟩ := g
  exact ⟨rs', sq', l ++ l', tr', o', hs', p', by rw [← List.append_assoc]⟩

/-- A change of those fields, with the event log as it was. -/
theorem LogOnly.mk (d : Dev) (rs : AMap Nat) (sq : AMap Nat) (tr : TraceState) (o : List Out) (h : HostState) :
    LogOnly d { d with regs := rs, seqs := sq, trace := tr, out := o, host := h } :=
  ⟨rs, sq, [], tr, o, h, d.pins, by rw [List.append_nil]⟩

theorem LogOnly.setReg (d : Dev) (a v : Nat) : LogOnly d (d.setReg a v) := .mk d _ d.seqs d.trace d.out d.host

theorem LogOnly.fset (d : Dev) (a : Nat) (f : Fld) (v : Nat) : LogOnly d (d.fset a f v) := .setReg d _ _

theorem LogOnly.fadd (d : Dev) (a : Nat) (f : Fld) (v : Nat) : LogOnly d (d.fadd a f v) := .setReg d _ _

theorem LogOnly.takeSeq (d : Dev) (s : Nat) : LogOnly d (d.takeSeq s).2 := .mk d d.regs _ d.trace d.out d.host

/-- A change of the trace. -/
theorem LogOnly.traced (d : Dev) (t : TraceState) : LogOnly d { d with trace := t } := .mk d d.regs d.seqs t d.out d.host

theorem Dev.tracePut_logs (d : Dev) (pos n : Nat) (bytes : List Byte) : LogOnly d (d.tracePut pos n bytes) := by
  unfold Dev.tracePut
  dsimp only
  refine LogOnly.trans ?_ (.fset _ _ _ _)
  refine LogOnly.trans ?_ (.traced _ _)
  split
  · exact .fset d _ _ _
  · exact .refl d

theorem Dev.traceFreeze_logs (d : Dev) : LogOnly d d.traceFreeze := (LogOnly.fset d _ _ _).trans (.fset _ _ _ _)

theorem Dev.traceDiscard_logs (d : Dev) : LogOnly d d.traceDiscard := .fadd d _ _ _

theorem Dev.traceWrite_logs (d : Dev) (n : Nat) (bytes : List Byte) : LogOnly d (d.traceWrite n bytes) := by
  unfold Dev.traceWrite
  dsimp only
  refine LogOnly.trans ?_ (Dev.tracePut_logs _ _ _ _)
  split
  · exact .refl d
  · exact d.tracePut_logs _ _ _

theorem Dev.traceEnter_logs (d : Dev) (n : Nat) (bytes : List Byte) : LogOnly d (d.traceEnter n bytes) := by
  unfold Dev.traceEnter
  split
  · exact .refl d
  · split
    · dsimp only
      split
      · exact d.traceWrite_logs n bytes
      · split
        · exact d.traceFreeze_logs.trans (Dev.traceDiscard_logs _)
        · split
          · exact (d.traceWrite_logs n bytes).trans (Dev.traceFreeze_logs _)
          · exact d.traceWrite_logs n bytes
    · dsimp only
      split
      · exact d.traceFreeze_logs.trans (Dev.traceDiscard_logs _)
      · have h := (d.traceWrite_logs n bytes).trans
          (.traced _ { (d.traceWrite n bytes).trace with left := (d.traceWrite n bytes).trace.left - (n + (d.traceAt n).2) })
        split
        · exact h.trans (Dev.traceFreeze_logs _)
        · exact h
    · exact d.traceDiscard_logs
    · exact .refl d

theorem Dev.traceTrigger_logs (d : Dev) (c s n : Nat) : LogOnly d (d.traceTrigger c s n) := by
  unfold Dev.traceTrigger
  split
  · exact .refl d
  · split
    · refine LogOnly.trans ?_ (.traced _ _)
      refine LogOnly.trans ?_ (.fset _ _ _ _)
      refine LogOnly.trans ?_ (.fset _ _ _ _)
      exact (LogOnly.takeSeq d _).trans (Dev.traceWrite_logs _ _ _)
    · exact .fadd d _ _ _

theorem Dev.traceRecord_logs (d : Dev) (src ev n : Nat) (p : List Byte) : LogOnly d (d.traceRecord src ev n p) := by
  unfold Dev.traceRecord
  split
  · exact .refl d
  · split
    · exact .refl d
    · dsimp only
      split
      · exact (d.traceEnter_logs _ _).trans (Dev.traceTrigger_logs _ _ _ _)
      · exact d.traceEnter_logs _ _

/-- An event that goes only to the trace. -/
theorem Dev.traceEvent_logs (d : Dev) (src ev : Nat) (p : List Byte) : LogOnly d (d.traceEvent src ev p) :=
  (LogOnly.takeSeq d src).trans (Dev.traceRecord_logs _ _ _ _ _)

theorem Dev.asyncAll_logs (d : Dev) (kind : AsyncKind) (page : Nat) (config : Option Nat) : LogOnly d (d.asyncAll kind page config) := by
  have step : ∀ (l : List (Nat × Assoc)) (e : Dev), LogOnly d e → LogOnly d (l.foldl (fun d (a, x) =>
      if config.any fun b => bits x.aerConfig b 1 = 0 then d
      else match x.aers with
      | cid :: rest =>
        ({ d with host := { d.host with assocs := AMap.put d.host.assocs a { x with aers := rest } } } : Dev).postAsync a cid kind page
      | [] => { d with host := { d.host with assocs := AMap.put d.host.assocs a { x with held := x.held ++ [(kind, page)] } } }) e) := by
    intro l
    induction l with
    | nil => exact fun e h => h
    | cons a t ih =>
      intro e h
      refine ih _ (h.trans ?_)
      dsimp only
      split
      · exact .refl e
      · split
        · exact .mk e _ e.seqs e.trace _ _
        · exact .mk e e.regs e.seqs e.trace e.out _
  exact step _ _ ⟨d.regs, d.seqs, [], d.trace, d.out, d.host, _, by rw [List.append_nil]⟩

/-- An entry of the event log: the log has it, whatever else the trace does. -/
theorem Dev.logEvent_logs (d : Dev) (src ev : Nat) (p : List Byte) :
    ∃ x, x.source = src ∧ x.event = ev ∧ x.payload = p ∧
      LogOnly { d with events := d.events ++ [x] } (d.logEvent src ev p) := by
  refine ⟨EventRec.mk src ev (d.takeSeq src).1 d.time.ns d.holdover p, rfl, rfl, rfl, ?_⟩
  unfold Dev.logEvent
  dsimp only
  refine LogOnly.trans ?_ (Dev.traceRecord_logs _ _ _ _ _)
  exact .mk _ d.regs _ d.trace d.out d.host

/-- An error record: the log has it, with the unit, the code and the severity in its payload. -/
theorem Dev.logError_logs (d : Dev) (src ev code severity reset unit : Nat) (dist : Option Nat) (address detail region : Nat) :
    ∃ x, x.source = src ∧ x.event = ev ∧
      LogOnly { d with events := d.events ++ [x] } (d.logError src ev code severity reset unit dist address detail region) := by
  obtain ⟨x, h1, h2, -, h⟩ := d.logEvent_logs src ev (toLE 2 code ++ toLE 1 severity ++ toLE 1 reset ++ toLE 2 unit ++
    toLE 2 (match dist with | some x => 0x8000 + x | none => 0) ++ toLE 8 address ++ toLE 8 detail ++ toLE 4 region ++ toLE 4 0)
  refine ⟨x, h1, h2, ?_⟩
  unfold Dev.logError
  dsimp only
  generalize d.logEvent src ev _ = e at h ⊢
  split
  · refine LogOnly.trans ?_ (Dev.asyncAll_logs _ _ _ _)
    split
    · exact h.trans (Dev.traceTrigger_logs _ _ _ _)
    · exact h
  · split
    · exact h.trans (Dev.traceTrigger_logs _ _ _ _)
    · exact h

end Sys2Proof.Machine
end

