-- ==== Sys2Proof/Laws/Frames.lean ====
section
/-! SUPPORT. What the shared operations on dies, the media and device time can do: each lemma names the fields that an operation may change. -/

namespace Sys2Proof.Machine

/-- A property that every step of a fold keeps holds after it. -/
theorem foldl_keeps {α β : Type} (P : β → Prop) (f : β → α → β) (l : List α) (b : β) (h : P b) (hs : ∀ b a, P b → P (f b a)) :
    P (l.foldl f b) := by
  induction l generalizing b with
  | nil => exact h
  | cons a t ih => exact ih _ (hs _ _ h)

theorem Dev.reg_fset_ne (d : Dev) (a : Nat) (f : Fld) (v : Nat) {b : Nat} (h : b ≠ a) : (d.fset a f v).reg b = d.reg b :=
  Dev.reg_setReg_ne d _ h

theorem Dev.reg_fadd_ne (d : Dev) (a : Nat) (f : Fld) (n : Nat) {b : Nat} (h : b ≠ a) : (d.fadd a f n).reg b = d.reg b :=
  Dev.reg_setReg_ne d _ h

/-! The dies. -/

/-- `e` differs from `d` in the Kerbs and the suspension counts only. -/
def DiesOnly (d e : Dev) : Prop :=
  (∃ ks rs, e = { d with kerbs := ks, regs := rs }) ∧ ∀ a, (∀ k, a ≠ Reg.KERB_SUSPEND k) → e.reg a = d.reg a

theorem DiesOnly.refl (d : Dev) : DiesOnly d d := ⟨⟨d.kerbs, d.regs, rfl⟩, fun _ _ => rfl⟩

theorem DiesOnly.trans {d e f : Dev} (h : DiesOnly d e) (g : DiesOnly e f) : DiesOnly d f := by
  obtain ⟨⟨ks, rs, rfl⟩, h⟩ := h
  obtain ⟨⟨ls, ss, rfl⟩, g⟩ := g
  exact ⟨⟨ls, ss, rfl⟩, fun a ha => (g a ha).trans (h a ha)⟩

theorem DiesOnly.modDie (d : Dev) (k j : Nat) (f : Die → Die) : DiesOnly d (d.modDie k j f) :=
  ⟨⟨_, d.regs, rfl⟩, fun _ _ => rfl⟩

theorem DiesOnly.suspend (d : Dev) (k : Nat) (f : Fld) : DiesOnly d (d.fadd (Reg.KERB_SUSPEND k) f 1) :=
  ⟨⟨d.kerbs, _, rfl⟩, fun _ ha => Dev.reg_setReg_ne d _ (ha k)⟩

theorem Dev.suspendFor_frame (d : Dev) (k j : Nat) : DiesOnly d (d.suspendFor k j) := by
  unfold Dev.suspendFor
  dsimp only
  split
  · exact .refl d
  · split
    · exact (DiesOnly.modDie d k j _).trans (.suspend _ k _)
    · exact .refl d

/-- A die that takes its next operation changes nothing but the dies. -/
theorem Dev.issue_frame (d : Dev) (k j : Nat) : DiesOnly d (d.issue k j) := by
  have h : DiesOnly d (if (d.kerb k).resetting then d else d.suspendFor k j) := by
    split
    · exact .refl d
    · exact d.suspendFor_frame k j
  unfold Dev.issue
  dsimp only
  generalize (if (d.kerb k).resetting then d else d.suspendFor k j) = e at h ⊢
  split
  · exact h
  · split
    · exact h.trans (.modDie e k j _)
    · split
      · exact h
      · split
        · exact h
        · exact h.trans (.modDie e k j _)

theorem Dev.issueAll_frame (d : Dev) : DiesOnly d d.issueAll :=
  foldl_keeps (DiesOnly d) _ _ _ (.refl d) fun _ x h =>
    foldl_keeps (DiesOnly d) _ _ _ h fun f y g => g.trans (f.issue_frame x.1 y.1)

/-! The media. -/

/-- A register that work on the media or device time may change. -/
def MediaReg (a : Nat) : Prop :=
  (∃ k, a = Reg.KERB_SUSPEND k) ∨ a = Reg.FTL_REWRITE ∨ (∃ g, a = Reg.FTL_GRP g) ∨ a = Reg.FTL_ERR ∨ ∃ s, a = Reg.STK_STAT s

/-- `e` differs from `d` in the Kerbs, the media, the free values drawn and the registers of the media only. -/
def MediaOnly (d e : Dev) : Prop :=
  (∃ ks rs m n, e = { d with kerbs := ks, regs := rs, media := m, drawn := n }) ∧ ∀ a, ¬ MediaReg a → e.reg a = d.reg a

theorem MediaOnly.refl (d : Dev) : MediaOnly d d := ⟨⟨d.kerbs, d.regs, d.media, d.drawn, rfl⟩, fun _ _ => rfl⟩

theorem MediaOnly.trans {d e f : Dev} (h : MediaOnly d e) (g : MediaOnly e f) : MediaOnly d f := by
  obtain ⟨⟨ks, rs, m, n, rfl⟩, h⟩ := h
  obtain ⟨⟨ls, ss, l, k, rfl⟩, g⟩ := g
  exact ⟨⟨ls, ss, l, k, rfl⟩, fun a ha => (g a ha).trans (h a ha)⟩

theorem MediaOnly.dies {d e : Dev} (h : DiesOnly d e) : MediaOnly d e := by
  obtain ⟨⟨ks, rs, rfl⟩, h⟩ := h
  exact ⟨⟨ks, rs, d.media, d.drawn, rfl⟩, fun a ha => h a fun k hk => ha (.inl ⟨k, hk⟩)⟩

theorem MediaOnly.media (d : Dev) (f : MediaState → MediaState) : MediaOnly d (d.modMedia f) :=
  ⟨⟨d.kerbs, d.regs, _, d.drawn, rfl⟩, fun _ _ => rfl⟩

theorem MediaOnly.sb (d : Dev) (g b : Nat) (f : SuperBlock → SuperBlock) : MediaOnly d (d.modSb g b f) :=
  ⟨⟨d.kerbs, d.regs, _, d.drawn, rfl⟩, fun _ _ => rfl⟩

theorem MediaOnly.draw (d : Dev) : MediaOnly d d.draw.2 := ⟨⟨d.kerbs, d.regs, d.media, _, rfl⟩, fun _ _ => rfl⟩

theorem MediaOnly.setReg (d : Dev) (a v : Nat) (h : MediaReg a) : MediaOnly d (d.setReg a v) :=
  ⟨⟨d.kerbs, _, d.media, d.drawn, rfl⟩, fun _ hb => Dev.reg_setReg_ne d v fun hab => hb (hab ▸ h)⟩

theorem MediaOnly.foldl {α : Type} (f : Dev → α → Dev) (h : ∀ d a, MediaOnly d (f d a)) (l : List α) (d : Dev) :
    MediaOnly d (l.foldl f d) := foldl_keeps (MediaOnly d) f l d (.refl d) fun _ a g => g.trans (h _ a)

theorem MediaOnly.ite {c : Prop} [Decidable c] {d a b : Dev} (h : MediaOnly d a) (g : MediaOnly d b) :
    MediaOnly d (if c then a else b) := by
  split
  · exact h
  · exact g

theorem MediaOnly.of_ite {c : Prop} [Decidable c] {d a b e : Dev} (h : (if c then some a else some b) = some e) (ha : MediaOnly d a)
    (hb : MediaOnly d b) : MediaOnly d e := by
  split at h <;> cases h
  · exact ha
  · exact hb

theorem MediaReg.grp (g : Nat) : MediaReg (Reg.FTL_GRP g) := .inr (.inr (.inl ⟨g, rfl⟩))
theorem MediaReg.err : MediaReg Reg.FTL_ERR := .inr (.inr (.inr (.inl rfl)))
theorem MediaReg.rewrite : MediaReg Reg.FTL_REWRITE := .inr (.inl rfl)
theorem MediaReg.stack (s : Nat) : MediaReg (Reg.STK_STAT s) := .inr (.inr (.inr (.inr ⟨s, rfl⟩)))

theorem Dev.enqueue_frame (d : Dev) (k j : Nat) (o : DieOp) : MediaOnly d (d.enqueue k j o) :=
  .dies ((DiesOnly.modDie d k j _).trans (Dev.issue_frame _ k j))

theorem Dev.checkFull_frame (d : Dev) (g : Nat) : MediaOnly d (d.checkFull g) := by
  unfold Dev.checkFull
  dsimp only
  split
  · split
    · exact .refl d
    · exact (MediaOnly.setReg d _ _ (.grp g)).trans (.setReg _ _ _ .err)
  · split
    · exact .setReg d _ _ (.grp g)
    · exact .refl d

theorem Dev.ensureSb_frame (d : Dev) (g : Nat) (m l : Bool) (ok : List Nat) : MediaOnly d (d.ensureSb g m l ok).2 := by
  unfold Dev.ensureSb
  split
  · exact .refl d
  · split
    · exact .refl d
    · split
      · exact .refl d
      · exact ((MediaOnly.sb d g _ _).trans (.sb _ g _ _)).trans (Dev.checkFull_frame _ g)

theorem Dev.pick_frame {α : Type} (d : Dev) (l : List α) : MediaOnly d (d.pick l).2 := by
  unfold Dev.pick
  split
  · exact .refl d
  · exact .refl d
  · exact .draw d

theorem Dev.addProgram_frame (d : Dev) (p : Program) (c : DieClass) : MediaOnly d (d.addProgram p c) :=
  (MediaOnly.media d _).trans (Dev.enqueue_frame _ _ _ _)

theorem Dev.placed_frame (d : Dev) (u : ProgUnit) : MediaOnly d (d.placed u) := by
  unfold Dev.placed
  dsimp only
  split
  · exact (MediaOnly.sb d _ _ _).trans (.media _ _)
  · exact .sb d _ _ _

/-- One unit is placed: only the media, its dies and their registers change. -/
theorem Dev.placeUnit_frame {d e : Dev} {u : ProgUnit} (h : d.placeUnit u = some e) : MediaOnly d e := by
  unfold Dev.placeUnit at h
  dsimp only at h
  have h1 := d.ensureSb_frame (d.home u.ns u.unit).1 (!d.corpus u.ns) (d.mayTakeLast u)
    (d.allowed (d.home u.ns u.unit).1 (d.home u.ns u.unit).2)
  split at h
  · cases h
  · next b d1 he =>
    rw [he] at h1
    split at h
    · cases h
    · next m d2 hp =>
      have h2 := h1.trans ((congrArg (MediaOnly d1) (congrArg Prod.snd hp)).mp (Dev.pick_frame d1 _))
      refine MediaOnly.of_ite h (.trans ?_ (.media _ _)) (.trans (.trans ?_ (.media _ _)) (Dev.addProgram_frame _ _ _))
      · exact (MediaOnly.ite (h2.trans (.sb _ _ _ _)) h2).trans (Dev.placed_frame _ _)
      · exact (MediaOnly.ite (h2.trans (.sb _ _ _ _)) h2).trans (Dev.placed_frame _ _)

theorem Dev.drainUnplaced_frame (d : Dev) : MediaOnly d d.drainUnplaced := by
  unfold Dev.drainUnplaced
  refine (MediaOnly.media d _).trans (.foldl _ (fun d u => ?_) _ _)
  split
  · next h => exact Dev.placeUnit_frame h
  · exact .media d _

theorem Dev.relocate_frame (d : Dev) (ns u : Nat) (c : DieClass) : MediaOnly d (d.relocate ns u c) := by
  unfold Dev.relocate
  split
  · exact .refl d
  · split
    · exact (MediaOnly.media d _).trans (Dev.drainUnplaced_frame _)
    · exact d.enqueue_frame _ _ _

theorem Dev.scheduleRewrite_frame (d : Dev) (die b : Nat) (x : Bool) : MediaOnly d (d.scheduleRewrite die b x) := by
  unfold Dev.scheduleRewrite
  dsimp only
  split
  · exact .refl d
  · refine MediaOnly.trans ?_ (.foldl _ (fun (d : Dev) (x : Nat × Nat) => d.relocate_frame x.1 x.2 _) _ _)
    exact ((MediaOnly.media d _).trans (.setReg _ _ _ .rewrite)).trans (.sb _ _ _ _)

theorem Dev.retentionRewrites_frame (d : Dev) : MediaOnly d d.retentionRewrites :=
  .foldl _ (fun d _ => .foldl _ (fun d _ => d.scheduleRewrite_frame _ _ _) _ d) _ d

/-! Device time. -/

/-- `e` differs from `d` in device time, what follows it, the media, the dies, the free values drawn and their registers only. -/
def TimeOnly (d e : Dev) : Prop :=
  (∃ ks rs t m p n, e = { d with kerbs := ks, regs := rs, time := t, media := m, plan := p, drawn := n }) ∧
    ∀ a, ¬ MediaReg a → e.reg a = d.reg a

theorem TimeOnly.refl (d : Dev) : TimeOnly d d := ⟨⟨d.kerbs, d.regs, d.time, d.media, d.plan, d.drawn, rfl⟩, fun _ _ => rfl⟩

theorem TimeOnly.trans {d e f : Dev} (h : TimeOnly d e) (g : TimeOnly e f) : TimeOnly d f := by
  obtain ⟨⟨ks, rs, t, m, p, n, rfl⟩, h⟩ := h
  obtain ⟨⟨ls, ss, u, l, q, k, rfl⟩, g⟩ := g
  exact ⟨⟨ls, ss, u, l, q, k, rfl⟩, fun a ha => (g a ha).trans (h a ha)⟩

theorem TimeOnly.media {d e : Dev} (h : MediaOnly d e) : TimeOnly d e := by
  obtain ⟨⟨ks, rs, m, n, rfl⟩, h⟩ := h
  exact ⟨⟨ks, rs, d.time, m, d.plan, n, rfl⟩, h⟩

theorem MediaOnly.time_eq {d e : Dev} (h : MediaOnly d e) : e.time = d.time := by
  obtain ⟨⟨ks, rs, m, n, rfl⟩, -⟩ := h
  rfl

theorem Dev.retrainStacks_frame (d : Dev) (w : Nat → Bool) : MediaOnly d (d.retrainStacks w) :=
  .foldl _ (fun d s => (MediaOnly.setReg d _ _ (.stack s)).trans (.setReg _ _ _ (.stack s))) _ d

theorem Dev.trainStacks_frame (d : Dev) (w : Nat → Bool) : MediaOnly d (d.trainStacks w) :=
  .foldl _ (fun d s => MediaOnly.setReg d _ _ (.stack s)) _ d

/-- The open slots are others, and a stack that none of them retrains is trained. -/
theorem Dev.putSlots_frame (d : Dev) (ss : List Nat) : TimeOnly d (d.putSlots ss) ∧
    (d.putSlots ss).time = { d.time with openSlots := ss } := by
  have h : TimeOnly d { d with time := { d.time with openSlots := ss } } :=
    ⟨⟨d.kerbs, d.regs, _, d.media, d.plan, d.drawn, rfl⟩, fun _ _ => rfl⟩
  unfold Dev.putSlots
  dsimp only
  split
  · exact ⟨h, rfl⟩
  · exact ⟨h.trans (.media (Dev.retrainStacks_frame _ _)), (Dev.retrainStacks_frame _ _).time_eq⟩

theorem Dev.slotBegins_frame (d : Dev) (i : Nat) : MediaOnly d (d.slotBegins i) := by
  unfold Dev.slotBegins
  split
  · exact .refl d
  · dsimp only
    split <;> split
    · exact ((MediaOnly.draw d).trans (Dev.trainStacks_frame _ _)).trans (Dev.retentionRewrites_frame _)
    · exact (MediaOnly.draw d).trans (Dev.trainStacks_frame _ _)
    · exact (MediaOnly.draw d).trans (Dev.retentionRewrites_frame _)
    · exact .draw d

theorem Dev.enterSlots_frame (d : Dev) : TimeOnly d d.enterSlots ∧ d.enterSlots.time = { d.time with openSlots := d.slotsNow } := by
  obtain ⟨h, ht⟩ := d.putSlots_frame d.slotsNow
  have g : MediaOnly (d.putSlots d.slotsNow) d.enterSlots := .foldl _ (fun d i => d.slotBegins_frame i) _ _
  exact ⟨h.trans (.media g), g.time_eq.trans ht⟩

theorem Dev.adoptSlots_frame (d : Dev) : TimeOnly d d.adoptSlots ∧ d.adoptSlots.time.ns = d.time.ns := by
  unfold Dev.adoptSlots
  split
  · exact ⟨.refl d, rfl⟩
  · dsimp only
    refine ⟨TimeOnly.trans ?_ (Dev.enterSlots_frame _).1, by rw [(Dev.enterSlots_frame _).2]⟩
    exact ⟨⟨d.kerbs, d.regs, d.time, d.media, _, d.drawn, rfl⟩, fun _ _ => rfl⟩

/-- Device time comes to an instant, or is past it, and nothing changes but what follows device time. -/
theorem Dev.reach_frame (d : Dev) (n : Nat) : TimeOnly d (d.reach n) ∧ (d.reach n).time.ns = max d.time.ns n := by
  unfold Dev.reach
  split
  · next h => exact ⟨.refl d, (Nat.max_eq_left h).symm⟩
  · next h =>
    dsimp only
    have hn : n = max d.time.ns n := (Nat.max_eq_right (by omega)).symm
    have h0 : TimeOnly d { ({ d with media := { d.media with age := d.media.age + (n - d.time.ns) * d.ageFactor } } : Dev) with
        time := { d.time with ns := n } } := ⟨⟨d.kerbs, d.regs, _, _, d.plan, d.drawn, rfl⟩, fun _ _ => rfl⟩
    have all := fun e : Dev => MediaOnly.dies e.issueAll_frame
    split
    · refine ⟨(h0.trans (Dev.adoptSlots_frame _).1).trans (.media (all _)), ?_⟩
      rw [(all _).time_eq, (Dev.adoptSlots_frame _).2]
      exact hn
    · exact ⟨h0.trans (.media (all _)), by rw [(all _).time_eq]; exact hn⟩

end Sys2Proof.Machine
end

