-- ==== Sys2Proof/Tests/Slice0.lean ====
section
/-! SUPPORT. Tests: ill-formed commands that WellFormed refuses, values the spec prints, small steps, and for each statement with
hypotheses a state that meets them. -/

namespace Sys2Proof.Tests

open Sys2Proof Sys2Proof.Machine

-- One test at a time: the kernel's evaluations would otherwise all be held in memory at once.
set_option Elab.async false

/-! WellFormed: a command for each check that passes it, and one that the check refuses. -/

theorem test_wf_field : (Instr.flush { queue := 0, cid := 0 } (2 ^ 32)).wf = false ∧
    (Instr.flush { queue := 0, cid := 0 } (2 ^ 32 - 1)).wf = true := by decide
theorem test_wf_cid : (Instr.commit { queue := 0, cid := 65536 }).wf = false := by decide
theorem test_wf_fuse : (Instr.commit { queue := 0, cid := 0, fuse := 4 }).wf = false := by decide
theorem test_wf_queue : (Instr.commit { queue := 6144, cid := 0 }).wf = false ∧
    (Instr.commit { queue := 6143, cid := 0 }).wf = true := by decide
theorem test_wf_blocks : (Instr.read { queue := 0, cid := 0 } 1 0 65537).wf = false := by decide
theorem test_wf_range : (Instr.deallocate { queue := 0, cid := 0 } 1 [⟨2 ^ 64, 1, false⟩]).wf = false := by decide
theorem test_wf_ranges : (Instr.deallocate { queue := 0, cid := 0 } 1 (List.replicate 257 ⟨0, 1, false⟩)).wf = false := by
  decide +kernel
theorem test_wf_descriptor : (Instr.release { queue := 0, cid := 0 } (List.replicate 63 0)).wf = false ∧
    (Instr.release { queue := 0, cid := 0 } (List.replicate 64 0)).wf = true := by decide
theorem test_wf_nonce : (Instr.attest { queue := 0, cid := 0 } (List.replicate 15 0) 0).wf = false := by decide
theorem test_wf_requester : (Instr.arm (.monitor (2 ^ 32))).wf = false ∧ (Instr.arm (.host { queue := 0, cid := 65536 })).wf = false := by
  decide
theorem test_wf_block : (Instr.arrayMac 288).wf = false ∧ (Instr.arrayMac 287).wf = true := by decide
theorem test_wf_kerb : (Instr.thetaShare 48).wf = false ∧ (Instr.thetaShare 47).wf = true := by decide
theorem test_wf_cell : (Instr.cellParityError 0 4 0 0 0).wf = false := by decide
theorem test_wf_quarter : (Instr.quarterResetDone 4 true).wf = false := by decide
theorem test_wf_port : (Instr.gateFault 2).wf = false := by decide
theorem test_wf_light : (Instr.lightValueWrite (.monitor 0) 65536 0).wf = false := by decide
theorem test_wf_district : (Instr.fmtFlagsRead (.monitor 0) 16).wf = false := by decide
theorem test_wf_slot : (Instr.lightWait 0 16).wf = false := by decide
theorem test_wf_die : (Instr.suspendTimeout 0 32).wf = false := by decide
theorem test_wf_group : (Instr.mutableRowTimeout 96).wf = false := by decide
theorem test_wf_stack : (Instr.stackRefresh 12).wf = false := by decide
theorem test_wf_arcade : (Instr.arcadeFault 8).wf = false := by decide
theorem test_wf_region : (Instr.bucketLeak 4864).wf = false := by decide
theorem test_wf_sensor : (Instr.thermalTrip 226).wf = false := by decide
theorem test_wf_rail : (Instr.overCurrent 14).wf = false := by decide
theorem test_wf_loop : (Instr.protectionRelease 12 0).wf = false := by decide
theorem test_wf_window : (Instr.backgroundSlotStart 16).wf = false := by decide
theorem test_wf_key : (Instr.respond 0 16 0 0 []).wf = false := by decide
theorem test_wf_amendment : (Instr.quiesceDrained 4).wf = false := by decide
theorem test_wf_square : (Instr.configEraseResume 2).wf = false := by decide
theorem test_wf_percent : (Instr.widen 101).wf = false := by decide
theorem test_wf_threshold : (Instr.readThreshold 1536 0 0).wf = false := by decide

/-- What discovery finds in a module with 12 stacks of 32 GiB, 8 Arcades of 64 packages and nothing failed. -/
def found0 : Discovery :=
  { stacksGib := List.replicate 12 32, packages := List.replicate 8 64, absentDies := [], failedBlocks := [], squareOk := (true, true),
    bankMicrofarad := 0, cleanShutdown := true }

theorem test_wf_discovery : (Instr.coldStart found0).wf = true ∧ (Instr.coldStart { found0 with stacksGib := [] }).wf = false ∧
    (Instr.coldStart { found0 with failedBlocks := [288] }).wf = false ∧
    (Instr.coldStart { found0 with failedBlocks := [287] }).wf = true ∧
    (Instr.coldStart { found0 with failedCells := [(287, 4)] }).wf = false ∧
    (Instr.coldStart { found0 with failedCells := [(287, 3)] }).wf = true ∧
    (Instr.coldStart { found0 with failedKerbs := [48] }).wf = false ∧
    (Instr.coldStart { found0 with failedQuarters := [4] }).wf = false ∧
    (Instr.coldStart { found0 with failedArcades := [8] }).wf = false ∧
    (Instr.coldStart { found0 with failedGates := [2] }).wf = false ∧
    (Instr.coldStart { found0 with failedErases := [1536 * 2048] }).wf = false ∧
    (Instr.coldStart { found0 with failedSectors := [(1, 4095)] }).wf = true ∧
    (Instr.coldStart { found0 with failedSectors := [(2, 0)] }).wf = false ∧
    (Instr.coldStart { found0 with failedSectors := [(0, 4096)] }).wf = false := by decide

/-! Values that published standards and the spec print. -/

/-- FIPS 180-4's example: the digest of the three letters abc. -/
theorem test_sha256_abc : leNat (Machine.sha256Bytes [0x61, 0x62, 0x63]).reverse =
    0xba7816bf8f01cfea414140de5dae2223b00361a396177a9cb410ff61f20015ad := by decide +kernel

/-- R2: the first byte of a field is the least significant. -/
theorem test_little_endian : leNat [0x34, 0x12] = 0x1234 ∧ toLE 2 0x1234 = [0x34, 0x12] := by decide

/-! For each statement with hypotheses, states and operands that meet them. -/

/-- Where an option holds a value with a property, there is such a value. -/
theorem some_of {α : Type} {o : Option α} {p : α → Bool} (h : o.any p = true) : ∃ x, o = some x ∧ p x = true := by
  cases o with
  | none => exact absurd h (by simp)
  | some x => exact ⟨x, rfl, h⟩

/-- A module as it comes out of reset, changed. -/
def withDev (f : Dev → Dev) : State := { dev := f Dev.reset, pending := [] }

/-- A descriptor of 64 bytes (R139, R159): class, mode, formats, M, K, N, handle, input, AUX, output. -/
def opBytes (cls mode fa fw fo m k n handle a aux out : Nat) : List Byte :=
  toLE 1 cls ++ toLE 1 mode ++ toLE 1 fa ++ toLE 1 fw ++ toLE 1 fo ++ toLE 3 0 ++ toLE 4 m ++ toLE 4 k ++ toLE 4 n ++ toLE 4 handle ++
    toLE 4 a ++ toLE 4 aux ++ toLE 4 out ++ List.replicate 28 0

/-- A command in a slot, with its operations. -/
def slotOf (ops : List (List Byte)) : Slot :=
  { seq := 0, origin := .host 0 0, district := 0, opCount := ops.length, opList := 0, listInT0 := false, scaleState := 0,
    scaleHistory := 0, routeState := 0, pairGather := 0, bufferLength := 0, state := .running, ops := ops }

/-- Block 0 runs a command. -/
def runs (x : Slot) (cells : List Cell := [{}, {}, {}, {}]) : State :=
  withDev fun d => { d with blocks := [(0, { role := .active 0, slots := [(0, x)], running := some 0, cells := cells })] }

theorem witness_StoredBytesReadBack : Mem.wf [] = true := by decide

theorem witness_CanonicalMemoriesAgree : Mem.wf [] = true ∧ ∀ a, Mem.read [] a = Mem.read [] a := ⟨by decide, fun _ => rfl⟩

theorem witness_MemoryStaysCanonical : Canonical State.reset ∧ ∃ t, step State.reset = .next t := ⟨⟨rfl, rfl, rfl⟩, _, rfl⟩

theorem witness_VectorOperationsComplete : ∀ p ∈ vectorRows, ∃ (s : State) (b i : Nat) (x : Slot) (o : Desc) (a w f : Fmt),
    Canonical s ∧ s.clear.nextOp b = some (i, x, o) ∧ o.isVector = true ∧ o.empty = false ∧ o.fmtA = some a ∧ o.fmtW = some w ∧
      o.fmtOut = some f ∧ o.mode = p.1 := by
  have h : ∀ p ∈ vectorRows, (runs (slotOf [opBytes 2 p.1 1 1 1 1 1 1 0 0 0 0])).clear.nextOp 0 =
      some (0, slotOf [opBytes 2 p.1 1 1 1 1 1 1 0 0 0 0], Desc.of (opBytes 2 p.1 1 1 1 1 1 1 0 0 0 0)) ∧
      (Desc.of (opBytes 2 p.1 1 1 1 1 1 1 0 0 0 0)).isVector = true ∧ (Desc.of (opBytes 2 p.1 1 1 1 1 1 1 0 0 0 0)).empty = false ∧
      (Desc.of (opBytes 2 p.1 1 1 1 1 1 1 0 0 0 0)).fmtA = some .b32 ∧ (Desc.of (opBytes 2 p.1 1 1 1 1 1 1 0 0 0 0)).fmtW = some .b32 ∧
      (Desc.of (opBytes 2 p.1 1 1 1 1 1 1 0 0 0 0)).fmtOut = some .b32 ∧
      (Desc.of (opBytes 2 p.1 1 1 1 1 1 1 0 0 0 0)).mode = p.1 := by decide +kernel
  exact fun p hp => ⟨_, 0, 0, _, _, .b32, .b32, .b32, ⟨rfl, rfl, rfl⟩, h p hp⟩

theorem witness_SpecialFunctionsComplete : ∀ m ∈ [(0x02, true), (0x80, false)], ∃ (s : State) (b i : Nat) (x : Slot) (o : Desc)
    (a f : Fmt), Canonical s ∧ s.clear.nextOp b = some (i, x, o) ∧ o.isSfu = true ∧ o.empty = false ∧ o.fmtA = some a ∧
      o.fmtOut = some f ∧ o.mode = m.1 ∧ decide (o.mode < 0x80) = m.2 := by
  have h : ∀ m ∈ [(0x02, true), (0x80, false)], (runs (slotOf [opBytes 3 m.1 1 0 1 1 1 0 0 0 0 0])).clear.nextOp 0 =
      some (0, slotOf [opBytes 3 m.1 1 0 1 1 1 0 0 0 0 0], Desc.of (opBytes 3 m.1 1 0 1 1 1 0 0 0 0 0)) ∧
      (Desc.of (opBytes 3 m.1 1 0 1 1 1 0 0 0 0 0)).isSfu = true ∧ (Desc.of (opBytes 3 m.1 1 0 1 1 1 0 0 0 0 0)).empty = false ∧
      (Desc.of (opBytes 3 m.1 1 0 1 1 1 0 0 0 0 0)).fmtA = some .b32 ∧ (Desc.of (opBytes 3 m.1 1 0 1 1 1 0 0 0 0 0)).fmtOut = some .b32 ∧
      (Desc.of (opBytes 3 m.1 1 0 1 1 1 0 0 0 0 0)).mode = m.1 ∧
      decide ((Desc.of (opBytes 3 m.1 1 0 1 1 1 0 0 0 0 0)).mode < 0x80) = m.2 := by decide +kernel
  exact fun m hm => ⟨_, 0, 0, _, _, .b32, .b32, ⟨rfl, rfl, rfl⟩, h m hm⟩

/-- An array operation of block 0, with the segments of its weights in front in every cell. -/
def arrayRun (mode : Nat) : State :=
  let x := slotOf [opBytes 1 mode 5 5 1 1 1 1 0 0 0 0]
  let d := (runs x).clear
  match arrOpOf d 0 0 true (Desc.of (opBytes 1 mode 5 5 1 1 1 1 0 0 0 0)) with
  | some y => runs x ((List.range 4).map fun c => { front := (y.keys (y.j.segments c)).head?.map fun k => ⟨k, [], [], [], true⟩ })
  | none => runs x

theorem witness_ArrayOperationsComplete : ∀ p ∈ arrayRows, ∃ (s : State) (b i : Nat) (x : Slot) (o : Desc) (y : ArrOp), Canonical s ∧
    s.clear.nextOp b = some (i, x, o) ∧ arrOpOf s.clear b x.district x.keep o = some y ∧ o.isArray = true ∧ o.empty = false ∧
      (x.badMeta.filter fun m => m.1 = x.next) = [] ∧ (inService s.clear b).isEmpty = false ∧ weightsHere s.clear b y = true ∧ o.mode = p.1 := by
  have h : ∀ p ∈ arrayRows, Canonical (arrayRun p.1) ∧ (((arrayRun p.1).clear.nextOp 0).any fun t =>
      (arrOpOf (arrayRun p.1).clear 0 t.2.1.district t.2.1.keep t.2.2).any fun y => decide (t.2.2.isArray = true ∧ t.2.2.empty = false ∧
        (t.2.1.badMeta.filter fun m => m.1 = t.2.1.next) = [] ∧ (inService (arrayRun p.1).clear 0).isEmpty = false ∧
        weightsHere (arrayRun p.1).clear 0 y = true ∧ t.2.2.mode = p.1)) = true := by
    unfold Canonical; decide +kernel
  intro p hp
  obtain ⟨hc, hr⟩ := h p hp
  obtain ⟨⟨i, x, o⟩, h1, hy⟩ := some_of hr
  obtain ⟨y, h2, h3⟩ := some_of hy
  exact ⟨_, 0, i, x, o, y, hc, h1, h2, of_decide_eq_true h3⟩

theorem witness_ZeroCountsDoNothing : (∃ (s : State) (b i : Nat) (x : Slot) (o : Desc), s.clear.nextOp b = some (i, x, o) ∧
    o.empty = true ∧ ∃ p ∈ arrayRows, wantArray p.1 o = true) ∧ ∃ (s : State) (b i : Nat) (x : Slot) (o : Desc),
    s.clear.nextOp b = some (i, x, o) ∧ o.empty = true ∧ ∃ p ∈ vectorRows, wantVector p.1 o = true :=
  ⟨⟨runs (slotOf [opBytes 1 0 5 5 1 0 1 1 0 0 0 0]), 0, 0, slotOf [opBytes 1 0 5 5 1 0 1 1 0 0 0 0],
      Desc.of (opBytes 1 0 5 5 1 0 1 1 0 0 0 0), by decide +kernel, by decide +kernel, (0, .arrayMac), by simp [arrayRows], by decide +kernel⟩,
    ⟨runs (slotOf [opBytes 2 1 1 1 1 0 1 1 0 0 0 0]), 0, 0, slotOf [opBytes 2 1 1 1 1 0 1 1 0 0 0 0],
      Desc.of (opBytes 2 1 1 1 1 0 1 1 0 0 0 0), by decide +kernel, by decide +kernel, (1, .vecAdd), by simp [vectorRows], by decide +kernel⟩⟩

/-- A DMA descriptor (R159): tiers, ASYNC, rows, source, destination, bytes of a row. -/
def dmaBytes (async rows src dst n : Nat) : List Byte :=
  toLE 1 4 ++ toLE 1 0 ++ toLE 2 async ++ toLE 4 rows ++ toLE 8 src ++ toLE 8 dst ++ toLE 4 n ++ List.replicate 36 0

/-- A LIGHT descriptor (R139). -/
def lightBytes (mode light value timeout : Nat) : List Byte :=
  toLE 1 5 ++ toLE 1 mode ++ List.replicate 6 0 ++ toLE 4 light ++ toLE 4 value ++ toLE 2 timeout ++ List.replicate 46 0

theorem witness_DmaOperationsComplete : ∀ n ∈ [0, 1], ∃ (s : State) (b i : Nat) (x : Slot) (o : Desc), Canonical s ∧
    s.clear.nextOp b = some (i, x, o) ∧ o.isDma = true ∧ o.empty = false ∧ o.isAsync = decide (n = 1) ∧ o.srcTier = 0 ∧ o.dstTier = 0 ∧
      o.rows = 1 ∧ o.dst + o.rowBytes = 2 ^ 23 := by
  have h : ∀ n ∈ [0, 1], (runs (slotOf [dmaBytes n 1 0 (2 ^ 23 - 8) 8])).clear.nextOp 0 =
      some (0, slotOf [dmaBytes n 1 0 (2 ^ 23 - 8) 8], Desc.of (dmaBytes n 1 0 (2 ^ 23 - 8) 8)) ∧
      (Desc.of (dmaBytes n 1 0 (2 ^ 23 - 8) 8)).isDma = true ∧ (Desc.of (dmaBytes n 1 0 (2 ^ 23 - 8) 8)).empty = false ∧
      (Desc.of (dmaBytes n 1 0 (2 ^ 23 - 8) 8)).isAsync = decide (n = 1) ∧ (Desc.of (dmaBytes n 1 0 (2 ^ 23 - 8) 8)).srcTier = 0 ∧
      (Desc.of (dmaBytes n 1 0 (2 ^ 23 - 8) 8)).dstTier = 0 ∧ (Desc.of (dmaBytes n 1 0 (2 ^ 23 - 8) 8)).rows = 1 ∧
      (Desc.of (dmaBytes n 1 0 (2 ^ 23 - 8) 8)).dst + (Desc.of (dmaBytes n 1 0 (2 ^ 23 - 8) 8)).rowBytes = 2 ^ 23 := by decide +kernel
  exact fun n hn => ⟨_, 0, 0, _, _, ⟨rfl, rfl, rfl⟩, h n hn⟩

theorem witness_DmaOperationsComplete_async : ∃ (s : State) (b : Nat) (a : AsyncDma) (rest : List AsyncDma) (x : Slot),
    (s.clear.block b).dma = a :: rest ∧ s.clear.slot b a.slot = some x :=
  ⟨withDev fun d => { d with blocks := [(0, { slots := [(0, slotOf [])], dma := [⟨0, 0, dmaBytes 1 1 0 8 8⟩] })] }, 0,
    ⟨0, 0, dmaBytes 1 1 0 8 8⟩, [], slotOf [], by decide +kernel⟩

theorem witness_LightOperationsComplete : (∀ m ∈ [1, 2], ∃ (s : State) (b i : Nat) (x : Slot) (o : Desc),
    s.clear.nextOp b = some (i, x, o) ∧ o.isLight = true ∧ o.mode = m ∧ o.empty = false ∧ s.clear.dmaOf b i = false) ∧
    (∃ (s : State) (b i : Nat) (x : Slot) (raw : List Byte) (rest : List (List Byte)), s.clear.slot b i = some x ∧
      x.state = .waiting ∧ x.wait = none ∧ x.ops = raw :: rest) ∧
    ∃ (s : State) (b i : Nat) (w : Wait), (s.clear.waits.find? fun w => w.block = b && w.slot = i) = some w ∧
      w.expiry ≤ s.clear.beat := by
  have h : ∀ m ∈ [1, 2], (runs (slotOf [lightBytes m 65535 1 0])).clear.nextOp 0 =
      some (0, slotOf [lightBytes m 65535 1 0], Desc.of (lightBytes m 65535 1 0)) ∧
      (Desc.of (lightBytes m 65535 1 0)).isLight = true ∧ (Desc.of (lightBytes m 65535 1 0)).mode = m ∧
      (Desc.of (lightBytes m 65535 1 0)).empty = false ∧ (runs (slotOf [lightBytes m 65535 1 0])).clear.dmaOf 0 0 = false := by
    decide +kernel
  exact ⟨fun m hm => ⟨_, 0, 0, _, _, h m hm⟩,
    ⟨runs { slotOf [lightBytes 3 0 1 9] with state := .waiting }, 0, 0, { slotOf [lightBytes 3 0 1 9] with state := .waiting },
      lightBytes 3 0 1 9, [], by decide +kernel⟩,
    ⟨withDev fun d => { d with waits := [⟨0, 1, 0, 0, 0, 0, 0⟩] }, 0, 0, ⟨0, 1, 0, 0, 0, 0, 0⟩, by decide +kernel⟩⟩

/-- Block 0 runs a command whose flags are those of a pair gather and of a dispatch. -/
def flagged (gather route : Nat) (gathered : Bool) : Slot :=
  { slotOf [] with pairGather := gather, routeState := route, gathered := gathered }

theorem witness_CommandStepsComplete :
    (∃ (s : State) (b c : Nat) (w : Want) (rest : List (Nat × Want)) (x : Slot), loadWanted (loadState s.clear b) b = (c, w) :: rest ∧
      (loadState s.clear b).slot b w.slot = some x ∧ w.o.sparse = false ∧ rest = []) ∧
    (∃ (s : State) (b i : Nat) (x : Slot), s.clear.running b = some (i, x) ∧ bits x.pairGather 31 1 = 1 ∧ x.gathered = false ∧
      x.gatherWait = none ∧ x.failed = none) ∧
    (∃ (s : State) (b i : Nat) (x : Slot), s.clear.running b = some (i, x) ∧ bits x.routeState 31 1 = 1 ∧ x.dispatched = false ∧
      x.failed = none ∧ x.ops.length ≤ x.next ∧ s.clear.dmaOf b i = false ∧ (bits x.pairGather 31 1 = 0 ∨ x.gathered = true)) := by
  refine ⟨?_, ⟨runs (flagged (2 ^ 31) 0 false), 0, 0, flagged (2 ^ 31) 0 false, by decide +kernel⟩,
    ⟨runs (flagged (2 ^ 31) (2 ^ 31) true), 0, 0, flagged (2 ^ 31) (2 ^ 31) true, by decide +kernel⟩⟩
  have h : (match loadWanted (loadState (runs (slotOf [opBytes 1 0 5 5 1 1 1 1 0 0 0 0])).clear 0) 0 with
      | (_, w) :: rest => rest.isEmpty && !w.o.sparse &&
          ((loadState (runs (slotOf [opBytes 1 0 5 5 1 1 1 1 0 0 0 0])).clear 0).slot 0 w.slot).isSome
      | [] => false) = true := by decide +kernel
  generalize hl : loadWanted (loadState (runs (slotOf [opBytes 1 0 5 5 1 1 1 1 0 0 0 0])).clear 0) 0 = l at h
  match l, h with
  | (c, w) :: rest, h =>
    simp only [Bool.and_eq_true, List.isEmpty_iff, Bool.not_eq_true'] at h
    obtain ⟨⟨h1, h2⟩, h3⟩ := h
    obtain ⟨x, hx⟩ := Option.isSome_iff_exists.mp h3
    exact ⟨_, 0, c, w, rest, x, hl, hx, h2, h1⟩

theorem witness_CellFaultsComplete : (∃ (s : State) (b c : Nat), ((inService s.clear b).map (·.1)).contains c = true ∧
    s.clear.blockTesting b = false ∧ c < 4) ∧
    ∃ (s : State) (spare b : Nat), (s.clear.contain.sparing.find? fun x => x.2 = spare) = some (b, spare) :=
  ⟨⟨runs (slotOf []), 0, 3, by decide +kernel⟩,
    ⟨withDev fun d => { d with contain := { d.contain with sparing := [(0, 4)] } }, 4, 0, by decide +kernel⟩⟩

theorem witness_BlockFaultsComplete : ∃ (s : State) (b : Nat), s.clear.blockTesting b = false ∧ (s.clear.running b).isSome = true :=
  ⟨runs (slotOf []), 0, by decide +kernel⟩

theorem witness_ComputeAbortEnds : ∃ s : State, s.clear.contain.abortActive = true :=
  ⟨withDev fun d => { d with contain := { d.contain with abortActive := true } }, rfl⟩

/-- A background slot is open that names every activity. -/
def inSlot (f : Dev → Dev) : State := withDev fun d =>
  f { d with time := { d.time with openSlots := [0] }, plan := { d.plan with windows := shippedWindows } }

theorem witness_MemoryErrorsComplete : (∃ (s : State) (r : Nat), s.clear.beat % (s.clear.eccOf r).2 = 0) ∧
    (∃ (s : State) (r : Nat), s.clear.beat % (s.clear.eccOf r).2 ≠ 0) ∧ (∃ s : State, s.clear.slotNames 0 = true) ∧
    ∃ (s : State) (k : Nat), s.clear.fbit (Reg.STK_SPARE k) Fld.STK_SPARE_COPYING = true :=
  ⟨⟨State.reset, 0, by decide +kernel⟩, ⟨withDev fun d => { d with time := { d.time with ns := 1000000 } }, 0, by decide +kernel⟩,
    ⟨inSlot id, by decide +kernel⟩, ⟨withDev fun d => d.fon (Reg.STK_SPARE 0) Fld.STK_SPARE_COPYING, 0, by decide +kernel⟩⟩

theorem witness_KerbFaultsComplete : (∃ (s : State) (k : Nat), s.clear.kerbTesting k = false) ∧
    (∃ (s : State) (k : Nat), s.clear.kerbTesting k = true) ∧
    (∃ (s : State) (k a : Nat) (p : CachePiece), s.clear.kerbTesting k = false ∧ (s.clear.kerb k).cache[bits a 8 18]? = some p) ∧
    (∃ (s : State) (k a : Nat), s.clear.kerbTesting k = false ∧ (s.clear.kerb k).cache[bits a 8 18]? = none) ∧
    (∃ (s : State) (k : Nat), (s.clear.kerb k).resetting = true) ∧ (∃ (s : State) (k : Nat), (s.clear.kerb k).resetting = false) ∧
    (∃ (s : State) (u : Nat) (e : Dev), e = (s.clear.draw.2.logError (srcArcade u) 0x40 (s.clear.draw.1.toNat % 2 ^ 16) 0 0 (srcArcade u)
      none 0 (s.clear.fget (Reg.ARC_STAT u) Fld.ARC_STAT_LINK) 0xFFFFFFFF).linkLost (48 + u)
        (s.clear.fget (Reg.ARC_STAT u) Fld.ARC_STAT_LINK)) :=
  ⟨⟨State.reset, 0, by decide +kernel⟩,
    ⟨withDev fun d => { d with kerbs := [(47, { resetting := true })] }, 47, by decide +kernel⟩,
    ⟨withDev fun d => { d with kerbs := [(47, { cache := [⟨1, 0, 0, false, false⟩] })] }, 47, 0, ⟨1, 0, 0, false, false⟩,
      by decide +kernel⟩,
    ⟨State.reset, 0, 0, by decide +kernel⟩,
    ⟨withDev fun d => { d with kerbs := [(47, { resetting := true })] }, 47, by decide +kernel⟩,
    ⟨State.reset, 0, by decide +kernel⟩, ⟨State.reset, 0, _, rfl⟩⟩

def desc0 : QDesc :=
  { service := 0, flags := 0, ns := 1, version := 1, k := 1, probes := 1, filter := 0, budget := 0, payloadKind := 1, extractTokens := 0,
    payloadAddr := 0, payloadLength := 4, payloadKey := 0, resultAddr := 0, resultLength := 128, resultKey := 0, params := [],
    targetBeat := 0, tag := 0, reservedZero := true }

def entry0 : StageEntry := { first := 0, count := 1, opList := 0, opCount := 1, keep := 1 }

def service0 : Service :=
  { object := 0, id := 0, district := 0, stages := 0, ns := 1, graph := false, generate := false, maxK := 1, candidates := 1,
    chunkTokens := 128, decodePerPass := 1, textMax := 64, maxTokens := 64, cascadeStages := 1, contextEntries := 1, endToken := 0,
    encode := entry0, route := entry0, extract := entry0, cascade := [entry0] }

/-- A query of an index of one dimension and one list, in a phase. -/
def query0 (p : QPhase) : Query :=
  { id := 1, queue := 0, cid := 0, index := 0, district := 0, desc := desc0, service := service0, arrivalNs := 0, arrivalBeat := 0,
    phase := p, version := 1, probes := 1 }

def version0 : Version :=
  { ns := 1, state := .current, params :=
    { version := 1, graph := false, dist := 0, dims := 1, lists := 1, degree := 0, expand := 0, maxLevels := 0, entryProbes := 0,
      partitions := 0, entriesPerList := 1, sweepLimit := 1, idBase := 0, idCount := 16, centroids := 0, directory := 0, scales := 0 } }

/-- A module with one index version and one query. -/
def asks (q : Query) (f : Dev → Dev := id) : State := withDev fun d =>
  f { d with queries := [(1, q)], versions := [version0], plan := { d.plan with districts := shippedDistrict0 :: List.replicate 15 {} } }

/-- A query block on a list. -/
def qblock0 : QBlock := { id := 1, district := 0, ns := 1, version := 1, kind := 0, sweep := false, unit := 0, queries := [{ query := 1 }] }

/-- A query at Kerbs 0 and 1 with a heap at Kerb 0, and thresholds as a Kerb and the Gate know them. -/
def shared (gate : Option Datum) (own : Option Datum) : Query :=
  let own := match own with
    | some t => [(0, t)]
    | none => []
  { query0 .search with kerbs := [0, 1], heaps := [(0, [])], gateTheta := gate, thetas := own }

theorem witness_QueryBlocksComplete : (∃ (s : State) (k id : Nat) (b : QBlock) (v : Version) (qq : QbQuery) (rest : List QbQuery),
    s.clear.qblock k id = some b ∧ b.admitted = false ∧ s.clear.canAdmit k b = true ∧ s.clear.versionFor b = some v ∧
      b.queries = qq :: rest ∧ b.phase = .head) ∧
    (∃ (s : State) (k : Nat), (s.clear.policy k).thresholdShare = false) ∧
    (∀ g ∈ [none, some (.ofInt 1)], ∃ (s : State) (k : Nat) (q : Query) (v : Version), (s.clear.policy k).thresholdShare = true ∧
      s.clear.residents k = [q] ∧ 2 ≤ q.kerbs.length ∧ s.clear.versionOf q.desc.ns q.version = some v ∧ q.gateTheta = g) ∧
    ∀ t ∈ [(3, true), (1, false)], ∃ (s : State) (k i : Nat) (q : Query) (v : Version), s.clear.queryOf i = some q ∧
      s.clear.versionOf q.desc.ns q.version = some v ∧ q.gateTheta = some (.ofInt t.1) ∧
      betterScore v.params.dist (.ofInt t.1) (s.clear.thetaAt k v.params.dist q) = t.2 := by
  refine ⟨⟨asks (query0 .search) fun d => { d with kerbs := [(0, { qblocks := [qblock0] })] }, 0, 1, qblock0, version0, { query := 1 }, [],
      by decide +kernel⟩,
    ⟨withDev fun d => { d with plan := { d.plan with kerbPolicies := (List.range 48).map fun k => (k, { thresholdShare := false }) } }, 0,
      by decide +kernel⟩, ?_, ?_⟩
  · have h : ∀ g ∈ [none, some (Datum.ofInt 1)], ((asks (shared g none)).clear.policy 0).thresholdShare = true ∧
        (asks (shared g none)).clear.residents 0 = [shared g none] ∧ 2 ≤ (shared g none).kerbs.length ∧
        (asks (shared g none)).clear.versionOf (shared g none).desc.ns (shared g none).version = some version0 ∧
        (shared g none).gateTheta = g := by decide +kernel
    exact fun g hg => ⟨_, 0, _, _, h g hg⟩
  · have h : ∀ t ∈ [(3, true), (1, false)], (asks (shared (some (.ofInt t.1)) (some (.ofInt 2)))).clear.queryOf 1 =
          some (shared (some (.ofInt t.1)) (some (.ofInt 2))) ∧
        (asks (shared (some (.ofInt t.1)) (some (.ofInt 2)))).clear.versionOf 1 1 = some version0 ∧
        (shared (some (.ofInt t.1)) (some (.ofInt 2))).gateTheta = some (.ofInt t.1) ∧
        betterScore version0.params.dist (.ofInt t.1) ((asks (shared (some (.ofInt t.1)) (some (.ofInt 2)))).clear.thetaAt 0
          version0.params.dist (shared (some (.ofInt t.1)) (some (.ofInt 2)))) = t.2 := by decide +kernel
    exact fun t ht => ⟨_, 0, 1, _, _, h t ht⟩

/-- An open MUTABLE superblock whose member 15 has begun a page. -/
def openSb : SuperBlock := { state := .open, mutable := true, members := [14, 15], parity := some 14, cursors := [(15, 1)] }

theorem witness_MediaEventsComplete : (∃ (s : State) (g : Nat), (s.clear.media.sbs.filter fun x =>
      x.1 / 2048 = g && x.2.state = .open && x.2.mutable) = []) ∧
    (∃ (s : State) (g p b : Nat), (s.clear.freeSbs g).length < 12 ∧ s.clear.chooseVictim g (p = 2) false = some b) ∧
    (∃ (s : State) (g p b : Nat), 12 ≤ (s.clear.freeSbs g).length ∧ s.clear.slotNames 6 = true ∧
      s.clear.fbit Reg.FTL_CTL Fld.FTL_CTL_RECLAIM_HOLD = false ∧
      s.clear.chooseVictim g (p = 2) (decide (32 ≤ (s.clear.freeSbs g).length)) = some b) ∧
    (∃ (s : State) (g : Nat), 12 ≤ (s.clear.freeSbs g).length ∧ s.clear.slotNames 6 = false) ∧
    (∃ s : State, s.clear.slotNames 11 = true ∧ 2 ^ 32 < s.clear.media.sinceCheckpoint) ∧
    (∃ s : State, s.clear.media.sinceCheckpoint ≤ 2 ^ 32) ∧
    (∃ (s : State) (g b m : Nat) (z : SuperBlock) (u : ProgUnit) (us : List ProgUnit), b < 2048 ∧
      (2048 * g + b, z) ∈ s.clear.media.sbs ∧ z.state = .open ∧ z.mutable = true ∧ m ∈ s.clear.dataMembers g b ∧
      AMap.sorted s.clear.media.partials = true ∧ AMap.look s.clear.media.partials (16 * g + m) = some (u :: us) ∧ u.loc.bg = b) ∧
    (∃ (s : State) (i : Nat), AMap.look s.clear.media.erasures i = none) ∧
    ∃ (s : State) (i : Nat) (e : Erasure), AMap.look s.clear.media.erasures i = some e ∧ e.journalled = false ∧
      (s.clear.media.stale.any fun x => s.clear.covers e x.ns x.unit) = false :=
  ⟨⟨State.reset, 95, rfl⟩,
    ⟨withDev fun d => { d with media := { d.media with retired := (List.range 16).map (dieOf 0), sbs := [(7, { state := .closed })] } },
      0, 1, 7, by decide +kernel⟩,
    ⟨inSlot fun d => { d with media := { d.media with sbs := [(7, { state := .closed, rewriteFirst := true })] } }, 0, 1, 7,
      by decide +kernel⟩, ⟨State.reset, 0, by decide +kernel⟩,
    ⟨inSlot fun d => { d with media := { d.media with sinceCheckpoint := 2 ^ 32 + 64 } }, by decide +kernel⟩,
    ⟨State.reset, by decide +kernel⟩,
    ⟨withDev fun d => { d with media := { d.media with partials := [(16 * 95 + 15, [⟨1, 0, ⟨95, 15, 2047, 0, 0, 0⟩, none, none⟩])], sbs := [(2048 * 95 + 2047, openSb)] } },
      95, 2047, 15, openSb,
      ⟨1, 0, ⟨95, 15, 2047, 0, 0, 0⟩, none, none⟩, [], by decide +kernel⟩,
    ⟨State.reset, 0, rfl⟩,
    ⟨withDev fun d => { d with media := { d.media with erasures := [(1, { queue := 0, cid := 0, ns := 1, ranges := [] })] } }, 1,
      { queue := 0, cid := 0, ns := 1, ranges := [] }, by decide +kernel⟩⟩

/-- Die 31 of Kerb 47 does an operation. -/
def dieBusy (o : DieOp) (f : Dev → Dev := id) : State := withDev fun d => f { d with kerbs := [(47, { dies := [(31, { busy := some o })] })] }

theorem witness_DieOperationsEnd : (∃ (s : State) (k j : Nat) (o : DieOp) (p : Program), j < 32 ∧ (s.clear.die k j).busy = some o ∧
      o.kind = .program ∧ o.purpose = .program ∧
      ((s.clear.modDie k j fun x => { x with busy := none }).fadd (Reg.KERB_CH_PIECES k (j / 4)) Fld.KERB_CH_PIECES_PIECES 16).media.programs.find?
        (fun p => p.group = groupOfDie (32 * k + j) && p.member = memberOfDie (32 * k + j) && p.sb = o.ns && p.page = o.piece) = some p) ∧
    (∃ (s : State) (k j : Nat) (o : DieOp), s.clear.host.wipe = none ∧ (s.clear.die k j).busy = some o ∧ o.kind = .erase ∧
      s.clear.victimOf (groupOfDie (32 * k + j)) o.piece = none ∧
      (((((s.clear.modDie k j fun x => { x with busy := none }).modBg (2048 * (32 * k + j) + o.piece) fun x =>
        { x with epoch := (x.epoch + 1) % 2 ^ 32, intent := false, reads := 0 }).cacheDropWhere k fun p =>
          Dev.generationBg p.generation = 2048 * (32 * k + j) + o.piece).journalPut (.eraseDone (32 * k + j) o.piece)).victimOf
            (groupOfDie (32 * k + j)) o.piece) = none) ∧
    ∃ (s : State) (k j : Nat) (o : DieOp), k < 48 ∧ j < 32 ∧ (s.clear.die k j).busy = some o ∧ o.kind = .read ∧
      s.clear.dieOk (32 * k + j) = true ∧ s.clear.kerbOnline k = true :=
  ⟨⟨dieBusy { kind := .program, cls := .write, purpose := .program, ns := 0, piece := 5 } fun d =>
        { d with media := { d.media with programs := [⟨95, 15, 0, 5, false, false, []⟩] } }, 47, 31,
      { kind := .program, cls := .write, purpose := .program, ns := 0, piece := 5 }, ⟨95, 15, 0, 5, false, false, []⟩, by decide +kernel⟩,
    ⟨dieBusy { kind := .erase, cls := .write, purpose := .erase, ns := 0, piece := 2047 }, 47, 31,
      { kind := .erase, cls := .write, purpose := .erase, ns := 0, piece := 2047 }, by decide +kernel⟩,
    ⟨dieBusy { kind := .read, cls := .foreground, purpose := .hostRead 0, ns := 1, piece := 0 }, 47, 31,
      { kind := .read, cls := .foreground, purpose := .hostRead 0, ns := 1, piece := 0 }, by decide +kernel⟩⟩

/-- The same with the service record of the query and its stage block in place. -/
def asksAt (q : Query) (f : Dev → Dev := id) : State := asks q fun d =>
  f { d with services := [service0], blocks := [(0, { role := .active 0 })] }

/-- A query that sweeps. -/
def sweep0 (p : QPhase) : Query := { query0 p with desc := { desc0 with flags := 4 } }

theorem witness_WindowEventsComplete : (∃ (s : State) (i : Nat) (q : Query) (b : List Byte), s.clear.queryOf i = some q ∧
      q.phase = .fetching ∧ q.resolved = false ∧
      (q.desc.payloadKind = 0 ∨ b.length % (if q.desc.payloadKind = 1 then 4 else 2) = 0) ∧ s.clear.earlyRows = 0 ∧
      q.closeBeat = 0) ∧
    (∃ (s : State) (i : Nat) (q : Query) (b : List Byte), s.clear.queryOf i = some q ∧ q.phase = .fetching ∧ q.resolved = false ∧
      (q.desc.payloadKind = 0 ∨ b.length % (if q.desc.payloadKind = 1 then 4 else 2) = 0) ∧ q.closeBeat ≠ 0) ∧
    (∃ (s : State) (i : Nat) (q : Query) (d : Dev), d = s.clear.reach s.clear.gatherAt ∧ d.changes = [] ∧ d.queries = [(i, q)] ∧
      q.id = i ∧ q.desc.sweep = true ∧ q.closeBeat = 0 ∧ q.phase = .waiting ∧ q.arrivalNs < d.time.ns) ∧
    (∃ (s : State) (i : Nat) (q : Query) (d : Dev), d = s.clear.reach s.clear.gatherAt ∧ d.changes = [] ∧ d.queries = [(i, q)] ∧
      q.id = i ∧ q.desc.sweep = false ∧ q.resolved = false ∧ q.phase = .waiting ∧ q.arrivalNs < d.time.ns ∧ q.desc.atBeat = false) ∧
    (∃ (s : State) (d : Dev), d = s.clear.reach s.clear.gatherAt ∧ d.changes = [] ∧ d.queries = []) ∧
    (∃ (s : State) (i : Nat) (q z : Query) (d e : Dev), d = s.clear.reach s.clear.sweepAt ∧ d.changes = [] ∧ d.queries = [(i, q)] ∧
      q.id = i ∧ d.sweepLeft = [] ∧ q.desc.sweep = true ∧ q.resolved = false ∧ q.phase = .route ∧ q.arrivalNs < d.time.ns ∧
      q.desc.atBeat = false ∧ e = d.resolve i ∧ e.queryOf i = some z ∧ z.resolved = true ∧ z.failed = none ∧ e.sweepLeft = []) ∧
    ∃ (s : State) (d : Dev), d = s.clear.reach s.clear.sweepAt ∧ d.changes = [] ∧ d.queries = [] ∧ d.sweepLeft = [] := by
  refine ⟨⟨asks (query0 .fetching), 1, query0 .fetching, [0, 0, 0, 0], by decide +kernel⟩,
    ⟨asks { sweep0 .fetching with closeBeat := 1 }, 1, { sweep0 .fetching with closeBeat := 1 }, [0, 0, 0, 0], by decide +kernel⟩,
    ⟨asks (sweep0 .waiting), 1, sweep0 .waiting, _, rfl, by decide +kernel⟩,
    ⟨asks (query0 .waiting), 1, query0 .waiting, _, rfl, by decide +kernel⟩, ⟨State.reset, _, rfl, by decide +kernel⟩, ?_,
    ⟨State.reset, _, rfl, by decide +kernel⟩⟩
  have h : (((asksAt (sweep0 .route)).clear.reach (asksAt (sweep0 .route)).clear.sweepAt).changes = [] ∧
      ((asksAt (sweep0 .route)).clear.reach (asksAt (sweep0 .route)).clear.sweepAt).queries = [(1, sweep0 .route)] ∧
      (sweep0 .route).id = 1 ∧ ((asksAt (sweep0 .route)).clear.reach (asksAt (sweep0 .route)).clear.sweepAt).sweepLeft = [] ∧
      (sweep0 .route).desc.sweep = true ∧ (sweep0 .route).resolved = false ∧ (sweep0 .route).phase = .route ∧
      (sweep0 .route).arrivalNs < ((asksAt (sweep0 .route)).clear.reach (asksAt (sweep0 .route)).clear.sweepAt).time.ns ∧
      (sweep0 .route).desc.atBeat = false) ∧
    ((((asksAt (sweep0 .route)).clear.reach (asksAt (sweep0 .route)).clear.sweepAt).resolve 1).queryOf 1).any (fun z =>
      z.resolved && z.failed.isNone) = true ∧
      (((asksAt (sweep0 .route)).clear.reach (asksAt (sweep0 .route)).clear.sweepAt).resolve 1).sweepLeft = [] := by decide +kernel
  obtain ⟨⟨h1, h2, h3, h4, h5, h6, h7, h8, h9⟩, hz, h0⟩ := h
  obtain ⟨z, hz, hp⟩ := some_of hz
  simp only [Bool.and_eq_true, Option.isNone_iff_eq_none] at hp
  exact ⟨_, 1, _, z, _, _, rfl, h1, h2, h3, h4, h5, h6, h7, h8, h9, rfl, hz, hp.1, hp.2, h0⟩

/-- A pass of one query that probes list 0. -/
def pass0 (started : Bool) : Pass :=
  { ns := 1, queries := [1], windowBeat := 0, started := started, startNs := 0, lists := [], left := [], rereads := 0, read := 1 }

theorem witness_SweepPassesComplete : (∃ (s : State) (ns : Nat) (p : Pass) (qs : List Query) (ls : List Nat) (l : Nat) (rest : List Nat),
      s.clear.passes = [p] ∧ p.ns = ns ∧ p.started = false ∧ qs = (p.queries.filter s.clear.alive).filterMap s.clear.queryOf ∧
      (∀ q ∈ qs, 3 ≤ Dev.phaseRank q.phase) ∧ ls = sortBy (fun a b => decide (a < b)) ((qs.flatMap Dev.roundLists).dedup) ∧
      ls = l :: rest) ∧
    ∃ (s : State) (ns : Nat) (p : Pass), s.clear.passes = [p] ∧ p.ns = ns ∧ p.started = true ∧ p.lists = [] ∧
      (s.clear.kerbs.any fun k => k.2.qblocks.any fun b => b.sweeping ns) = false :=
  ⟨⟨asks { sweep0 .search with ranking := [0] } fun d => { d with passes := [pass0 false] }, 1, pass0 false,
      [{ sweep0 .search with ranking := [0] }], [0], 0, [], by decide +kernel⟩,
    ⟨asks (sweep0 .search) fun d => { d with passes := [pass0 true] }, 1, pass0 true, by decide +kernel⟩⟩

/-- The batch of that query, whose command ended so or has not. -/
def batch0 (r : Option Status) (kind : Nat := 1) : Batch :=
  { service := 0, kind := kind, cascade := 0, queries := [1], district := 0, glb := 0, opList := 0, opCount := 1, result := r }

/-- A module whose one query is in that batch. -/
def staged0 (q : Query) (r : Option Status) (kind : Nat := 1) : State :=
  asks q fun d => { d with batches := [(1, batch0 r kind)] }

theorem witness_StageRunsComplete : (∃ (d : Dev) (q : Query) (v : Version), d.versionOf q.desc.ns q.version = some v ∧
      v.params.graph = false) ∧
    (∀ r ∈ [none, some Status.computeAborted, some .success], ∃ (s : State) (i bi : Nat) (q : Query) (b y : Batch),
      s.clear.queryOf i = some q ∧ s.clear.batchOf i = some (bi, b) ∧ ranEarly b i q = false ∧
      AMap.look (s.clear.runEnded bi b).batches bi = some y ∧ y.result = r) ∧
    (∃ (s : State) (i bi : Nat) (q : Query) (b y : Batch), s.clear.queryOf i = some q ∧ s.clear.batchOf i = some (bi, b) ∧
      ranEarly b i q = false ∧ AMap.look (s.clear.runEnded bi b).batches bi = some y ∧ y.result = some .success ∧
      Dev.servedIn y i q = false) ∧
    (∀ p ∈ [(QPhase.waiting, 1), (.encode, 1), (.route, 2), (.rerank 0, 3), (.extract, 4)], ∃ (s : State) (i bi : Nat) (q : Query)
      (b : Batch) (d : Dev) (y : Batch), s.clear.queryOf i = some q ∧ s.clear.batchOf i = some (bi, b) ∧ RunGave s.clear i bi q b d y ∧
      q.phase = p.1 ∧ q.service.generate = false ∧ q.service.cascade[0]? = some entry0 ∧ (d.leaveBatch bi i).passes = []) ∧
    (∃ (s : State) (i bi : Nat) (q : Query) (b : Batch) (d : Dev) (y : Batch), s.clear.queryOf i = some q ∧
      s.clear.batchOf i = some (bi, b) ∧ RunGave s.clear i bi q b d y ∧ q.phase = .extract ∧ q.service.generate = true) ∧
    Dev.finiteAll (([0x3F800000] : List (BitVec 32)).map fun x => dec32 x.toNat) = true := by
  have h0 : ∀ r ∈ [none, some Status.computeAborted, some .success], (staged0 (query0 .encode) r).clear.queryOf 1 =
        some (query0 .encode) ∧ (staged0 (query0 .encode) r).clear.batchOf 1 = some (1, batch0 r) ∧
      ranEarly (batch0 r) 1 (query0 .encode) = false ∧
      AMap.look ((staged0 (query0 .encode) r).clear.runEnded 1 (batch0 r)).batches 1 = some (batch0 r) ∧ (batch0 r).result = r := by
    decide +kernel
  have h : ∀ p ∈ [(QPhase.waiting, 1), (.encode, 1), (.route, 2), (.rerank 0, 3), (.extract, 4)],
      (staged0 (query0 p.1) (some .success) p.2).clear.queryOf 1 = some (query0 p.1) ∧
      (staged0 (query0 p.1) (some .success) p.2).clear.batchOf 1 = some (1, batch0 (some .success) p.2) ∧
      (ranEarly (batch0 (some .success) p.2) 1 (query0 p.1) = false ∧
        AMap.look ((staged0 (query0 p.1) (some .success) p.2).clear.runEnded 1 (batch0 (some .success) p.2)).batches 1 =
          some (batch0 (some .success) p.2) ∧ Dev.servedIn (batch0 (some .success) p.2) 1 (query0 p.1) = true) ∧
      (query0 p.1).phase = p.1 ∧ (query0 p.1).service.generate = false ∧ (query0 p.1).service.cascade[0]? = some entry0 ∧
      (((staged0 (query0 p.1) (some .success) p.2).clear.runEnded 1 (batch0 (some .success) p.2)).leaveBatch 1 1).passes = [] := by
    decide +kernel
  refine ⟨⟨(asks (query0 .route)).dev, query0 .route, version0, by decide +kernel⟩, fun r hr => ⟨_, 1, 1, _, _, _, h0 r hr⟩,
    ⟨staged0 (query0 .extract) (some .success) 4 |> fun s => { s with dev := { s.dev with batches := [(1,
        { batch0 (some .success) 4 with reqs := [{ query := 1, entry := 0, tokens := 1 }] })] } }, 1, 1, query0 .extract,
      { batch0 (some .success) 4 with reqs := [{ query := 1, entry := 0, tokens := 1 }] },
      { batch0 (some .success) 4 with reqs := [{ query := 1, entry := 0, tokens := 1 }] }, by decide +kernel⟩,
    fun p hp => ?_,
    ⟨staged0 { query0 .extract with service := { service0 with generate := true } } (some .success) 4 |> fun s =>
        { s with dev := { s.dev with batches := [(1, { batch0 (some .success) 4 with decodes := [1] })] } }, 1, 1,
      { query0 .extract with service := { service0 with generate := true } }, { batch0 (some .success) 4 with decodes := [1] }, _,
      { batch0 (some .success) 4 with decodes := [1] }, by decide +kernel, by decide +kernel, .inr ⟨by decide +kernel, rfl,
        by decide +kernel⟩, by decide +kernel⟩, by decide +kernel⟩
  obtain ⟨h1, h2, ⟨h3, h4, h5⟩, h6⟩ := h p hp
  exact ⟨_, 1, 1, _, _, _, _, h1, h2, .inr ⟨h3, rfl, h4, rfl, h5⟩, h6⟩

theorem witness_ResultEventsComplete : (∃ (s : State) (i : Nat) (q : Query), s.clear.queryOf i = some q ∧ q.phase = .search ∧
      q.desc.sweep = false ∧ q.probed ≠ 0 ∧ s.clear.searching i = false) ∧
    (∃ (s : State) (queue cid : Nat) (q : Query), s.clear.queriesOf queue cid = [q] ∧ q.phase = .returning ∧ q.unacked = true ∧
      q.finalWaits = false) ∧ (∃ (s : State) (queue cid : Nat), s.clear.queriesOf queue cid = []) ∧
    (∃ s : State, s.clear.slotNames 8 = true) ∧ ∃ s : State, s.clear.slotNames 8 = false :=
  ⟨⟨asks { query0 .search with probed := 1 }, 1, { query0 .search with probed := 1 }, by decide +kernel⟩,
    ⟨asks { query0 .returning with unacked := true }, 0, 0, { query0 .returning with unacked := true }, by decide +kernel⟩,
    ⟨State.reset, 0, 0, rfl⟩, ⟨inSlot id, by decide +kernel⟩, ⟨State.reset, rfl⟩⟩

/-- A job of one ID, at a stage of its batch. -/
def job0 (stage : Nat) (r : Option Status) : Job :=
  { object := 0, id := 0, district := 0, control := 0, flags := 0, ns := 1, target := 1, idFirst := 0, idCount := 1, encode := entry0,
    route := entry0, seqTokens := 1, batchRows := 1, duty := 1000, buildBeam := 1, staging := 0, coverage := 1, state := .running,
    nextId := 0, stage := stage, result := r, after := 1 }

/-- A module with that job; its stage block is there or not. -/
def works (j : Job) (blocked : Bool) : State := withDev fun d =>
  ({ d with jobs := [(1, j)], versions := [version0], blocks := if blocked then [] else [(0, { role := .active 0 })] } : Dev).fset
    (Reg.PWR_QTR 0) Fld.PWR_QTR_FREQ_MHZ 1000

theorem witness_JobEventsComplete : (∀ blocked ∈ [true, false], ∃ (s : State) (i : Nat) (j : Job), AMap.look s.clear.jobs i = some j ∧
      j.state = .running ∧ j.stage = 0 ∧ s.clear.power.ps < 4 ∧ 1000 * j.cycles < j.duty * s.clear.stageCycles j ∧
      j.slotsOnly = false ∧ s.clear.jobBlocked j = blocked) ∧
    (∃ (s : State) (i : Nat) (j : Job), AMap.look s.clear.jobs i = some j ∧ j.stage ≠ 5) ∧
    ∃ (s : State) (i : Nat) (j : Job) (v : Version), AMap.look s.clear.jobs i = some j ∧ j.state = .running ∧ j.stage = 5 ∧
      j.embed = [] ∧ j.lost = [] ∧ j.nextId / 2 ^ 28 = j.after / 2 ^ 28 ∧ s.clear.versionOf j.ns j.target = some v := by
  have h : ∀ blocked ∈ [true, false], AMap.look (works (job0 0 none) blocked).clear.jobs 1 = some (job0 0 none) ∧
      (job0 0 none).state = .running ∧ (job0 0 none).stage = 0 ∧ (works (job0 0 none) blocked).clear.power.ps < 4 ∧
      1000 * (job0 0 none).cycles < (job0 0 none).duty * (works (job0 0 none) blocked).clear.stageCycles (job0 0 none) ∧
      (job0 0 none).slotsOnly = false ∧ (works (job0 0 none) blocked).clear.jobBlocked (job0 0 none) = blocked := by decide +kernel
  exact ⟨fun b hb => ⟨_, 1, _, h b hb⟩, ⟨works (job0 2 none) false, 1, job0 2 none, by decide +kernel⟩, ⟨works (job0 5 none) false, 1, job0 5 none, version0, by decide +kernel⟩⟩

/-! Commands of hosts. -/

/-- Association 0 is made over RDMA on port 0 and I/O queue 0 is connected; the plan has namespace 1. -/
def ready : State := withDev fun d =>
  { d.fset (Reg.HIF_QP 0) Fld.HIF_QP_ENABLED 1 with
    host := { d.host with assocs := [(0, { port := 0, link := 0, rdma := true, nqn := [], kato := 0, qpBase := some 0,
                                           ioConnected := true })] }
    plan := { d.plan with namespaces := [⟨1, true, false, 0, 0, 2 ^ 20, 0, 0, 0⟩] } }

/-- The conditions of `Admits` as one test. -/
def admitted (d : Dev) (c : Instr) : Bool := match hdrOf c with
  | none => false
  | some h => d.queueOpen h.queue && !d.known h && d.host.waiting.isEmpty && ((d.wakeFor c).joinQueue c h).mayGo c &&
    match ((d.wakeFor c).joinQueue c h).arbitrate (d.portOf h.queue) [h.queue] with
    | some (q, a, y) => decide (q = h.queue) && (inFlight d c h a y).dispatchCheck c h == none &&
      !((inFlight d c h a y).registerLocks c h).lockBlocked c h
    | none => false

theorem admits_of {d : Dev} {c : Instr} (t : admitted d c = true) : ∃ h r, Admits d c h r := by
  unfold admitted at t
  split at t
  · cases t
  · rename_i h hh
    simp only [Bool.and_eq_true, Bool.not_eq_true', List.isEmpty_iff] at t
    obtain ⟨⟨⟨⟨h1, h2⟩, h3⟩, h4⟩, h5⟩ := t
    split at h5
    · rename_i q a y e
      simp only [Bool.and_eq_true, decide_eq_true_eq, Bool.not_eq_true', beq_iff_eq] at h5
      obtain ⟨⟨rfl, h6⟩, h7⟩ := h5
      exact ⟨h, _, hh, h1, h2, h3, h4, ⟨a, y, e, h6, rfl⟩, h7⟩
    · cases h5

/-- An entry of I/O queue 0, and one of the admin queue. -/
def io : Hdr := { queue := 0, cid := 65535 }
def adm : Hdr := { queue := 4096, cid := 0 }

theorem witness_NvmCommandsRun : ∀ c ∈ ([.flush io 1, .write io 1 0 1 [], .read io 1 0 1, .writeZeroes io 1 0 65536,
    .deallocate io 1 [⟨0, 1, false⟩], .secureDeallocate io 1 [⟨0, 1, true⟩]] : List Instr), ∃ h r, Admits ready.clear c h r :=
  fun c hc => admits_of ((by decide +kernel : ∀ c ∈ ([.flush io 1, .write io 1 0 1 [], .read io 1 0 1, .writeZeroes io 1 0 65536,
    .deallocate io 1 [⟨0, 1, false⟩], .secureDeallocate io 1 [⟨0, 1, true⟩]] : List Instr), admitted ready.clear c = true) c hc)

/-- A command of each row of the vendor I/O set and COMPUTE. -/
def searchRows : List Instr :=
  [.query io 1 .unreadable, .ingest io 1 1 false 0 0 [], .delete io 1 0 0 false 0 0 0, .compute io 0 0 false 0 0 0 0 0 0,
   .create io 1 [], .seal io 1 1, .switch io 1 1 0, .retire io 1 1, .filterLoad io 0 1 [], .repair io 1, .stats io 1 64]

theorem witness_SearchCommandsRun : ∀ c ∈ searchRows, ∃ h r, Admits ready.clear c h r :=
  fun c hc => admits_of ((by decide +kernel : ∀ c ∈ searchRows, admitted ready.clear c = true) c hc)

def placementRows : List Instr :=
  [.allocate io [] .unreadable, .release io [], .update io [], .copyIn io [] .unreadable, .copyOut io [], .bind io [], .unbind io [],
   .report io 64]

theorem witness_PlacementCommandsRun : ∀ c ∈ placementRows, ∃ h r, Admits ready.clear c h r :=
  fun c hc => admits_of ((by decide +kernel : ∀ c ∈ placementRows, admitted ready.clear c = true) c hc)

def adminRows : List Instr :=
  [.registerRead adm 0 1 false 64, .registerWrite io 0 true 0, .getLogPage adm 0xC0 64, .identify adm 1 0, .abort adm 0 0,
   .setFeatures adm 7 false 0 { dw12 := 0 }, .getFeatures adm 7 0 0, .asynchronousEventRequest adm, .firmwareImageDownload adm 0 [],
   .firmwareCommit adm 0 0, .keepAlive adm, .formatNvm adm 0xFFFFFFFF 0 0, .sanitize adm 1 false false, .propertyGet adm 0 true,
   .propertySet adm 0 0, .disconnect adm 1]

theorem witness_AdminCommandsRun : ∀ c ∈ adminRows, ∃ h r, Admits ready.clear c h r :=
  fun c hc => admits_of ((by decide +kernel : ∀ c ∈ adminRows, admitted ready.clear c = true) c hc)

def planRows : List Instr :=
  [.planLoad adm true [], .planDiscard adm false 0, .apply adm [], .commit adm, .revert adm, .snapshot adm 1 64, .attest adm [] 64]

theorem witness_PlanCommandsRun : ∀ c ∈ planRows, ∃ h r, Admits ready.clear c h r :=
  fun c hc => admits_of ((by decide +kernel : ∀ c ∈ planRows, admitted ready.clear c = true) c hc)

def leaseRows : List Instr :=
  [.leaseLend adm 0 0 0 0, .leasePeer adm 0 [], .leaseAcquire adm 0 0 0 1, .leaseReturn adm 0, .leaseRevoke adm 0 0, .leaseStatus adm 64]

theorem witness_LeaseCommandsRun : ∀ c ∈ leaseRows, ∃ h r, Admits ready.clear c h r :=
  fun c hc => admits_of ((by decide +kernel : ∀ c ∈ leaseRows, admitted ready.clear c = true) c hc)

/-- A register operation of a host, for each row of that kind. -/
def accessRows (r : Requester) : List Instr :=
  [.abandon r 3, .cellInject r 287 3 6, .eccInject r 287, .kerbInject r 47, .blkCountClear r 0, .kerbCountClear r 0, .cacheDrop r 0,
   .kerbCtlReset r 0, .ftlCountClear r, .reclaimHold r true, .hifCountClear r, .portReset r 1, .pwrCountClear r, .loopsFreeze r true,
   .secCountClear r, .failover r, .deviceReset r, .quarterReset r 3, .blockReset r 287, .forceHoldover r true, .ppsOut r true,
   .timeSet r 0, .traceMode r 2, .traceEnable r true, .arm r, .trigger r, .traceClear r, .counterSample r 15,
   .lightValueWrite r 65535 1, .lightAddWrite r 65535 1, .lightOwnerWrite r 65535 15 true, .bmwinWrite r 287 15 0 128,
   .fmtFlagsRead r 15, .planErrRead r, .railPeakRead r 13, .tempMaxRead r 225]

theorem witness_HostRegisterOperationsRun : ∀ c ∈ accessRows (.host adm), ∃ h r x,
    Admits ready.clear c h r ∧ accessOf r c = some (.host h, x) := by
  intro c hc
  obtain ⟨h, r, a⟩ := admits_of ((by decide +kernel : ∀ c ∈ accessRows (.host adm), admitted ready.clear c = true) c hc)
  have e : h = adm := by
    have := a.header
    revert c
    intro c hc
    fin_cases hc <;> intro a e <;> simp_all [hdrOf]
  subst e
  have : ∀ d : Dev, ∀ c ∈ accessRows (.host adm), ∃ x, accessOf d c = some (.host adm, x) := by
    intro d c hc
    fin_cases hc <;> exact ⟨_, rfl⟩
  obtain ⟨x, hx⟩ := this r c hc
  exact ⟨_, _, x, a, hx⟩

theorem witness_ConnectsComplete :
    let s := withDev fun d => { d.fset (Reg.HIF_PORT_STAT 1) Fld.HIF_PORT_STAT_LINK_UP 2 with
      host := { d.host with assocs := [(2047, { port := 1, link := 1, rdma := true, nqn := [], kato := 0 })] } }
    s.clear.known { queue := 4096 + 2047, cid := 0 } = false ∧
      bits (s.clear.fget (Reg.HIF_PORT_STAT 1) Fld.HIF_PORT_STAT_LINK_UP) 1 1 = 1 ∧ s.clear.contain.shutdown = 0 ∧
      s.clear.host.wipe = none ∧ (s.clear.assoc 2047).isSome = true := by decide +kernel

theorem witness_GateEventsComplete :
    let s := withDev fun _ => { ready.dev with host := { ready.dev.host with waiting := [.flush io 1] } }
    let t := withDev fun _ => { ready.dev with host := { ready.dev.host with lockWaiters := [.flush io 1] } }
    (∃ q a y, s.clear.arbitrate 0 ((s.clear.heads 0).map Dev.queueOf) = some (q, a, y) ∧
      ((s.clear.heads 0).find? fun c => Dev.queueOf c = q) = some (.flush io 1) ∧
      ((s.clear.serveQueue 0 q a y).leaveQueue (.flush io 1) io).dispatchCheck (.flush io 1) io = none ∧
      (((s.clear.serveQueue 0 q a y).leaveQueue (.flush io 1) io).registerLocks (.flush io 1) io).lockBlocked (.flush io 1) io =
        false) ∧
    t.clear.lockBlocked (.flush io 1) io = false ∧ (AMap.look ready.clear.host.assocs 0).isSome = true := by
  refine ⟨?_, by decide +kernel⟩
  obtain ⟨⟨q, a, y⟩, e, h⟩ := some_of (p := fun (q, a, y) =>
      let s := withDev fun _ => { ready.dev with host := { ready.dev.host with waiting := [.flush io 1] } }
      decide (((s.clear.heads 0).find? fun c => Dev.queueOf c = q) = some (.flush io 1)) &&
        ((s.clear.serveQueue 0 q a y).leaveQueue (.flush io 1) io).dispatchCheck (.flush io 1) io == none &&
        !(((s.clear.serveQueue 0 q a y).leaveQueue (.flush io 1) io).registerLocks (.flush io 1) io).lockBlocked (.flush io 1) io)
    (o := (withDev fun _ => { ready.dev with host := { ready.dev.host with waiting := [.flush io 1] } }).clear.arbitrate 0
      (((withDev fun _ => { ready.dev with host := { ready.dev.host with waiting := [.flush io 1] } }).clear.heads 0).map
        Dev.queueOf)) (by decide +kernel)
  simp only [Bool.and_eq_true, decide_eq_true_eq, Bool.not_eq_true', beq_iff_eq] at h
  exact ⟨q, a, y, e, h.1.1, h.1.2, h.2⟩

/-! Register accesses and the monitor. -/

/-- The monitor in a session of a level; start-up is over. -/
def session (level : Nat) : State := withDev fun d =>
  { d.fset Reg.DEV_BOOT Fld.DEV_BOOT_PHASE 8 with sec := { d.sec with level := level } }

/-- `Tidy` as a test. -/
def tidy (d : Dev) (a : Nat) : Bool := match findReg a with
  | some (r, _) => decide (d.reg a < 2 ^ (8 * r.bytes)) && r.fields.all fun f => f.acc == .rw || bits (d.reg a) f.lo f.width == 0
  | none => true

theorem tidy_of {d : Dev} {a : Nat} (t : tidy d a = true) : Tidy d a := by
  intro r ix h
  simp only [tidy, h, Bool.and_eq_true, decide_eq_true_eq, List.all_eq_true, Bool.or_eq_true, beq_iff_eq] at t
  exact ⟨t.1, fun f hf hn => (t.2 f hf).resolve_left hn⟩

/-- The registers whose write operations ask for a tidy value. -/
def tidyRegs : List Nat :=
  [Reg.PLAN_CTL, Reg.BLK_CTL 287, Reg.KERB_CTL 47, Reg.FTL_CTL, Reg.PWR_CTL, Reg.TIME_CTL, Reg.TRC_CTL]

/-- At level 1, with block 287 or Kerb 47 in self-test where an injection asks for it. -/
theorem witness_RegisterWritesTakeEffect :
    let s := session 1
    let t : State := { s with dev := { s.dev with
      blocks := [(287, { role := .active 287, selfTest := true })], kerbs := [(47, { resetting := true })]
      plan := { s.dev.plan with timeBase := { source := 2 } } } }
    Serves s.clear 255 1 false ∧ (∀ a ∈ tidyRegs, Tidy s.clear.heard a) ∧ s.clear.kerbTesting 47 = false ∧
      s.clear.fbit (Reg.BLK_CTL 287) Fld.BLK_CTL_ECC_INJECT = false ∧ s.clear.fbit (Reg.KERB_CTL 47) Fld.KERB_CTL_INJECT = false ∧
      s.clear.standby = some 1 ∧ s.clear.quarantined 3 = false ∧ s.clear.fget Reg.TRC_CTL Fld.TRC_CTL_MODE < 3 ∧
      s.clear.fbit Reg.TRC_CTL Fld.TRC_CTL_ENABLE = false ∧ s.clear.fget (Reg.LGT_CTL 65535) Fld.LGT_CTL_WAITERS = 0 ∧
      Serves t.clear 0 1 false ∧ t.clear.blockTesting 287 = true ∧ t.clear.kerbTesting 47 = true ∧
      (∀ x, (t.clear.block 287).cells[3]? = some x → x.fenced = false) ∧ (t.clear.logicalOf 287).isSome = true ∧
      (∀ y, y < 16 → y ≠ 15 → (t.clear.window 287 y).2 = 0) ∧ t.clear.time.lock = .freeRun ∧ t.clear.plan.timeBase.source = 2 ∧
      t.clear.time.ns ≤ 0 := by
  refine ⟨by unfold Serves; decide +kernel, ?_, by decide +kernel, by decide +kernel, by decide +kernel, by decide +kernel,
    by decide +kernel, by decide +kernel, by decide +kernel, by decide +kernel, by unfold Serves; decide +kernel, by decide +kernel,
    by decide +kernel, ?_, by decide +kernel, by decide +kernel, by decide +kernel, by decide +kernel, by decide +kernel⟩
  · exact fun a ha => tidy_of ((by decide +kernel : ∀ a ∈ tidyRegs, tidy (session 1).clear.heard a = true) a ha)
  · have : ∀ o : Option Cell, o.all (fun x => !x.fenced) = true → ∀ x, o = some x → x.fenced = false := by
      rintro (_ | y) h x e
      · cases e
      · cases e; simpa using h
    exact this _ (by decide +kernel)

theorem witness_ReadsClear : Serves (session 0).clear 0 0 false := by unfold Serves; decide +kernel

theorem witness_MonitorRequestsComplete : Serves (session 0).clear 255 0 true ∧ Serves (session 0).clear 255 0 false ∧
    Serves (session 1).clear 255 1 false ∧ Serves (session 2).clear 255 2 false ∧ Serves (session 2).clear 255 2 true ∧
    (session 2).clear.standby = some 1 ∧ ((session 1).clear.heard.writeReg .monitor Reg.TIME_CTL 4 1).isOk = true ∧
    ((session 1).clear.heard.monitorReset 'A' 0).isSome = true := by
  refine ⟨?_, ?_, ?_, ?_, ?_, by decide +kernel, by decide +kernel, by decide +kernel⟩ <;> unfold Serves <;> decide +kernel

theorem witness_MonitorRefusesAboveLevel : (session 0).clear.monitorUp = true ∧ (session 0).clear.monitorBusy = false ∧
    (session 0).clear.mon.lastFrame = none ∧ (session 0).clear.romRecovery = false ∧ (session 0).clear.monitorLocked = false ∧
    (session 0).clear.sec.level < 1 ∧ (session 1).clear.sec.level < 2 ∧ (session 1).clear.monitorUp = true := by decide +kernel

theorem witness_MonitorEventsComplete :
    let s := withDev fun d => { d with mon := { d.mon with newBaud := true }, sec := { d.sec with lockUntil := 1, level := 1 } }
    s.clear.mon.newBaud = true ∧ s.clear.sec.lockUntil ≠ 0 ∧ s.clear.sec.level ≠ 0 := by decide

/-! The plan, placement, leases. -/

/-- An amendment of the whole device that quiesces. -/
def amending : State :=
  let c : Container := { kind := 2, swapAtBeat := false, scope := ⟨.device, 0⟩, rollback := 0, sequence := 1, swapBeat := 0,
                         quiesceLimit := 1, keySlot := 0, digest := 0, size := 0, sections := [] }
  withDev fun d => { d with plan := { d.plan with slots := [{}, {}, {}, { step := .quiescing, container := some c }] } }

theorem witness_PlanEventsComplete :
    let e := withDev fun d => { d with squares := { d.squares with
      flash0 := { erasing := some (4095, 0) }
      flash1 := { erasing := some (0, 0) } } }
    let f := withDev fun d => { d with squares := { d.squares with
      flash1 := { sectors := [(0, ⟨0, 0, 0, true⟩)] } } }
    let g := withDev fun d => { d.fset Reg.TRC_TELEM Fld.TRC_TELEM_ENABLE 1 with
      plan := { d.plan with windows := { slots := [⟨0, 1000, 2 ^ 7, 0⟩] } }
      time := { d.time with openSlots := [0] }
      trace := { d.trace with standstill := some ⟨none, none, 0, 0, []⟩ } }
    let late := { amending with dev := { amending.dev with time := { amending.dev.time with ns := 3000000 } } }
    (∃ c d, (amending.clear.amend 3).container = some c ∧ (amending.clear.amend 3).step = .quiescing ∧
      amending.clear.drained c.scope = true ∧ amending.clear.beat ≤ (amending.clear.amend 3).startBeat + c.quiesceLimit ∧
      d = amending.clear.reach (((amending.clear.amend 3).startBeat + c.quiesceLimit) * amending.clear.period) ∧
      d.drained c.scope = true ∧ d.beat ≤ (amending.clear.amend 3).startBeat + c.quiesceLimit) ∧
    (∃ c d, (late.clear.amend 3).container = some c ∧ (late.clear.amend 3).step = .quiescing ∧ late.clear.drained c.scope = true ∧
      (late.clear.amend 3).startBeat + c.quiesceLimit < late.clear.beat ∧
      d = late.clear.reach (((late.clear.amend 3).startBeat + c.quiesceLimit) * late.clear.period) ∧
      (late.clear.amend 3).startBeat + c.quiesceLimit < d.beat) ∧
    (e.clear.flash 0).erasing = some (4095, 0) ∧ (e.clear.flash 0).suspended = false ∧ (e.clear.flash 1).erasing = some (0, 0) ∧
    f.clear.sqState 1 ≠ .outOfService ∧ (f.clear.flash 0).erasing = none ∧ (f.clear.flash 1).erasing = none ∧
    f.clear.squares.writeSets = [] ∧ oldestLive (f.clear.flash 1) = some 0 ∧ g.clear.trace.standstill = some ⟨none, none, 0, 0, []⟩ ∧
    g.clear.fbit Reg.TRC_TELEM Fld.TRC_TELEM_ENABLE = true ∧ g.clear.slotNames 7 = true ∧ g.clear.trace.nextSample ≤ g.clear.beat :=
  ⟨⟨_, _, rfl, rfl, (by decide +kernel : amending.clear.drained ⟨.device, 0⟩ = true), by decide +kernel, rfl, by decide +kernel,
      by decide +kernel⟩,
    ⟨_, _, rfl, rfl, by decide +kernel, by decide +kernel, rfl, by decide +kernel⟩, by decide +kernel⟩

/-- An object of two extents in T1. -/
def obj0 : Obj :=
  { gen := 0, district := 0, size := 2 ^ 22, tier := 1, kind := 0, light := false, movable := true, resident := false, region := 0,
    moveTiers := 3, moveT1 := 1, moveT0 := 1, copyHandle := 0, extents := [0, 1] }

/-- Stack 0 is in service with 32 GiB. -/
def stack0 (d : Dev) : Dev := (d.fset (Reg.STK_STAT 0) Fld.STK_STAT_IN_SERVICE 1).fset (Reg.STK_STAT 0) Fld.STK_STAT_SIZE_GIB 32

/-- Placement may move objects: its background slot is open, and district 0 has the shares. -/
def movingSlot (o : Obj) : State := withDev fun d => { stack0 d with
  plan := { d.plan with windows := { slots := [⟨0, 1000, 2 ^ 9, 0⟩] }, districts := [{ enable := true, t0Gib := 64, t1Gib := 64 }] }
  time := { d.time with openSlots := [0] }
  place := { d.place with objs := [(0, o)] } }

theorem witness_PlacementEventsComplete :
    let r := withDev fun d => { d with place := { d.place with objs := [(0, { obj0 with releasing := some (0, 0) })] } }
    let m := movingSlot { obj0 with moving := some ⟨0, 0⟩ }
    let s := movingSlot obj0
    let t := withDev fun d => { d with time := { d.time with ns := 1000000 } }
    (∃ o, AMap.look r.clear.place.objs 0 = some o ∧ o.releasing.isSome = true ∧ o.uses = 0) ∧
    ((Dev.nextPlace m.clear { obj0 with moving := some ⟨0, 0⟩ } ⟨0, 0⟩).isSome = true ∧
      m.clear.shareUsed 0 0 < m.clear.shareOf 0 0) ∧ m.clear.slotNames 9 = true ∧
    m.clear.place.moveCycle = m.clear.beat / m.clear.plan.windows.slotCycle ∧
    m.clear.place.movedExtents < 512 * m.clear.plan.caps.moveGib ∧
    s.clear.frozen = false ∧ s.clear.slotNames 9 = true ∧ s.clear.place.objs = [(0, obj0)] ∧ Dev.canMove obj0 0 = true ∧
    s.clear.plan.caps.moveGib ≠ 0 ∧ s.clear.moveRoom obj0 0 = true ∧
    State.reset.clear.beat % 4096 = 0 ∧ t.clear.beat % 4096 ≠ 0 := by
  exact ⟨⟨_, rfl, rfl, rfl⟩, by decide +kernel⟩

/-- Leases 1 to 4: one asked for, one borrowed, one that a revocation ends, one lent; peer 0 is due. -/
def leases0 : AMap Lease :=
  [(1, { borrower := true, state := .asked, peer := 0, set := 0, tier := 0, gib := 1, waiting := some (4096, 0) }),
   (2, { borrower := true, state := .active, peer := 0, set := 0, tier := 0, gib := 1 }),
   (3, { borrower := true, state := .revoking, peer := 0, set := 0, tier := 0, gib := 1 })]

theorem witness_LeaseEventsComplete :
    let s := withDev fun d => { d with place := { d.place with leases := leases0 } }
    let y : Lease := { borrower := false, state := .active, peer := 0, set := 0, tier := 1, gib := 1 }
    let t := withDev fun d => { d with
      place := { d.place with leases := [(4, y)], lendIdle := 0, peers := [(0, ⟨0, [], [], 0⟩)] } }
    let u := withDev fun d => { d with
      time := { d.time with ns := 1000000 }
      place := { d.place with t3 := [⟨0, 0, 0, .copyOut io [], false, false⟩] } }
    let v := withDev fun d => { stack0 d with
      place := { d.place with lendT0 := 64, lendT1 := 64, peers := [(0, ⟨0, [], sha256Bytes [1], 0⟩)] } }
    (∃ x, s.clear.lease 1 = some x ∧ x.state = .asked ∧ x.waiting = some (4096, 0)) ∧
    (∃ x, s.clear.lease 2 = some x ∧ x.borrower = true ∧ x.state = .active) ∧
    (∃ x, s.clear.lease 3 = some x ∧ x.state = .revoking ∧ x.deadline ≤ s.clear.beat) ∧
    (∃ x, AMap.look t.clear.place.peers 0 = some x ∧ x.lastContact + t.clear.place.lendIdle ≤ t.clear.beat) ∧
    t.clear.place.leases = [(4, y)] ∧ 31 ≤ v.clear.pool 0 ∧
    (∃ x, AMap.look v.clear.place.peers 0 = some x ∧ x.hash = sha256Bytes [1]) ∧
    (∀ x, AMap.look State.reset.clear.place.peers 0 = some x → x.hash ≠ sha256Bytes [1]) ∧
    (∀ c ∈ State.reset.clear.place.t3, State.reset.clear.beat ≤ c.beat ∧ c.sent = false) ∧
    (∃ c, u.clear.place.t3 = [c] ∧ c.beat < u.clear.beat ∧ c.sent = false ∧ c.begun = false ∧ c.command = .copyOut io []) :=
  ⟨⟨_, rfl, rfl, rfl⟩, ⟨_, rfl, rfl, rfl⟩, ⟨_, rfl, rfl, by decide⟩, ⟨_, rfl, by decide⟩, rfl, by decide +kernel, ⟨_, rfl, rfl⟩,
    (fun x h => nomatch (show (none : Option Peer) = some x from h)), by decide, ⟨_, rfl, by decide, rfl, rfl, rfl⟩⟩

/-! Power and the loops. -/

/-- A background slot is open that names activity `n`; district 15 is enabled. -/
def slotOpen (n : Nat) : State := withDev fun d => { d with
  plan := { d.plan with windows := { slots := [⟨0, 500, 2 ^ n, 0⟩] }, districts := List.replicate 16 { enable := true } }
  time := { d.time with openSlots := [0] } }

theorem witness_BeatsComplete : 65535 < 2 ^ 16 ∧ 0 < State.reset.clear.period := by decide

theorem witness_AdaptiveLoopsComplete :
    State.reset.clear.frozen = false ∧ State.reset.clear.quarantined 3 = false ∧ State.reset.clear.power.ps < 3 ∧
      (State.reset.clear.clockBounds 3).2.1 < 1024 ∧ (slotOpen 2).clear.slotNames 2 = true ∧ (slotOpen 2).clear.frozen = false ∧
      ((slotOpen 3).clear.district 15).enable = true ∧ (slotOpen 3).clear.slotNames 3 = true ∧ (slotOpen 3).clear.frozen = false := by
  decide +kernel

theorem witness_RefreshFollowsTemperature :
    State.reset.clear.frozen = false ∧ State.reset.clear.quarantined (11 / 3) = false ∧ State.reset.clear.plan.caps.refreshMin ≤ 2 := by
  decide +kernel

/-- An override of a loop at a unit. -/
def overridden (loop unit : Nat) (releasing : Bool) : State := withDev fun d => { d with
  power := { d.power with overrides := [⟨loop, unit, 350, 350, releasing, none⟩] } }

theorem witness_ProtectionCompletes :
    let hot := withDev fun d => d.fset (Reg.PWR_TEMP 223) Fld.PWR_TEMP_TEMP 1360
    let amp := withDev fun d => d.fset (Reg.PWR_RAIL 13) Fld.PWR_RAIL_CURRENT 4001
    let low := withDev fun d => d.fset (Reg.PWR_RAIL 12) Fld.PWR_RAIL_MV 759
    let ramp := withDev fun d => { (d.fset (Reg.PWR_QTR 3) Fld.PWR_QTR_TARGET_MHZ 376) with
      power := { d.power with overrides := [⟨8, 35, 350, 350, true, none⟩] } }
    (Dev.tripAt 223 = some 1360 ∧ ((1360 : Nat) : Int) ≤ hot.clear.tempOf 223) ∧
    (Dev.railLimits[13]? = some 4000 ∧ 4000 < amp.clear.measured 9 13) ∧
    100 * low.clear.measured 10 12 < 95 * low.clear.nominal 12 ∧
    ((overridden 8 35 false).clear.override 8 35 = some ⟨8, 35, 350, 350, false, none⟩ ∧
      (overridden 8 35 false).clear.releases 8 35 = true ∧ Dev.clockQuarter 35 = some 3) ∧
    (ramp.clear.override 8 35 = some ⟨8, 35, 350, 350, true, none⟩ ∧
      350 + 25 < ramp.clear.fget (Reg.PWR_QTR 3) Fld.PWR_QTR_TARGET_MHZ) ∧
    ((overridden 10 12 false).clear.override 10 12 = some ⟨10, 12, 350, 350, false, none⟩ ∧ Dev.clockQuarter 12 = none) ∧
    (hasSensor 36 = true ∧ hasSensor 225 = true) := by
  decide +kernel

/-! Ports, time, the Squares, the module's pins. -/

theorem witness_PortEventsComplete :
    let s := withDev fun d => { d with host := { d.host with portCfg := [(1, 2 ^ 4 + 2 ^ 15)] } }
    let two := withDev fun d => d.setReg (Reg.HIF_PORT_CFG 1) 1
    let down := withDev fun d => { d with contain := { d.contain with gatesDown := [1] } }
    let plain := withDev fun d => { d with host := { d.host with portCfg := [(1, 0)] } }
    s.clear.contain.shutdown = 0 ∧ s.clear.contain.gatesDown.contains 1 = false ∧ bits (s.clear.portConfig 1) 4 1 = 1 ∧
      bits (s.clear.portConfig 1) (8 + 7) 1 = 1 ∧ bits (two.clear.reg (Reg.HIF_PORT_CFG 1)) 0 1 = 1 ∧
      down.clear.contain.gatesDown.contains 1 = true ∧ bits (plain.clear.portConfig 1) 4 1 = 0 ∧
      bits (plain.clear.portConfig 1) (8 + 7) 1 = 0 := by decide +kernel

theorem witness_TimeEventsComplete :
    let s := withDev fun d => { d.fset (Reg.HIF_PORT_STAT 0) Fld.HIF_PORT_STAT_LINK_UP 1 with
      time := { d.time with masters := [(0, ⟨none, 6, 1, 1⟩)] } }
    let e : Dev := { s.clear with time := { s.clear.time with masters := AMap.upd s.clear.time.masters 0 fun m =>
      { m with lastSync := some s.clear.time.ns } } }
    let p := withDev fun d => { d with plan := { d.plan with timeBase := { source := 2 } } }
    let l := withDev fun d => { d with time := { d.time with lock := .locked } }
    let o := withDev fun d => d.fset Reg.TIME_CTL Fld.TIME_CTL_PPS_OUT 1
    let b := withDev fun d => { d with plan := { d.plan with windows := { slots := List.replicate 16 ⟨0, 500, 1, 0⟩ } } }
    let w := withDev fun d => { d with power := { d.power with psNext := some 4 } }
    (s.clear.forced = false ∧ s.clear.plan.timeBase.source = 0 ∧ e.chosenPort = some 0) ∧
    (p.clear.forced = false ∧ p.clear.plan.timeBase.source = 2) ∧ l.clear.time.lock = .locked ∧
    (o.clear.fbit Reg.TIME_CTL Fld.TIME_CTL_PPS_OUT = true ∧ o.clear.pins.ppsHeld = false) ∧
    (b.clear.plan.windows.slots[15]? = some ⟨0, 500, 1, 0⟩ ∧ b.clear.time.openSlots.contains 15 = false ∧
      b.clear.beat % b.clear.plan.windows.slotCycle = 0 % b.clear.plan.windows.slotCycle ∧
      0 < b.clear.plan.windows.slotCycle) ∧
    ((slotOpen 3).clear.plan.windows.slots[0]? = some ⟨0, 500, 2 ^ 3, 0⟩ ∧ (slotOpen 3).clear.time.openSlots.contains 0 = true ∧
      500 ≠ (slotOpen 3).clear.plan.windows.slotCycle) ∧ w.clear.power.psNext = some 4 ∧
    (State.reset.clear.isIdle = true ∧ State.reset.clear.apstOn = true ∧
      (AMap.look State.reset.clear.host.apst State.reset.clear.power.ps).any (fun x => decide (State.reset.clear.power.ps < x.1)) = true ∧
      (State.reset.clear.place.leases.any fun l => !l.2.borrower && l.2.tier = 0 && l.2.state ≠ .ended) = false) := by decide +kernel

theorem witness_SquareEventsComplete :
    let s := withDev fun d => { d with
      squares := { d.squares with testing := true }
      contain := { d.contain with resettingQuarters := [3], resettingBlocks := [287] } }
    let none' := withDev fun d => { d with squares := { d.squares with b := .outOfService } }
    let lost := withDev fun d => { d with squares := { d.squares with a := .outOfService, b := .outOfService },
                                          contain := { d.contain with shutdown := 6 } }
    s.clear.sqState s.clear.activeSq ≠ .outOfService ∧ s.clear.standby = some 1 ∧
      (s.clear.logFault s.clear.srcSquare 0x0606 2 0 0).standby = some 1 ∧ s.clear.contain.shutdown ≠ 6 ∧
      s.clear.squares.testing = true ∧ s.clear.contain.resettingQuarters.contains 3 = true ∧
      s.clear.contain.resettingBlocks.contains 287 = true ∧
      (none'.clear.standby = none ∧ (none'.clear.logFault none'.clear.srcSquare 0x0606 2 0 0).standby = none ∧
        (none'.clear.logFault none'.clear.srcSquare 0x0606 2 0 0).contain.shutdown ≠ 6) ∧
      (lost.clear.sqState lost.clear.activeSq = .outOfService ∧ lost.clear.contain.shutdown = 6 ∧
        (lost.clear.logFault lost.clear.srcSquare 0x0606 2 0 0).standby = none ∧
        (lost.clear.logFault lost.clear.srcSquare 0x0606 2 0 0).contain.shutdown = 6) ∧
      lost.clear.squares.testing = false ∧ lost.clear.contain.resettingQuarters.contains 3 = false ∧
      lost.clear.contain.resettingBlocks.contains 287 = false := by decide +kernel

/-- A sanitize in a phase. -/
def wiping (n : Nat) : Wipe :=
  { sanitize := true, ns := 0, action := 1, ause := false, phase := n, sprog := 0, queue := 0, cid := 0 }

theorem witness_ModuleEventsComplete :
    let m := withDev fun d => { d with pins := { d.pins with modResetLow := true, resetM := true } }
    let w := withDev fun d => { d with pins := { d.pins with modResetLow := true, resetM := true, pfWarnLow := true } }
    let n := withDev fun d => { d with pins := { d.pins with modResetLow := true } }
    let f := withDev fun d => d.modMedia fun x => { x with flushing := true }
    (State.reset.clear.pins.modResetLow = false ∧ State.reset.clear.media.flushing = false) ∧
    (f.clear.pins.modResetLow = false ∧ f.clear.media.flushing = true) ∧
    (w.clear.pins.modResetLow = true ∧ w.clear.pins.resetM = true ∧ w.clear.pins.pfWarnLow = true) ∧
    (n.clear.pins.modResetLow = true ∧ n.clear.pins.resetM = false) ∧ miAnswers w.clear = false ∧
    (∃ s : State, miAnswers s.clear = true ∧ s.clear.media.flushing = true) ∧ State.reset.clear.host.wipe = none ∧
    (m.clear.pins.modResetLow = true ∧ m.clear.pins.resetM = true ∧ m.clear.pins.pfWarnLow = false ∧ m.clear.pins.vinOut = false) ∧
    (miAnswers (session 0).clear = true ∧ (session 0).clear.media.flushing = false) ∧
    (∀ n ∈ [1, 2, 3], ∃ s : State, s.clear.host.wipe = some (wiping n) ∧ (wiping n).sanitize = true ∧ (wiping n).failed = false ∧
      (wiping n).phase = n) :=
  ⟨by decide +kernel, by decide +kernel, by decide +kernel, by decide +kernel, by decide +kernel,
    ⟨{ session 0 with dev := (session 0).dev.modMedia fun x => { x with flushing := true } }, by decide +kernel⟩, rfl,
    by decide +kernel, by decide +kernel, fun n _ =>
    ⟨withDev fun d => { d with host := { d.host with wipe := some (wiping n) } }, rfl, rfl, rfl, rfl⟩⟩

/-! Arbitration, arithmetic, lights, the queue. -/

/-- Queue 0 is urgent and queue 1 high; Gate 0 has served URGENT_RUN urgent commands in a row, Gate 1 gives way, Gate 3 too to a class
that has nothing more, a further Gate does neither. -/
def arbiters : Dev := { Dev.reset with host := { Dev.reset.host with
  qpClass := [(0, 0), (1, 1)], arb := [(0, { urgentRun := 32 }), (1, { yielding := true, burst := 1, burstClass := 1 }),
    (3, { yielding := true, burst := 1, burstClass := 2 })] } }

theorem witness_UrgentRunYieldsABurst : (∀ q ∈ [0, 1], Dev.isAdmin q = false) ∧ (∀ q ∈ [0, 1], arbiters.classOf q ≤ 3) ∧
    (∃ q ∈ [0, 1], arbiters.classOf q = 0) ∧ (∃ q ∈ [0, 1], arbiters.classOf q ≠ 0) ∧
    ((arbiters.arb 2).yielding = false ∧ (arbiters.arb 2).urgentRun < arbiters.fget Reg.HIF_ARB Fld.HIF_ARB_URGENT_RUN) ∧
    arbiters.fget Reg.HIF_ARB Fld.HIF_ARB_URGENT_RUN ≤ (arbiters.arb 0).urgentRun ∧ (arbiters.arb 0).yielding = false ∧
    ((arbiters.arb 1).yielding = true ∧ ∃ q ∈ [0, 1], arbiters.classOf q ≠ 0 ∧ arbiters.classOf q = (arbiters.arb 1).burstClass) ∧
    ((arbiters.arb 3).yielding = true ∧ (∀ q ∈ [0, 1], arbiters.classOf q ≠ 0 → arbiters.classOf q ≠ (arbiters.arb 3).burstClass) ∧
      0 < arbiters.fget Reg.HIF_ARB Fld.HIF_ARB_URGENT_RUN) := by
  decide +kernel

theorem witness_GatesServeAWaitingQueue : [4096, 1] ≠ [] ∧ (∀ q ∈ [4096, 1], arbiters.classOf q ≤ 3) ∧
    (∃ p ∈ [4096, 1], Dev.isAdmin p = true) := by decide +kernel

theorem witness_IntegerArithmeticSaturates :
    let v : VecFmt := ⟨.i8, true, .i4, false, .i8, true, .rne, false⟩
    v.a.isInt = true ∧ v.w.isInt = true ∧ v.out.isInt = true := by decide

/-- At the last light, with the greatest value. -/
theorem witness_LightsSaturateAndRelease : 65535 < 65536 ∧ 2 ^ 32 - 1 < 2 ^ 32 ∧
    0xFFFFFFFF ≤ (Dev.reset.lightSet 65535 (2 ^ 32 - 1) 0 0).lightValue 65535 + 0 := by decide +kernel

theorem witness_StepRunsFrontCommand : State.reset.pending = [] := rfl

/-- The trace does not record the event of a change of the time's lock. -/
theorem witness_EventsAreNumberedBySource : Dev.traceClass 0x60 = none := by decide

theorem witness_CrossingErrorsComplete : 3 ≤ 3 ∧ 2 < 3 ∧ 5 ≤ 5 ∧ 4 < 5 := by decide

theorem witness_RegisterFieldsHoldWhatIsWritten : Fld.LGT_CTL_OWNER.lo + Fld.LGT_CTL_OWNER.width ≤ Fld.LGT_CTL_SATURATED.lo := by
  decide

/-! The plan as shipped (R578): on a module without defects, 64 active blocks and 8 spares of each quarter. -/

theorem test_shipped_blocks : ∀ q : Fin 4, Defects.entries {} q =
    (List.range 72).map fun p => (72 * q.val + p, shippedEntry p) := by decide +kernel

/-- The cipher of namespace data (R382): the example of the cipher's standard, FIPS 197 appendix C.3. -/
theorem test_aes256 : Aes.encryptWith (Aes.roundKeys ((List.range 32).map (BitVec.ofNat 8)))
    ((List.range 16).map fun i => BitVec.ofNat 8 (17 * i)) = [0x8E, 0xA2, 0xB7, 0xCA, 0x51, 0x67, 0x45, 0xBF, 0xEA, 0xFC, 0x49,
      0x90, 0x4B, 0x49, 0x60, 0x89] := by decide +kernel

end Sys2Proof.Tests
end

section
/-! SUPPORT. Fields of a number: what a field reads as once it, or another, has been replaced. -/

namespace Sys2Proof.Machine

/-- A replaced field stands between the bits above it and the bits below it. -/
theorem setBits_eq (v lo w x : Nat) : setBits v lo w x = 2 ^ lo * (2 ^ w * (v / 2 ^ (lo + w)) + x % 2 ^ w) + v % 2 ^ lo := by
  have hv : v = 2 ^ lo * (2 ^ w * (v / 2 ^ (lo + w))) + v % 2 ^ lo + bits v lo w * 2 ^ lo := by
    have h1 := Nat.div_add_mod v (2 ^ lo)
    have h2 := Nat.div_add_mod (v / 2 ^ lo) (2 ^ w)
    rw [Nat.div_div_eq_div_mul, ← pow_add] at h2
    calc v = 2 ^ lo * (v / 2 ^ lo) + v % 2 ^ lo := h1.symm
      _ = 2 ^ lo * (2 ^ w * (v / 2 ^ (lo + w)) + bits v lo w) + v % 2 ^ lo := by rw [bits, h2]
      _ = _ := by ring
  rw [setBits]
  conv_lhs => rw [show v - bits v lo w * 2 ^ lo = 2 ^ lo * (2 ^ w * (v / 2 ^ (lo + w))) + v % 2 ^ lo by omega]
  ring

theorem testBit_bits (v lo w i : Nat) : (bits v lo w).testBit i = (decide (i < w) && v.testBit (lo + i)) := by
  simp [bits, Nat.testBit_mod_two_pow, Nat.testBit_div_two_pow, Nat.add_comm]

theorem testBit_setBits (v lo w x i : Nat) : (setBits v lo w x).testBit i =
    if lo ≤ i ∧ i < lo + w then x.testBit (i - lo) else v.testBit i := by
  rw [setBits_eq, Nat.testBit_two_pow_mul_add _ (Nat.mod_lt _ (Nat.two_pow_pos lo)),
    Nat.testBit_two_pow_mul_add _ (Nat.mod_lt _ (Nat.two_pow_pos w)), Nat.testBit_mod_two_pow, Nat.testBit_mod_two_pow,
    Nat.testBit_div_two_pow]
  by_cases h1 : i < lo
  · rw [if_pos h1, if_neg (by omega)]; simp [h1]
  · rw [if_neg h1]
    by_cases h2 : i - lo < w
    · rw [if_pos h2, if_pos (by omega)]; simp [h2]
    · rw [if_neg h2, if_neg (by omega)]; congr 1; omega

/-- A field reads as it was written. -/
@[simp] theorem bits_setBits_same (v lo w x : Nat) : bits (setBits v lo w x) lo w = x % 2 ^ w := by
  refine Nat.eq_of_testBit_eq fun i => ?_
  rw [testBit_bits, testBit_setBits, Nat.testBit_mod_two_pow]
  by_cases h : i < w <;> simp [h]


/-- A field apart from the one written reads as before. -/
theorem bits_setBits_apart {v lo w x lo' w' : Nat} (h : lo + w ≤ lo' ∨ lo' + w' ≤ lo) :
    bits (setBits v lo w x) lo' w' = bits v lo' w' := by
  refine Nat.eq_of_testBit_eq fun i => ?_
  rw [testBit_bits, testBit_bits, testBit_setBits]
  by_cases hi : i < w'
  · rw [if_neg (by omega)]
  · simp [hi]

/-- A field that holds 0 still does once a field, the same or another, is cleared. -/
theorem bits_clear_of_zero {v lo w lo' w' : Nat} (h : bits v lo' w' = 0) : bits (setBits v lo w 0) lo' w' = 0 := by
  refine Nat.eq_of_testBit_eq fun i => ?_
  have hi : (bits v lo' w').testBit i = false := by rw [h, Nat.zero_testBit]
  rw [testBit_bits] at hi
  rw [testBit_bits, testBit_setBits]
  split
  · simp
  · simpa using hi

/-- A number keeps within its width when a field within it is replaced. -/
theorem setBits_lt {v lo w x n : Nat} (hv : v < 2 ^ n) (h : lo + w ≤ n) : setBits v lo w x < 2 ^ n := by
  refine Nat.lt_pow_two_of_testBit _ fun i hi => ?_
  rw [testBit_setBits, if_neg (by omega)]
  exact Nat.testBit_lt_two_pow (Nat.lt_of_lt_of_le hv (Nat.pow_le_pow_right (by omega) hi))

/-- The bits above a number are 0. -/
theorem bits_of_lt {v lo w : Nat} (h : v < 2 ^ lo) : bits v lo w = 0 := by
  rw [bits, Nat.div_eq_of_lt h, Nat.zero_mod]

theorem bits_lt (v lo w : Nat) : bits v lo w < 2 ^ w := Nat.mod_lt _ (Nat.two_pow_pos w)

/-! The register map: no two fields of a register share a bit. -/

/-- Two fields share no bit. -/
def RField.apart (f g : RField) : Bool := decide (f.lo + f.width ≤ g.lo) || decide (g.lo + g.width ≤ f.lo)

theorem RField.apart_iff (f g : RField) : f.apart g = true ↔ f.lo + f.width ≤ g.lo ∨ g.lo + g.width ≤ f.lo := by
  simp [RField.apart]

/-- The fields of a register share no bit and lie within its width. -/
def RegRow.proper (r : RegRow) : Prop :=
  r.fields.Pairwise (fun f g => f.apart g = true) ∧ ∀ f ∈ r.fields, f.lo + f.width ≤ 8 * r.bytes

theorem regRows_proper : ∀ r ∈ regRows, r.proper := by unfold RegRow.proper; decide +kernel

/-- The row of a register, or family of registers, by its name. -/
def rowOf (n : RegName) : RegRow := (regRows.find? fun r => r.name = n).getD ⟨n, 0, [], 0, []⟩

@[simp] theorem rowOf_name (n : RegName) : (rowOf n).name = n := by
  unfold rowOf
  cases h : regRows.find? fun r => r.name = n with
  | none => rfl
  | some r => simpa using List.find?_some h

theorem rowOf_proper (n : RegName) : (rowOf n).proper := by
  unfold rowOf
  cases h : regRows.find? fun r => r.name = n with
  | none => exact ⟨.nil, by simp⟩
  | some r => exact regRows_proper r (List.mem_of_find?_eq_some h)

/-! Where a register lies. An address is looked up window by window: a window holds one unit of a family, such as a quarter or a block
of a quarter, and the rows of its registers repeat in every window of the family. -/

/-- A register row within a window: the offset of its first register, and the indices left. -/
structure RegPlace where
  row : RegRow
  base : Nat
  dims : List (Nat × Nat)

/-- The indices of an offset, if it is one of the row's. -/
def RegPlace.indexOf (p : RegPlace) (a : Nat) : Option (List Nat) := if a < p.base then none else regIndex p.dims (a - p.base)

/-- The register at an offset. -/
def findPlace (ps : List RegPlace) (a : Nat) : Option (RegRow × List Nat) :=
  ps.findSome? fun p => (p.indexOf a).map fun ix => (p.row, ix)

/-- The whole address space as one window. -/
def regPlaces : List RegPlace := regRows.map fun r => ⟨r, r.base, r.dims⟩

theorem findReg_eq_findPlace (a : Nat) : findReg a = findPlace regPlaces a := by
  rw [findReg, findPlace, regPlaces, List.findSome?_map]
  rfl

/-- A bound on the offsets that indices reach. -/
def indexSpan : List (Nat × Nat) → Nat
  | [] => 1
  | (n, s) :: t => (n - 1) * s + indexSpan t

theorem regIndex_beyond {dims : List (Nat × Nat)} {off : Nat} (h : indexSpan dims ≤ off) : regIndex dims off = none := by
  induction dims generalizing off with
  | nil => exact if_neg (by simp only [indexSpan] at h; omega)
  | cons x t ih =>
    obtain ⟨n, s⟩ := x
    rw [indexSpan] at h
    rw [regIndex]
    split
    · next hn =>
      have hd := Nat.div_add_mod off s
      have hle : s * (off / s) ≤ (n - 1) * s := by rw [Nat.mul_comm]; exact Nat.mul_le_mul_right s (by omega)
      rw [ih (by omega)]
      rfl
    · rfl

/-- A row as it stands in each of the `n` windows of `s` bytes from `w` on, when those windows repeat it. -/
def RegPlace.inner (w n s : Nat) (p : RegPlace) : Option RegPlace :=
  match p.dims with
  | x :: t => if x = (n, s) ∧ w ≤ p.base ∧ p.base - w + indexSpan t ≤ s then some ⟨p.row, p.base - w, t⟩ else none
  | [] => none

/-- A row with no register in those windows. -/
def RegPlace.outside (w n s : Nat) (p : RegPlace) : Bool := decide (p.base + indexSpan p.dims ≤ w) || decide (w + n * s ≤ p.base)

/-- Those windows repeat the row, or it has no register in them. -/
def RegPlace.fits (w n s : Nat) (p : RegPlace) : Bool := (p.inner w n s).isSome || p.outside w n s

theorem RegPlace.indexOf_outside {p : RegPlace} {w n s a : Nat} (h : p.outside w n s = true) (hw : w ≤ a)
    (ha : a < w + n * s) : p.indexOf a = none := by
  simp only [RegPlace.outside, Bool.or_eq_true, decide_eq_true_eq] at h
  unfold RegPlace.indexOf
  split
  · rfl
  · exact regIndex_beyond (by omega)

theorem RegPlace.indexOf_inner {p q : RegPlace} {w n s i o : Nat} (h : p.inner w n s = some q) (hi : i < n)
    (ho : o < s) : p.row = q.row ∧ p.indexOf (w + s * i + o) = (q.indexOf o).map (i :: ·) := by
  obtain ⟨r, b, dims⟩ := p
  cases dims with
  | nil => cases h
  | cons x t =>
    simp only [RegPlace.inner, Option.ite_none_right_eq_some, Option.some.injEq] at h
    obtain ⟨⟨rfl, hb, ht⟩, rfl⟩ := h
    obtain ⟨k, rfl⟩ := Nat.exists_eq_add_of_le hb
    refine ⟨rfl, ?_⟩
    have hspos : 0 < s := by omega
    simp only [RegPlace.indexOf, Nat.add_sub_cancel_left] at ht ⊢
    by_cases hk : o < k
    · rw [if_pos hk]
      cases i with
      | zero => rw [if_pos (by omega)]; rfl
      | succ j =>
        have he : w + s * (j + 1) + o - (w + k) = s * j + (s + o - k) := by rw [Nat.mul_succ]; omega
        have hd : (s * j + (s + o - k)) / s = j := by
          rw [Nat.mul_add_div hspos, Nat.div_eq_of_lt (by omega), Nat.add_zero]
        have hm : (s * j + (s + o - k)) % s = s + o - k := by rw [Nat.mul_add_mod, Nat.mod_eq_of_lt (by omega)]
        rw [if_neg (by rw [Nat.mul_succ]; omega), he, regIndex, hd, hm, if_pos (by omega),
          regIndex_beyond (by omega)]
        rfl
    · have he : w + s * i + o - (w + k) = s * i + (o - k) := by omega
      have hd : (s * i + (o - k)) / s = i := by
        rw [Nat.mul_add_div hspos, Nat.div_eq_of_lt (by omega), Nat.add_zero]
      have hm : (s * i + (o - k)) % s = o - k := by rw [Nat.mul_add_mod, Nat.mod_eq_of_lt (by omega)]
      rw [if_neg hk, if_neg (by omega), he, regIndex, hd, hm, if_pos hi]

/-- A look-up within a window: among the rows that the windows repeat, at the offset in the window. -/
theorem findPlace_window {ps : List RegPlace} {w n s i o : Nat} (hi : i < n) (ho : o < s) (h : ps.all (RegPlace.fits w n s) = true) :
    findPlace ps (w + s * i + o) = (findPlace (ps.filterMap (RegPlace.inner w n s)) o).map fun x => (x.1, i :: x.2) := by
  have hin : w + s * i + o < w + n * s := by
    have : s * i + s ≤ s * n := by rw [← Nat.mul_succ]; exact Nat.mul_le_mul_left s hi
    rw [Nat.mul_comm n s]
    omega
  induction ps with
  | nil => rfl
  | cons p t ih =>
    simp only [List.all_cons, Bool.and_eq_true, RegPlace.fits, Bool.or_eq_true] at h
    obtain ⟨hp, ht⟩ := h
    have ih := ih ht
    unfold findPlace at ih ⊢
    rw [List.findSome?_cons]
    cases hq : p.inner w n s with
    | none =>
      rw [List.filterMap_cons_none hq, RegPlace.indexOf_outside (hp.resolve_left (by simp [hq])) (by omega) hin, ← ih]
      rfl
    | some q =>
      obtain ⟨hr, hx⟩ := RegPlace.indexOf_inner hq hi ho
      rw [List.filterMap_cons_some hq, List.findSome?_cons, hx, hr, ih]
      cases q.indexOf o <;> rfl

/-- The rows of a quarter, and in it of a block and of a Kerb. -/
def quarterPlaces : List RegPlace := regPlaces.filterMap (RegPlace.inner 0x1000000 4 0x1000000)
def blockPlaces : List RegPlace := quarterPlaces.filterMap (RegPlace.inner 0x100000 72 0x20000)
def kerbPlaces : List RegPlace := quarterPlaces.filterMap (RegPlace.inner 0xC00000 12 0x10000)

theorem findReg_quarter {q o : Nat} (hq : q < 4) (ho : o < 0x1000000) :
    findReg (0x1000000 + 0x1000000 * q + o) = (findPlace quarterPlaces o).map fun x => (x.1, q :: x.2) := by
  rw [findReg_eq_findPlace]
  exact findPlace_window hq ho (by decide +kernel)

theorem findReg_block {a b o : Nat} {r : RegRow} {ix : List Nat} (hb : b < 288) (ho : o < 0x20000)
    (ha : a = 0x1100000 + 0x1000000 * (b / 72) + 0x20000 * (b % 72) + o) (hr : findPlace blockPlaces o = some (r, ix)) :
    findReg a = some (r, b / 72 :: b % 72 :: ix) := by
  have h := findPlace_window (ps := quarterPlaces) (w := 0x100000) (Nat.mod_lt b (by decide : 0 < 72)) ho (by decide +kernel)
  rw [show a = 0x1000000 + 0x1000000 * (b / 72) + (0x100000 + 0x20000 * (b % 72) + o) by omega,
    findReg_quarter (by omega) (by omega), h, ← blockPlaces, hr]
  rfl

theorem findReg_kerb {a k o : Nat} {r : RegRow} {ix : List Nat} (hk : k < 48) (ho : o < 0x10000)
    (ha : a = 0x1C00000 + 0x1000000 * (k / 12) + 0x10000 * (k % 12) + o) (hr : findPlace kerbPlaces o = some (r, ix)) :
    findReg a = some (r, k / 12 :: k % 12 :: ix) := by
  have h := findPlace_window (ps := quarterPlaces) (w := 0xC00000) (Nat.mod_lt k (by decide : 0 < 12)) ho (by decide +kernel)
  rw [show a = 0x1000000 + 0x1000000 * (k / 12) + (0xC00000 + 0x10000 * (k % 12) + o) by omega,
    findReg_quarter (by omega) (by omega), h, ← kerbPlaces, hr]
  rfl

/-- A family of one index in `n` windows of `s` bytes. -/
theorem findReg_family {w n s a i o : Nat} {r : RegRow} {ix : List Nat} (hi : i < n) (ho : o < s) (ha : a = w + s * i + o)
    (hfit : regPlaces.all (RegPlace.fits w n s) = true)
    (hr : findPlace (regPlaces.filterMap (RegPlace.inner w n s)) o = some (r, ix)) : findReg a = some (r, i :: ix) := by
  rw [ha, findReg_eq_findPlace, findPlace_window hi ho hfit, hr]
  rfl

/-! The registers that the operations of this family reach. -/

theorem findReg_blkCtl {b : Nat} (hb : b < 288) : findReg (Reg.BLK_CTL b) = some (rowOf .BLK_CTL, [b / 72, b % 72]) :=
  findReg_block (o := 8) hb (by decide) (by unfold Reg.BLK_CTL; omega) (by decide +kernel)

theorem findReg_cellInject {b c : Nat} (hb : b < 288) (hc : c < 4) :
    findReg (Reg.CELL_INJECT b c) = some (rowOf .CELL_INJECT, [b / 72, b % 72, c]) := by
  have h : ∀ c, c < 4 → findPlace blockPlaces (0x10014 + 0x4000 * c) = some (rowOf .CELL_INJECT, [c]) := by decide +kernel
  exact findReg_block hb (by omega) (by unfold Reg.CELL_INJECT; omega) (h c hc)

theorem findReg_blkBmwin {b x : Nat} (hb : b < 288) (hx : x < 16) :
    findReg (Reg.BLK_BMWIN b x) = some (rowOf .BLK_BMWIN, [b / 72, b % 72, x]) := by
  have h : ∀ x, x < 16 → findPlace blockPlaces (0x40 + 0x4 * x) = some (rowOf .BLK_BMWIN, [x]) := by decide +kernel
  exact findReg_block hb (by omega) (by unfold Reg.BLK_BMWIN; omega) (h x hx)

theorem findReg_kerbCtl {k : Nat} (hk : k < 48) : findReg (Reg.KERB_CTL k) = some (rowOf .KERB_CTL, [k / 12, k % 12]) :=
  findReg_kerb (o := 8) hk (by decide) (by unfold Reg.KERB_CTL; omega) (by decide +kernel)

theorem findReg_lgtValue {l : Nat} (hl : l < 65536) : findReg (Reg.LGT_VALUE l) = some (rowOf .LGT_VALUE, [l]) :=
  findReg_family (o := 0) hl (by decide) rfl (by decide +kernel) (by decide +kernel)

theorem findReg_lgtAdd {l : Nat} (hl : l < 65536) : findReg (Reg.LGT_ADD l) = some (rowOf .LGT_ADD, [l]) :=
  findReg_family (w := 0x8000000) (s := 0x10) (o := 4) hl (by decide) (by unfold Reg.LGT_ADD; omega) (by decide +kernel) (by decide +kernel)

theorem findReg_lgtCtl {l : Nat} (hl : l < 65536) : findReg (Reg.LGT_CTL l) = some (rowOf .LGT_CTL, [l]) :=
  findReg_family (w := 0x8000000) (s := 0x10) (o := 8) hl (by decide) (by unfold Reg.LGT_CTL; omega) (by decide +kernel) (by decide +kernel)

theorem findReg_cntFmtFlags {x : Nat} (hx : x < 16) : findReg (Reg.CNT_FMT_FLAGS x) = some (rowOf .CNT_FMT_FLAGS, [x]) :=
  findReg_family (o := 0) hx (by decide) rfl (by decide +kernel) (by decide +kernel)

theorem findReg_pwrRail {i : Nat} (hi : i < 14) : findReg (Reg.PWR_RAIL i) = some (rowOf .PWR_RAIL, [i]) :=
  findReg_family (o := 0) hi (by decide) rfl (by decide +kernel) (by decide +kernel)

/-- The first sixteen sensors have no register. -/
theorem findReg_pwrTemp {i : Nat} (h16 : 16 ≤ i) (hi : i < 226) : findReg (Reg.PWR_TEMP i) = some (rowOf .PWR_TEMP, [i - 16]) :=
  findReg_family (w := 0x11080) (n := 210) (s := 8) (o := 0) (by omega) (by decide) (by unfold Reg.PWR_TEMP; omega) (by decide +kernel)
    (by decide +kernel)

theorem findReg_planCtl : findReg Reg.PLAN_CTL = some (rowOf .PLAN_CTL, []) := by decide +kernel
theorem findReg_planErr : findReg Reg.PLAN_ERR = some (rowOf .PLAN_ERR, []) := by decide +kernel
theorem findReg_ftlCtl : findReg Reg.FTL_CTL = some (rowOf .FTL_CTL, []) := by decide +kernel
theorem findReg_hifCtl : findReg Reg.HIF_CTL = some (rowOf .HIF_CTL, []) := by decide +kernel
theorem findReg_pwrCtl : findReg Reg.PWR_CTL = some (rowOf .PWR_CTL, []) := by decide +kernel
theorem findReg_secCtl : findReg Reg.SEC_CTL = some (rowOf .SEC_CTL, []) := by decide +kernel
theorem findReg_devCtl : findReg Reg.DEV_CTL = some (rowOf .DEV_CTL, []) := by decide +kernel
theorem findReg_devReset : findReg Reg.DEV_RESET = some (rowOf .DEV_RESET, []) := by decide +kernel
theorem findReg_timeCtl : findReg Reg.TIME_CTL = some (rowOf .TIME_CTL, []) := by decide +kernel
theorem findReg_timeSet : findReg Reg.TIME_SET = some (rowOf .TIME_SET, []) := by decide +kernel
theorem findReg_trcCtl : findReg Reg.TRC_CTL = some (rowOf .TRC_CTL, []) := by decide +kernel

end Sys2Proof.Machine
end

section
/-! SUPPORT. What a register access does once it is admitted: which fields a write changes, what a read returns and clears, and how the
monitor's requests reach them. -/

namespace Sys2Proof.Machine

/-! The fields that a write changes. -/

/-- The register has a field with this place and access code. -/
def RegRow.has (r : RegRow) (f : Fld) (c : Acc) : Bool := r.fields.any fun g => g.lo = f.lo && g.width = f.width && g.acc = c

theorem RegRow.has_iff {r : RegRow} {f : Fld} {c : Acc} :
    r.has f c = true ↔ ∃ g ∈ r.fields, g.lo = f.lo ∧ g.width = f.width ∧ g.acc = c := by
  simp [RegRow.has, and_assoc]

/-- A field of a register takes what a write of `v` gives it (R6). -/
def writeField (v w : Nat) (f : RField) : Nat :=
  match f.acc with
  | .rw => setBits w f.lo f.width (bits v f.lo f.width)
  | .w1c => setBits w f.lo f.width (bits w f.lo f.width - (bits w f.lo f.width).land (bits v f.lo f.width))
  | _ => w

/-- What the field then reads as: `w` is what it held. -/
def RField.written (f : RField) (v w : Nat) : Nat :=
  match f.acc with
  | .rw => bits v f.lo f.width
  | .w1c => w - w.land (bits v f.lo f.width)
  | _ => w

theorem storeFields_eq (r : RegRow) (old v : Nat) : Dev.storeFields r old v = r.fields.foldl (writeField v) old := rfl

theorem bits_writeField_self (v w : Nat) (f : RField) :
    bits (writeField v w f) f.lo f.width = f.written v (bits w f.lo f.width) := by
  unfold writeField RField.written
  split
  · rw [bits_setBits_same, Nat.mod_eq_of_lt (bits_lt _ _ _)]
  · rw [bits_setBits_same, Nat.mod_eq_of_lt (Nat.lt_of_le_of_lt (Nat.sub_le _ _) (bits_lt _ _ _))]
  · rfl

theorem bits_writeField_apart (v w : Nat) {f g : RField} (h : f.apart g = true) :
    bits (writeField v w f) g.lo g.width = bits w g.lo g.width := by
  unfold writeField
  split
  · exact bits_setBits_apart ((f.apart_iff g).1 h)
  · exact bits_setBits_apart ((f.apart_iff g).1 h)
  · rfl

theorem bits_foldl_writeField_apart (v : Nat) {fs : List RField} {g : RField} (w : Nat) (h : ∀ f ∈ fs, f.apart g = true) :
    bits (fs.foldl (writeField v) w) g.lo g.width = bits w g.lo g.width := by
  induction fs generalizing w with
  | nil => rfl
  | cons f t ih =>
    rw [List.foldl_cons, ih _ fun x hx => h x (List.mem_cons_of_mem _ hx), bits_writeField_apart v w (h f (by simp))]

theorem RField.apart_symm {f g : RField} (h : f.apart g = true) : g.apart f = true :=
  (g.apart_iff f).2 ((f.apart_iff g).1 h).symm

theorem bits_foldl_writeField (v : Nat) {fs : List RField} {g : RField} (w : Nat) (hp : fs.Pairwise fun f g => f.apart g = true)
    (hg : g ∈ fs) : bits (fs.foldl (writeField v) w) g.lo g.width = g.written v (bits w g.lo g.width) := by
  induction fs generalizing w with
  | nil => cases hg
  | cons f t ih =>
    obtain ⟨hf, ht⟩ := List.pairwise_cons.1 hp
    rw [List.foldl_cons]
    rcases List.mem_cons.1 hg with rfl | hm
    · rw [bits_foldl_writeField_apart v _ fun x hx => RField.apart_symm (hf x hx), bits_writeField_self]
    · rw [ih _ ht hm, bits_writeField_apart v w (hf g hm)]

/-- Each field of a register reads after a write as its access code says. -/
theorem bits_storeFields {r : RegRow} (hr : r.proper) {g : RField} (hg : g ∈ r.fields) (old v : Nat) :
    bits (Dev.storeFields r old v) g.lo g.width = g.written v (bits old g.lo g.width) :=
  storeFields_eq r old v ▸ bits_foldl_writeField v old hr.1 hg

namespace Dev

@[simp] theorem reg_storeReg (d : Dev) (r : RegRow) (a v : Nat) : (d.storeReg r a v).reg a = storeFields r (d.reg a) v :=
  d.reg_setReg a _

/-- An RW field takes the value written. -/
theorem bits_storeFields_rw {r : RegRow} (hr : r.proper) {f : Fld} (hf : r.has f .rw = true) (old v : Nat) :
    bits (storeFields r old v) f.lo f.width = bits v f.lo f.width := by
  obtain ⟨g, hg, hlo, hw, hc⟩ := RegRow.has_iff.1 hf
  rw [← hlo, ← hw, bits_storeFields hr hg, RField.written, hc]

/-- A 1 clears a W1C bit. -/
theorem bits_storeFields_w1c {r : RegRow} (hr : r.proper) {f : Fld} (hf : r.has f .w1c = true) (old v : Nat)
    (hv : bits v f.lo f.width = 2 ^ f.width - 1) : bits (storeFields r old v) f.lo f.width = 0 := by
  obtain ⟨g, hg, hlo, hw, hc⟩ := RegRow.has_iff.1 hf
  rw [← hlo, ← hw, bits_storeFields hr hg, RField.written, hc]
  dsimp only
  rw [hlo, hw, hv]
  change _ - (_ &&& _) = 0
  rw [Nat.and_two_pow_sub_one_eq_mod, Nat.mod_eq_of_lt (bits_lt _ _ _), Nat.sub_self]

end Dev

/-! What a read clears. -/

/-- A field takes what a read leaves in it (R6). -/
def clearField (v : Nat) (f : RField) : Nat := if f.acc = .rc then setBits v f.lo f.width 0 else v

theorem bits_clearField_of_zero {v lo w : Nat} (f : RField) (h : bits v lo w = 0) : bits (clearField v f) lo w = 0 := by
  unfold clearField
  split
  · exact bits_clear_of_zero h
  · exact h

theorem bits_foldl_clearField {fs : List RField} {g : RField} (v : Nat)
    (h : bits v g.lo g.width = 0 ∨ g ∈ fs ∧ g.acc = .rc) : bits (fs.foldl clearField v) g.lo g.width = 0 := by
  induction fs generalizing v with
  | nil => exact h.resolve_right fun h => by cases h.1
  | cons f t ih =>
    refine ih _ ?_
    rcases h with h | ⟨hm, hc⟩
    · exact .inl (bits_clearField_of_zero f h)
    · rcases List.mem_cons.1 hm with rfl | hm
      · exact .inl (by rw [clearField, if_pos hc, bits_setBits_same, Nat.zero_mod])
      · exact .inr ⟨hm, hc⟩

/-- A read leaves 0 in every RC field. -/
theorem Dev.clearRc_readClear (d : Dev) {a : Nat} {r : RegRow} {ix : List Nat} (h : findReg a = some (r, ix)) :
    ReadClear (d.clearRc r a) a := by
  intro r' ix' h' f hf hc
  obtain ⟨rfl, rfl⟩ : r = r' ∧ ix = ix' := by simpa [h] using h'
  have hany : (r.fields.any fun f => f.acc = .rc) = true := List.any_eq_true.2 ⟨f, hf, by simp [hc]⟩
  rw [Dev.clearRc, if_pos hany, Dev.reg_setReg]
  exact bits_foldl_clearField _ (.inr ⟨hf, hc⟩)

/-- Clearing fields sends nothing. -/
theorem Dev.clearRc_out (d : Dev) (r : RegRow) (a : Nat) : (d.clearRc r a).out = d.out := by
  unfold Dev.clearRc
  split <;> rfl

/-! The requests of the monitor. -/

/-- A request that is served does its work, on the module as the request finds it. -/
theorem Dev.request_served {d : Dev} {seq level : Nat} {rom : Bool} (h : Serves d seq level rom) (type : Nat) (f : Dev → Dev) :
    d.request type seq level rom f = f d.heard := by
  obtain ⟨hup, hfree, hnew, hrom, hlock, hlevel⟩ := h
  have hr : ¬ (d.heard.romRecovery && !rom) = true := by
    simp only [Bool.and_eq_true, Bool.not_eq_true', not_and, Bool.not_eq_false]
    exact hrom
  have hl : ¬ (decide (0 < level) && d.heard.monitorLocked) = true := by
    simp only [Bool.and_eq_true, decide_eq_true_eq, not_and, Bool.not_eq_true]
    exact hlock
  have hv : ¬ d.heard.sec.level < level := Nat.not_lt.2 hlevel
  unfold Dev.request
  rw [hup, hfree, if_neg (by decide)]
  dsimp only
  split
  · next n frame h1 h2 =>
    have hn : n ≠ seq := by
      rcases hnew with h | h
      · exact absurd (h.symm.trans h2) nofun
      · rintro rfl; exact h h1
    exact (if_neg hn).trans ((if_neg hr).trans ((if_neg hl).trans (if_neg hv)))
  · exact (if_neg hr).trans ((if_neg hl).trans (if_neg hv))

/-- The rows of the register operations are the accesses that they stand for. -/
theorem registerRow_write {d : Dev} {c : Instr} {seq a n v : Nat} (h : accessOf d c = some (.monitor seq, .write a n v)) :
    registerRow d c = d.request 0x11 seq 1 false fun d => d.answerWrite seq a n v := by
  unfold registerRow
  rw [h]

theorem registerRow_read {d : Dev} {c : Instr} {seq a n k : Nat} (h : accessOf d c = some (.monitor seq, .read a n k)) :
    registerRow d c = d.request 0x10 seq 0 false fun d => d.answerRead seq a k n false := by
  unfold registerRow
  rw [h]

/-- A command whose meaning is an effect on the module completes with what the effect makes of it. -/
theorem Completes.of_effect {c : Instr} {s : State} {f : Dev → Dev} {e : Dev} (hc : exec c s = effect f s) (h : f s.clear = e) :
    Completes c s e := by
  subst h
  exact hc

/-! Admitted accesses. -/

/-- A register of no quarter, or of one that is not quarantined, is there for an access of its width (R32, R33). -/
theorem Dev.regAt_ok {d : Dev} {a n : Nat} {r : RegRow} {ix : List Nat} (hf : findReg a = some (r, ix)) (hn : r.bytes = n)
    (hq : Dev.inQuarter r.name = false ∨ ∃ q t, ix = q :: t ∧ d.quarantined q = false) : d.regAt a n = .ok (r, ix) := by
  unfold Dev.regAt
  rw [hf]
  rcases hq with hq | ⟨q, t, rfl, hq⟩ <;> simp [hn, hq]

/-- The monitor reads one register. -/
theorem Dev.answerRead_one {d : Dev} {a n : Nat} {r : RegRow} {ix : List Nat} (seq : Nat) (hf : findReg a = some (r, ix))
    (hn : n = 4 ∨ n = 8) (hr : d.regAt a n = .ok (r, ix)) :
    d.answerRead seq a 1 n false = (d.clearRc r a).reply 0x10 seq monOk (toLE n (d.peek r ix a)) := by
  have h : d.readRegs .monitor a n 1 false = .ok ([d.peek r ix a], d.clearRc r a) := by
    simp [Dev.readRegs, hr, hf, Dev.mayRead]
  have hg : (decide (1 = 0) || decide (8192 < 1) || !(decide (n = 4) || decide (n = 8))) = false := by
    rcases hn with rfl | rfl <;> rfl
  unfold Dev.answerRead
  rw [hg, h]
  simp

/-- A register that the rest of the state does not show through, read by the monitor: its value is the answer, and its RC fields are
cleared. -/
theorem monitorRead_completes {s : State} {c : Instr} {seq a n : Nat} {nm : RegName} {ix : List Nat} (hs : Serves s.clear seq 0 false)
    (hf : findReg a = some (rowOf nm, ix)) (hb : (rowOf nm).bytes = n) (hn : n = 4 ∨ n = 8) (hq : Dev.inQuarter nm = false)
    (hshow : ∀ (d : Dev) v, d.showReg (rowOf nm) ix v = v) (hc : exec c s = effect (fun d => registerRow d c) s)
    (ha : accessOf s.clear c = some (.monitor seq, .read a n 1)) :
    ∃ e, Completes c s e ∧ ReadClear e a ∧ e.out = [.frame 0x90 seq monOk (toLE n (s.clear.look a))] := by
  have hr : s.clear.heard.regAt a n = .ok (rowOf nm, ix) := Dev.regAt_ok hf hb (.inl (by rw [rowOf_name]; exact hq))
  have hpeek : s.clear.heard.peek (rowOf nm) ix a = s.clear.look a := by
    rw [Dev.look, hf]
    dsimp only
    rw [Dev.peek, Dev.peek, hshow, hshow]
    rfl
  have hrow := (registerRow_read ha).trans ((Dev.request_served hs _ _).trans (Dev.answerRead_one seq hf hn hr))
  refine ⟨_, Completes.of_effect hc hrow, ?_, ?_⟩
  · exact Dev.clearRc_readClear s.clear.heard hf
  · change ((s.clear.heard.clearRc (rowOf nm) a).out ++ _) = _
    rw [Dev.clearRc_out, hpeek]
    rfl

end Sys2Proof.Machine
end

section
/-! SUPPORT. What the monitor's register writes do: which values a register may take, and the effect of a write register by register. -/

namespace Sys2Proof.Machine

/-! The values that may be written. -/

/-- The reserved fields of a register: low bit and width. -/
def RegRow.reserved (r : RegRow) : List (Nat × Nat) := (r.fields.filter fun f => f.acc = .rsv).map fun f => (f.lo, f.width)

/-- A value fits a register and leaves its reserved fields 0 (R3). -/
def RegRow.allows (r : RegRow) (v : Nat) : Prop := v < 2 ^ (8 * r.bytes) ∧ ∀ p ∈ r.reserved, bits v p.1 p.2 = 0

/-- The monitor's write of an allowed value has the effect of its register. -/
theorem Dev.writeReg_monitor {d : Dev} {a n v : Nat} {r : RegRow} {ix : List Nat} (hr : d.regAt a n = .ok (r, ix)) (hn : r.bytes = n)
    (hv : r.allows v) : d.writeReg .monitor a n v = d.writeEffect .monitor r ix a v := by
  obtain ⟨hlt, hrsv⟩ := hv
  have hany : (r.fields.any fun f => f.acc = .rsv && bits v f.lo f.width ≠ 0) = false := by
    refine List.any_eq_false.2 fun f hf => ?_
    by_cases hc : f.acc = .rsv
    · have := hrsv (f.lo, f.width) (List.mem_map.2 ⟨f, List.mem_filter.2 ⟨hf, by simpa using hc⟩, rfl⟩)
      simp [this]
    · simp [hc]
  unfold Dev.writeReg
  rw [hr]
  dsimp only
  rw [hany, Dev.mayWrite, decide_eq_true (hn ▸ hlt)]
  rfl

/-- The write of a register operation, when its value is allowed and its effect is not refused, completes with its answer. -/
theorem monitorWrite_completes {s : State} {c : Instr} {seq a n v : Nat} {nm : RegName} {ix : List Nat} {x : Dev}
    (hs : Serves s.clear seq 1 false) (hf : findReg a = some (rowOf nm, ix)) (hb : (rowOf nm).bytes = n)
    (hq : Dev.inQuarter nm = false ∨ ∃ q t, ix = q :: t ∧ s.clear.quarantined q = false) (hv : (rowOf nm).allows v)
    (hc : exec c s = effect (fun d => registerRow d c) s) (ha : accessOf s.clear c = some (.monitor seq, .write a n v))
    (hx : s.clear.heard.writeEffect .monitor (rowOf nm) ix a v = .ok x) : Completes c s (answered s.clear.heard x seq) := by
  have hr : s.clear.heard.regAt a n = .ok (rowOf nm, ix) := Dev.regAt_ok hf hb (by rw [rowOf_name]; exact hq)
  have hw := (Dev.writeReg_monitor hr hb hv).trans hx
  refine Completes.of_effect hc ((registerRow_write ha).trans ((Dev.request_served hs _ _).trans ?_))
  unfold Dev.answerWrite
  rw [hw]
  rfl

/-! The answer changes no register, field or memory. -/

@[simp] theorem answered_reg (d x : Dev) (seq a : Nat) : (answered d x seq).reg a = x.reg a := by unfold answered; split <;> rfl

@[simp] theorem answered_fget (d x : Dev) (seq a : Nat) (f : Fld) : (answered d x seq).fget a f = x.fget a f := by
  rw [Dev.fget, answered_reg, Dev.fget]

@[simp] theorem answered_mems (d x : Dev) (seq : Nat) : (answered d x seq).mems = x.mems := by unfold answered; split <;> rfl

@[simp] theorem answered_fbit (d x : Dev) (seq a : Nat) (f : Fld) : (answered d x seq).fbit a f = x.fbit a f := by
  rw [Dev.fbit, answered_fget, Dev.fbit]

/-- An RW field of a register that was written takes the value written. -/
theorem Dev.fget_of_stored {e : Dev} {a old v : Nat} {nm : RegName} {f : Fld} (he : e.reg a = Dev.storeFields (rowOf nm) old v)
    (hf : (rowOf nm).has f .rw = true) : e.fget a f = bits v f.lo f.width := by
  rw [Dev.fget, he, Dev.bits_storeFields_rw (rowOf_proper nm) hf]

theorem Dev.fbit_of_stored {e : Dev} {a old v : Nat} {nm : RegName} {f : Fld} (he : e.reg a = Dev.storeFields (rowOf nm) old v)
    (hf : (rowOf nm).has f .rw = true) : e.fbit a f = decide (bits v f.lo f.width = 1) := by
  rw [Dev.fbit, Dev.fget_of_stored he hf]

/-! One field replaced. -/

theorem RegRow.mem_reserved {r : RegRow} {p : Nat × Nat} (h : p ∈ r.reserved) :
    ∃ g ∈ r.fields, g.acc = .rsv ∧ (g.lo, g.width) = p := by
  obtain ⟨g, hg, he⟩ := List.mem_map.1 h
  obtain ⟨hm, hc⟩ := List.mem_filter.1 hg
  exact ⟨g, hm, by simpa using hc, he⟩

/-- Fields of different access codes share no bit. -/
theorem RegRow.proper.apart_of_acc {r : RegRow} (hr : r.proper) {f g : RField} (hf : f ∈ r.fields) (hg : g ∈ r.fields)
    (h : f.acc ≠ g.acc) : f.lo + f.width ≤ g.lo ∨ g.lo + g.width ≤ f.lo :=
  have : Std.Symm fun f g : RField => f.apart g = true := ⟨fun _ _ => RField.apart_symm⟩
  (f.apart_iff g).1 (hr.1.forall hf hg fun e => h (e ▸ rfl))

/-- A field other than RW of a tidy register holds 0. -/
theorem Tidy.fget_eq_zero {d : Dev} {a : Nat} {r : RegRow} {ix : List Nat} (h : Tidy d a) (hf : findReg a = some (r, ix)) {f : Fld}
    {c : Acc} (hc : r.has f c = true) (hne : c ≠ .rw) : d.fget a f = 0 := by
  obtain ⟨g, hg, hlo, hw, rfl⟩ := RegRow.has_iff.1 hc
  rw [Dev.fget, ← hlo, ← hw]
  exact (h r ix hf).2 g hg hne

/-- A tidy register with a field replaced is an allowed value. -/
theorem Tidy.allows_withField {d : Dev} {a : Nat} {nm : RegName} {ix : List Nat} (h : Tidy d a) (hf : findReg a = some (rowOf nm, ix))
    {f : Fld} {c : Acc} (hc : (rowOf nm).has f c = true) (hne : c ≠ .rsv) (x : Nat) : (rowOf nm).allows (withField d a f x) := by
  obtain ⟨g, hg, hlo, hw, rfl⟩ := RegRow.has_iff.1 hc
  obtain ⟨hlt, hzero⟩ := h _ _ hf
  refine ⟨setBits_lt hlt (by rw [← hlo, ← hw]; exact (rowOf_proper nm).2 g hg), fun p hp => ?_⟩
  obtain ⟨k, hk, hkc, rfl⟩ := RegRow.mem_reserved hp
  rw [withField, ← hlo, ← hw, bits_setBits_apart ((rowOf_proper nm).apart_of_acc hg hk (by rw [hkc]; exact hne))]
  exact hzero k hk (by rw [hkc]; decide)

theorem bits_withField_same (d : Dev) (a : Nat) (f : Fld) (x : Nat) : bits (withField d a f x) f.lo f.width = x % 2 ^ f.width :=
  bits_setBits_same _ _ _ _

theorem bits_withField_apart {d : Dev} {a : Nat} {f g : Fld} {x : Nat} (h : f.lo + f.width ≤ g.lo ∨ g.lo + g.width ≤ f.lo) :
    bits (withField d a f x) g.lo g.width = d.fget a g := bits_setBits_apart h

/-- Into a field that holds 0 a value is added. -/
theorem withField_of_zero {d : Dev} {a : Nat} {f : Fld} {x : Nat} (h : d.fget a f = 0) (hx : x < 2 ^ f.width) :
    withField d a f x = d.reg a + x * 2 ^ f.lo := by
  rw [Dev.fget] at h
  rw [withField, setBits, h, Nat.mod_eq_of_lt hx, Nat.zero_mul, Nat.sub_zero]

theorem Dev.fbit_eq_false {d : Dev} {a : Nat} {f : Fld} : d.fbit a f = false ↔ d.fget a f ≠ 1 := by simp [Dev.fbit]

/-! The effects of the writes. -/

namespace Dev

/-- A mask of one bit abandons one slot. -/
theorem abandonAll_single (d : Dev) {i : Nat} (hi : i < 4) : d.abandonAll (2 ^ i) = d.abandon i 0x11 := by
  have h : ∀ i, i < 4 → ((List.range 4).filter fun j => bits (2 ^ i) j 1 = 1) = [i] := by decide
  rw [abandonAll, h i hi]
  rfl

/-- In self-test a cell that is not fenced takes the injection. -/
theorem writeInject_testing {d : Dev} {b c v : Nat} (r : RegRow) (a : Nat) (hv : bits v 0 3 ≠ 7) (ha : bits v 3 1 = 1)
    (ht : d.blockTesting b = true) (hf : ∀ x, (d.block b).cells[c]? = some x → x.fenced = false) :
    d.writeInject b c r a v = .ok (d.storeReg r a v) := by
  have hbad : ¬ (decide (bits v 0 3 = 7) || decide (bits v 3 1 = 0) && decide (bits v 0 3 ≠ 0)) = true := by simp [hv, ha]
  unfold writeInject
  rw [if_neg hbad, if_pos ht]
  cases hx : (d.block b).cells[c]? with
  | none => rfl
  | some x => exact if_neg (by simp [hf x hx])

/-- In self-test a write of BLK_CTL that clears no counters is stored. -/
theorem writeBlkCtl_testing {d : Dev} {b v : Nat} (r : RegRow) (a : Nat) (hv : bits v 0 1 = 0) (ht : d.blockTesting b = true) :
    d.writeBlkCtl b r a v = .ok (d.storeReg r a v) := by
  unfold writeBlkCtl
  rw [if_pos ht]
  dsimp only
  rw [if_pos hv]

/-- A write of BLK_CTL that clears the counters and asks for no injection. -/
theorem writeBlkCtl_clear {d : Dev} {b v : Nat} (r : RegRow) (h0 : bits v 0 1 = 1) (h1 : bits v 1 1 ≠ 1) :
    ∃ e, d.writeBlkCtl b r (Reg.BLK_CTL b) v = .ok e ∧ e.reg (Reg.BLK_CMDS b) = 0 ∧ e.reg (Reg.BLK_DMA_BYTES b) = 0 ∧
      e.reg (Reg.BLK_ECC b) = 0 := by
  have hcmds : Reg.BLK_CMDS b ≠ Reg.BLK_ECC b ∧ Reg.BLK_CMDS b ≠ Reg.BLK_DMA_BYTES b ∧ Reg.BLK_CMDS b ≠ Reg.BLK_CTL b := by
    unfold Reg.BLK_CMDS Reg.BLK_ECC Reg.BLK_DMA_BYTES Reg.BLK_CTL; omega
  have hdma : Reg.BLK_DMA_BYTES b ≠ Reg.BLK_ECC b ∧ Reg.BLK_DMA_BYTES b ≠ Reg.BLK_CTL b := by
    unfold Reg.BLK_ECC Reg.BLK_DMA_BYTES Reg.BLK_CTL; omega
  have hecc : Reg.BLK_ECC b ≠ Reg.BLK_CTL b := by unfold Reg.BLK_ECC Reg.BLK_CTL; omega
  have hn : ¬ bits v 0 1 = 0 := by omega
  have hok : ¬ (decide (bits v 1 1 = 1) && (d.logicalOf b).isSome) = true := by simp [h1]
  unfold writeBlkCtl
  dsimp only
  rw [if_neg hn, if_neg hok]
  split
  · refine ⟨_, rfl, ?_⟩
    simp [storeReg, reg_setReg_ne, hcmds, hdma, hecc]
  · refine ⟨_, rfl, ?_⟩
    simp [reg_setReg_ne, hcmds, hdma]

/-- A write of KERB_CTL that arms an injection in self-test and asks for nothing else. -/
theorem writeKerbCtl_inject {d : Dev} {k : Nat} (r : RegRow) (a : Nat) (ht : d.kerbTesting k = true) :
    d.writeKerbCtl k r a 8 = .ok (d.storeReg r a 8) := by
  unfold writeKerbCtl
  rw [ht]
  rfl

/-- What KERB_CTL's write-only bits ask for (R237, R234): to clear the counters, to drop the cache, and to reset the Kerb. -/
def kerbActions (d : Dev) (k v : Nat) : Dev :=
  let d := if bits v 0 1 = 1 then d.clearKerbCounters k else d
  let d := if bits v 1 1 = 1 then d.dropCache k else d
  if bits v 2 1 = 0 then d else if d.kerbTesting k then d.mergeReset 'K' k else d.kerbReset k

/-- A write of KERB_CTL without an injection does what its write-only bits ask for. -/
theorem writeKerbCtl_ok {d : Dev} {k v : Nat} (r : RegRow) (a : Nat) (hv : bits v 3 1 ≠ 1) :
    d.writeKerbCtl k r a v = .ok ((d.storeReg r a v).kerbActions k v) := by
  unfold writeKerbCtl
  rw [if_neg (by simp [hv])]
  rfl

/-- The write-only bits of a tidy KERB_CTL are 0. -/
theorem kerbCtl_commands_zero {d : Dev} {k : Nat} (hk : k < 48) (h : Tidy d (Reg.KERB_CTL k)) :
    bits (d.reg (Reg.KERB_CTL k)) 0 1 = 0 ∧ bits (d.reg (Reg.KERB_CTL k)) 1 1 = 0 ∧ bits (d.reg (Reg.KERB_CTL k)) 2 1 = 0 :=
  have zero {f : Fld} (hf : (rowOf .KERB_CTL).has f .wo = true) := h.fget_eq_zero (findReg_kerbCtl hk) hf (by decide)
  ⟨zero (f := Fld.KERB_CTL_COUNT_CLEAR) (by decide), zero (f := Fld.KERB_CTL_CACHE_DROP) (by decide),
    zero (f := Fld.KERB_CTL_RESET) (by decide)⟩

theorem kerbActions_countClear {d : Dev} {k : Nat} (hk : k < 48) (h : Tidy d (Reg.KERB_CTL k)) (e : Dev) :
    e.kerbActions k (withField d (Reg.KERB_CTL k) Fld.KERB_CTL_COUNT_CLEAR 1) = e.clearKerbCounters k := by
  obtain ⟨-, h1, h2⟩ := kerbCtl_commands_zero hk h
  simp [kerbActions, withField, Fld.KERB_CTL_COUNT_CLEAR, bits_setBits_apart, h1, h2]

theorem kerbActions_cacheDrop {d : Dev} {k : Nat} (hk : k < 48) (h : Tidy d (Reg.KERB_CTL k)) (e : Dev) :
    e.kerbActions k (withField d (Reg.KERB_CTL k) Fld.KERB_CTL_CACHE_DROP 1) = e.dropCache k := by
  obtain ⟨h0, -, h2⟩ := kerbCtl_commands_zero hk h
  simp [kerbActions, withField, Fld.KERB_CTL_CACHE_DROP, bits_setBits_apart, h0, h2]

theorem kerbActions_reset {d e : Dev} {k : Nat} (hk : k < 48) (h : Tidy d (Reg.KERB_CTL k)) (ht : e.kerbTesting k = false) :
    e.kerbActions k (withField d (Reg.KERB_CTL k) Fld.KERB_CTL_RESET 1) = e.kerbReset k := by
  obtain ⟨h0, h1, -⟩ := kerbCtl_commands_zero hk h
  simp [kerbActions, withField, Fld.KERB_CTL_RESET, bits_setBits_apart, h0, h1, ht]

/-- A window that meets no other on its block is the district's from then on (R131). -/
theorem writeWindow_ok {d : Dev} {b x base len : Nat} (a : Nat) (hfit : base + len ≤ 128) (hb : (d.logicalOf b).isSome = true)
    (hapart : ∀ y, y < 16 → y ≠ x → (d.window b y).2 = 0 ∨ len = 0 ∨ (d.window b y).1 + (d.window b y).2 ≤ 65536 * base ∨
      65536 * (base + len) ≤ (d.window b y).1) :
    ∃ m, d.writeWindow b x a (base + 256 * len) = .ok (({ d with bmem := m } : Dev).setReg a (base + 256 * len)) := by
  have hbase : bits (base + 256 * len) 0 8 = base := by simp only [bits]; omega
  have hlen : bits (base + 256 * len) 8 8 = len := by simp only [bits]; omega
  have hmod : (base + 256 * len) % 65536 = base + 256 * len := by omega
  have hclash : (((List.range 16).filter (· ≠ x)).any fun y =>
      decide (65536 * base < (d.window b y).1 + (d.window b y).2) && decide ((d.window b y).1 < 65536 * (base + len)) &&
        decide (0 < (d.window b y).2) && decide (0 < len)) = false := by
    refine List.any_eq_false.2 fun y hy => ?_
    obtain ⟨hy, hne⟩ := List.mem_filter.1 hy
    have := hapart y (List.mem_range.1 hy) (by simpa using hne)
    simp only [Bool.and_eq_true, decide_eq_true_eq]
    omega
  unfold writeWindow
  dsimp only
  rw [hbase, hlen, hclash, hmod, if_neg (by rw [Option.isNone_iff_eq_none]; rintro h; simp [h] at hb),
    if_neg (by simp; omega)]
  exact ⟨_, rfl⟩

/-- A new owner of a light is taken when it is the old one or nothing waits on the light (R330). -/
theorem writeLightCtl_ok {d : Dev} {l v : Nat} (r : RegRow) (a : Nat)
    (h : bits v 0 4 = d.lightOwner l ∨ d.fget a Fld.LGT_CTL_WAITERS = 0) : d.writeLightCtl l r a v = .ok (d.storeReg r a v) := by
  unfold writeLightCtl
  rw [if_neg (by simp only [Bool.and_eq_true, decide_eq_true_eq, not_and_or, not_not]; exact h)]

/-- What TRC_CTL's write-only bits ask for (R549, R550): to clear the buffer, to arm it, and to trigger it. -/
def traceActions (d : Dev) (v cause : Nat) : Dev :=
  let d := if bits v 5 1 = 1 then d.emptyTrace.setReg Reg.TRC_LOST 0 else d
  let d := if bits v 3 1 = 1 then d.armTrace else d
  if bits v 4 1 = 1 then d.traceTrigger cause 0 0 else d

/-- The write-only bits of a tidy TRC_CTL are 0. -/
theorem trcCtl_commands_zero {d : Dev} (h : Tidy d Reg.TRC_CTL) :
    bits (d.reg Reg.TRC_CTL) 3 1 = 0 ∧ bits (d.reg Reg.TRC_CTL) 4 1 = 0 ∧ bits (d.reg Reg.TRC_CTL) 5 1 = 0 :=
  have zero {f : Fld} (hf : (rowOf .TRC_CTL).has f .wo = true) := h.fget_eq_zero findReg_trcCtl hf (by decide)
  ⟨zero (f := Fld.TRC_CTL_ARM) (by decide), zero (f := Fld.TRC_CTL_TRIGGER) (by decide), zero (f := Fld.TRC_CTL_CLEAR) (by decide)⟩

theorem traceActions_clear {d : Dev} (h : Tidy d Reg.TRC_CTL) (e : Dev) (cause : Nat) :
    e.traceActions (withField d Reg.TRC_CTL Fld.TRC_CTL_CLEAR 1) cause = e.emptyTrace.setReg Reg.TRC_LOST 0 := by
  obtain ⟨h3, h4, -⟩ := trcCtl_commands_zero h
  simp [traceActions, withField, Fld.TRC_CTL_CLEAR, bits_setBits_apart, h3, h4]

theorem traceActions_arm {d : Dev} (h : Tidy d Reg.TRC_CTL) (e : Dev) (cause : Nat) :
    e.traceActions (withField d Reg.TRC_CTL Fld.TRC_CTL_ARM 1) cause = e.armTrace := by
  obtain ⟨-, h4, h5⟩ := trcCtl_commands_zero h
  simp [traceActions, withField, Fld.TRC_CTL_ARM, bits_setBits_apart, h4, h5]

theorem traceActions_trigger {d : Dev} (h : Tidy d Reg.TRC_CTL) (e : Dev) (cause : Nat) :
    e.traceActions (withField d Reg.TRC_CTL Fld.TRC_CTL_TRIGGER 1) cause = e.traceTrigger cause 0 0 := by
  obtain ⟨h3, -, h5⟩ := trcCtl_commands_zero h
  simp [traceActions, withField, Fld.TRC_CTL_TRIGGER, bits_setBits_apart, h3, h5]

/-- The RW fields of TRC_CTL ask for nothing. -/
theorem traceActions_none {d : Dev} (h : Tidy d Reg.TRC_CTL) (e : Dev) (cause : Nat) {f : Fld} {x : Nat}
    (hf : f.lo + f.width ≤ 3 ∨ 6 ≤ f.lo) : e.traceActions (withField d Reg.TRC_CTL f x) cause = e := by
  obtain ⟨h3, h4, h5⟩ := trcCtl_commands_zero h
  have apart {i : Nat} (hi : 3 ≤ i ∧ i < 6) : bits (withField d Reg.TRC_CTL f x) i 1 = bits (d.reg Reg.TRC_CTL) i 1 :=
    bits_setBits_apart (by omega)
  simp [traceActions, apart, h3, h4, h5]

/-- A write of TRC_CTL with a mode that it may take stores its RW fields, then acts; TRC_STAT follows ENABLE. -/
theorem writeTrace_ok {d : Dev} {r : RegRow} {a v : Nat} (cause : Nat) (hm : bits v 0 2 ≠ 3)
    (hk : d.fbit Reg.TRC_CTL Fld.TRC_CTL_ENABLE = false ∨ bits v 0 2 = d.fget Reg.TRC_CTL Fld.TRC_CTL_MODE) :
    ∃ e, d.writeTrace r a v cause = .ok (traceActions e v cause) ∧ e.reg Reg.TRC_CTL = (d.storeReg r a v).reg Reg.TRC_CTL ∧
      (bits v 2 1 = d.fget Reg.TRC_CTL Fld.TRC_CTL_ENABLE → e = d.storeReg r a v) := by
  have hne : Reg.TRC_CTL ≠ Reg.TRC_STAT := by decide
  have hok : ¬ (decide (bits v 0 2 = 3) || d.fbit Reg.TRC_CTL Fld.TRC_CTL_ENABLE &&
      decide (bits v 0 2 ≠ d.fget Reg.TRC_CTL Fld.TRC_CTL_MODE)) = true := by
    rcases hk with hk | hk
    · simp [hm, hk]
    · simp [← hk, hm]
  unfold writeTrace
  dsimp only
  rw [if_neg hok]
  refine ⟨_, rfl, ?_, fun hen => ?_⟩
  · split
    · exact reg_fset_ne _ _ _ _ hne
    · split
      · exact reg_fset_ne _ _ _ _ hne
      · rfl
  · rw [fbit, ← hen]
    by_cases h : bits v 2 1 = 1 <;> simp [h]

theorem writeEffect_planCtl (d : Dev) (v : Nat) : d.writeEffect .monitor (rowOf .PLAN_CTL) [] Reg.PLAN_CTL v =
    .ok ((d.storeReg (rowOf .PLAN_CTL) Reg.PLAN_CTL v).abandonAll (bits v 4 4)) := rfl

theorem writeEffect_cellInject (d : Dev) (b c a v : Nat) : d.writeEffect .monitor (rowOf .CELL_INJECT) [b / 72, b % 72, c] a v =
    d.writeInject b c (rowOf .CELL_INJECT) a v := by
  change d.writeInject (72 * (b / 72) + b % 72) _ _ _ _ = _
  rw [Nat.div_add_mod]

theorem writeEffect_blkCtl (d : Dev) (b a v : Nat) : d.writeEffect .monitor (rowOf .BLK_CTL) [b / 72, b % 72] a v =
    d.writeBlkCtl b (rowOf .BLK_CTL) a v := by
  change d.writeBlkCtl (72 * (b / 72) + b % 72) _ _ _ = _
  rw [Nat.div_add_mod]

theorem writeEffect_blkBmwin (d : Dev) (b x a v : Nat) : d.writeEffect .monitor (rowOf .BLK_BMWIN) [b / 72, b % 72, x] a v =
    d.writeWindow b x a v := by
  change d.writeWindow (72 * (b / 72) + b % 72) _ _ _ = _
  rw [Nat.div_add_mod]

theorem writeEffect_kerbCtl (d : Dev) (k a v : Nat) : d.writeEffect .monitor (rowOf .KERB_CTL) [k / 12, k % 12] a v =
    d.writeKerbCtl k (rowOf .KERB_CTL) a v := by
  change d.writeKerbCtl (12 * (k / 12) + k % 12) _ _ _ = _
  rw [Nat.div_add_mod]

theorem writeEffect_ftlCtl (d : Dev) (v : Nat) : d.writeEffect .monitor (rowOf .FTL_CTL) [] Reg.FTL_CTL v =
    .ok (if bits v 0 1 = 1 then
        ((d.storeReg (rowOf .FTL_CTL) Reg.FTL_CTL v).clearCounters regRowsFtl 3).modMedia fun m => { m with padded := [] }
      else d.storeReg (rowOf .FTL_CTL) Reg.FTL_CTL v) := rfl

theorem writeEffect_pwrCtl (d : Dev) (v : Nat) : d.writeEffect .monitor (rowOf .PWR_CTL) [] Reg.PWR_CTL v =
    .ok (if bits v 0 1 = 1 then (d.storeReg (rowOf .PWR_CTL) Reg.PWR_CTL v).clearCounters regRowsPwr 3
      else d.storeReg (rowOf .PWR_CTL) Reg.PWR_CTL v) := rfl

theorem writeEffect_timeCtl (d : Dev) (v : Nat) : d.writeEffect .monitor (rowOf .TIME_CTL) [] Reg.TIME_CTL v =
    .ok (forceHold (d.storeReg (rowOf .TIME_CTL) Reg.TIME_CTL v) (bits v 0 1 = 1)) := rfl

/-- A write of DEV_CTL fails over to the standby. -/
theorem writeEffect_devCtl {d : Dev} {q : Nat} (h : d.standby = some q) :
    d.writeEffect .monitor (rowOf .DEV_CTL) [] Reg.DEV_CTL 1 = .ok (d.failTo q 4) := by
  change (if d.standby.isNone then Except.error Status.invalidField else .ok (d.failover 4)) = _
  rw [failover, h]
  rfl

theorem writeReset_quarter {d : Dev} {q : Nat} (hq : q < 4) (hon : d.quarantined q = false) :
    d.writeReset (2 + 256 * q) = .ok (d.resetQ q 0) := by
  have hval : ∀ q, q < 4 → bits (2 + 256 * q) 0 4 = 2 ∧ bits (2 + 256 * q) 8 2 = q ∧ bits (2 + 256 * q) 16 9 = 0 := by decide
  obtain ⟨h0, h8, h16⟩ := hval q hq
  simp [writeReset, h0, h8, h16, hon]

theorem writeReset_block {d : Dev} {b : Nat} (hb : b < 288) (hon : d.quarantined (b / 72) = false)
    (hl : (d.logicalOf b).isSome = true) : d.writeReset (3 + 65536 * b) = .ok (d.resetB b) := by
  have h0 : bits (3 + 65536 * b) 0 4 = 3 := by simp only [bits]; omega
  have h8 : bits (3 + 65536 * b) 8 2 = 0 := by simp only [bits]; omega
  have h16 : bits (3 + 65536 * b) 16 9 = b := by simp only [bits]; omega
  simp [writeReset, h0, h8, h16, hon, hl]

theorem writeTime_ok {d : Dev} {ns : Nat} (hl : d.time.lock = .freeRun) (hsrc : d.plan.timeBase.source = 2) (hns : d.time.ns ≤ ns) :
    d.writeTime ns = .ok (d.stepForward ns) := by
  unfold writeTime
  rw [if_pos (by simp [hl, hsrc, hns])]

end Dev

end Sys2Proof.Machine
end

section
/-! The register operations that the monitor asks for, one register after the other. -/

namespace Sys2Proof.Machine

/-- A Boolean written to a field of one bit is read from it. -/
theorem decide_toNat_mod_eq (on : Bool) : decide (on.toNat % 2 ^ 1 = 1) = on := by cases on <;> rfl

section
variable {s : State} {seq : Nat} (hs : Serves s.clear seq 1 false)
include hs

/-! The plan. -/

theorem abandon_completes {i : Nat} (hi : i < 4) (ht : Tidy s.clear.heard Reg.PLAN_CTL) : ∃ v, Completes (.abandon (.monitor seq) i) s
    (answered s.clear.heard ((s.clear.heard.setReg Reg.PLAN_CTL v).abandon i 0x11) seq) := by
  have hz : s.clear.heard.fget Reg.PLAN_CTL Fld.PLAN_CTL_ABANDON = 0 := ht.fget_eq_zero findReg_planCtl (c := .wo) (by decide) (by decide)
  have hlt : 2 ^ i < 2 ^ 4 := Nat.pow_lt_pow_right (by decide) hi
  have hmask : bits (withField s.clear.heard Reg.PLAN_CTL Fld.PLAN_CTL_ABANDON (2 ^ i)) 4 4 = 2 ^ i :=
    (bits_withField_same _ _ Fld.PLAN_CTL_ABANDON _).trans (Nat.mod_eq_of_lt hlt)
  have hx := Dev.writeEffect_planCtl s.clear.heard (withField s.clear.heard Reg.PLAN_CTL Fld.PLAN_CTL_ABANDON (2 ^ i))
  rw [hmask, Dev.abandonAll_single _ hi] at hx
  refine ⟨_, monitorWrite_completes hs findReg_planCtl (n := 4) (by decide) (.inl (by decide))
    (ht.allows_withField findReg_planCtl (f := Fld.PLAN_CTL_ABANDON) (c := .wo) (by decide) (by decide) (2 ^ i)) rfl ?_ hx⟩
  rw [withField_of_zero hz hlt, Nat.mul_comm, ← Nat.pow_add]
  rfl

/-! Blocks. -/

theorem cellInject_completes {b c t : Nat} (hb : b < 288) (hc : c < 4) (ht : t < 7) (hq : s.clear.quarantined (b / 72) = false)
    (htest : s.clear.blockTesting b = true) (hf : ∀ x, (s.clear.block b).cells[c]? = some x → x.fenced = false) :
    ∃ e, Completes (.cellInject (.monitor seq) b c t) s e ∧ e.fget (Reg.CELL_INJECT b c) Fld.CELL_INJECT_TARGET = t ∧
      e.fbit (Reg.CELL_INJECT b c) Fld.CELL_INJECT_ARM = true := by
  have hval : ∀ t, t < 7 → (rowOf .CELL_INJECT).allows (t % 8 + 8) ∧ bits (t % 8 + 8) 0 3 = t ∧ bits (t % 8 + 8) 3 1 = 1 := by
    unfold RegRow.allows; decide
  obtain ⟨hallows, htarget, harm⟩ := hval t ht
  have hx := Dev.writeInject_testing (d := s.clear.heard) (rowOf .CELL_INJECT) (Reg.CELL_INJECT b c) (by omega) harm htest hf
  refine ⟨_, monitorWrite_completes hs (findReg_cellInject hb hc) (n := 4) (by decide) (.inr ⟨_, _, rfl, hq⟩) hallows rfl ?_
    ((Dev.writeEffect_cellInject _ _ _ _ _).trans hx), ?_, ?_⟩
  · rw [accessOf, if_pos hc]
  · rw [answered_fget, Dev.fget_of_stored (Dev.reg_storeReg _ _ _ _) (by decide)]; exact htarget
  · rw [answered_fbit, Dev.fbit_of_stored (Dev.reg_storeReg _ _ _ _) (by decide)]; exact decide_eq_true harm

theorem eccInject_completes {b : Nat} (hb : b < 288) (hq : s.clear.quarantined (b / 72) = false)
    (htest : s.clear.blockTesting b = true) :
    ∃ e, Completes (.eccInject (.monitor seq) b) s e ∧ e.fbit (Reg.BLK_CTL b) Fld.BLK_CTL_ECC_INJECT = true := by
  have hx := Dev.writeBlkCtl_testing (d := s.clear.heard) (v := 2) (rowOf .BLK_CTL) (Reg.BLK_CTL b) (by decide) htest
  refine ⟨_, monitorWrite_completes (v := 2) hs (findReg_blkCtl hb) (by decide) (.inr ⟨_, _, rfl, hq⟩) ⟨by decide, by decide⟩ rfl
    rfl ((Dev.writeEffect_blkCtl _ _ _ _).trans hx), ?_⟩
  rw [answered_fbit, Dev.fbit_of_stored (Dev.reg_storeReg _ _ _ _) (by decide)]; rfl

theorem blkCountClear_completes {b : Nat} (hb : b < 288) (hq : s.clear.quarantined (b / 72) = false)
    (ht : Tidy s.clear.heard (Reg.BLK_CTL b)) (hi : s.clear.fbit (Reg.BLK_CTL b) Fld.BLK_CTL_ECC_INJECT = false) :
    ∃ e, Completes (.blkCountClear (.monitor seq) b) s e ∧ e.reg (Reg.BLK_CMDS b) = 0 ∧ e.reg (Reg.BLK_DMA_BYTES b) = 0 ∧
      e.reg (Reg.BLK_ECC b) = 0 := by
  have hinj : bits (withField s.clear.heard (Reg.BLK_CTL b) Fld.BLK_CTL_COUNT_CLEAR 1) 1 1 ≠ 1 :=
    (bits_withField_apart (g := Fld.BLK_CTL_ECC_INJECT) (by decide)).trans_ne (Dev.fbit_eq_false.1 hi)
  obtain ⟨e, he, h⟩ := Dev.writeBlkCtl_clear (rowOf .BLK_CTL) (bits_withField_same _ _ Fld.BLK_CTL_COUNT_CLEAR 1) hinj
  refine ⟨_, monitorWrite_completes hs (findReg_blkCtl hb) (by decide) (.inr ⟨_, _, rfl, hq⟩)
    (ht.allows_withField (findReg_blkCtl hb) (c := .wo) (by decide) (by decide) 1) rfl rfl
    ((Dev.writeEffect_blkCtl _ _ _ _).trans he), ?_⟩
  simpa only [answered_reg] using h

theorem bmwinWrite_completes {b x base len : Nat} (hb : b < 288) (hx : x < 16) (hfit : base + len ≤ 128)
    (hq : s.clear.quarantined (b / 72) = false) (hl : (s.clear.logicalOf b).isSome = true)
    (hap : ∀ y, y < 16 → y ≠ x → (s.clear.window b y).2 = 0 ∨ len = 0 ∨
      (s.clear.window b y).1 + (s.clear.window b y).2 ≤ 65536 * base ∨ 65536 * (base + len) ≤ (s.clear.window b y).1) :
    ∃ e, Completes (.bmwinWrite (.monitor seq) b x base len) s e ∧ e.window b x = (65536 * base, 65536 * len) := by
  have hbase : bits (base + 256 * len) 0 8 = base := by simp only [bits]; omega
  have hlen : bits (base + 256 * len) 8 8 = len := by simp only [bits]; omega
  obtain ⟨m, hm⟩ := Dev.writeWindow_ok (d := s.clear.heard) (Reg.BLK_BMWIN b x) hfit hl hap
  refine ⟨_, monitorWrite_completes hs (findReg_blkBmwin hb hx) (n := 4) (by decide) (.inr ⟨_, _, rfl, hq⟩) ⟨?_, ?_⟩ rfl ?_
    ((Dev.writeEffect_blkBmwin _ _ _ _ _).trans hm), ?_⟩
  · rw [show (rowOf .BLK_BMWIN).bytes = 4 by decide]; omega
  · rw [show (rowOf .BLK_BMWIN).reserved = [(16, 16)] by decide]
    simpa using bits_of_lt (lo := 16) (by omega)
  · rw [accessOf, if_pos (by simp [hx]; omega)]
  · rw [Dev.window, answered_fget, answered_fget, Dev.fget, Dev.fget, Dev.reg_setReg]
    simp only [Fld.BLK_BMWIN_BASE, Fld.BLK_BMWIN_LENGTH, hbase, hlen]

/-! Kerbs. -/

theorem kerbInject_completes {k : Nat} (hk : k < 48) (htest : s.clear.kerbTesting k = true) :
    ∃ e, Completes (.kerbInject (.monitor seq) k) s e ∧ e.fbit (Reg.KERB_CTL k) Fld.KERB_CTL_INJECT = true := by
  have hx := Dev.writeKerbCtl_inject (d := s.clear.heard) (rowOf .KERB_CTL) (Reg.KERB_CTL k) htest
  refine ⟨_, monitorWrite_completes (v := 8) hs (findReg_kerbCtl hk) (by decide) (.inl (by decide)) ⟨by decide, by decide⟩ rfl rfl
    ((Dev.writeEffect_kerbCtl _ _ _ _).trans hx), ?_⟩
  rw [answered_fbit, Dev.fbit_of_stored (Dev.reg_storeReg _ _ _ _) (by decide)]; rfl

/-- A write of 1 to a write-only field of KERB_CTL, with no injection armed, does what the field asks for. -/
theorem kerbCtl_completes {k : Nat} (hk : k < 48) (ht : Tidy s.clear.heard (Reg.KERB_CTL k))
    (hi : s.clear.fbit (Reg.KERB_CTL k) Fld.KERB_CTL_INJECT = false) {c : Instr} {f : Fld} (hf : (rowOf .KERB_CTL).has f .wo = true)
    (hlow : f.lo + f.width ≤ 3) (hc : exec c s = effect (fun d => registerRow d c) s)
    (ha : accessOf s.clear c = some (.monitor seq, .write (Reg.KERB_CTL k) 4 (withField s.clear.heard (Reg.KERB_CTL k) f 1))) :
    ∃ w, Completes c s (answered s.clear.heard ((s.clear.heard.setReg (Reg.KERB_CTL k) w).kerbActions k
      (withField s.clear.heard (Reg.KERB_CTL k) f 1)) seq) := by
  have hinj : bits (withField s.clear.heard (Reg.KERB_CTL k) f 1) 3 1 ≠ 1 :=
    (bits_withField_apart (g := Fld.KERB_CTL_INJECT) (.inl hlow)).trans_ne (Dev.fbit_eq_false.1 hi)
  exact ⟨_, monitorWrite_completes hs (findReg_kerbCtl hk) (by decide) (.inl (by decide))
    (ht.allows_withField (findReg_kerbCtl hk) hf (by decide) 1) hc ha
    ((Dev.writeEffect_kerbCtl _ _ _ _).trans (Dev.writeKerbCtl_ok _ _ hinj))⟩

theorem kerbCountClear_completes {k : Nat} (hk : k < 48) (ht : Tidy s.clear.heard (Reg.KERB_CTL k))
    (hi : s.clear.fbit (Reg.KERB_CTL k) Fld.KERB_CTL_INJECT = false) : ∃ v, Completes (.kerbCountClear (.monitor seq) k) s
      (answered s.clear.heard ((s.clear.heard.setReg (Reg.KERB_CTL k) v).clearKerbCounters k) seq) := by
  obtain ⟨w, h⟩ := kerbCtl_completes hs hk ht hi (c := .kerbCountClear (.monitor seq) k) (f := Fld.KERB_CTL_COUNT_CLEAR) (by decide)
    (by decide) rfl rfl
  exact ⟨w, Dev.kerbActions_countClear hk ht _ ▸ h⟩

theorem cacheDrop_completes {k : Nat} (hk : k < 48) (ht : Tidy s.clear.heard (Reg.KERB_CTL k))
    (hi : s.clear.fbit (Reg.KERB_CTL k) Fld.KERB_CTL_INJECT = false) : ∃ v, Completes (.cacheDrop (.monitor seq) k) s
      (answered s.clear.heard ((s.clear.heard.setReg (Reg.KERB_CTL k) v).dropCache k) seq) := by
  obtain ⟨w, h⟩ := kerbCtl_completes hs hk ht hi (c := .cacheDrop (.monitor seq) k) (f := Fld.KERB_CTL_CACHE_DROP) (by decide)
    (by decide) rfl rfl
  exact ⟨w, Dev.kerbActions_cacheDrop hk ht _ ▸ h⟩

theorem kerbCtlReset_completes {k : Nat} (hk : k < 48) (ht : Tidy s.clear.heard (Reg.KERB_CTL k))
    (hi : s.clear.fbit (Reg.KERB_CTL k) Fld.KERB_CTL_INJECT = false) (htest : s.clear.kerbTesting k = false) :
    ∃ v, Completes (.kerbCtlReset (.monitor seq) k) s
      (answered s.clear.heard ((s.clear.heard.setReg (Reg.KERB_CTL k) v).kerbReset k) seq) := by
  obtain ⟨w, h⟩ := kerbCtl_completes hs hk ht hi (c := .kerbCtlReset (.monitor seq) k) (f := Fld.KERB_CTL_RESET) (by decide)
    (by decide) rfl rfl
  have hw : (s.clear.heard.setReg (Reg.KERB_CTL k) w).kerbTesting k = false := htest
  exact ⟨w, Dev.kerbActions_reset hk ht hw ▸ h⟩

/-! Flash media, the host interface and power. -/

theorem ftlCountClear_completes (ht : Tidy s.clear.heard Reg.FTL_CTL) : ∃ v, Completes (.ftlCountClear (.monitor seq)) s
    (answered s.clear.heard (((s.clear.heard.setReg Reg.FTL_CTL v).clearCounters regRowsFtl 3).modMedia fun m => { m with padded := [] })
      seq) := by
  have h0 := bits_withField_same s.clear.heard Reg.FTL_CTL Fld.FTL_CTL_COUNT_CLEAR 1
  exact ⟨_, monitorWrite_completes hs findReg_ftlCtl (by decide) (.inl (by decide))
    (ht.allows_withField findReg_ftlCtl (c := .wo) (by decide) (by decide) 1) rfl rfl
    ((Dev.writeEffect_ftlCtl _ _).trans (congrArg Except.ok (if_pos h0)))⟩

theorem reclaimHold_completes (ht : Tidy s.clear.heard Reg.FTL_CTL) (on : Bool) : ∃ e, Completes (.reclaimHold (.monitor seq) on) s e ∧
    e.fbit Reg.FTL_CTL Fld.FTL_CTL_RECLAIM_HOLD = on ∧ e.mems = s.dev.mems := by
  have h0 : bits (withField s.clear.heard Reg.FTL_CTL Fld.FTL_CTL_RECLAIM_HOLD on.toNat) 0 1 ≠ 1 :=
    (bits_withField_apart (g := Fld.FTL_CTL_COUNT_CLEAR) (by decide)).trans_ne
      ((ht.fget_eq_zero findReg_ftlCtl (c := .wo) (by decide) (by decide)).trans_ne (by decide))
  refine ⟨_, monitorWrite_completes hs findReg_ftlCtl (by decide) (.inl (by decide))
    (ht.allows_withField findReg_ftlCtl (c := .rw) (by decide) (by decide) on.toNat) rfl rfl
    ((Dev.writeEffect_ftlCtl _ _).trans (congrArg Except.ok (if_neg h0))), ?_, ?_⟩
  · rw [answered_fbit, Dev.fbit_of_stored (Dev.reg_storeReg _ _ _ _) (by decide), bits_withField_same]
    exact decide_toNat_mod_eq on
  · rw [answered_mems]; rfl

theorem hifCountClear_completes : Completes (.hifCountClear (.monitor seq)) s
    (answered s.clear.heard (s.clear.heard.clearCounters regRowsHif 7) seq) :=
  monitorWrite_completes (v := 1) hs findReg_hifCtl (by decide) (.inl (by decide)) ⟨by decide, by decide⟩ rfl rfl rfl

theorem portReset_completes {p : Nat} (hp : p < 2) : Completes (.portReset (.monitor seq) p) s
    (answered s.clear.heard (s.clear.heard.gateReset p) seq) := by
  have hv : ∀ p, p < 2 → (rowOf .HIF_CTL).allows (2 ^ (1 + p)) := by unfold RegRow.allows; decide
  have hx : s.clear.heard.writeEffect .monitor (rowOf .HIF_CTL) [] Reg.HIF_CTL (2 ^ (1 + p)) = .ok (s.clear.heard.gateReset p) := by
    obtain rfl | rfl : p = 0 ∨ p = 1 := by omega
    · rfl
    · rfl
  exact monitorWrite_completes hs findReg_hifCtl (by decide) (.inl (by decide)) (hv p hp) rfl rfl hx

theorem pwrCountClear_completes (ht : Tidy s.clear.heard Reg.PWR_CTL) : ∃ v, Completes (.pwrCountClear (.monitor seq)) s
    (answered s.clear.heard ((s.clear.heard.setReg Reg.PWR_CTL v).clearCounters regRowsPwr 3) seq) := by
  have h0 := bits_withField_same s.clear.heard Reg.PWR_CTL Fld.PWR_CTL_COUNT_CLEAR 1
  exact ⟨_, monitorWrite_completes hs findReg_pwrCtl (by decide) (.inl (by decide))
    (ht.allows_withField findReg_pwrCtl (c := .wo) (by decide) (by decide) 1) rfl rfl
    ((Dev.writeEffect_pwrCtl _ _).trans (congrArg Except.ok (if_pos h0)))⟩

theorem loopsFreeze_completes (ht : Tidy s.clear.heard Reg.PWR_CTL) (on : Bool) : ∃ e, Completes (.loopsFreeze (.monitor seq) on) s e ∧
    e.frozen = on ∧ e.mems = s.dev.mems := by
  have h0 : bits (withField s.clear.heard Reg.PWR_CTL Fld.PWR_CTL_LOOPS_FREEZE on.toNat) 0 1 ≠ 1 :=
    (bits_withField_apart (g := Fld.PWR_CTL_COUNT_CLEAR) (by decide)).trans_ne
      ((ht.fget_eq_zero findReg_pwrCtl (c := .wo) (by decide) (by decide)).trans_ne (by decide))
  refine ⟨_, monitorWrite_completes hs findReg_pwrCtl (by decide) (.inl (by decide))
    (ht.allows_withField findReg_pwrCtl (c := .rw) (by decide) (by decide) on.toNat) rfl rfl
    ((Dev.writeEffect_pwrCtl _ _).trans (congrArg Except.ok (if_neg h0))), ?_, ?_⟩
  · rw [Dev.frozen, answered_fbit, Dev.fbit_of_stored (Dev.reg_storeReg _ _ _ _) (by decide), bits_withField_same]
    exact decide_toNat_mod_eq on
  · rw [answered_mems]; rfl

/-! Security, failover and resets. -/

theorem secCountClear_completes : Completes (.secCountClear (.monitor seq)) s (answered s.clear.heard
    ((s.clear.heard.fset Reg.SEC_STAT Fld.SEC_STAT_VERIFY_FAILS 0).fset Reg.SEC_ATTEST Fld.SEC_ATTEST_SIGNED 0) seq) :=
  monitorWrite_completes (v := 1) hs findReg_secCtl (by decide) (.inl (by decide)) ⟨by decide, by decide⟩ rfl rfl rfl

theorem failover_completes {q : Nat} (hq : s.clear.standby = some q) : Completes (.failover (.monitor seq)) s
    (answered s.clear.heard (s.clear.heard.failTo q 4) seq) :=
  monitorWrite_completes (v := 1) hs findReg_devCtl (by decide) (.inl (by decide)) ⟨by decide, by decide⟩ rfl rfl
    (Dev.writeEffect_devCtl hq)

theorem deviceReset_completes : Completes (.deviceReset (.monitor seq)) s (answered s.clear.heard (s.clear.heard.resetD 0) seq) :=
  monitorWrite_completes (v := 1) hs findReg_devReset (by decide) (.inl (by decide)) ⟨by decide, by decide⟩ rfl rfl rfl

theorem quarterReset_completes {q : Nat} (hq : q < 4) (hon : s.clear.quarantined q = false) : Completes (.quarterReset (.monitor seq) q) s
    (answered s.clear.heard (s.clear.heard.resetQ q 0) seq) := by
  have hv : ∀ q, q < 4 → (rowOf .DEV_RESET).allows (2 + 256 * q) := by unfold RegRow.allows; decide
  have hx : s.clear.heard.writeReset (2 + 256 * q) = .ok (s.clear.heard.resetQ q 0) := Dev.writeReset_quarter hq hon
  exact monitorWrite_completes hs findReg_devReset (by decide) (.inl (by decide)) (hv q hq) rfl rfl hx

theorem blockReset_completes {b : Nat} (hb : b < 288) (hon : s.clear.quarantined (b / 72) = false)
    (hl : (s.clear.logicalOf b).isSome = true) : Completes (.blockReset (.monitor seq) b) s
      (answered s.clear.heard (s.clear.heard.resetB b) seq) := by
  have hv : (rowOf .DEV_RESET).allows (3 + 65536 * b) := by
    refine ⟨?_, ?_⟩
    · rw [show (rowOf .DEV_RESET).bytes = 4 by decide]; omega
    · rw [show (rowOf .DEV_RESET).reserved = [(4, 4), (10, 6), (25, 7)] by decide]
      simp only [List.forall_mem_cons, bits]
      refine ⟨by omega, by omega, by omega, nofun⟩
  have hx : s.clear.heard.writeReset (3 + 65536 * b) = .ok (s.clear.heard.resetB b) := Dev.writeReset_block hb hon hl
  exact monitorWrite_completes hs findReg_devReset (by decide) (.inl (by decide)) hv rfl rfl hx

/-! Time. -/

/-- A field of TIME_CTL is written: what is stored, and FORCE_HOLDOVER as it then is. -/
theorem timeCtl_completes (ht : Tidy s.clear.heard Reg.TIME_CTL) {c : Instr} {f : Fld} {x : Nat}
    (hf : (rowOf .TIME_CTL).has f .rw = true) (hc : exec c s = effect (fun d => registerRow d c) s)
    (ha : accessOf s.clear c = some (.monitor seq, .write Reg.TIME_CTL 4 (withField s.clear.heard Reg.TIME_CTL f x))) :
    ∃ v, bits v f.lo f.width = x % 2 ^ f.width ∧ Completes c s (answered s.clear.heard (forceHold (s.clear.heard.setReg Reg.TIME_CTL v)
      (decide (bits (withField s.clear.heard Reg.TIME_CTL f x) 0 1 = 1))) seq) := by
  refine ⟨_, ?_, monitorWrite_completes hs findReg_timeCtl (by decide) (.inl (by decide))
    (ht.allows_withField findReg_timeCtl hf (by decide) x) hc ha (Dev.writeEffect_timeCtl _ _)⟩
  rw [Dev.bits_storeFields_rw (rowOf_proper _) hf, bits_withField_same]

theorem forceHoldover_completes (ht : Tidy s.clear.heard Reg.TIME_CTL) (on : Bool) : ∃ v, bits v 0 1 = on.toNat ∧
    Completes (.forceHoldover (.monitor seq) on) s
      (answered s.clear.heard (forceHold (s.clear.heard.setReg Reg.TIME_CTL v) on) seq) := by
  obtain ⟨v, hv, h⟩ := timeCtl_completes hs ht (c := .forceHoldover (.monitor seq) on) (f := Fld.TIME_CTL_FORCE_HOLDOVER)
    (x := on.toNat) (by decide) rfl rfl
  have hon : decide (bits (withField s.clear.heard Reg.TIME_CTL Fld.TIME_CTL_FORCE_HOLDOVER on.toNat) 0 1 = 1) = on :=
    (congrArg (fun n => decide (n = 1)) (bits_withField_same _ _ Fld.TIME_CTL_FORCE_HOLDOVER _)).trans (decide_toNat_mod_eq on)
  rw [hon] at h
  exact ⟨v, hv.trans (by cases on <;> rfl), h⟩

theorem ppsOut_completes (ht : Tidy s.clear.heard Reg.TIME_CTL) (on : Bool) : ∃ v, bits v 1 1 = on.toNat ∧
    Completes (.ppsOut (.monitor seq) on) s
      (answered s.clear.heard (forceHold (s.clear.heard.setReg Reg.TIME_CTL v) s.clear.forced) seq) := by
  obtain ⟨v, hv, h⟩ := timeCtl_completes hs ht (c := .ppsOut (.monitor seq) on) (f := Fld.TIME_CTL_PPS_OUT)
    (x := on.toNat) (by decide) rfl rfl
  have hforced : decide (bits (withField s.clear.heard Reg.TIME_CTL Fld.TIME_CTL_PPS_OUT on.toNat) 0 1 = 1) = s.clear.forced :=
    congrArg (fun n => decide (n = 1)) (bits_withField_apart (g := Fld.TIME_CTL_FORCE_HOLDOVER) (by decide))
  rw [hforced] at h
  exact ⟨v, hv.trans (by cases on <;> rfl), h⟩

theorem timeSet_completes {ns : Nat} (hl : s.clear.time.lock = .freeRun) (hsrc : s.clear.plan.timeBase.source = 2)
    (hns : s.clear.time.ns ≤ ns) (hlt : ns < 2 ^ 64) : Completes (.timeSet (.monitor seq) ns) s
      (answered s.clear.heard (s.clear.heard.stepForward ns) seq) := by
  have hv : (rowOf .TIME_SET).allows ns :=
    ⟨hlt, by rw [show (rowOf .TIME_SET).reserved = [] by decide]; exact nofun⟩
  have hx : s.clear.heard.writeTime ns = .ok (s.clear.heard.stepForward ns) := Dev.writeTime_ok hl hsrc hns
  exact monitorWrite_completes hs findReg_timeSet (by decide) (.inl (by decide)) hv rfl rfl hx

/-! The trace. -/

/-- A field of TRC_CTL is written, with a mode that it may take: the stored fields, and what the write-only bits then ask for. -/
theorem trcCtl_completes (ht : Tidy s.clear.heard Reg.TRC_CTL) {c : Instr} {f : Fld} {acc : Acc} {x : Nat}
    (hf : (rowOf .TRC_CTL).has f acc = true) (hacc : acc ≠ .rsv)
    (hm : bits (withField s.clear.heard Reg.TRC_CTL f x) 0 2 ≠ 3)
    (hk : s.clear.fbit Reg.TRC_CTL Fld.TRC_CTL_ENABLE = false ∨
      bits (withField s.clear.heard Reg.TRC_CTL f x) 0 2 = s.clear.fget Reg.TRC_CTL Fld.TRC_CTL_MODE)
    (hc : exec c s = effect (fun d => registerRow d c) s)
    (ha : accessOf s.clear c = some (.monitor seq, .write Reg.TRC_CTL 4 (withField s.clear.heard Reg.TRC_CTL f x))) :
    ∃ e w, Completes c s (answered s.clear.heard (e.traceActions (withField s.clear.heard Reg.TRC_CTL f x) 1) seq) ∧
      e.reg Reg.TRC_CTL = Dev.storeFields (rowOf .TRC_CTL) (s.clear.heard.reg Reg.TRC_CTL) (withField s.clear.heard Reg.TRC_CTL f x) ∧
      (3 ≤ f.lo → e = s.clear.heard.setReg Reg.TRC_CTL w) := by
  obtain ⟨e, he, hreg, hsame⟩ := Dev.writeTrace_ok (d := s.clear.heard) (r := rowOf .TRC_CTL) (a := Reg.TRC_CTL) 1 hm hk
  refine ⟨e, _, monitorWrite_completes hs findReg_trcCtl (by decide) (.inl (by decide))
    (ht.allows_withField findReg_trcCtl hf hacc x) hc ha he, hreg.trans (Dev.reg_storeReg _ _ _ _), fun hlo => hsame ?_⟩
  exact bits_withField_apart (g := Fld.TRC_CTL_ENABLE) (.inr hlo)

theorem traceMode_completes (ht : Tidy s.clear.heard Reg.TRC_CTL) {m : Nat} (hm : m < 3)
    (hoff : s.clear.fbit Reg.TRC_CTL Fld.TRC_CTL_ENABLE = false) :
    ∃ e, Completes (.traceMode (.monitor seq) m) s e ∧ e.fget Reg.TRC_CTL Fld.TRC_CTL_MODE = m := by
  have hv : bits (withField s.clear.heard Reg.TRC_CTL Fld.TRC_CTL_MODE m) 0 2 = m :=
    (bits_withField_same _ _ Fld.TRC_CTL_MODE m).trans (Nat.mod_eq_of_lt (by change m < 4; omega))
  obtain ⟨e, -, h, hreg, -⟩ := trcCtl_completes hs ht (c := .traceMode (.monitor seq) m) (f := Fld.TRC_CTL_MODE) (acc := .rw) (x := m)
    (by decide) (by decide) (by omega) (.inl hoff) rfl rfl
  rw [Dev.traceActions_none ht e 1 (.inl (by decide))] at h
  refine ⟨_, h, ?_⟩
  rw [answered_fget, Dev.fget_of_stored hreg (by decide)]
  exact hv

section
variable (ht : Tidy s.clear.heard Reg.TRC_CTL) (hm : s.clear.fget Reg.TRC_CTL Fld.TRC_CTL_MODE < 3)
include ht hm

/-- A field of TRC_CTL other than MODE is written. -/
theorem trcCtl_field_completes {c : Instr} {f : Fld} {acc : Acc} {x : Nat} (hf : (rowOf .TRC_CTL).has f acc = true) (hacc : acc ≠ .rsv)
    (hlo : 2 ≤ f.lo) (hc : exec c s = effect (fun d => registerRow d c) s)
    (ha : accessOf s.clear c = some (.monitor seq, .write Reg.TRC_CTL 4 (withField s.clear.heard Reg.TRC_CTL f x))) :
    ∃ e w, Completes c s (answered s.clear.heard (e.traceActions (withField s.clear.heard Reg.TRC_CTL f x) 1) seq) ∧
      e.reg Reg.TRC_CTL = Dev.storeFields (rowOf .TRC_CTL) (s.clear.heard.reg Reg.TRC_CTL) (withField s.clear.heard Reg.TRC_CTL f x) ∧
      (3 ≤ f.lo → e = s.clear.heard.setReg Reg.TRC_CTL w) := by
  have hmode : bits (withField s.clear.heard Reg.TRC_CTL f x) 0 2 = s.clear.fget Reg.TRC_CTL Fld.TRC_CTL_MODE :=
    bits_withField_apart (g := Fld.TRC_CTL_MODE) (.inr hlo)
  exact trcCtl_completes hs ht hf hacc (by omega) (.inr hmode) hc ha

theorem traceEnable_completes (on : Bool) :
    ∃ e, Completes (.traceEnable (.monitor seq) on) s e ∧ e.fbit Reg.TRC_CTL Fld.TRC_CTL_ENABLE = on := by
  obtain ⟨e, -, h, hreg, -⟩ := trcCtl_field_completes hs ht hm (c := .traceEnable (.monitor seq) on) (f := Fld.TRC_CTL_ENABLE)
    (acc := .rw) (x := on.toNat) (by decide) (by decide) (by decide) rfl rfl
  rw [Dev.traceActions_none ht e 1 (.inl (by decide))] at h
  refine ⟨_, h, ?_⟩
  rw [answered_fbit, Dev.fbit_of_stored hreg (by decide), bits_withField_same]
  exact decide_toNat_mod_eq on

theorem counterSample_completes {n : Nat} (hn : n < 16) : ∃ e, Completes (.counterSample (.monitor seq) n) s e ∧
    e.fget Reg.TRC_CTL Fld.TRC_CTL_COUNTER_SAMPLE = n := by
  obtain ⟨e, -, h, hreg, -⟩ := trcCtl_field_completes hs ht hm (c := .counterSample (.monitor seq) n)
    (f := Fld.TRC_CTL_COUNTER_SAMPLE) (acc := .rw) (x := n) (by decide) (by decide) (by decide) rfl rfl
  rw [Dev.traceActions_none ht e 1 (.inr (by decide))] at h
  refine ⟨_, h, ?_⟩
  rw [answered_fget, Dev.fget_of_stored hreg (by decide), bits_withField_same]
  exact Nat.mod_eq_of_lt hn

theorem arm_completes : ∃ v, Completes (.arm (.monitor seq)) s
    (answered s.clear.heard (s.clear.heard.setReg Reg.TRC_CTL v).armTrace seq) := by
  obtain ⟨e, w, h, -, he⟩ := trcCtl_field_completes hs ht hm (c := .arm (.monitor seq)) (f := Fld.TRC_CTL_ARM) (acc := .wo) (x := 1)
    (by decide) (by decide) (by decide) rfl rfl
  rw [Dev.traceActions_arm ht, he (by decide)] at h
  exact ⟨w, h⟩

theorem trigger_completes : ∃ v, Completes (.trigger (.monitor seq)) s
    (answered s.clear.heard ((s.clear.heard.setReg Reg.TRC_CTL v).traceTrigger 1 0 0) seq) := by
  obtain ⟨e, w, h, -, he⟩ := trcCtl_field_completes hs ht hm (c := .trigger (.monitor seq)) (f := Fld.TRC_CTL_TRIGGER) (acc := .wo)
    (x := 1) (by decide) (by decide) (by decide) rfl rfl
  rw [Dev.traceActions_trigger ht, he (by decide)] at h
  exact ⟨w, h⟩

theorem traceClear_completes : ∃ v, Completes (.traceClear (.monitor seq)) s
    (answered s.clear.heard ((s.clear.heard.setReg Reg.TRC_CTL v).emptyTrace.setReg Reg.TRC_LOST 0) seq) := by
  obtain ⟨e, w, h, -, he⟩ := trcCtl_field_completes hs ht hm (c := .traceClear (.monitor seq)) (f := Fld.TRC_CTL_CLEAR) (acc := .wo)
    (x := 1) (by decide) (by decide) (by decide) rfl rfl
  rw [Dev.traceActions_clear ht, he (by decide)] at h
  exact ⟨w, h⟩

end

/-! Lights. -/

theorem lightWrites_complete {l v : Nat} (hl : l < 65536) (hv : v < 2 ^ 32) :
    Completes (.lightValueWrite (.monitor seq) l v) s (answered s.clear.heard (s.clear.heard.writeLight l false v) seq) ∧
      Completes (.lightAddWrite (.monitor seq) l v) s (answered s.clear.heard (s.clear.heard.writeLight l true v) seq) := by
  have hvalue : (rowOf .LGT_VALUE).allows v := ⟨hv, by rw [show (rowOf .LGT_VALUE).reserved = [] by decide]; exact nofun⟩
  have hadd : (rowOf .LGT_ADD).allows v := ⟨hv, by rw [show (rowOf .LGT_ADD).reserved = [] by decide]; exact nofun⟩
  exact ⟨monitorWrite_completes hs (findReg_lgtValue hl) (by decide) (.inl (by decide)) hvalue rfl rfl rfl,
    monitorWrite_completes hs (findReg_lgtAdd hl) (by decide) (.inl (by decide)) hadd rfl rfl rfl⟩

theorem lightOwnerWrite_completes {l o : Nat} {c : Bool} (hl : l < 65536) (ho : o < 16)
    (hw : o = s.clear.lightOwner l ∨ s.clear.fget (Reg.LGT_CTL l) Fld.LGT_CTL_WAITERS = 0) :
    ∃ e, Completes (.lightOwnerWrite (.monitor seq) l o c) s e ∧ e.lightOwner l = o ∧
      (c = true → e.fbit (Reg.LGT_CTL l) Fld.LGT_CTL_SATURATED = false) := by
  have hval : ∀ o, o < 16 → ∀ c : Bool, (rowOf .LGT_CTL).allows (o + 16 * c.toNat) ∧ bits (o + 16 * c.toNat) 0 4 = o ∧
      bits (o + 16 * c.toNat) 4 1 = c.toNat := by
    unfold RegRow.allows; decide
  obtain ⟨hallows, howner, hclear⟩ := hval o ho c
  have hx : s.clear.heard.writeLightCtl l (rowOf .LGT_CTL) (Reg.LGT_CTL l) (o + 16 * c.toNat) = _ :=
    Dev.writeLightCtl_ok _ _ (hw.imp howner.trans id)
  refine ⟨_, monitorWrite_completes hs (findReg_lgtCtl hl) (n := 8) (by decide) (.inl (by decide)) hallows rfl ?_ hx, ?_, fun hc => ?_⟩
  · rw [accessOf, if_pos ho]
  · rw [Dev.lightOwner, answered_fget, Dev.fget_of_stored (Dev.reg_storeReg _ _ _ _) (by decide)]
    exact howner
  · subst hc
    rw [Dev.fbit, answered_fget, Dev.fget, Dev.reg_storeReg, Dev.bits_storeFields_w1c (rowOf_proper _) (by decide) _ _ hclear]
    rfl

end

/-- Settles O39: each of the four reads is one read of its register, which answers with the stored value and leaves 0 in the RC fields. -/
theorem readsClear : Obligations.ReadsClear := by
  intro s seq hs
  refine ⟨fun x hx => ?_, ?_, fun i hi => ?_, fun i h16 hi => ?_⟩
  · exact monitorRead_completes hs (findReg_cntFmtFlags hx) (by decide) (.inr rfl) (by decide) (fun _ _ => rfl) rfl rfl
  · exact monitorRead_completes hs findReg_planErr (by decide) (.inl rfl) (by decide) (fun _ _ => rfl) rfl rfl
  · exact monitorRead_completes hs (findReg_pwrRail hi) (by decide) (.inr rfl) (by decide) (fun _ _ => rfl) rfl rfl
  · exact monitorRead_completes hs (findReg_pwrTemp h16 hi) (by decide) (.inr rfl) (by decide) (fun _ _ => rfl) rfl rfl

/-- Settles O38: each operation is one write of its register, of a value that the register takes, and the effect of that write is the one
stated. -/
theorem registerWritesTakeEffect : Obligations.RegisterWritesTakeEffect := by
  intro s seq hs
  refine ⟨fun i hi ht => abandon_completes hs hi ht,
    fun b c t hb hc ht hq htest hf => cellInject_completes hs hb hc ht hq htest hf,
    fun b hb hq htest => eccInject_completes hs hb hq htest,
    fun k hk htest => kerbInject_completes hs hk htest,
    fun b hb hq ht hi => blkCountClear_completes hs hb hq ht hi,
    fun k hk ht hi => ⟨kerbCountClear_completes hs hk ht hi, cacheDrop_completes hs hk ht hi, kerbCtlReset_completes hs hk ht hi⟩,
    fun ht => ⟨ftlCountClear_completes hs ht, reclaimHold_completes hs ht⟩,
    hifCountClear_completes hs,
    fun p hp => portReset_completes hs hp,
    fun ht => ⟨pwrCountClear_completes hs ht, loopsFreeze_completes hs ht⟩,
    secCountClear_completes hs,
    fun q hq => failover_completes hs hq,
    deviceReset_completes hs,
    fun q hq hon => quarterReset_completes hs hq hon,
    fun b hb hon hl => blockReset_completes hs hb hon hl,
    fun ht on => ⟨forceHoldover_completes hs ht on, ppsOut_completes hs ht on⟩,
    fun ns hl hsrc hns hlt => timeSet_completes hs hl hsrc hns hlt,
    fun ht hm => ⟨fun m hlt hoff => traceMode_completes hs ht hlt hoff, traceEnable_completes hs ht hm, arm_completes hs ht hm,
      trigger_completes hs ht hm, traceClear_completes hs ht hm, fun n hn => counterSample_completes hs ht hm hn⟩,
    fun l v hl hv => lightWrites_complete hs hl hv,
    fun l o c hl ho hw => lightOwnerWrite_completes hs hl ho hw,
    fun b x base len hb hx hfit hq hl hap => bmwinWrite_completes hs hb hx hfit hq hl hap⟩

end Sys2Proof.Machine
end

section
/-! SUPPORT. How an admitted command of a host runs when it arrives: its queue's head is the one that its Gate serves next, and its
body runs on the module in which its locks stand (R417 to R422). -/

namespace Sys2Proof.Machine

namespace Dev

/-- A command that wakes the module changes nothing but the power states (R438). -/
theorem wakeFor_frame (d : Dev) (c : Instr) : ∃ p, d.wakeFor c = { d with power := p } := by
  unfold wakeFor
  split
  · exact ⟨d.power, rfl⟩
  · split
    · exact ⟨_, rfl⟩
    · split
      · split
        · exact ⟨_, rfl⟩
        · exact ⟨d.power, rfl⟩
      · exact ⟨d.power, rfl⟩

@[simp] theorem wakeFor_host (d : Dev) (c : Instr) : (d.wakeFor c).host = d.host := by
  obtain ⟨p, hp⟩ := d.wakeFor_frame c
  rw [hp]

@[simp] theorem wakeFor_portOf (d : Dev) (c : Instr) (q : Nat) : (d.wakeFor c).portOf q = d.portOf q := by
  obtain ⟨p, hp⟩ := d.wakeFor_frame c
  rw [hp]
  rfl

@[simp] theorem joinQueue_waiting (d : Dev) (c : Instr) (h : Hdr) : (d.joinQueue c h).host.waiting = d.host.waiting ++ [c] := rfl

@[simp] theorem joinQueue_portOf (d : Dev) (c : Instr) (h : Hdr) (q : Nat) : (d.joinQueue c h).portOf q = d.portOf q := rfl

theorem queueOf_eq {c : Instr} {h : Hdr} (hc : hdrOf c = some h) : queueOf c = h.queue := by
  unfold queueOf
  rw [hc]

/-- Where no submission entry waits, no queue has a head. -/
theorem heads_empty {d : Dev} (hw : d.host.waiting = []) (g : Nat) : d.heads g = [] := by
  unfold heads
  rw [hw]
  rfl

/-- The only entry that waits is the head of its queue at its Gate. -/
theorem heads_single {d : Dev} {c : Instr} {h : Hdr} (hc : hdrOf c = some h) (hw : d.host.waiting = [c]) (hgo : d.mayGo c = true) :
    d.heads (d.portOf h.queue) = [c] := by
  have hq := queueOf_eq hc
  unfold heads
  simp [hw, hq, hgo]

/-- The Gate serves the only head that it has. -/
theorem dispatchNext_single {d : Dev} {c : Instr} {h : Hdr} {g : Nat} {a : GateArb} {y : Bool} (hc : hdrOf c = some h)
    (hh : d.heads g = [c]) (ha : d.arbitrate g [h.queue] = some (h.queue, a, y)) :
    d.dispatchNext g = (d.serveQueue g h.queue a y).dispatch c h := by
  have hq := queueOf_eq hc
  unfold dispatchNext
  simp only [hh, List.map_cons, List.map_nil, hq, ha, List.find?_cons, decide_true, hc]

/-- A command that no check ends and no earlier lock holds runs at its dispatch. -/
theorem dispatch_runs {d r : Dev} {c : Instr} {h : Hdr} (hcheck : (d.leaveQueue c h).dispatchCheck c h = none)
    (hr : r = (d.leaveQueue c h).registerLocks c h) (hlock : r.lockBlocked c h = false) :
    d.dispatch c h = r.hostBody c false := by
  subst hr
  unfold dispatch runLocked
  simp only [hcheck, hlock, Bool.false_eq_true, if_false]

end Dev

/-- An admitted command runs as it arrives, and its Gate then notes the heads of its queues. -/
theorem Admits.arrive_eq {d r : Dev} {c : Instr} {h : Hdr} (A : Admits d c h r) : d.arrive c = ranTo d h (r.hostBody c false) := by
  obtain ⟨hc, hopen, hfresh, halone, hgo, ⟨a, y, harb, hcheck, hr⟩, hlock⟩ := A
  have hnone : (d.wakeFor c).heads (d.portOf h.queue) = [] := Dev.heads_empty (by rw [Dev.wakeFor_host, halone]) _
  have hhead : ((d.wakeFor c).joinQueue c h).heads (d.portOf h.queue) = [c] := by
    have hw : ((d.wakeFor c).joinQueue c h).host.waiting = [c] := by simp [halone]
    simpa using Dev.heads_single hc hw hgo
  have hrun := Dev.dispatch_runs hcheck hr hlock
  unfold Dev.arrive ranTo
  simp only [hc, hopen, hfresh, hnone, Dev.dispatchNext_single hc hhead harb, hrun, Bool.not_true, Bool.or_self, List.isEmpty_nil,
    Bool.false_eq_true, if_false]

/-- A host's command that is admitted completes with what its body makes of the module. -/
theorem Admits.completes {s : State} {c : Instr} {h : Hdr} {r e : Dev} (A : Admits s.clear c h r)
    (hc : exec c s = effect (fun d => d.arrive c) s) (hb : r.hostBody c false = e) : Completes c s (ranTo s.clear h e) :=
  .of_effect hc (hb ▸ A.arrive_eq)

end Sys2Proof.Machine
end

section
/-! The commands of the plan, SNAPSHOT and ATTEST, as they arrive. -/

namespace Sys2Proof.Machine

/-- Settles O33: each of the rows arrives in its submission queue, and the body of each is its own command. -/
theorem planCommandsRun : Obligations.PlanCommandsRun :=
  ⟨fun _ _ _ _ _ A => A.completes rfl rfl, fun _ _ _ _ _ A => A.completes rfl rfl, fun _ _ _ _ A => A.completes rfl rfl,
    fun _ _ _ A => A.completes rfl rfl, fun _ _ _ A => A.completes rfl rfl, fun _ _ _ _ _ A => A.completes rfl rfl,
    fun _ _ _ _ _ A => A.completes rfl rfl⟩

end Sys2Proof.Machine
end

section
/-! Events of amendments, configuration flash, snapshots and telemetry: what each does where it is due. -/

namespace Sys2Proof.Machine

/-! Quiesce (R53, R55). -/

section
variable {d : Dev} {i : Nat} {c : Container} (hc : (d.amend i).container = some c) (hq : (d.amend i).step = .quiescing)
include hc hq

theorem quiesceDrained_eq (hd : d.drained c.scope = true) : quiesceDrained d i =
    if d.beat ≤ (d.amend i).startBeat + c.quiesceLimit then d.applyAmend i else d.abandon i 0x10 := by
  unfold quiesceDrained lastBeat
  simp [hc, hq, hd]

theorem quiesceTimeout_eq {e : Dev} (he : e = d.reach (((d.amend i).startBeat + c.quiesceLimit) * d.period)) :
    quiesceTimeout d i = if e.drained c.scope = true ∧ e.beat ≤ (d.amend i).startBeat + c.quiesceLimit then e.applyAmend i
      else e.abandon i 0x10 := by
  subst he
  unfold quiesceTimeout lastBeat
  simp [hc, hq]

end

/-! Configuration flash (R508 to R511). -/

theorem configErased_eq {q : Nat} (hq : q < 2) (d : Dev) (ok : Bool) : configErased d q ok = (d.sectorErased q ok).settleWrites :=
  if_neg (Nat.not_le.2 hq)

/-- What the registers show of a Square's flash changes neither the Squares nor a memory. -/
@[simp] theorem Dev.showFlash_squares (d : Dev) (q : Nat) : (d.showFlash q).squares = d.squares := rfl
@[simp] theorem Dev.showFlash_mems (d : Dev) (q : Nat) : (d.showFlash q).mems = d.mems := rfl

@[simp] theorem Dev.modFlash_mems (d : Dev) (q : Nat) (g : CfgFlash → CfgFlash) : (d.modFlash q g).mems = d.mems := by
  unfold Dev.modFlash
  rw [Dev.showFlash_mems]
  rfl

/-- The flash of a Square that was changed is what the change made of it. -/
theorem Dev.modFlash_flash_same (d : Dev) (q : Nat) (g : CfgFlash → CfgFlash) : (d.modFlash q g).flash q = g (d.flash q) := by
  unfold Dev.modFlash Dev.flash
  rw [Dev.showFlash_squares]
  split <;> rfl

theorem configResume_eq {q : Nat} (hq : q < 2) (d : Dev) : configResume d q = d.modFlash q fun f => { f with suspended := false } :=
  if_neg (Nat.not_le.2 hq)

theorem copyForward_eq {d : Dev} {q p : Nat} (hq : q < 2) (hs : d.sqState q ≠ .outOfService) (h0 : (d.flash 0).erasing = none)
    (h1 : (d.flash 1).erasing = none) (hw : d.squares.writeSets = []) (hp : oldestLive (d.flash q) = some p) :
    copyForward d q = d.beginErase q (some p) := by
  unfold copyForward
  simp [Nat.not_le.2 hq, hs, h0, h1, hw, hp]

/-! Snapshots and telemetry (R555, R557). -/

theorem standstillLatch_eq {d : Dev} {x : Standstill} (hx : d.trace.standstill = some x) (kind i : Nat) :
    standstillLatch d kind i = (d.reach x.latchTime).addSections (4096 * kind + i % 4096) (d.unitSilent kind i) := by
  unfold standstillLatch
  rw [hx]

theorem snapshotUnitTimeout_eq {d : Dev} {x : Standstill} (hx : d.trace.standstill = some x) (kind i : Nat) :
    snapshotUnitTimeout d kind i = (d.reach (x.latchTime + 10000000)).addSections (4096 * kind + i % 4096) true := by
  unfold snapshotUnitTimeout
  rw [hx]

theorem telemetrySample_eq {d : Dev} (he : d.fbit Reg.TRC_TELEM Fld.TRC_TELEM_ENABLE = true) (hs : d.slotNames 7 = true)
    (hn : d.trace.nextSample ≤ d.beat) : telemetrySample d = d.telemetryTake :=
  if_pos (by simp [he, hs, hn])

/-- Settles O43: where an event is due, none of its guards turns it away, and what it then does is its equation. -/
theorem planEventsComplete : Obligations.PlanEventsComplete := by
  refine ⟨fun s i c hc hq hd => ⟨fun hin => ?drainedInTime, fun hlate => ?drainedLate⟩,
    fun s i c d hc hq he => ⟨fun hin => ?limitInTime, fun hout => ?limitPassed⟩, fun s q _ _ ok hq _ _ => ?erased,
    fun s q hq => ⟨s.clear.modFlash q fun f => { f with suspended := false }, ?resumed, ?unsuspended, ?unchanged⟩,
    fun s q p hq hs h0 h1 hw hp => ?copied, fun s kind i x hx => ⟨?latched, ?givenUp⟩, fun s he hslot hn => ?sampled⟩
  case drainedInTime => exact .of_effect (f := (quiesceDrained · i)) rfl ((quiesceDrained_eq hc hq hd).trans (if_pos hin))
  case drainedLate =>
    exact .of_effect (f := (quiesceDrained · i)) rfl ((quiesceDrained_eq hc hq hd).trans (if_neg (Nat.not_le.2 hlate)))
  case limitInTime => exact .of_effect (f := (quiesceTimeout · i)) rfl ((quiesceTimeout_eq hc hq he).trans (if_pos hin))
  case limitPassed =>
    have hnot : ¬ (d.drained c.scope = true ∧ d.beat ≤ (s.clear.amend i).startBeat + c.quiesceLimit) := by
      rintro ⟨hd, hb⟩
      rcases hout with hundrained | hlate
      · exact absurd (hd.symm.trans hundrained) nofun
      · exact Nat.not_le.2 hlate hb
    exact .of_effect (f := (quiesceTimeout · i)) rfl ((quiesceTimeout_eq hc hq he).trans (if_neg hnot))
  case erased => exact .of_effect (f := (configErased · q ok)) rfl (configErased_eq hq _ ok)
  case resumed => exact .of_effect (f := (configResume · q)) rfl (configResume_eq hq _)
  case unsuspended => rw [Dev.modFlash_flash_same]
  case unchanged => exact Dev.modFlash_mems _ _ _
  case copied => exact .of_effect (f := (copyForward · q)) rfl (copyForward_eq hq hs h0 h1 hw hp)
  case latched => exact .of_effect (f := (standstillLatch · kind i)) rfl (standstillLatch_eq hx kind i)
  case givenUp => exact .of_effect (f := (snapshotUnitTimeout · kind i)) rfl (snapshotUnitTimeout_eq hx kind i)
  case sampled => exact .of_effect (f := telemetrySample) rfl (telemetrySample_eq he hslot hn)

end Sys2Proof.Machine
end

section
/-! SUPPORT. Integers as data: what sums, differences and products of them stand for, and what an integer destination makes of them
(R76, R85). -/

namespace Sys2Proof.Machine

/-- No alignment is needed where the exponents agree. -/
theorem alignAt_self (n : Bool) (m : Nat) (e : Int) : alignAt n m e e = if n then -(m : Int) else m := by
  simp [alignAt]

/-- The datum is the integer `k`, at exponent 0; a zero may have either sign. -/
def Datum.isInteger (x : Datum) (k : Int) : Prop := ∃ n m, x = .fin n m 0 ∧ alignAt n m 0 0 = k

theorem Datum.isInteger_ofInt (i : Int) : (Datum.ofInt i).isInteger i := by
  refine ⟨_, _, rfl, ?_⟩
  simp only [alignAt_self, decide_eq_true_eq]
  split <;> omega

theorem Datum.isInteger_zero (n : Bool) : (Datum.zero n).isInteger 0 := ⟨n, 0, rfl, by simp [alignAt_self]⟩

theorem Datum.isInteger.negate {x : Datum} {i : Int} (h : x.isInteger i) : x.negate.isInteger (-i) := by
  obtain ⟨n, m, rfl, rfl⟩ := h
  exact ⟨!n, m, rfl, by cases n <;> simp [alignAt_self]⟩

theorem isInteger_addFin (z n₁ n₂ : Bool) (m₁ m₂ : Nat) :
    (addFin z n₁ m₁ 0 n₂ m₂ 0).isInteger (alignAt n₁ m₁ 0 0 + alignAt n₂ m₂ 0 0) := by
  unfold addFin
  simp only [min_self]
  split
  · next h =>
    obtain ⟨rfl, rfl⟩ := h
    simpa [alignAt_self] using Datum.isInteger_zero _
  · split
    · next h =>
      rw [h]
      exact Datum.isInteger_zero z
    · exact Datum.isInteger_ofInt _

/-- The sum of two integers is exact and raises nothing. -/
theorem addNum_of_isInteger (mode : Rnd) {a b : Datum} {i j : Int} (ha : a.isInteger i) (hb : b.isInteger j) :
    ∃ x, addNum mode a b = pure x ∧ x.isInteger (i + j) := by
  obtain ⟨n₁, m₁, rfl, rfl⟩ := ha
  obtain ⟨n₂, m₂, rfl, rfl⟩ := hb
  exact ⟨_, rfl, isInteger_addFin (mode = .rdn) n₁ n₂ m₁ m₂⟩

/-- The product of two integers is exact and raises nothing. -/
theorem mulNum_of_isInteger {a b : Datum} {i j : Int} (ha : a.isInteger i) (hb : b.isInteger j) :
    ∃ x, mulNum a b = pure x ∧ x.isInteger (i * j) := by
  obtain ⟨n₁, m₁, rfl, rfl⟩ := ha
  obtain ⟨n₂, m₂, rfl, rfl⟩ := hb
  exact ⟨_, rfl, n₁ != n₂, m₁ * m₂, rfl, by cases n₁ <;> cases n₂ <;> simp [alignAt_self]⟩

/-- An integer is a multiple of one, so rounding to one leaves it. -/
theorem roundAt_integer (mode : Rnd) (n : Bool) (m : Nat) : roundAt mode n m 1 0 0 = (m, false) := by
  simp [roundAt, roundIntQ, pow2Num, pow2Den, Nat.mod_one]

theorem Fmt.intRange_le (f : Fmt) (signed : Bool) : (f.intRange signed).1 ≤ (f.intRange signed).2 := by
  cases f <;> cases signed <;> decide

/-- An integer goes to an integer format as itself, or as the nearer end of the range with SATURATED alone. -/
theorem roundToInt_integer (f : Fmt) (signed : Bool) (mode : Rnd) (n : Bool) (m : Nat) {k : Int}
    (hk : alignAt n m 0 0 = k) : (roundToInt f signed true mode ⟨n, m, 1, 0⟩).run0 =
      (max (f.intRange signed).1 (min (f.intRange signed).2 k),
        if k < (f.intRange signed).1 ∨ (f.intRange signed).2 < k then { saturated := true, satOps := 1 } else {}) := by
  have hle := f.intRange_le signed
  have hrun : (roundToInt f signed true mode ⟨n, m, 1, 0⟩).run0 =
      if k < (f.intRange signed).1 ∨ (f.intRange signed).2 < k then
        (if k < (f.intRange signed).1 then (f.intRange signed).1 else (f.intRange signed).2, { saturated := true, satOps := 1 })
      else (k, {}) := by
    rw [alignAt_self] at hk
    unfold roundToInt
    simp only [roundAt_integer, hk, Bool.or_eq_true, decide_eq_true_eq, gt_iff_lt]
    split <;> rfl
  rw [hrun]
  split
  · congr 1
    split <;> omega
  · congr 1
    omega

/-- What an integer destination makes of an integer from integer formats. -/
theorem VecFmt.put_integer {v : VecFmt} (hout : v.out.isInt = true) {x : Datum} {k : Int} (hx : x.isInteger k) :
    (v.put true x).run0 = (ofSigned v.out.width (max (v.out.intRange v.outSigned).1 (min (v.out.intRange v.outSigned).2 k)),
      if k < (v.out.intRange v.outSigned).1 ∨ (v.out.intRange v.outSigned).2 < k then { saturated := true, satOps := 1 } else {}) := by
  obtain ⟨n, m, rfl, hk⟩ := hx
  have hput : (v.put true (.fin n m 0)).run0 =
      (roundToInt v.out v.outSigned true v.rnd ⟨n, m, 1, 0⟩).run0.map (ofSigned v.out.width) id := by
    unfold VecFmt.put place
    rw [if_pos hout]
    rfl
  rw [hput, roundToInt_integer _ _ _ n m hk]
  rfl

end Sys2Proof.Machine
end

section
/-! Integer arithmetic of the vector unit (R76). -/

namespace Sys2Proof.Machine

section
variable {v : VecFmt} (ha : v.a.isInt = true) (hw : v.w.isInt = true) (scale : Nat)
include ha hw

/-! Each operation on two integers places the integer that it forms. -/

theorem vecElem_add_integers (i j : Int) (c : Datum) :
    ∃ x, vecElem v scale 0x01 (.ofInt i) (.ofInt j) c = v.put true x ∧ x.isInteger (i + j) := by
  obtain ⟨x, hx, hk⟩ := addNum_of_isInteger v.rnd (Datum.isInteger_ofInt i) (Datum.isInteger_ofInt j)
  exact ⟨x, by simp only [vecElem, ha, hw, hx, Bool.and_self, pure_bind], hk⟩

theorem vecElem_sub_integers (i j : Int) (c : Datum) :
    ∃ x, vecElem v scale 0x02 (.ofInt i) (.ofInt j) c = v.put true x ∧ x.isInteger (i - j) := by
  obtain ⟨x, hx, hk⟩ := addNum_of_isInteger v.rnd (Datum.isInteger_ofInt i) (Datum.isInteger_ofInt j).negate
  have hnan : (Datum.ofInt j).isNaN = false := rfl
  exact ⟨x, by simp only [vecElem, ha, hw, hnan, hx, Bool.and_self, Bool.false_eq_true, if_false, pure_bind], hk⟩

theorem vecElem_mul_integers (i j : Int) (c : Datum) :
    ∃ x, vecElem v scale 0x03 (.ofInt i) (.ofInt j) c = v.put true x ∧ x.isInteger (i * j) := by
  obtain ⟨x, hx, hk⟩ := mulNum_of_isInteger (Datum.isInteger_ofInt i) (Datum.isInteger_ofInt j)
  exact ⟨x, by simp only [vecElem, ha, hw, hx, Bool.and_self, pure_bind], hk⟩

/-- An integer divided by zero into an integer format gives an end of the range, by its sign, and DIV_BY_ZERO alone. -/
theorem vecElem_div_zero (hout : v.out.isInt = true) (i : Int) (c : Datum) :
    (vecElem v scale 0x04 (.ofInt i) (.ofInt 0) c).run0 =
      (ofSigned v.out.width (if i < 0 then (v.out.intRange v.outSigned).1 else (v.out.intRange v.outSigned).2),
        { divByZero := true }) := by
  have hdiv : (divPlace v true (.ofInt i) (.ofInt 0)).run0 =
      (ofSigned v.out.width
        (if (decide (i < 0) && decide (i.natAbs ≠ 0)) = true then (v.out.intRange v.outSigned).1
          else (v.out.intRange v.outSigned).2), { divByZero := true }) := by
    unfold divPlace
    rw [hout]
    rfl
  have hneg : (decide (i < 0) && decide (i.natAbs ≠ 0)) = decide (i < 0) := by
    rw [← Bool.decide_and]
    exact decide_eq_decide.2 (by omega)
  simp only [hneg, decide_eq_true_eq] at hdiv
  simpa only [vecElem, ha, hw, Bool.and_self] using hdiv

end

/-- Settles O56: each operation forms its integer exactly, and an integer destination gives it or, with SATURATED, the nearer end. -/
theorem integerArithmeticSaturates : Obligations.IntegerArithmeticSaturates := by
  intro v scale i j c ha hw hout
  refine ⟨fun p hp => ?_, vecElem_div_zero ha hw scale hout i c⟩
  have hplaced : ∃ x, vecElem v scale p.1 (.ofInt i) (.ofInt j) c = v.put true x ∧ x.isInteger p.2 := by
    simp only [List.mem_cons, List.not_mem_nil, or_false] at hp
    rcases hp with rfl | rfl | rfl
    · exact vecElem_add_integers ha hw scale i j c
    · exact vecElem_sub_integers ha hw scale i j c
    · exact vecElem_mul_integers ha hw scale i j c
  obtain ⟨x, hput, hx⟩ := hplaced
  rw [hput, VecFmt.put_integer hout hx]
  refine ⟨rfl, ?_⟩
  dsimp only
  split
  · next h => exact iff_of_true rfl h
  · next h => exact iff_of_false Bool.false_ne_true h

end Sys2Proof.Machine
end

section
/-! SUPPORT. The array operations of a block's running command: what one stores and where, and what an operation with a zero count does
(R4, R106, R107, R139). -/

namespace Sys2Proof.Machine

/-! Bytes stored. -/

/-- Bytes stored in a memory in canonical form load back. -/
theorem Mem.load_store (m : Mem) (a : Nat) (bytes : List Byte) (h : Mem.wf m = true) :
    Mem.load (Mem.store m a bytes) a bytes.length = bytes := by
  induction bytes generalizing m a with
  | nil => rfl
  | cons b t ih =>
    have hw := Mem.wf_write m a b h
    simp only [Mem.store, List.length_cons, Mem.load]
    rw [Mem.read_store_ne _ _ _ _ (.inl (Nat.lt_succ_self a)), Mem.read_write m a b h, ih _ _ hw]

/-! What work that keeps every byte leaves. -/

theorem KeepsWork.mems {d e : Dev} (h : KeepsWork d e) : e.mems = d.mems := by
  obtain ⟨⟨hbm, hobj, hns⟩, -⟩ := h
  rw [Dev.mems, hbm, hobj, hns]
  rfl

/-- A command is still in its slot, at the same operation of its list. -/
theorem KeepsWork.slot_some {d e : Dev} (h : KeepsWork d e) {b i : Nat} {x : Slot} (hx : d.slot b i = some x) :
    ∃ z, e.slot b i = some z ∧ z.next = x.next :=
  Option.map_eq_some_iff.1 (by rw [h.2, hx, Option.map_some])

/-! A block's next operation (R4, R138). -/

/-- One with a zero count is done, whatever its engine would do. -/
theorem runOp_empty {d : Dev} {b i : Nat} {x : Slot} {o : Desc} {want : Desc → Bool} (f : Dev → Nat → Slot → Desc → Option (Dev × Cost))
    (h : d.nextOp b = some (i, x, o)) (hw : want o = true) (he : o.empty = true) : runOp d b want f = d.opDone b i x.district {} := by
  unfold runOp
  simp only [h, hw, he, Bool.not_true, Bool.false_eq_true, if_false, if_true]

/-- A command of which the engine stores packed codes at the operation's output, after steps that keep every byte and the place of every
command in its list, gives them. -/
theorem Gives.of_stored {c : Instr} {s : State} {b i : Nat} {x : Slot} {o : Desc} {want : Desc → Bool}
    {f : Dev → Nat → Slot → Desc → Option (Dev × Cost)} {g : Fmt} {codes : List Nat} {e : Dev} {k : Cost} (hs : Canonical s)
    (hc : exec c s = effect (fun d => runOp d b want f) s) (hn : s.clear.nextOp b = some (i, x, o)) (hw : want o = true)
    (he : o.empty = false) (hf : f s.clear i x o = some (e.storeBm b o.out (packCodes g codes), k)) (hk : KeepsWork s.clear e) :
    Gives c s b i x o g codes := by
  obtain ⟨z, hz, hzn⟩ := hk.slot_some (Dev.slot_of_nextOp hn)
  obtain ⟨⟨hbm, hobj, hns⟩, -⟩ := hk
  obtain ⟨⟨tbm, tobj, tns⟩, y, hy, hyn⟩ :=
    (e.storeBm b o.out (packCodes g codes)).opDone_spec b i x.district k z hz
  refine ⟨_, y, .of_effect hc ?_, ?_, fun a => ⟨fun ha => ?_, ?_, ?_⟩, hy, hyn.trans (by rw [hzn])⟩
  · rw [runOp_spec f hn hw he, hf]
  · rw [Dev.loadBm, tbm]
    exact Mem.load_store _ _ _ (by rw [hbm]; exact hs.1)
  · rw [tbm, Dev.storeBm_bmem, Mem.read_store_ne _ _ _ _ ha, hbm]; rfl
  · rw [tobj, Dev.storeBm_objMem, hobj]; rfl
  · rw [tns, Dev.storeBm_nsMem, hns]; rfl

/-! Array operations (R106, R139, R141). -/

theorem exec_arrayRow {p : Nat × (Nat → Instr)} (hp : p ∈ arrayRows) (b : Nat) (s : State) :
    exec (p.2 b) s = effect (fun d => arrayStep p.1 d b) s := by
  unfold arrayRows at hp
  fin_cases hp <;> rfl

theorem exec_vectorRow {p : Nat × (Nat → Instr)} (hp : p ∈ vectorRows) (b : Nat) (s : State) :
    exec (p.2 b) s = effect (fun d => vectorStep p.1 d b) s := by
  unfold vectorRows at hp
  fin_cases hp <;> rfl

/-- Format arithmetic gives the value of its run, whatever flags it raises. -/
theorem Dev.withFlags_fst {α : Type} (d : Dev) (dist : Nat) (x : FM α) : (d.withFlags dist x).1 = x.run0.1 := rfl

/-- An array operation whose weights are in the buffers of its cells, none with a metadata error, stores its codes at its output; what comes
before the store counts, drains the cells and raises flags. -/
theorem arrayOp_stores {d : Dev} {b : Nat} {x : Slot} {o : Desc} {y : ArrOp} (i : Nat) (hy : arrOpOf d b x.district x.keep o = some y)
    (hbad : (x.badMeta.filter fun m => m.1 = x.next) = []) (hcells : (inService d b).isEmpty = false) (hw : weightsHere d b y = true) :
    ∃ e k, arrayOp d b i x o = some (e.storeBm b o.out (packCodes y.f (arrayCodes d b o y)), k) ∧ KeepsWork d e := by
  unfold arrayOp arrayCodes
  simp only [hy, hbad, hcells, hw, List.map_nil, List.isEmpty_nil, Bool.not_true, Bool.or_self, Bool.false_eq_true, if_false]
  have hk := settle_keeps d b o y
  generalize settle d b o y = e at hk ⊢
  rw [← Dev.withFlags_fst e x.district]
  replace hk := hk.trans (e.withFlags_keeps x.district (arrayFM (e.bankOf b) o y (arrayIn e b o y)))
  generalize e.withFlags x.district _ = r at hk ⊢
  exact ⟨_, _, rfl, ((((hk.trans (observe_keeps _ b i x _)).trans (countArray_keeps _ b _)).trans (countArrayOps_keeps _ b o y _)).trans
    (drainCells_keeps _ b _)).trans (stallCells_keeps _ b i _ _)⟩

/-- Settles O8: the rows differ in their MODE only, and each stores what `arrayOp_stores` says. -/
theorem arrayOperationsComplete : Obligations.ArrayOperationsComplete := by
  intro s b i x o y hs hn harr he hy hbad hcells hw
  obtain ⟨e, k, hop, hk⟩ := arrayOp_stores i hy hbad hcells hw
  have hgives : ∀ p ∈ arrayRows, o.mode = p.1 → Gives (p.2 b) s b i x o y.f (arrayCodes s.clear b o y) := fun p hp hm =>
    .of_stored hs (exec_arrayRow hp b s) hn (by simp [wantArray, harr, hm]) he hop hk
  simpa only [arrayRows, List.forall_mem_cons, List.not_mem_nil, false_implies, implies_true, and_true] using hgives

/-- Settles O11: the engine is not asked, so that only the operation's end remains, which keeps every byte. -/
theorem zeroCountsDoNothing : Obligations.ZeroCountsDoNothing := by
  intro s b i x o hn he
  refine ⟨fun p hp hw => .of_effect (exec_arrayRow hp b s) (runOp_empty _ hn hw he),
    fun p hp hw => .of_effect (exec_vectorRow hp b s) (runOp_empty _ hn hw he), ?_⟩
  obtain ⟨⟨hbm, hobj, hns⟩, -⟩ := s.clear.opDone_spec b i x.district {} x (Dev.slot_of_nextOp hn)
  rw [Dev.mems, hbm, hobj, hns]
  rfl

end Sys2Proof.Machine
end

section
/-! SUPPORT. The other steps of a block's running command: its shadow loads, its pair gather, its dispatch and its boundary (R113, R134,
R195, R304, R305). -/

namespace Sys2Proof.Machine

theorem KeepsWork.ite {p : Prop} [Decidable p] {d e f : Dev} (h : KeepsWork d e) (g : KeepsWork d f) :
    KeepsWork d (if p then e else f) := by
  split
  · exact h
  · exact g

/-! Shadow loads (R113, R114). -/

/-- A load finds its block with the boundaries passed that the cells can pass. -/
theorem shadowLoad_eq (d : Dev) (b : Nat) : shadowLoad d b = loadDone (loadState d b) b := by
  unfold shadowLoad loadState
  cases nextArray d b <;> rfl

theorem loadState_keeps (d : Dev) (b : Nat) : KeepsWork d (loadState d b) := by
  unfold loadState
  split
  · exact settle_keeps d b _ _
  · exact .refl d

theorem loadCell_keeps (d : Dev) (b dist : Nat) (l : Nat × Want) : KeepsWork d (loadCell d b dist l) :=
  ((d.withFlags_keeps dist _).trans (.modCell _ b l.1 _)).trans (.fadd _ _ _ _)

/-- The shadow buffer of a cell that a block has holds what a tag says. -/
def ShadowHolds (d : Dev) (b c : Nat) (k : BufKey) : Prop :=
  ∀ z, (d.block b).cells[c]? = some z → ∃ u, z.shadow = some u ∧ u.key = k

theorem ShadowHolds.of_cells {d e : Dev} {b c : Nat} {k : BufKey} (h : ShadowHolds d b c k)
    (he : (e.block b).cells = (d.block b).cells) : ShadowHolds e b c k := fun z hz => h z (he ▸ hz)

theorem Dev.slot_modSlot_same {d : Dev} {b i : Nat} {x : Slot} (f : Slot → Slot) (h : d.slot b i = some x) :
    (d.modSlot b i f).slot b i = some (f x) := by
  rw [Dev.slot_modSlot, if_pos ⟨rfl, rfl⟩, h, Option.map_some]

theorem Dev.modSlot_cells (d : Dev) (b i : Nat) (f : Slot → Slot) : ((d.modSlot b i f).block b).cells = (d.block b).cells := by
  rw [Dev.modSlot, Dev.modBlock, Dev.block_setBlock]

theorem Dev.modCell_cells (d : Dev) (b c : Nat) (f : Cell → Cell) : ((d.modCell b c f).block b).cells[c]? = ((d.block b).cells[c]?).map f := by
  rw [Dev.modCell, Dev.modBlock, Dev.block_setBlock]
  simp [Function.comp_def]

theorem stallCells_cells (d : Dev) (b i : Nat) (f : Fld) (cells : List Nat) :
    ((stallCells d b i f cells).block b).cells = (d.block b).cells :=
  foldl_keeps (fun e : Dev => (e.block b).cells = (d.block b).cells) _ _ _ rfl fun _ _ h => (Dev.modSlot_cells _ b i _).trans h

theorem Dev.block_fadd (d : Dev) (a : Nat) (f : Fld) (n b : Nat) : (d.fadd a f n).block b = d.block b := rfl

theorem loadCell_shadow (d : Dev) (b dist c : Nat) (w : Want) : ShadowHolds (loadCell d b dist (c, w)) b c w.key := by
  intro z hz
  simp only [loadCell, Dev.block_fadd, Dev.modCell_cells] at hz
  obtain ⟨x, -, rfl⟩ := Option.map_eq_some_iff.1 hz
  exact ⟨_, rfl, rfl⟩

/-- The loads in progress complete: no byte changes, the command they are for has its operation loaded, and a load that is alone fills the
shadow buffer of its cell. -/
theorem loadDone_loads {d : Dev} {b c : Nat} {w : Want} {rest : List (Nat × Want)} {x : Slot} (hl : loadWanted d b = (c, w) :: rest)
    (hx : d.slot b w.slot = some x) (hs : w.o.sparse = false) :
    ∃ e f, loadDone d b = e.modSlot b w.slot f ∧ KeepsWork d e ∧ (∀ y, (f y).loadedOp = some w.ix) ∧
      (rest = [] → ShadowHolds e b c w.key) := by
  unfold loadDone
  simp only [hl, hx, List.filter_cons, hs, Bool.not_false, Bool.true_or, if_true, Bool.not_true, Bool.false_eq_true, if_false,
    List.isEmpty_cons]
  refine ⟨_, _, rfl, ?_, fun _ => rfl, ?_⟩
  · refine .ite (.trans ?loads (stallCells_keeps _ b w.slot _ _)) ?loads
    refine KeepsWork.trans (.ite ?_ (.refl d)) (.foldl _ (fun d l => loadCell_keeps d b x.district l) _ _)
    exact (KeepsWork.fadd d _ _ _).trans (.modSlot _ b w.slot _ fun _ => rfl)
  · rintro rfl
    have hload := fun d : Dev => loadCell_shadow d b x.district c w
    split
    · exact (hload _).of_cells (stallCells_cells _ b w.slot _ _)
    · exact hload _

/-! The pair gather (R302, R304, R305). -/

/-- Work on the media stands in no block. -/
theorem KeepsWork.of_media {d e : Dev} (h : MediaOnly d e) : KeepsWork d e := by
  obtain ⟨⟨ks, rs, m, n, rfl⟩, -⟩ := h
  exact ⟨⟨rfl, rfl, rfl⟩, fun _ _ => rfl⟩

theorem KeepsWork.modKerb (d : Dev) (k : Nat) (f : Kerb → Kerb) : KeepsWork d (d.modKerb k f) := ⟨⟨rfl, rfl, rfl⟩, fun _ _ => rfl⟩

namespace Dev

theorem dropSpec_keeps (d : Dev) (k : Nat) (p : CachePiece) : KeepsWork d (d.dropSpec k p) := .ite (.fadd d _ _ _) (.refl d)

theorem cacheLook_keeps (d : Dev) (k ns piece gen : Nat) : KeepsWork d (d.cacheLook k ns piece gen).2 := by
  unfold cacheLook
  split
  · exact .fadd d _ _ _
  · dsimp only
    split
    · exact ((KeepsWork.modKerb d k _).trans (.modKerb _ k _)).trans (.fadd _ _ _ _)
    · exact (((KeepsWork.modKerb d k _).trans (dropSpec_keeps _ k _)).trans (.fadd _ _ _ _)).trans (.fadd _ _ _ _)

theorem takeOver_keeps {d e : Dev} {l : UnitLoc} {o : DieOp} (h : d.takeOver l o = some e) : KeepsWork d e := by
  unfold takeOver at h
  dsimp only at h
  split at h <;> cases h
  exact .modKerb d _ _

theorem needPiece_keeps (d : Dev) (query ns piece : Nat) (high : Bool) (cls : DieClass) (p : DiePurpose) :
    KeepsWork d (d.needPiece query ns piece high cls p).2 := by
  unfold needPiece
  split
  · exact .refl d
  · next l _ =>
    have hlook : KeepsWork d (if high then (false, d) else d.cacheLook l.kerb ns piece (d.generationAt ns l)).2 := by
      split
      · exact .refl d
      · exact d.cacheLook_keeps _ _ _ _
    dsimp only
    generalize (if high then (false, d) else d.cacheLook l.kerb ns piece (d.generationAt ns l)) = r at hlook ⊢
    split
    · exact hlook
    · refine hlook.trans ?_
      cases ho : (if high then none else r.2.takeOver l _) with
      | none => exact .of_media (enqueue_frame _ _ _ _)
      | some e =>
        split at ho
        · cases ho
        · exact takeOver_keeps ho

theorem countOther_keeps (d : Dev) (query ns piece : Nat) : KeepsWork d (d.countOther query ns piece) := by
  unfold countOther
  split
  · exact .fadd d _ _ _
  · exact .refl d

/-- Reads that a reader needs change no byte and no command's place. -/
theorem needAll_keeps (d : Dev) (dist : Option Nat) (cls : DieClass) (ps : List (Nat × Nat × Nat × DiePurpose)) :
    KeepsWork d (d.needAll dist cls ps).2 := by
  have hread : ∀ (acc : Nat × Dev) (p : Nat × Nat × Nat × DiePurpose), KeepsWork d acc.2 →
      KeepsWork d ((acc.2.countOther p.1 p.2.1 p.2.2.1).needPiece p.1 p.2.1 p.2.2.1 false cls p.2.2.2).2 := fun acc p h =>
    (h.trans (countOther_keeps _ _ _ _)).trans (needPiece_keeps _ _ _ _ _ _ _)
  unfold needAll
  cases dist with
  | none => exact foldl_keeps (fun acc : Nat × Dev => KeepsWork d acc.2) _ ps (0, d) (.refl d) hread
  | some x => exact (foldl_keeps (fun acc : Nat × Dev => KeepsWork d acc.2) _ ps (0, d) (.refl d) hread).trans (.fadd _ _ _ _)

theorem slot_of_running {d : Dev} {b i : Nat} {x : Slot} (h : d.running b = some (i, x)) : d.slot b i = some x := by
  unfold running at h
  obtain ⟨j, -, hj⟩ := Option.bind_eq_some_iff.1 h
  obtain ⟨y, hy, hyx⟩ := Option.map_eq_some_iff.1 hj
  cases hyx
  exact hy

theorem addBasis_blocks (d : Dev) (u dist n : Nat) : (d.addBasis u dist n).blocks = d.blocks := by
  unfold addBasis
  split <;> rfl

theorem basisBytes_blocks (d : Dev) (dist : Nat) (o : Obj) (a n : Nat) : (d.basisBytes dist o a n).blocks = d.blocks := by
  unfold basisBytes
  split
  · rfl
  · refine foldl_keeps (fun e : Dev => e.blocks = d.blocks) _ _ _ rfl fun e j h => ?_
    dsimp only
    split
    · exact (addBasis_blocks e _ _ _).trans h
    · exact h

theorem countTier_blocks (d : Dev) (dist tier n : Nat) : (d.countTier dist tier n).blocks = d.blocks := by
  unfold countTier
  split <;> rfl

theorem touchRead_blocks (d : Dev) (dist i n a : Nat) : (d.touchRead dist i n a).blocks = d.blocks := by
  unfold touchRead
  split
  · rfl
  · exact (countTier_blocks _ _ _ _).trans (basisBytes_blocks d _ _ _ _)

/-- A pair gather leaves every block as it was, but that its command has gathered. -/
theorem pairGather_blocks (d : Dev) (b i : Nat) (x : Slot) :
    (d.pairGather b i x).blocks = (d.modSlot b i fun y => { y with gathered := true, gatherWait := none }).blocks := by
  unfold pairGather
  dsimp only
  split
  · rfl
  · simp only [storeBm_blocks, touchRead_blocks]
    exact foldl_keeps (fun e : Dev => e.blocks = _) _ _ _ rfl fun e w h => h

theorem slot_of_blocks {d e : Dev} (h : e.blocks = d.blocks) (b i : Nat) : e.slot b i = d.slot b i := by
  unfold slot block
  rw [h]

/-- A pair gather that starts runs at once, or waits for a number of reads and has changed no byte. -/
theorem startGather_gathers {d : Dev} {b i : Nat} {x : Slot} (hx : d.slot b i = some x) :
    ∃ y, (d.startGather b i x).slot b i = some y ∧
      (y.gathered = true ∨ (∃ n, y.gatherWait = some (n + 1)) ∧ (d.startGather b i x).mems = d.mems) := by
  unfold startGather
  dsimp only
  generalize hr : d.needAll _ _ _ = r
  have hk : KeepsWork d r.2 := hr ▸ needAll_keeps d _ _ _
  obtain ⟨n, e⟩ := r
  obtain ⟨z, hz, -⟩ := hk.slot_some hx
  cases n with
  | zero => exact ⟨_, (slot_of_blocks (pairGather_blocks e b i x) b i).trans (slot_modSlot_same _ hz), .inl rfl⟩
  | succ n => exact ⟨_, slot_modSlot_same _ hz, .inr ⟨⟨n, rfl⟩, hk.mems⟩⟩

end Dev

/-! Where they are due. -/

section
variable {s : State} {b : Nat}

theorem shadowLoadDone_completes {c : Nat} {w : Want} {rest : List (Nat × Want)} {x : Slot}
    (hl : loadWanted (loadState s.clear b) b = (c, w) :: rest) (hx : (loadState s.clear b).slot b w.slot = some x)
    (hs : w.o.sparse = false) : ∃ t y, Completes (.shadowLoadDone b) s t ∧ t.mems = s.dev.mems ∧ t.slot b w.slot = some y ∧
      y.loadedOp = some w.ix ∧ (rest = [] → ShadowHolds t b c w.key) := by
  obtain ⟨e, f, he, hk, hf, hshadow⟩ := loadDone_loads hl hx hs
  obtain ⟨z, hz, -⟩ := hk.slot_some hx
  exact ⟨e.modSlot b w.slot f, f z, .of_effect (f := (shadowLoad · b)) rfl ((shadowLoad_eq _ b).trans he),
    ((loadState_keeps s.clear b).trans hk).mems, Dev.slot_modSlot_same f hz, hf z,
    fun hr => (hshadow hr).of_cells (Dev.modSlot_cells e b w.slot f)⟩

theorem pairGather_completes {i : Nat} {x : Slot} (hr : s.clear.running b = some (i, x)) (hp : bits x.pairGather 31 1 = 1)
    (hg : x.gathered = false) (hw : x.gatherWait = none) (hf : x.failed = none) :
    Completes (.pairGather b) s (s.clear.startGather b i x) := by
  refine .of_effect (execPairGather.eq_1 b s) ?_
  simp [hr, hp, hg, hw, hf]

theorem expertDispatch_completes {i : Nat} {x : Slot} (hr : s.clear.running b = some (i, x)) (hp : bits x.routeState 31 1 = 1)
    (hd : x.dispatched = false) (hf : x.failed = none) (hdone : x.ops.length ≤ x.next) (hdma : s.clear.dmaOf b i = false)
    (hg : bits x.pairGather 31 1 = 0 ∨ x.gathered = true) : Completes (.expertDispatch b) s (s.clear.expertDispatch b i x) := by
  refine .of_effect (execExpertDispatch.eq_1 b s) ?_
  simp [hr, hp, hd, hf, hdone, hdma, hg]

end

/-- Settles O14: each step passes its guards where it is due; a load and a gather then do what their lemmas say. -/
theorem commandStepsComplete : Obligations.CommandStepsComplete := by
  refine ⟨fun s b c w rest x hl hx hs => shadowLoadDone_completes hl hx hs, fun s b i x hr hp hg hw hf => ?gather,
    fun s b i x hr hp hd hf hdone hdma hg => expertDispatch_completes hr hp hd hf hdone hdma hg, fun s b => rfl⟩
  case gather =>
    obtain ⟨y, hy, hdone⟩ := Dev.startGather_gathers (Dev.slot_of_running hr)
    exact ⟨_, y, pairGather_completes hr hp hg hw hf, hy, hdone⟩

end Sys2Proof.Machine
end

section
/-! SUPPORT. Faults of a block's cells and self-tests of its spares: what turns a report away, and what it does where nothing does (R62,
R120 to R122, R490). -/

namespace Sys2Proof.Machine

/-- The error of a cell changes registers only, so that it begins no self-test. -/
theorem cellError_blockTesting (source entry column b : Nat) (d : Dev) (c b' : Nat) :
    (cellError source entry column b d c).blockTesting b' = d.blockTesting b' := by
  unfold cellError
  dsimp only
  split <;> rfl

/-- Settles O15: with the report in range, a cell in service and no self-test, no guard turns it away. -/
theorem cellFaultsComplete : Obligations.CellFaultsComplete := by
  refine ⟨fun s b c source entry column e spares hsrc hc hlive ht he hsp => ?one, fun s b source entry column e hsrc hlive ht he => ?every,
    fun s spare b e hfind he => ⟨?passed, ?failed⟩⟩
  case one =>
    subst he hsp
    refine .of_effect (f := (cellParityError · b c source entry column)) rfl ?_
    unfold cellParityError
    dsimp only
    rw [if_neg (Nat.not_lt.2 hsrc), if_neg (Nat.not_le.2 hc), hlive, Bool.not_true,
      if_neg Bool.false_ne_true, cellError_blockTesting, ht, if_neg Bool.false_ne_true]
  case every =>
    subst he
    have htest := foldl_keeps (fun e : Dev => e.blockTesting b = false) (cellError source entry column b)
      ((inService s.clear b).map (·.1)) s.clear ht fun e c h => (cellError_blockTesting source entry column b e c b).trans h
    refine .of_effect (f := (cellParityError · b 4 source entry column)) rfl ?_
    unfold cellParityError
    dsimp only
    rw [if_neg (Nat.not_lt.2 hsrc), if_pos (Nat.le_refl 4), htest, hlive, if_neg (by decide)]
  case passed =>
    subst he
    refine .of_effect (f := (spareSelfTestDone · spare true)) rfl ?_
    simp only [spareSelfTestDone, hfind, if_true]
  case failed =>
    subst he
    refine .of_effect (f := (spareSelfTestDone · spare false)) rfl ?_
    simp only [spareSelfTestDone, hfind, Bool.false_eq_true, if_false]

end Sys2Proof.Machine
end

section
/-! SUPPORT. The vector and special-function operations of a block's running command: each stores its codes at its output (R142, R148,
R149, R154, R579). -/

namespace Sys2Proof.Machine

/-- A vector operation on formats that exist stores its codes at its output; what comes before the store counts, observes and raises
flags. -/
theorem vectorOp_stores {o : Desc} {a w f : Fmt} (ha : o.fmtA = some a) (hw : o.fmtW = some w) (hf : o.fmtOut = some f) (d : Dev)
    (b i : Nat) (x : Slot) : ∃ e k, vectorOp d b i x o = some (e.storeBm b o.out (packCodes f (vectorCodes d b x o a w f)), k) ∧
      KeepsWork d e := by
  unfold vectorOp vectorCodes
  simp only [ha, hw, hf]
  rw [← Dev.withFlags_fst d x.district]
  exact ⟨_, _, rfl, ((d.withFlags_keeps _ _).trans (observe_keeps _ b i x _)).trans (countVector_keeps _ b o)⟩

/-- Settles O9: the rows differ in their code only, and each stores what `vectorOp_stores` says. -/
theorem vectorOperationsComplete : Obligations.VectorOperationsComplete := by
  intro s b i x o a w f hs hn hvec he ha hw hf
  obtain ⟨e, k, hop, hk⟩ := vectorOp_stores ha hw hf s.clear b i x
  have hgives : ∀ p ∈ vectorRows, o.mode = p.1 → Gives (p.2 b) s b i x o f (vectorCodes s.clear b x o a w f) := fun p hp hm =>
    .of_stored hs (exec_vectorRow hp b s) hn (by simp [wantVector, hvec, hm]) he hop hk
  simpa only [vectorRows, List.forall_mem_cons, List.not_mem_nil, false_implies, implies_true, and_true] using hgives

/-- An operation of the special-function unit on formats that exist stores its codes at its output; what comes before the store counts
and raises flags. -/
theorem sfuOp_stores {o : Desc} {a f : Fmt} (ha : o.fmtA = some a) (hf : o.fmtOut = some f) (d : Dev) (b : Nat) (x : Slot) :
    ∃ e k, sfuOp d b x o = some (e.storeBm b o.out (packCodes f (sfuCodes d b x o a f)), k) ∧ KeepsWork d e := by
  unfold sfuOp sfuCodes
  simp only [ha, hf]
  rw [← Dev.withFlags_fst d x.district]
  refine ⟨_, _, rfl, ?_⟩
  split
  · exact (d.withFlags_keeps x.district _).trans (Dev.countOp_keeps _ _ _ _ _)
  · exact d.withFlags_keeps x.district _

/-- Settles O10: the two rows part the codes at 0x80, and each stores what `sfuOp_stores` says. -/
theorem specialFunctionsComplete : Obligations.SpecialFunctionsComplete := by
  intro s b i x o a f hs hn hsfu he ha hf
  obtain ⟨e, k, hop, hk⟩ := sfuOp_stores ha hf s.clear b x
  exact ⟨fun hm => .of_stored hs (execSfuFunction.eq_1 b s) hn (by simp [hsfu, hm]) he hop hk,
    fun hm => .of_stored hs (execSfuMicroProgram.eq_1 b s) hn (by simp [hsfu, hm]) he hop hk⟩

end Sys2Proof.Machine
end

section
/-! SUPPORT. DMA operations: what moves and where it lands, what is in flight, and what the end of an operation leaves (R159, R160). -/

namespace Sys2Proof.Machine

/-! What the moves and the accounting leave of the blocks. -/

namespace Dev

theorem touchWrite_blocks (d : Dev) (dist i n a : Nat) : (d.touchWrite dist i n a).blocks = d.blocks := by
  unfold touchWrite
  split
  · rfl
  · exact (countTier_blocks _ _ _ _).trans (basisBytes_blocks d _ _ _ _)

theorem charge_blocks (d : Dev) (b dist : Nat) (c : Cost) : (d.charge b dist c).blocks = d.blocks := by
  simp [charge, fadd, fset, apply_ite Dev.blocks, addBasis_blocks]

theorem block_of_blocks {d e : Dev} (h : e.blocks = d.blocks) (b : Nat) : e.block b = d.block b := by
  unfold block
  rw [h]

theorem modSlot_dma (d : Dev) (b i : Nat) (f : Slot → Slot) : ((d.modSlot b i f).block b).dma = (d.block b).dma := by
  rw [modSlot, modBlock, block_setBlock]

/-- The end of an operation leaves the DMA in flight as it is. -/
theorem opDone_dma (d : Dev) (b i dist : Nat) (c : Cost) : ((d.opDone b i dist c).block b).dma = (d.block b).dma := by
  unfold opDone
  rw [modSlot_dma]
  split <;> exact congrArg Block.dma (block_of_blocks (d.charge_blocks b dist c) b)

/-- The end of an operation of a command keeps every byte, and the next operation is due. -/
theorem opDone_next {d : Dev} {b i : Nat} {x : Slot} (hx : d.slot b i = some x) (dist : Nat) (c : Cost) :
    (d.opDone b i dist c).mems = d.mems ∧ ∃ y, (d.opDone b i dist c).slot b i = some y ∧ y.next = x.next + 1 := by
  obtain ⟨⟨hbm, hobj, hns⟩, hnext⟩ := d.opDone_spec b i dist c x hx
  exact ⟨by rw [mems, hbm, hobj, hns, mems], hnext⟩

theorem dropStream_keeps (d : Dev) (b i op : Nat) : KeepsWork d (d.dropStream b i op) := ⟨⟨rfl, rfl, rfl⟩, fun _ _ => rfl⟩

/-- After an operation of a command has stored bytes and is done they load back, and every byte outside them reads as before. -/
theorem opDone_stored {d : Dev} {b i : Nat} {x : Slot} (hwf : Mem.wf d.bmem = true) (hx : d.slot b i = some x) (a : Nat)
    (bytes : List Byte) (dist : Nat) (c : Cost) : ((d.storeBm b a bytes).opDone b i dist c).loadBm b a bytes.length = bytes ∧
      SameOutside d ((d.storeBm b a bytes).opDone b i dist c) b a bytes.length := by
  obtain ⟨⟨hbm, hobj, hns⟩, -⟩ := (d.storeBm b a bytes).opDone_spec b i dist c x hx
  refine ⟨?_, fun p => ⟨fun hp => ?_, ?_, ?_⟩⟩
  · rw [loadBm, hbm]
    exact Mem.load_store _ _ _ hwf
  · rw [hbm]
    exact Mem.read_store_ne _ _ _ _ hp
  · rw [hobj, storeBm_objMem]
  · rw [hns, storeBm_nsMem]

end Dev

theorem dmaStore_blocks (d : Dev) (b dist tier a peer : Nat) (bytes : List Byte) :
    (dmaStore d b dist tier a peer bytes).blocks = d.blocks := by
  unfold dmaStore
  split
  · rfl
  · split <;> rfl
  · rfl

theorem dmaPart_blocks (d : Dev) (b dist : Nat) (o : Desc) (n : Nat) : (dmaPart d b dist o n).blocks = d.blocks := by
  unfold dmaPart
  simp only [apply_ite Dev.blocks, Dev.touchWrite_blocks, Dev.touchRead_blocks, ite_self]
  refine foldl_keeps (fun e : Dev => e.blocks = d.blocks) _ _ d rfl fun e r h => ?_
  split
  · exact h
  · exact (dmaStore_blocks _ _ _ _ _ _ _).trans h

/-- One row between two places of a block's memory is one store of what stood at its source. -/
theorem dmaMove_one_row {o : Desc} (hsrc : o.srcTier = 0) (hdst : o.dstTier = 0) (hrows : o.rows = 1) (hn : o.rowBytes ≠ 0) (d : Dev)
    (b dist : Nat) : dmaMove d b dist o = d.storeBm b o.dst (d.loadBm b o.src o.rowBytes) := by
  simp [dmaMove, dmaPart, hsrc, hdst, hrows, hn, dmaStore, dmaLoad]

theorem Desc.rowBytes_ne_zero {o : Desc} (hd : o.isDma = true) (he : o.empty = false) : o.rowBytes ≠ 0 := by
  have hc : o.cls = 4 := by simpa [Desc.isDma] using hd
  have hcounts : fieldLE o.raw 4 4 ≠ 0 ∧ fieldLE o.raw 0x18 4 ≠ 0 := by simpa [Desc.empty, hc] using he
  exact hcounts.2

/-- Streams that open change what is placed, and nothing else (R364). -/
theorem openStreams_frame (d : Dev) (b i op dist : Nat) (o : Desc) : ∃ p, openStreams d b i op dist o = { d with place := p } := by
  unfold openStreams
  split
  · exact ⟨d.place, rfl⟩
  · split
    · exact ⟨d.place, rfl⟩
    · split
      · exact ⟨d.place, rfl⟩
      · refine foldl_keeps (fun e : Dev => ∃ p, e = { d with place := p }) _ _ d ⟨d.place, rfl⟩ fun e k h => ?_
        obtain ⟨p, rfl⟩ := h
        split
        · exact ⟨_, rfl⟩
        · exact ⟨p, rfl⟩

/-! What the engine makes of a DMA operation. -/

theorem dmaOperation_sync {o : Desc} (h : o.isAsync = false) (d : Dev) (b i : Nat) (x : Slot) : dmaOperation d b i x o =
    some (dmaMove d b x.district o, { dma := ceilDiv (o.rows * o.rowBytes) 512, bytes := o.rows * o.rowBytes }) :=
  if_neg (by simp [h])

/-- One with ASYNC is added to those in flight, and no byte moves. -/
theorem dmaOperation_async {o : Desc} (h : o.isAsync = true) (d : Dev) (b i : Nat) (x : Slot) :
    ∃ e, dmaOperation d b i x o = some (e, {}) ∧ KeepsWork d e ∧
      (e.block b).dma = (d.block b).dma ++ [AsyncDma.mk i x.next o.raw] := by
  obtain ⟨p, hp⟩ := openStreams_frame d b i x.next x.district o
  refine ⟨_, if_pos h, ?_⟩
  rw [hp]
  exact ⟨.modBlock { d with place := p } b _ fun _ => rfl, congrArg Block.dma (Dev.block_setBlock _ b _)⟩

/-! The operation that a block issues next. -/

section
variable {s : State} {b i : Nat} {x : Slot} {o : Desc} (hn : s.clear.nextOp b = some (i, x, o)) (hd : o.isDma = true)
  (he : o.empty = false)
include hn hd he

/-- What the engine makes of it is what the command completes with, once the operation is done. -/
theorem dmaOp_completes {e : Dev} {k : Cost} (hop : dmaOperation s.clear b i x o = some (e, k)) :
    Completes (.dmaOp b) s (e.opDone b i x.district k) := by
  refine .of_effect (execDmaOp.eq_1 b s) ?_
  unfold dmaStep
  simp only [hn, hd, if_true]
  rw [runOp_spec _ hn hd he, hop]

theorem dmaOp_moves (ha : o.isAsync = false) : ∃ t y, Completes (.dmaOp b) s t ∧ t.mems = (dmaMove s.clear b x.district o).mems ∧
    t.slot b i = some y ∧ y.next = x.next + 1 := by
  have hx : (dmaMove s.clear b x.district o).slot b i = some x :=
    (Dev.slot_of_blocks (dmaPart_blocks _ b _ o _) b i).trans (Dev.slot_of_nextOp hn)
  obtain ⟨hmems, y, hy, hnext⟩ := Dev.opDone_next hx x.district _
  exact ⟨_, y, dmaOp_completes hn hd he (dmaOperation_sync ha _ b i x), hmems, hy, hnext⟩

theorem dmaOp_lands (hwf : Mem.wf s.clear.bmem = true) (ha : o.isAsync = false) (hsrc : o.srcTier = 0) (hdst : o.dstTier = 0)
    (hrows : o.rows = 1) : ∃ t, Completes (.dmaOp b) s t ∧ t.loadBm b o.dst o.rowBytes = s.clear.loadBm b o.src o.rowBytes ∧
      SameOutside s.clear t b o.dst o.rowBytes := by
  have hlen : (s.clear.loadBm b o.src o.rowBytes).length = o.rowBytes := Mem.length_load _ _ _
  have hop := dmaOperation_sync ha s.clear b i x
  rw [dmaMove_one_row hsrc hdst hrows (Desc.rowBytes_ne_zero hd he)] at hop
  have hstored := Dev.opDone_stored hwf (Dev.slot_of_nextOp hn) o.dst (s.clear.loadBm b o.src o.rowBytes) x.district
  rw [hlen] at hstored
  exact ⟨_, dmaOp_completes hn hd he hop, hstored _⟩

theorem dmaOp_inFlight (ha : o.isAsync = true) : ∃ t y, Completes (.dmaOp b) s t ∧
    (t.block b).dma = (s.clear.block b).dma ++ [AsyncDma.mk i x.next o.raw] ∧ t.mems = s.clear.mems ∧ t.slot b i = some y ∧
      y.next = x.next + 1 := by
  obtain ⟨e, hop, hk, hdma⟩ := dmaOperation_async ha s.clear b i x
  obtain ⟨z, hz, hzn⟩ := hk.slot_some (Dev.slot_of_nextOp hn)
  obtain ⟨hmems, y, hy, hnext⟩ := Dev.opDone_next hz x.district {}
  exact ⟨_, y, dmaOp_completes hn hd he hop, (e.opDone_dma b i x.district {}).trans hdma, hmems.trans hk.mems, hy,
    hnext.trans (by rw [hzn])⟩

end

/-! A DMA in flight. -/

/-- The oldest in flight moves its rows and leaves the block's list of those in flight; what else its end does keeps every byte. -/
theorem dmaFinish_oldest {d : Dev} {b : Nat} {a : AsyncDma} {rest : List AsyncDma} {x : Slot} (hf : (d.block b).dma = a :: rest)
    (hx : d.slot b a.slot = some x) : ((dmaFinish d b).block b).dma = rest ∧
      (dmaFinish d b).mems = (dmaMove d b x.district (Desc.of a.op)).mems := by
  unfold dmaFinish
  simp only [hf, hx]
  refine ⟨(Dev.modSlot_dma _ b a.slot _).trans (congrArg Block.dma (Dev.block_setBlock _ b _)), ?_⟩
  exact (((((Dev.charge_keeps _ b x.district _).trans (.fadd _ _ _ _)).trans (.modBlock _ b _ fun _ => rfl)).trans
    (Dev.dropStream_keeps _ b a.slot a.ix)).trans (.modSlot _ b a.slot _ fun _ => rfl)).mems

/-- Settles O12: without ASYNC the operation is its move; with it the block's list of those in flight grows by one; the end of the oldest
is `dmaFinish_oldest`. That the oldest ends first is the model's choice (log entry 10). -/
theorem dmaOperationsComplete : Obligations.DmaOperationsComplete :=
  ⟨fun _ _ _ _ _ hn hd he ha => dmaOp_moves hn hd he ha,
    fun _ _ _ _ _ hs hn hd he ha hsrc hdst hrows => dmaOp_lands hn hd he hs.1 ha hsrc hdst hrows,
    fun _ _ _ _ _ hn hd he ha => dmaOp_inFlight hn hd he ha,
    fun s b _ _ _ hf hx => ⟨dmaFinish s.clear b, rfl, dmaFinish_oldest hf hx⟩⟩

end Sys2Proof.Machine
end

section
/-! SUPPORT. The light operations of a block's commands, and their WAITs (R136, R331, R333, R334). -/

namespace Sys2Proof.Machine

/-- A SET or an ADD issues where no DMA of its command is in flight (R333). -/
theorem lightOperation_issues {d : Dev} {b i : Nat} (h : d.dmaOf b i = false) (add : Bool) (x : Slot) (o : Desc) :
    lightOperation add d b i x o = some (if add then d.lightAdd o.light o.value x.district ((d.logicalOf b).getD 0)
      else d.lightSet o.light o.value x.district ((d.logicalOf b).getD 0), {}) :=
  if_neg (by simp [h])

theorem lightWaitStep_issues {d : Dev} {b i : Nat} {x : Slot} {raw : List Byte} {rest : List (List Byte)} (hx : d.slot b i = some x)
    (hst : x.state = .waiting) (hw : x.wait = none) (hops : x.ops = raw :: rest) : lightWaitStep d b i =
      d.registerWait b i (Desc.of raw).light (Desc.of raw).value (Desc.of raw).timeout x.district := by
  unfold lightWaitStep
  simp [hx, hst, hw, hops]

theorem lightExpiryStep_expires {d : Dev} {b i : Nat} {w : Wait} (hw : (d.waits.find? fun w => w.block = b && w.slot = i) = some w)
    (hdue : w.expiry ≤ d.beat) : lightExpiryStep d b i = d.expireWait w := by
  unfold lightExpiryStep
  rw [hw]
  exact if_pos hdue

/-- Settles O13: SET and ADD pass the one guard of their engine, and a WAIT stands where its step looks for it. -/
theorem lightOperationsComplete : Obligations.LightOperationsComplete := by
  refine ⟨fun s b i x o hn hl hm he hdma => ?set, fun s b i x o hn hl hm he hdma => ?add,
    fun s b i x raw rest hx hst hw hops => .of_effect (execLightWait.eq_1 b i s) (lightWaitStep_issues hx hst hw hops),
    fun s b i w hw hdue => .of_effect (execLightExpiry.eq_1 b i s) (lightExpiryStep_expires hw hdue)⟩
  case set =>
    refine .of_effect (execLightSet.eq_1 b s) ?_
    rw [runOp_spec _ hn (by simp [hl, hm]) he, lightOperation_issues hdma]
    rfl
  case add =>
    refine .of_effect (execLightAdd.eq_1 b s) ?_
    rw [runOp_spec _ hn (by simp [hl, hm]) he, lightOperation_issues hdma]
    rfl

end Sys2Proof.Machine
end

section
/-! The end of a compute abort (R137, R324, R498). -/

namespace Sys2Proof.Machine

/-- What the end does where an abort is active: it lets compute work in before it retires the faulty blocks and gives way to spares. -/
theorem computeAbortEnd_eq {d c e : Dev} (h : d.contain.abortActive = true)
    (hc : c = { d with contain := { d.contain with abortActive := false, faulty := [] } })
    (he : e = (d.contain.faulty.filter fun b => !d.quarantined (b / 72)).foldl (fun d b => d.retireBlock b) c) :
    computeAbortEnd d = ((e.contain.spared.foldl (fun d x => d.relieve x.1) e).driveStages).driveJobs := by
  subst hc he
  exact if_neg (by simp [h])

/-- Settles O17: the abort is active, so that its end is not turned away. -/
theorem computeAbortEnds : Obligations.ComputeAbortEnds := by
  intro s d e h hd he
  refine ⟨?_, .of_effect (execComputeAbortEnd.eq_1 s) (computeAbortEnd_eq h hd he)⟩
  rw [hd]

end Sys2Proof.Machine
end

section
/-! The end of a stage run (R202, R277, R290). -/

namespace Sys2Proof.Machine

/-- A change of every pass changes nothing where there is none. -/
theorem Dev.map_passes_of_nil {d : Dev} (h : d.passes = []) (f : Pass → Pass) :
    ({ d with passes := d.passes.map f } : Dev) = d := by
  rw [h, List.map_nil, ← h]

section
variable {i bi : Nat} {q : Query} {b : Batch}

/-! What the operations of a stage gave, phase by phase (log entry 71). -/

section
variable (d : Dev)

theorem stageOutput_failed : d.stageOutput bi i b q .failed = ((d.leaveBatch bi i).failQuery i .computeAborted true).driveStages := by
  unfold Dev.stageOutput
  cases q.phase <;> rfl

theorem stageOutput_vector_waiting {es : List (BitVec 32)} (hp : q.phase = .waiting)
    (hf : Dev.finiteAll (es.map fun x => dec32 x.toNat) = true) : d.stageOutput bi i b q (.vector es) =
      (((d.leaveBatch bi i).mark i 0).modQuery i fun q => { q with vector := es.map fun x => dec32 x.toNat }).driveStages := by
  unfold Dev.stageOutput
  rw [hp]
  exact if_neg (by simp [hf])

theorem stageOutput_vector_encode {es : List (BitVec 32)} (hp : q.phase = .encode)
    (hf : Dev.finiteAll (es.map fun x => dec32 x.toNat) = true) : d.stageOutput bi i b q (.vector es) =
      (((d.leaveBatch bi i).mark i 0).modQuery i fun q =>
        { q with vector := es.map fun x => dec32 x.toNat, phase := .route }).driveStages := by
  unfold Dev.stageOutput
  rw [hp]
  exact if_neg (by simp [hf])

/-- Where no pass is formed, none learns when its queries were routed. -/
theorem stageOutput_ranking {e : Dev} {scores : List (BitVec 32)} (hp : q.phase = .route)
    (he : e = (d.leaveBatch bi i).modQuery i fun x => { x with scores := scores, phase := .search }) (hn : e.passes = []) :
    d.stageOutput bi i b q (.ranking scores) = (e.modQuery i fun x => { x with ranking := e.rankFor x }).driveStages := by
  subst he
  unfold Dev.stageOutput
  rw [hp]
  refine congrArg Dev.driveStages (Dev.map_passes_of_nil ?_ _)
  exact hn

theorem stageOutput_scores {vs : List (BitVec 32)} {k : Nat} {c : StageEntry} {cs keep : List Cand} {e : Dev}
    (hp : q.phase = .rerank k) (hc : q.service.cascade[k]? = some c)
    (hcs : cs = (q.cands.zip (vs.map fun x => dec32 x.toNat)).map fun (y, x) => { y with score := x, source := k + 1 })
    (hk : keep = cascadeExit c.keep q.desc.k c.exitBelow cs)
    (he : e = ((d.leaveBatch bi i).modQuery i fun q =>
      { q with cands := keep, exits := q.exits ++ [cs.length - keep.length] }).provisionalRecord i) :
    d.stageOutput bi i b q (.scores vs) = if k + 1 < q.service.cascadeStages && !keep.isEmpty then
      ((e.compact b keep.length).modQuery i fun q => { q with phase := .rerank (k + 1) }).driveStages
    else ((e.mark i 3).extractOrReturn i).driveStages := by
  subst he hk hcs
  unfold Dev.stageOutput
  rw [hp]
  simp only [hc, Option.getD_some]

theorem stageOutput_spans {es : List (List (BitVec 32) × List (BitVec 32))} (hp : q.phase = .extract)
    (hg : q.service.generate = false) : d.stageOutput bi i b q (.spans es) =
      ((((d.leaveBatch bi i).modQuery i fun q' =>
        { q' with spans := ((q.cands.take q.desc.k).zip es).map fun x => d.spanBytes q x.1 x.2 }).mark i 4).returnQuery i).driveStages := by
  unfold Dev.stageOutput
  rw [hp]
  exact if_neg (by simp [hg])

theorem stageOutput_step {scores : List (BitVec 32)} (hp : q.phase = .extract) (hg : q.service.generate = true) :
    d.stageOutput bi i b q (.step scores) = d.decodeStep bi i q scores := by
  unfold Dev.stageOutput
  rw [hp]
  exact if_pos hg

end

/-! How the batch of the query stands once its run has been followed up (R277, R288, R289). -/

section
variable {c : Dev} (hq : c.queryOf i = some q) (hb : c.batchOf i = some (bi, b))
include hq hb

theorem stageRunDone_early (hr : ranEarly b i q = true) (out : StageOutput) : stageRunDone c i out = c.stageOutput bi i b q out := by
  unfold stageRunDone
  rw [hq, hb]
  exact if_pos hr

section
variable {y : Batch} (hr : ranEarly b i q = false) (hy : AMap.look (c.runEnded bi b).batches bi = some y)
include hr hy

/-- With nothing there before, the run is followed up, and then the batch's result decides. -/
theorem stageRunDone_followed (out : StageOutput) : stageRunDone c i out = match y.result with
    | none => c.runEnded bi b
    | some .success => if Dev.servedIn y i q then (c.runEnded bi b).stageOutput bi i y q out else (c.runEnded bi b).driveStages
    | some st => (((c.runEnded bi b).leaveBatch bi i).failQuery i st true).driveStages := by
  unfold stageRunDone
  rw [hq, hb]
  refine (if_neg (Bool.eq_false_iff.1 hr)).trans ?_
  simp only [hy] <;> rfl

theorem stageRunDone_pending (hn : y.result = none) (out : StageOutput) : stageRunDone c i out = c.runEnded bi b := by
  rw [stageRunDone_followed hq hb hr hy, hn]

theorem stageRunDone_unserved (hs : y.result = some .success) (hv : Dev.servedIn y i q = false) (out : StageOutput) :
    stageRunDone c i out = (c.runEnded bi b).driveStages := by
  rw [stageRunDone_followed hq hb hr hy, hs]
  exact if_neg (Bool.eq_false_iff.1 hv)

theorem stageRunDone_runFailed {st : Status} (hs : y.result = some st) (hne : st ≠ .success) (out : StageOutput) :
    stageRunDone c i out = (((c.runEnded bi b).leaveBatch bi i).failQuery i st true).driveStages := by
  rw [stageRunDone_followed hq hb hr hy, hs]
  cases st
  case success => exact absurd rfl hne
  all_goals rfl

end

theorem stageRunDone_gave {d : Dev} {y : Batch} (h : RunGave c i bi q b d y) (out : StageOutput) :
    stageRunDone c i out = d.stageOutput bi i y q out := by
  obtain ⟨hr, rfl, rfl⟩ | ⟨hr, rfl, hy, hs, hv⟩ := h
  · exact stageRunDone_early hq hb hr out
  · rw [stageRunDone_followed hq hb hr hy, hs]
    exact if_pos hv

end

end

/-- The ranking of a version without a graph has no entry probes to go by (R248). -/
theorem rankFor_lists {d : Dev} {q : Query} {v : Version} (hv : d.versionOf q.desc.ns q.version = some v)
    (hg : v.params.graph = false) :
    d.rankFor q = (Dev.rankLists v.params.dist (q.scores.take v.params.lists)).take (q.probes * 2 ^ q.entry.widenLimit) := by
  simp [Dev.rankFor, hv, hg]

/-- A stage run completes with what its end makes of the module. -/
theorem Completes.of_stageRunDone {s : State} {i : Nat} {out : StageOutput} {e : Dev} (h : stageRunDone s.clear i out = e) :
    Completes (.stageRunDone i out) s e :=
  .of_effect (f := (stageRunDone · i out)) rfl h

/-- Settles O26: the batch's state after its run decides whether there is anything for the query, and what there is takes it on by its
phase. -/
theorem stageRunsComplete : Obligations.StageRunsComplete := by
  refine ⟨fun d q v hv hg => rankFor_lists hv hg, fun s i bi q b hq hb =>
    ⟨fun y out hr hy hn => .of_stageRunDone (stageRunDone_pending hq hb hr hy hn out),
      fun y out hr hy hs hv => .of_stageRunDone (stageRunDone_unserved hq hb hr hy hs hv out),
      fun y out st hr hy hs hne => .of_stageRunDone (stageRunDone_runFailed hq hb hr hy hs hne out), fun d y hgave => ?gave⟩⟩
  have completes {out : StageOutput} {e : Dev} (h : d.stageOutput bi i y q out = e) : Completes (.stageRunDone i out) s e :=
    .of_stageRunDone ((stageRunDone_gave hq hb hgave out).trans h)
  exact ⟨completes (stageOutput_failed d), fun es hp hf => completes (stageOutput_vector_waiting d hp hf),
    fun es hp hf => completes (stageOutput_vector_encode d hp hf), fun scores e hp he hn => completes (stageOutput_ranking d hp he hn),
    fun es hp hg => completes (stageOutput_spans d hp hg),
    fun vs k c cs keep e hp hc hcs hk he => completes (stageOutput_scores d hp hc hcs hk he),
    fun scores hp hg => completes (stageOutput_step d hp hg)⟩

end Sys2Proof.Machine
end

section
/-! Faults of Kerbs and of their links (R20, R233, R234, R496). -/

namespace Sys2Proof.Machine

/-- Recording an event changes no Kerb. -/
theorem LogOnly.kerb {d e : Dev} (h : LogOnly d e) (k : Nat) : e.kerb k = d.kerb k := by
  obtain ⟨_, _, _, _, _, _, _, rfl⟩ := h
  rfl

/-! A Kerb's fault. -/

/-- A Kerb's error field and its location are registers. -/
theorem Dev.kerbError_logs (d : Dev) (k cause a : Nat) : LogOnly d (d.kerbError k cause a) := by
  unfold Dev.kerbError
  dsimp only
  split
  · exact (LogOnly.setReg d _ _).trans (.setReg _ _ _)
  · exact .setReg d _ _

/-- An error record changes no Kerb. -/
theorem Dev.logError_kerb (d : Dev) (src ev code severity reset unit : Nat) (dist : Option Nat) (address detail region k : Nat) :
    (d.logError src ev code severity reset unit dist address detail region).kerb k = d.kerb k := by
  obtain ⟨_, -, -, h⟩ := d.logError_logs src ev code severity reset unit dist address detail region
  exact h.kerb k

theorem Dev.kerbError_kerb (d : Dev) (k cause a k' : Nat) : (d.kerbError k cause a).kerb k' = d.kerb k' :=
  (d.kerbError_logs k cause a).kerb k'

/-- The error of a Kerb begins no self-test. -/
theorem Dev.kerbError_kerbTesting (d : Dev) (k cause a k' : Nat) : (d.kerbError k cause a).kerbTesting k' = d.kerbTesting k' :=
  congrArg Kerb.resetting (d.kerbError_kerb k cause a k')

section
variable {d : Dev} {k cause a : Nat}

theorem kerbFault_unnamed (hc : 4 < cause) : kerbFault d k cause a = d := if_pos hc

theorem kerbFault_testing (hc : cause ≤ 4) (ht : d.kerbTesting k = true) : kerbFault d k cause a = d.kerbError k cause a := by
  unfold kerbFault
  dsimp only
  rw [if_neg (Nat.not_lt.2 hc), Dev.kerbError_kerbTesting, if_pos ht]

theorem kerbFault_resets (hc : cause ≤ 4) (hne : cause ≠ 1) (ht : d.kerbTesting k = false) : kerbFault d k cause a =
    ((d.kerbError k cause a).logError (srcKerb k) 0x40 (0x0301 + cause) 2 (letterCode 'K') (srcKerb k) none 0 a
      0xFFFFFFFF).kerbReset k := by
  unfold kerbFault
  simp only [Nat.not_lt.2 hc, Dev.kerbError_kerbTesting, ht, hne, ne_eq, not_false_eq_true, Bool.false_eq_true, if_false, if_true]

/-- A page-cache error discards the piece at its place in the cache, if there is one. -/
theorem kerbFault_cache (ht : d.kerbTesting k = false) {e : Dev} (he : e = (d.kerbError k 1 a).logError (srcKerb k) 0x40 0x0302 0 0
    (srcKerb k) none 0 a 0xFFFFFFFF) :
    kerbFault d k 1 a = ((d.kerb k).cache[bits a 8 18]?).elim e fun p => e.cacheDropWhere k fun x => x = p := by
  subst he
  unfold kerbFault
  simp only [Dev.kerbError_kerbTesting, ht, Dev.logError_kerb, Dev.kerbError_kerb, Nat.not_lt.2 (show 1 ≤ 4 by decide), ne_eq,
    not_true_eq_false, Bool.false_eq_true, if_false]
  cases (d.kerb k).cache[bits a 8 18]? <;> rfl

end

/-! The end of a Kerb's reset. -/

theorem kerbResetDone_idle {d : Dev} {k : Nat} (h : (d.kerb k).resetting = false) (ok : Bool) : kerbResetDone d k ok = d :=
  if_pos (by simp [h])

theorem kerbResetDone_passed {d : Dev} {k : Nat} (h : (d.kerb k).resetting = true) : kerbResetDone d k true =
    ((d.endKerbTest k).modKerb k fun x =>
      { x with resetting := false, link := if (if x.link = 0 then x.secondUp else x.homeUp) then 1 - x.link else x.link }).issueAll :=
  if_neg (by simp [h])

theorem kerbResetDone_failed {d : Dev} {k : Nat} (h : (d.kerb k).resetting = true) : kerbResetDone d k false =
    ((d.endKerbTest k).modKerb k fun x => { x with resetting := false, homeUp := false, secondUp := false }).kerbOffline k :=
  if_neg (by simp [h])

/-! Links. -/

/-- An error on an Arcade's active link takes it out of use, and then the module shuts down where no link of the Arcade is left. -/
theorem linkError_arcade {d : Dev} {u : Nat} {e : Dev} (he : e = (d.draw.2.logError (srcArcade u) 0x40 (d.draw.1.toNat % 2 ^ 16) 0 0
    (srcArcade u) none 0 (d.fget (Reg.ARC_STAT u) Fld.ARC_STAT_LINK) 0xFFFFFFFF).linkLost (48 + u)
      (d.fget (Reg.ARC_STAT u) Fld.ARC_STAT_LINK)) : linkError d true u =
    if e.arcadeLinkUp u false || e.arcadeLinkUp u true then e else e.shutDown 3 0x0605 (srcArcade u) 0 := by
  subst he
  rfl

/-- Settles O20: the Kerb's error field changes no Kerb, so that the state before the fault decides what it does; a link's error is
decided by the links that are left. That a link stays out of use, and the shutdown with none left, are the model's choices (log
entry 18), as is the change of link at once (entry 74). -/
theorem kerbFaultsComplete : Obligations.KerbFaultsComplete := by
  have fault {s : State} {k cause a : Nat} {e : Dev} (h : kerbFault s.clear k cause a = e) : Completes (.kerbFault k cause a) s e :=
    .of_effect (execKerbFault.eq_1 k cause a s) h
  have resetDone {s : State} {k : Nat} {ok : Bool} {e : Dev} (h : kerbResetDone s.clear k ok = e) :
      Completes (.kerbResetDone k ok) s e := .of_effect (execKerbResetDone.eq_1 k ok s) h
  refine ⟨fun s k cause a hc hne ht => fault (kerbFault_resets hc hne ht), fun s k a p ht hp => fault ?cached,
    fun s k a ht hn => fault ?uncached,
    fun s k cause a => ⟨fun hc ht => fault (kerbFault_testing hc ht), fun hc => fault (kerbFault_unnamed hc)⟩,
    fun s k ok h => resetDone (kerbResetDone_idle h ok), fun s k h => resetDone (kerbResetDone_passed h),
    fun s k h => resetDone (kerbResetDone_failed h), fun s k => .of_effect (execLinkError.eq_1 false k s) rfl,
    fun s u e he => ⟨fun hup => ?linkLeft, fun hhome hsecond => ?noLink⟩⟩
  case cached => rw [kerbFault_cache ht rfl, hp]; rfl
  case uncached => rw [kerbFault_cache ht rfl, hn]; rfl
  case linkLeft => exact .of_effect (execLinkError.eq_1 true u s) ((linkError_arcade he).trans (if_pos (by simpa using hup)))
  case noLink =>
    exact .of_effect (execLinkError.eq_1 true u s) ((linkError_arcade he).trans (if_neg (by simp [hhome, hsecond])))

end Sys2Proof.Machine
end

section
/-! Query blocks at the Kerbs (R219, R222). -/

namespace Sys2Proof.Machine

/-- A list block with room is admitted, and the reads of its head start. -/
theorem queryBlockAdmit_list {d : Dev} {k id : Nat} {b : QBlock} {v : Version} {qq : QbQuery} {rest : List QbQuery} {e : Dev}
    (hb : d.qblock k id = some b) (hout : b.admitted = false) (hroom : d.canAdmit k b = true) (hv : d.versionFor b = some v)
    (hq : b.queries = qq :: rest) (hp : b.phase = .head)
    (he : e = (d.modQb k id fun b => { b with admitted := true }).startHead k { b with admitted := true } v) :
    queryBlockAdmit d k id = (e.qbRun k id (e.qbFuel k id)).afterKerb k := by
  subst he
  unfold queryBlockAdmit
  simp [hb, hout, hroom, hv, hq, hp]

/-! Thresholds (R219). -/

theorem thetaShare_off {d : Dev} {k : Nat} (h : (d.policy k).thresholdShare = false) : thetaShare d k = d := if_pos (by simp [h])

/-- The only query resident at a Kerb, searched on several Kerbs: its threshold goes to the Gate, which keeps the better one. -/
theorem thetaShare_one {d : Dev} {k : Nat} {q : Query} {v : Version} {t : Datum} (hon : (d.policy k).thresholdShare = true)
    (hr : d.residents k = [q]) (hk : 2 ≤ q.kerbs.length) (hv : d.versionOf q.desc.ns q.version = some v)
    (ht : t = thetaOf v.params.dist (q.service.depth q.desc.k) (AMap.get q.heaps k [])) :
    thetaShare d k = (d.modQuery q.id fun q' =>
      { q' with gateTheta := some (q.gateTheta.elim t fun g => thetaBest v.params.dist g t) }).emit (.theta q.id k (enc32 t)) := by
  subst ht
  unfold thetaShare
  simp only [hon, hr, List.foldl_cons, List.foldl_nil, Nat.not_lt.2 hk, hv, Bool.not_true, Bool.false_eq_true, if_false]
  cases q.gateTheta <;> rfl

/-- The Gate's own threshold comes back: the Kerb adopts it where it is better. -/
theorem thetaReturn_best {d : Dev} {k i : Nat} {q : Query} {v : Version} {t : Datum} (hq : d.queryOf i = some q)
    (hv : d.versionOf q.desc.ns q.version = some v) (ht : q.gateTheta = some t) : thetaReturn d k i (BitVec.ofNat 32 (enc32 t)) =
      if betterScore v.params.dist t (d.thetaAt k v.params.dist q) then d.modQuery i fun q => { q with thetas := AMap.put q.thetas k t }
      else d := by
  unfold thetaReturn
  simp only [hq, hv, ht, decide_true, Bool.true_and]

/-- Settles O21: the block passes each guard of its admission; the policy decides whether a threshold is shared, and the comparison of the
two thresholds whether the Kerb adopts the Gate's. -/
theorem queryBlocksComplete : Obligations.QueryBlocksComplete := by
  refine ⟨fun s k id b v qq rest e hb hout hroom hv hq hp he => ?admitted,
    fun s k h => .of_effect (execThetaShare.eq_1 k s) (thetaShare_off h),
    fun s k q v t hon hr hk hv ht => ⟨fun hn => ?first, fun g hg => ?further⟩,
    fun s k i q v t hq hv ht => ⟨fun hb => ?adopted, fun hb => ?kept⟩⟩
  case admitted => exact .of_effect (execQueryBlockAdmit.eq_1 k id s) (queryBlockAdmit_list hb hout hroom hv hq hp he)
  case first => exact .of_effect (execThetaShare.eq_1 k s) ((thetaShare_one hon hr hk hv ht).trans (by rw [hn]; rfl))
  case further => exact .of_effect (execThetaShare.eq_1 k s) ((thetaShare_one hon hr hk hv ht).trans (by rw [hg]; rfl))
  case adopted => exact .of_effect (execThetaReturn.eq_1 k i _ s) ((thetaReturn_best hq hv ht).trans (if_pos hb))
  case kept => exact .of_effect (execThetaReturn.eq_1 k i _ s) ((thetaReturn_best hq hv ht).trans (by rw [hb]; rfl))

end Sys2Proof.Machine
end

section
/-! SUPPORT. Work on the media: what a program that joins its die's queue leaves of the media, and the rows of MUTABLE superblocks that
their timeout completes (R383). -/

namespace Sys2Proof.Machine

/-- A fold reaches `Q` at one of its steps: until then every step keeps `P` or reaches `Q`, and `Q` stays. -/
theorem foldl_reaches {α β : Type} {P Q : β → Prop} {f : β → α → β} {l : List α} {a : α} {b : β} (ha : a ∈ l) (hb : P b)
    (reach : ∀ b, P b → Q (f b a)) (keep : ∀ b x, P b → P (f b x) ∨ Q (f b x)) (stay : ∀ b x, Q b → Q (f b x)) : Q (l.foldl f b) := by
  induction l generalizing b with
  | nil => cases ha
  | cons x t ih =>
    have done (h : Q (f b x)) : Q (t.foldl f (f b x)) := foldl_keeps Q f t _ h stay
    rcases List.mem_cons.1 ha with rfl | ht
    · exact done (reach b hb)
    · exact (keep b x hb).elim (ih ht) done

theorem DiesOnly.media_eq {d e : Dev} (h : DiesOnly d e) : e.media = d.media := by
  obtain ⟨⟨ks, rs, rfl⟩, -⟩ := h
  rfl

namespace Dev

/-! Programs that join their dies' queues. -/

@[simp] theorem enqueue_media (d : Dev) (k j : Nat) (o : DieOp) : (d.enqueue k j o).media = d.media :=
  ((DiesOnly.modDie d k j _).trans (issue_frame _ k j)).media_eq

theorem addProgram_media (d : Dev) (p : Program) (c : DieClass) :
    (d.addProgram p c).media = { d.media with programs := d.media.programs ++ [p] } := enqueue_media _ _ _ _

theorem foldl_addProgram_media {α : Type} (f : α → Program) (c : DieClass) (l : List α) (d : Dev) :
    (l.foldl (fun d i => d.addProgram (f i) c) d).media = { d.media with programs := d.media.programs ++ l.map f } := by
  induction l generalizing d with
  | nil => simp
  | cons i t ih => rw [List.foldl_cons, ih, addProgram_media]; simp

/-! One member's part in the timeout of a MUTABLE superblock. -/

/-- The page of superblock `b` that a member has begun. -/
def begunPage (d : Dev) (g m b : Nat) : List ProgUnit :=
  match AMap.look d.media.partials (16 * g + m) with
  | some (x :: r) => if x.loc.bg = b then x :: r else []
  | _ => []

/-- That page is programmed as it stands. -/
def issuePage (d : Dev) (g b m : Nat) : Dev :=
  if (d.begunPage g m b).isEmpty then d
  else (d.modMedia fun x => { x with partials := AMap.drop x.partials (16 * g + m) }).addProgram
    ⟨g, m, b, AMap.get (d.sb g b).cursors m 0 - 1, false, false, d.begunPage g m b⟩ .write

/-- `n` empty pages are programmed from the cursor on, and counted as padded with `pad` further pieces. -/
def padPages (d : Dev) (g b m cur n pad : Nat) : Dev :=
  let d := (List.range n).foldl (fun d i => d.addProgram ⟨g, m, b, cur + i, false, false, []⟩ .write) d
  let d := d.modSb g b fun s => { s with cursors := AMap.put s.cursors m (cur + n) }
  let d := d.modMedia fun x => { x with padded := AMap.put x.padded g (AMap.get x.padded g 0 + pad + 16 * n) }
  d.fset (Reg.FTL_GRP g) Fld.FTL_GRP_PADDED (min (AMap.get d.media.padded g 0 / 1024) 0xFFF)

/-- A member's row is completed up to the highest cursor, as its die takes programs. -/
def completeRow (g b top : Nat) (d : Dev) (m : Nat) : Dev :=
  let cur := AMap.get (d.sb g b).cursors m 0
  (d.issuePage g b m).padPages g b m cur (min (top - cur) (3 - (d.issuePage g b m).pendingOn g m))
    (if (d.begunPage g m b).isEmpty then 0 else 16 - (d.begunPage g m b).length)

/-- The members of an open superblock complete their rows in turn. -/
def completeRows (g : Nat) (d : Dev) (b : Nat) : Dev :=
  (d.dataMembers g b).foldl (completeRow g b ((d.dataMembers g b).foldl (fun n m => max n (AMap.get (d.sb g b).cursors m 0)) 0)) d

end Dev

theorem mutableRowTimeout_eq (d : Dev) (g : Nat) : mutableRowTimeout d g =
    ((d.media.sbs.filter fun x => x.1 / 2048 = g && x.2.state = .open && x.2.mutable).map fun x => x.1 % 2048).foldl
      (Dev.completeRows g) d := rfl

namespace Dev

/-! What the completion of a row changes. -/

theorem issuePage_none {d : Dev} {g b m : Nat} (h : d.begunPage g m b = []) : d.issuePage g b m = d := by
  unfold issuePage
  rw [h]
  rfl

theorem issuePage_media {d : Dev} {g b m : Nat} (h : d.begunPage g m b ≠ []) : (d.issuePage g b m).media =
    { d.media with
      partials := AMap.drop d.media.partials (16 * g + m)
      programs := d.media.programs ++
        [⟨g, m, b, AMap.get (d.sb g b).cursors m 0 - 1, false, false, d.begunPage g m b⟩] } := by
  unfold issuePage
  rw [if_neg (by rwa [List.isEmpty_iff]), addProgram_media]
  rfl

theorem padPages_media (d : Dev) (g b m cur n pad : Nat) : (d.padPages g b m cur n pad).media =
    { d.media with
      programs := d.media.programs ++ (List.range n).map fun i => ⟨g, m, b, cur + i, false, false, []⟩
      sbs := AMap.put d.media.sbs (sbKey g b) { d.sb g b with cursors := AMap.put (d.sb g b).cursors m (cur + n) }
      padded := AMap.put d.media.padded g (AMap.get d.media.padded g 0 + pad + 16 * n) } := by
  have h := foldl_addProgram_media (fun i => Program.mk g m b (cur + i) false false []) .write (List.range n) d
  unfold padPages
  simp only [fset, setReg_media, modMedia, modSb, sb, h]

theorem issuePage_frame (d : Dev) (g b m : Nat) : MediaOnly d (d.issuePage g b m) :=
  .ite (.refl d) ((MediaOnly.media d _).trans (addProgram_frame _ _ _))

theorem padPages_frame (d : Dev) (g b m cur n pad : Nat) : MediaOnly d (d.padPages g b m cur n pad) :=
  (((MediaOnly.foldl _ (fun _ _ => addProgram_frame _ _ _) _ d).trans (.sb _ g b _)).trans (.media _ _)).trans (.setReg _ _ _ (.grp g))

theorem completeRow_frame (g b top : Nat) (d : Dev) (m : Nat) : MediaOnly d (completeRow g b top d m) :=
  (d.issuePage_frame g b m).trans (padPages_frame _ _ _ _ _ _ _)

end Dev

theorem mutableRowTimeout_frame (d : Dev) (g : Nat) : MediaOnly d (mutableRowTimeout d g) :=
  mutableRowTimeout_eq d g ▸ .foldl _ (fun d b => .foldl _ (fun d m => Dev.completeRow_frame g b _ d m) _ d) _ d

end Sys2Proof.Machine
end

section
/-! SUPPORT. The begun page of a MUTABLE superblock's member, through the timeout of its group (R383): it stands until the member's turn,
which programs it. -/

namespace Sys2Proof.Machine

/-- Which members hold data depends on the dies in service and on the roles in the superblock, not on its cursors. -/
theorem Dev.dataMembers_congr {d e : Dev} {g b : Nat} (hr : e.media.retired = d.media.retired) (hb : e.media.bgs = d.media.bgs)
    (hs : (e.sb g b).state = (d.sb g b).state) (hm : (e.sb g b).members = (d.sb g b).members)
    (hp : (e.sb g b).parity = (d.sb g b).parity) : e.dataMembers g b = d.dataMembers g b := by
  have hok : e.memberOk g b = d.memberOk g b := by
    funext m
    simp only [Dev.memberOk, Dev.dieOk, Dev.bg, hr, hb]
  simp only [Dev.dataMembers, Dev.parityMember, Dev.members, hok, hs, hm, hp]

namespace Dev

section
variable (g b top m : Nat) (d : Dev)

/-- What the completion of a row changes of the media, the page that its member has begun apart. -/
theorem completeRow_media : ∃ ps n pd, (completeRow g b top d m).media =
    { (d.issuePage g b m).media with
      programs := (d.issuePage g b m).media.programs ++ ps
      sbs := AMap.put d.media.sbs (sbKey g b) { d.sb g b with cursors := AMap.put (d.sb g b).cursors m n }
      padded := pd } := by
  have hsbs : (d.issuePage g b m).media.sbs = d.media.sbs := by
    by_cases h : d.begunPage g m b = []
    · rw [issuePage_none h]
    · rw [issuePage_media h]
  have hsb : (d.issuePage g b m).sb g b = d.sb g b := by unfold sb; rw [hsbs]
  have h := padPages_media (d.issuePage g b m) g b m
  simp only [hsb, hsbs] at h
  exact ⟨_, _, _, h _ _ _⟩

theorem completeRow_partials : (completeRow g b top d m).media.partials = (d.issuePage g b m).media.partials := by
  obtain ⟨ps, n, pd, h⟩ := completeRow_media g b top m d
  rw [h]

/-- A program that waits goes on waiting. -/
theorem completeRow_programs {p : Program} (h : p ∈ (d.issuePage g b m).media.programs) :
    p ∈ (completeRow g b top d m).media.programs := by
  obtain ⟨ps, n, pd, he⟩ := completeRow_media g b top m d
  rw [he]
  exact List.mem_append_left ps h

/-- A superblock keeps all but one cursor of its own. -/
theorem completeRow_sb {b' : Nat} : ∃ n, (completeRow g b top d m).sb g b' =
    if b' = b then { d.sb g b with cursors := AMap.put (d.sb g b).cursors m n } else d.sb g b' := by
  obtain ⟨ps, n, pd, h⟩ := completeRow_media g b top m d
  refine ⟨n, ?_⟩
  unfold sb
  rw [h, AMap.get]
  split
  · next hb => rw [hb, AMap.look_put]; rfl
  · next hb => rw [AMap.look_put_ne _ _ (by unfold sbKey; omega)]; rfl

theorem completeRow_dataMembers (b' : Nat) : (completeRow g b top d m).dataMembers g b' = d.dataMembers g b' := by
  obtain ⟨ps, n, pd, h⟩ := completeRow_media g b top m d
  obtain ⟨n', hsb⟩ := completeRow_sb g b top m d (b' := b')
  have hissue : (d.issuePage g b m).media.retired = d.media.retired ∧ (d.issuePage g b m).media.bgs = d.media.bgs := by
    by_cases hn : d.begunPage g m b = []
    · rw [issuePage_none hn]; exact ⟨rfl, rfl⟩
    · rw [issuePage_media hn]; exact ⟨rfl, rfl⟩
  have hroles : ((completeRow g b top d m).sb g b').state = (d.sb g b').state ∧
      ((completeRow g b top d m).sb g b').members = (d.sb g b').members ∧
      ((completeRow g b top d m).sb g b').parity = (d.sb g b').parity := by
    rw [hsb]
    split
    · next hb => rw [hb]; exact ⟨rfl, rfl, rfl⟩
    · exact ⟨rfl, rfl, rfl⟩
  obtain ⟨hstate, hmembers, hparity⟩ := hroles
  exact dataMembers_congr (by rw [h]; exact hissue.1) (by rw [h]; exact hissue.2) hstate hmembers hparity

end

/-! The page of one member. -/

/-- Member `m` of superblock `b` has begun a page with these units, and its cursor stands at `c`. -/
structure PageBegun (g b m c : Nat) (u : ProgUnit) (us : List ProgUnit) (d : Dev) : Prop where
  sorted : AMap.sorted d.media.partials = true
  begun : AMap.look d.media.partials (16 * g + m) = some (u :: us)
  inSb : u.loc.bg = b
  holdsData : m ∈ d.dataMembers g b
  cursor : AMap.get (d.sb g b).cursors m 0 = c

/-- The page is programmed, and no place is left for further units of it. -/
def PageIssued (g b m c : Nat) (units : List ProgUnit) (d : Dev) : Prop :=
  AMap.look d.media.partials (16 * g + m) = none ∧ Program.mk g m b (c - 1) false false units ∈ d.media.programs

section
variable {g b m c : Nat} {u : ProgUnit} {us : List ProgUnit} {d : Dev}

theorem PageBegun.begunPage_eq (h : PageBegun g b m c u us d) : d.begunPage g m b = u :: us := by
  unfold begunPage
  rw [h.begun]
  exact if_pos h.inSb

/-- A page that some member has begun in some superblock is this one, or another member's. -/
theorem PageBegun.other (h : PageBegun g b m c u us d) {b' m' : Nat} (hne : ¬ (b' = b ∧ m' = m)) (hp : d.begunPage g m' b' ≠ []) :
    m' ≠ m := by
  rintro rfl
  unfold begunPage at hp
  simp only [h.begun, h.inSb] at hp
  exact hp (if_neg fun hb => hne ⟨hb.symm, rfl⟩)

/-- The member's turn programs the page. -/
theorem PageBegun.issued (h : PageBegun g b m c u us d) (top : Nat) : PageIssued g b m c (u :: us) (completeRow g b top d m) := by
  have hpage : d.begunPage g m b ≠ [] := by rw [h.begunPage_eq]; exact List.cons_ne_nil _ _
  have hissue := issuePage_media hpage
  rw [h.begunPage_eq, h.cursor] at hissue
  refine ⟨?_, completeRow_programs _ _ _ _ _ ?_⟩
  · rw [completeRow_partials, hissue]
    exact AMap.look_drop _ _ h.sorted
  · rw [hissue]
    exact List.mem_append_right _ (List.mem_singleton.2 rfl)

/-- The turn of another member, or in another superblock, leaves the page as it is. -/
theorem PageBegun.stays (h : PageBegun g b m c u us d) {b' m' : Nat} (hne : ¬ (b' = b ∧ m' = m)) (top : Nat) :
    PageBegun g b m c u us (completeRow g b' top d m') := by
  have hpart : AMap.sorted (d.issuePage g b' m').media.partials = true ∧
      AMap.look (d.issuePage g b' m').media.partials (16 * g + m) = some (u :: us) := by
    by_cases hp : d.begunPage g m' b' = []
    · rw [issuePage_none hp]; exact ⟨h.sorted, h.begun⟩
    · have hm := h.other hne hp
      rw [issuePage_media hp]
      exact ⟨AMap.sorted_drop _ _ h.sorted, (AMap.look_drop_ne _ (by omega)).trans h.begun⟩
  obtain ⟨n, hsb⟩ := completeRow_sb g b' top m' d (b' := b)
  refine ⟨by rw [completeRow_partials]; exact hpart.1, by rw [completeRow_partials]; exact hpart.2, h.inSb,
    by rw [completeRow_dataMembers]; exact h.holdsData, ?_⟩
  rw [hsb]
  split
  · next hb =>
    have hm : m ≠ m' := fun hm => hne ⟨hb.symm, hm.symm⟩
    rw [← hb, AMap.get, AMap.look_put_ne _ _ hm]
    exact h.cursor
  · exact h.cursor

theorem PageBegun.next (h : PageBegun g b m c u us d) (b' top m' : Nat) :
    PageBegun g b m c u us (completeRow g b' top d m') ∨ PageIssued g b m c (u :: us) (completeRow g b' top d m') := by
  by_cases heq : b' = b ∧ m' = m
  · obtain ⟨rfl, rfl⟩ := heq
    exact .inr (h.issued top)
  · exact .inl (h.stays heq top)

/-- A page once programmed stays so. -/
theorem PageIssued.stays {units : List ProgUnit} (h : PageIssued g b m c units d) (b' top m' : Nat) :
    PageIssued g b m c units (completeRow g b' top d m') := by
  obtain ⟨hnone, hmem⟩ := h
  have hpart : AMap.look (d.issuePage g b' m').media.partials (16 * g + m) = none ∧
      Program.mk g m b (c - 1) false false units ∈ (d.issuePage g b' m').media.programs := by
    by_cases hp : d.begunPage g m' b' = []
    · rw [issuePage_none hp]; exact ⟨hnone, hmem⟩
    · have hm : m' ≠ m := by
        rintro rfl
        unfold begunPage at hp
        rw [hnone] at hp
        exact hp rfl
      rw [issuePage_media hp]
      exact ⟨(AMap.look_drop_ne _ (by omega)).trans hnone, List.mem_append_left _ hmem⟩
  exact ⟨by rw [completeRow_partials]; exact hpart.1, completeRow_programs _ _ _ _ _ hpart.2⟩

/-- The turns of the superblock's members reach the page. -/
theorem PageBegun.completeRows (h : PageBegun g b m c u us d) : PageIssued g b m c (u :: us) (completeRows g d b) :=
  foldl_reaches h.holdsData h (fun _ h => h.issued _) (fun _ m' h => h.next b _ m') fun _ m' h => h.stays b _ m'

end

end Dev

/-- The timeout of the group programs the page. -/
theorem mutableRowTimeout_issues {d : Dev} {g b m c : Nat} {z : SuperBlock} {u : ProgUnit} {us : List ProgUnit} (hb : b < 2048)
    (hz : (2048 * g + b, z) ∈ d.media.sbs) (hopen : z.state = .open) (hmut : z.mutable = true) (h : Dev.PageBegun g b m c u us d) :
    Dev.PageIssued g b m c (u :: us) (mutableRowTimeout d g) := by
  have hmem : b ∈ (d.media.sbs.filter fun x => x.1 / 2048 = g && x.2.state = .open && x.2.mutable).map fun x => x.1 % 2048 := by
    refine List.mem_map.2 ⟨_, List.mem_filter.2 ⟨hz, ?_⟩, ?_⟩
    · have : (2048 * g + b) / 2048 = g := by omega
      simp [this, hopen, hmut]
    · dsimp only; omega
  rw [mutableRowTimeout_eq]
  refine foldl_reaches hmem h (fun _ h => h.completeRows) (fun d b' h => ?_) fun d b' h => ?_
  · exact foldl_keeps (fun e => Dev.PageBegun g b m c u us e ∨ Dev.PageIssued g b m c (u :: us) e) _ _ d (.inl h) fun e m' h =>
      h.elim (fun h => h.next b' _ m') fun h => .inr (h.stays b' _ m')
  · exact foldl_keeps (Dev.PageIssued g b m c (u :: us)) _ _ d h fun e m' h => h.stays b' _ m'

end Sys2Proof.Machine
end

section
/-! SUPPORT. What placement, relocation, the journal and reclaim leave: nothing but the media and their registers changes, and the
checkpoint of the mapping stays as it is (R379, R383 to R388, R399). -/

namespace Sys2Proof.Machine

/-- `e` differs from `d` in work on the media only, and has its checkpoint of the mapping. -/
def KeepsCheckpoint (d e : Dev) : Prop := MediaOnly d e ∧ e.media.checkpoint = d.media.checkpoint

namespace KeepsCheckpoint

theorem refl (d : Dev) : KeepsCheckpoint d d := ⟨.refl d, rfl⟩

theorem trans {d e f : Dev} (h : KeepsCheckpoint d e) (g : KeepsCheckpoint e f) : KeepsCheckpoint d f :=
  ⟨h.1.trans g.1, g.2.trans h.2⟩

/-- Work that leaves the media themselves as they are. -/
theorem of_media_eq {d e : Dev} (h : MediaOnly d e) (hm : e.media = d.media) : KeepsCheckpoint d e := ⟨h, congrArg _ hm⟩

theorem media (d : Dev) (f : MediaState → MediaState) (h : ∀ m, (f m).checkpoint = m.checkpoint := by exact fun _ => rfl) :
    KeepsCheckpoint d (d.modMedia f) := ⟨.media d f, h _⟩

theorem sb (d : Dev) (g b : Nat) (f : SuperBlock → SuperBlock) : KeepsCheckpoint d (d.modSb g b f) := ⟨.sb d g b f, rfl⟩

theorem bg (d : Dev) (k : Nat) (f : BlockGroup → BlockGroup) : KeepsCheckpoint d (d.modBg k f) :=
  ⟨⟨⟨d.kerbs, d.regs, _, d.drawn, rfl⟩, fun _ _ => rfl⟩, rfl⟩

theorem foldl {α : Type} (f : Dev → α → Dev) (h : ∀ d a, KeepsCheckpoint d (f d a)) (l : List α) (d : Dev) :
    KeepsCheckpoint d (l.foldl f d) := foldl_keeps (KeepsCheckpoint d) f l d (.refl d) fun _ a g => g.trans (h _ a)

theorem ite {c : Prop} [Decidable c] {d a b : Dev} (h : KeepsCheckpoint d a) (g : KeepsCheckpoint d b) :
    KeepsCheckpoint d (if c then a else b) := by
  split
  · exact h
  · exact g

theorem of_ite {c : Prop} [Decidable c] {d a b e : Dev} (h : (if c then some a else some b) = some e) (ha : KeepsCheckpoint d a)
    (hb : KeepsCheckpoint d b) : KeepsCheckpoint d e := by
  split at h <;> cases h
  · exact ha
  · exact hb

end KeepsCheckpoint

/-- `e` differs from `d` in the states of superblocks and in the registers of the media only. -/
def SbsOnly (d e : Dev) : Prop := MediaOnly d e ∧ ∃ sbs, e.media = { d.media with sbs := sbs }

theorem SbsOnly.keepsCheckpoint {d e : Dev} (h : SbsOnly d e) : KeepsCheckpoint d e := by
  obtain ⟨hm, _, he⟩ := h
  exact ⟨hm, by rw [he]⟩

namespace Dev

/-! Placement. -/

theorem enqueue_keepsCheckpoint (d : Dev) (k j : Nat) (o : DieOp) : KeepsCheckpoint d (d.enqueue k j o) :=
  .of_media_eq (d.enqueue_frame k j o) (d.enqueue_media k j o)

@[simp] theorem checkFull_media (d : Dev) (g : Nat) : (d.checkFull g).media = d.media := by
  unfold checkFull
  dsimp only
  split <;> split <;> rfl

theorem checkFull_keepsCheckpoint (d : Dev) (g : Nat) : KeepsCheckpoint d (d.checkFull g) :=
  .of_media_eq (d.checkFull_frame g) (d.checkFull_media g)

theorem pick_keepsCheckpoint {α : Type} (d : Dev) (l : List α) : KeepsCheckpoint d (d.pick l).2 := by
  refine .of_media_eq (d.pick_frame l) ?_
  unfold pick
  split <;> rfl

theorem openIn_keepsCheckpoint (d : Dev) (g b : Nat) (st : SbState) : KeepsCheckpoint d (d.openIn g b st) := by
  unfold openIn
  exact .sb d g b _

theorem ensureSb_keepsCheckpoint (d : Dev) (g : Nat) (m l : Bool) (ok : List Nat) : KeepsCheckpoint d (d.ensureSb g m l ok).2 := by
  unfold ensureSb
  split
  · exact .refl d
  · split
    · exact .refl d
    · split
      · exact .refl d
      · dsimp only
        exact ((d.openIn_keepsCheckpoint g _ _).trans (.sb _ g _ _)).trans (checkFull_keepsCheckpoint _ g)

theorem addProgram_keepsCheckpoint (d : Dev) (p : Program) (c : DieClass) : KeepsCheckpoint d (d.addProgram p c) :=
  (KeepsCheckpoint.media d _).trans (enqueue_keepsCheckpoint _ _ _ _)

theorem placed_keepsCheckpoint (d : Dev) (u : ProgUnit) : KeepsCheckpoint d (d.placed u) := by
  refine ⟨d.placed_frame u, ?_⟩
  unfold placed
  dsimp only
  split <;> rfl

/-- One unit is placed. -/
theorem placeUnit_keepsCheckpoint {d e : Dev} {u : ProgUnit} (h : d.placeUnit u = some e) : KeepsCheckpoint d e := by
  unfold placeUnit at h
  dsimp only at h
  have hopen := d.ensureSb_keepsCheckpoint (d.home u.ns u.unit).1 (!d.corpus u.ns) (d.mayTakeLast u)
    (d.allowed (d.home u.ns u.unit).1 (d.home u.ns u.unit).2)
  split at h
  · cases h
  · next b d1 hb =>
    rw [hb] at hopen
    split at h
    · cases h
    · next m d2 hm =>
      have hpick : KeepsCheckpoint d d2 :=
        hopen.trans ((congrArg (KeepsCheckpoint d1) (congrArg Prod.snd hm)).mp (pick_keepsCheckpoint d1 _))
      refine .of_ite h (.trans ?_ (.media _ _)) (.trans (.trans ?_ (.media _ _)) (addProgram_keepsCheckpoint _ _ _)) <;>
        exact (hpick.trans (.ite (.sb _ _ _ _) (.refl _))).trans (placed_keepsCheckpoint _ _)

theorem drainUnplaced_keepsCheckpoint (d : Dev) : KeepsCheckpoint d d.drainUnplaced := by
  unfold drainUnplaced
  refine (KeepsCheckpoint.media d _).trans (.foldl _ (fun d u => ?_) _ _)
  split
  · next h => exact placeUnit_keepsCheckpoint h
  · exact .media d _

theorem relocate_keepsCheckpoint (d : Dev) (ns u : Nat) (c : DieClass) : KeepsCheckpoint d (d.relocate ns u c) := by
  unfold relocate
  split
  · exact .refl d
  · split
    · exact (KeepsCheckpoint.media d _).trans (drainUnplaced_keepsCheckpoint _)
    · exact d.enqueue_keepsCheckpoint _ _ _

/-! The journal. -/

theorem openTwice_frame (d : Dev) (j : Nat) (st : SbState) : SbsOnly d (d.openTwice j st) := by
  refine foldl_keeps (SbsOnly d) _ _ d ⟨.refl d, _, rfl⟩ fun e g h => ?_
  split
  · next b hb =>
    obtain ⟨hm, sbs, he⟩ := h
    refine ⟨hm.trans (((MediaOnly.sb e g b _).trans (.sb _ g b _)).trans (checkFull_frame _ g)), ?_⟩
    rw [checkFull_media]
    unfold modSb openIn modSb
    dsimp only
    rw [he]
    exact ⟨_, rfl⟩
  · exact h

theorem programJournal_keepsCheckpoint (d : Dev) : KeepsCheckpoint d d.programJournal := by
  unfold programJournal
  have h := KeepsCheckpoint.media d (fun m =>
    { m with journal := m.journal ++ m.staged, staged := [], pairBytes := m.pairBytes + journalRecordBytes * d.media.staged.length })
  dsimp only
  split
  · exact h.trans ((KeepsCheckpoint.media _ _).trans (openTwice_frame _ _ _).keepsCheckpoint)
  · exact h

/-- Programming the staged records changes nothing of what the journal says. -/
theorem programJournal_journalledMap (d : Dev) : d.programJournal.journalledMap = d.journalledMap := by
  have h : d.programJournal.media.checkpoint = d.media.checkpoint ∧ d.programJournal.media.journal = d.media.journal ++ d.media.staged ∧
      d.programJournal.media.staged = [] := by
    unfold programJournal openPair
    dsimp only
    split
    · obtain ⟨-, sbs, he⟩ := openTwice_frame _ _ _
      rw [he]
      exact ⟨rfl, rfl, rfl⟩
    · exact ⟨rfl, rfl, rfl⟩
  obtain ⟨hc, hj, hs⟩ := h
  unfold journalledMap
  rw [hc, hj, hs, List.append_nil]

theorem journalPut_keepsCheckpoint (d : Dev) (r : JournalRec) : KeepsCheckpoint d (d.journalPut r) := by
  unfold journalPut
  have h := KeepsCheckpoint.media d (fun m =>
    { m with staged := m.staged ++ [r], sinceCheckpoint := m.sinceCheckpoint + journalRecordBytes })
  dsimp only
  split
  · exact h.trans (programJournal_keepsCheckpoint _)
  · exact h

/-! Victims. -/

theorem startErase_keepsCheckpoint (d : Dev) (v : Victim) : KeepsCheckpoint d (d.startErase v) :=
  (KeepsCheckpoint.media d _).trans (.foldl _ (fun d _ =>
    ((KeepsCheckpoint.bg d _ _).trans (journalPut_keepsCheckpoint _ _)).trans (enqueue_keepsCheckpoint _ _ _ _)) _ _)

theorem driveVictims_keepsCheckpoint (d : Dev) : KeepsCheckpoint d d.driveVictims :=
  .foldl _ (fun d v => .ite (d.startErase_keepsCheckpoint v) (.refl d)) _ d

theorem closeSb_keepsCheckpoint (d : Dev) (g b : Nat) : KeepsCheckpoint d (d.closeSb g b) :=
  .ite (.refl d) ((KeepsCheckpoint.sb d g b _).trans (.media _ _))

theorem addVictim_keepsCheckpoint (d : Dev) (g b : Nat) (c : DieClass) (es : List Nat) : KeepsCheckpoint d (d.addVictim g b c es) := by
  unfold addVictim
  split
  · exact .media d _
  · have hclosed := (d.closeSb_keepsCheckpoint g b).trans
      (.media _ fun m => { m with victims := m.victims ++ [Victim.mk g b c es false] })
    exact ((hclosed.trans (.foldl _ (fun d (x : Nat × Nat) => d.relocate_keepsCheckpoint x.1 x.2 c) _ _)).trans
      (drainUnplaced_keepsCheckpoint _)).trans (driveVictims_keepsCheckpoint _)

end Dev

/-! The checkpoint (R399). -/

/-- The count of checkpoints is no register of the media's work. -/
theorem not_mediaReg_journal : ¬ MediaReg Reg.FTL_JOURNAL := by
  rintro (⟨k, h⟩ | h | ⟨g, h⟩ | h | ⟨s, h⟩)
  · unfold Reg.FTL_JOURNAL Reg.KERB_SUSPEND at h; omega
  · revert h; decide
  · unfold Reg.FTL_JOURNAL Reg.FTL_GRP at h; omega
  · revert h; decide
  · unfold Reg.FTL_JOURNAL Reg.STK_STAT at h; omega

theorem MediaOnly.journal_count {d e : Dev} (h : MediaOnly d e) (f : Fld) : e.fget Reg.FTL_JOURNAL f = d.fget Reg.FTL_JOURNAL f := by
  unfold Dev.fget
  rw [h.2 _ not_mediaReg_journal]

@[simp] theorem Dev.fadd_media (d : Dev) (a : Nat) (f : Fld) (n : Nat) : (d.fadd a f n).media = d.media := rfl

/-- A counter field counts up to its maximum. -/
theorem Dev.fget_fadd_same (d : Dev) (a : Nat) (f : Fld) (n : Nat) :
    (d.fadd a f n).fget a f = min (d.fget a f + n) (2 ^ f.width - 1) := by
  have hlt : min (d.fget a f + n) (2 ^ f.width - 1) < 2 ^ f.width := by
    have := Nat.two_pow_pos f.width
    omega
  unfold Dev.fadd Dev.fset satAdd
  rw [Dev.fget, Dev.reg_setReg, bits_setBits_same, Nat.mod_eq_of_lt hlt]

end Sys2Proof.Machine
end

section
/-! The events of the media: suspensions, open rows, reclaim, the journal and erasures (R229, R383, R386, R396, R399). -/

namespace Sys2Proof.Machine

/-! Reclaim (R386). -/

section
variable {d : Dev} {g p b : Nat}

theorem reclaimVictim_write (hfew : (d.freeSbs g).length < 12) (hv : d.chooseVictim g (p = 2) false = some b) :
    reclaimVictim d g p = d.addVictim g b .write [] := by
  have h32 : ¬ 32 ≤ (d.freeSbs g).length := by omega
  simp [reclaimVictim, Nat.not_le.2 hfew, h32, hv]

theorem reclaimVictim_background (hmany : 12 ≤ (d.freeSbs g).length) (hslot : d.slotNames 6 = true)
    (hhold : d.fbit Reg.FTL_CTL Fld.FTL_CTL_RECLAIM_HOLD = false)
    (hv : d.chooseVictim g (p = 2) (decide (32 ≤ (d.freeSbs g).length)) = some b) :
    reclaimVictim d g p = d.addVictim g b .background [] := by
  simp [reclaimVictim, hmany, hslot, hhold, hv]

/-- Reclaim holds, or no slot names it, and the group is in no need; or the group has no victim. -/
theorem reclaimVictim_none (h : 12 ≤ (d.freeSbs g).length ∧ (d.slotNames 6 = false ∨
    d.fbit Reg.FTL_CTL Fld.FTL_CTL_RECLAIM_HOLD = true) ∨
      d.chooseVictim g (p = 2) (decide (32 ≤ (d.freeSbs g).length)) = none) : reclaimVictim d g p = d := by
  unfold reclaimVictim
  rcases h with ⟨hmany, hoff⟩ | hv
  · exact if_pos (by simpa [hmany, or_comm] using hoff)
  · dsimp only
    rw [hv]
    exact ite_self d

end

/-! The checkpoint (R399). -/

theorem journalCheckpoint_waits {d : Dev} (h : d.slotNames 11 = false ∨ d.media.sinceCheckpoint ≤ 2 ^ 32) : journalCheckpoint d = d :=
  if_pos (by simpa using h)

/-- A checkpoint that is due takes the journalled mapping and is counted; what reclaim then does of the superblocks of earlier ones
changes neither. -/
theorem journalCheckpoint_due {d : Dev} (hslot : d.slotNames 11 = true) (hdue : 2 ^ 32 < d.media.sinceCheckpoint) :
    (journalCheckpoint d).media.checkpoint = d.journalledMap ∧ (journalCheckpoint d).mems = d.mems ∧
      (journalCheckpoint d).fget Reg.FTL_JOURNAL Fld.FTL_JOURNAL_CHECKPOINTS =
        min (d.fget Reg.FTL_JOURNAL Fld.FTL_JOURNAL_CHECKPOINTS + 1) (2 ^ Fld.FTL_JOURNAL_CHECKPOINTS.width - 1) := by
  have hgo : ¬ (!d.slotNames 11 || decide (d.media.sinceCheckpoint ≤ 2 ^ 32)) = true := by
    simp only [hslot, Nat.not_le.2 hdue]
    decide
  unfold journalCheckpoint
  dsimp only
  rw [if_neg hgo, Dev.programJournal_journalledMap]
  generalize hc : d.programJournal.modMedia _ = c
  have hcount : MediaOnly d c := hc ▸ d.programJournal_keepsCheckpoint.1.trans (.media _ _)
  have hmap : c.media.checkpoint = d.journalledMap := hc ▸ rfl
  have hopen := c.openTwice_frame c.media.pair .checkpoint
  generalize c.openTwice c.media.pair .checkpoint = o at hopen ⊢
  have hbefore := hcount.trans hopen.1
  have hadded := KeepsWork.fadd o Reg.FTL_JOURNAL Fld.FTL_JOURNAL_CHECKPOINTS 1
  have hold (old : List (Nat × Nat)) (e : Dev) : KeepsCheckpoint e (old.foldl (fun d x => d.addVictim x.1 x.2 .background []) e) :=
    .foldl _ (fun d x => d.addVictim_keepsCheckpoint x.1 x.2 _ _) old e
  refine ⟨?_, ?_, ?_⟩
  · rw [(hold _ _).2, Dev.fadd_media, hopen.keepsCheckpoint.2, hmap]
  · rw [(KeepsWork.of_media (hold _ _).1).mems, hadded.mems, (KeepsWork.of_media hbefore).mems]
  · rw [(hold _ _).1.journal_count, Dev.fget_fadd_same, hbefore.journal_count]

/-! Secure erasures (R396). -/

theorem secureDrained_starts {d : Dev} {i : Nat} {e : Erasure} (he : AMap.look d.media.erasures i = some e) (hj : e.journalled = false)
    (hs : (d.media.stale.any fun x => d.covers e x.ns x.unit) = false) : secureDrained d i = d.eraseCopies i e := by
  unfold secureDrained
  rw [he]
  exact if_neg (by simp only [hj, hs]; decide)

theorem secureDrained_waits {d : Dev} {i : Nat} (h : ∀ e, AMap.look d.media.erasures i = some e → e.journalled = true ∨
    (d.media.stale.any fun x => d.covers e x.ns x.unit) = true) : secureDrained d i = d := by
  unfold secureDrained
  split
  · rfl
  · next e he => exact if_pos (by simpa only [Bool.or_eq_true] using h e he)

/-- Settles O22: a begun page stands until its member's turn programs it; the checkpoint stands through the reclaim that follows it; each
of the other events is decided by the guards of its meaning. -/
theorem mediaEventsComplete : Obligations.MediaEventsComplete := by
  have rows {s : State} {g : Nat} {e : Dev} (h : mutableRowTimeout s.clear g = e) : Completes (.mutableRowTimeout g) s e :=
    .of_effect (execMutableRowTimeout.eq_1 g s) h
  have reclaims {s : State} {g p : Nat} {e : Dev} (h : reclaimVictim s.clear g p = e) : Completes (.reclaimVictim g p) s e :=
    .of_effect (execReclaimVictim.eq_1 g p s) h
  have checkpoints {s : State} {e : Dev} (h : journalCheckpoint s.clear = e) : Completes .journalCheckpoint s e :=
    .of_effect (execJournalCheckpoint.eq_1 s) h
  have drained {s : State} {i : Nat} {e : Dev} (h : secureDrained s.clear i = e) : Completes (.secureDeallocDrained i) s e :=
    .of_effect (execSecureDeallocDrained.eq_1 i s) h
  refine ⟨fun s k j => .of_effect (execSuspendTimeout.eq_1 k j s) rfl, fun s g h => rows ?noneOpen,
    fun s g b m z u us hb hz hopen hmut hm hs hl hu => ⟨_, rows rfl, ?begun⟩,
    fun s g => ⟨_, rows rfl, (KeepsWork.of_media (mutableRowTimeout_frame s.clear g)).mems⟩,
    fun s g p b hfew hv => reclaims (reclaimVictim_write hfew hv),
    fun s g p b hmany hslot hhold hv => reclaims (reclaimVictim_background hmany hslot hhold hv),
    fun s g p h => reclaims (reclaimVictim_none h), fun s hslot hdue => ⟨_, checkpoints rfl, journalCheckpoint_due hslot hdue⟩,
    fun s h => checkpoints (journalCheckpoint_waits h), fun s i e he hj hs => drained (secureDrained_starts he hj hs),
    fun s i h => drained (secureDrained_waits h)⟩
  case noneOpen => rw [mutableRowTimeout_eq, h]; rfl
  case begun => exact mutableRowTimeout_issues hb hz hopen hmut ⟨hs, hl, hu, hm, rfl⟩

end Sys2Proof.Machine
end

section
/-! Sweep passes (R251, R252). -/

namespace Sys2Proof.Machine

/-- A pass that is the only one and whose queries have all been routed starts with the lists that they probe. -/
theorem passStart_single {d : Dev} {p : Pass} {qs : List Query} {ls : List Nat} {l : Nat} {rest : List Nat} (hp : d.passes = [p])
    (hs : p.started = false) (hqs : qs = (p.queries.filter d.alive).filterMap d.queryOf) (hr : ∀ q ∈ qs, 3 ≤ Dev.phaseRank q.phase)
    (hls : ls = sortBy (fun a b => decide (a < b)) ((qs.flatMap Dev.roundLists).dedup)) (hl : ls = l :: rest) :
    passStart d p.ns = ({ d with passes := [{ p with
      started := true, startNs := d.time.ns, lists := ls,
      left := (qs.filter fun q => (Dev.roundLists q).contains l).map (·.id) }] } : Dev).passNext p.ns 4096 := by
  have hrouted : (qs.any fun q => decide (passStart.phaseRank' q.phase < 3)) = false :=
    List.any_eq_false.2 fun q hq hlt => Nat.not_lt.2 (hr q hq) (of_decide_eq_true hlt)
  unfold passStart
  simp [hp, hs, ← hqs, hrouted, ← hls, hl]

/-- The version that a pass searched: that of the first of its queries that is still known. -/
def Dev.versionOfPass (d : Dev) (p : Pass) : Nat :=
  match p.queries.findSome? d.queryOf with
  | some q => q.version
  | none => 0

/-- The record of a pass that has ended stands in the trace, and its version counts it (R252, R296). -/
def Dev.recordPass (d : Dev) (p : Pass) : Dev :=
  (d.traceEvent d.srcSquare 0x13 (toLE 4 (d.versionOfPass p) ++ capLE 4 p.queries.length ++ toLE 8 p.windowBeat ++ capLE 4 p.read ++
    capLE 4 p.rereads ++ capLE 4 ((p.routeNs - p.readyNs) / 1000) ++ capLE 4 ((d.time.ns - p.startNs) / 1000000) ++
    List.replicate 16 0)).modVersion p.ns (d.versionOfPass p) fun v => { v with passes := v.passes + 1, reread := v.reread + p.rereads }

@[simp] theorem Dev.traceEvent_passes (d : Dev) (src ev : Nat) (b : List Byte) : (d.traceEvent src ev b).passes = d.passes := by
  obtain ⟨_, _, _, _, _, _, _, he⟩ := d.traceEvent_logs src ev b
  rw [he]

@[simp] theorem Dev.modVersion_passes (d : Dev) (ns n : Nat) (f : Version → Version) : (d.modVersion ns n f).passes = d.passes := rfl

/-- A pass that is the only one ends once its lists have all been read at every Kerb: none is left, and its queries are merged. -/
theorem passEnd_single {d e : Dev} {p : Pass} (hp : d.passes = [p]) (hs : p.started = true) (hl : p.lists = [])
    (hk : (d.kerbs.any fun k => k.2.qblocks.any fun b => b.sweeping p.ns) = false) (he : e = { d.recordPass p with passes := [] }) :
    passEnd d p.ns = ((p.queries.filter e.alive).foldl (fun d i =>
      (d.modQuery i fun q => { q with probed := q.probes }).merge i) e).retireIdle.driveStages := by
  subst he
  unfold passEnd
  simp [hp, hs, hl, hk, Dev.recordPass] <;> rfl

/-- Settles O25: the one pass passes the guards of its start and of its end. -/
theorem sweepPassesComplete : Obligations.SweepPassesComplete := by
  refine ⟨fun s ns p qs ls l rest hp hns hs hqs hr hls hl => ?starts, fun s ns p d e hp hns hs hl hk hd he => ?ends⟩
  case starts =>
    subst hns
    exact .of_effect (execSweepPassStart.eq_1 p.ns s) (passStart_single hp hs hqs hr hls hl)
  case ends =>
    subst hns hd
    exact .of_effect (execSweepPassEnd.eq_1 p.ns s) (passEnd_single hp hs hl hk he)

end Sys2Proof.Machine
end

section
/-! Merges, acknowledgements and repair (R26, R265, R287, R292, R297). -/

namespace Sys2Proof.Machine

theorem gateMerge_merges {d : Dev} {i : Nat} {q : Query} (hq : d.queryOf i = some q) (hp : q.phase = .search)
    (hw : q.desc.sweep = false) (hn : q.probed ≠ 0) (hs : d.searching i = false) : gateMerge d i = (d.merge i).driveStages := by
  unfold gateMerge
  rw [hq]
  exact if_neg (by simp [hp, hw, hn, hs])

/-! What the acknowledgement does to a query whose final record awaits it. -/

theorem ackQuery_acknowledged {d : Dev} {q : Query} (hp : q.phase = .returning) (hu : q.unacked = true) (hf : q.finalWaits = false) :
    ackQuery d q false = (d.mark q.id 5).modQuery q.id fun q => { q with unacked := false, streaming := false, phase := .done } := by
  simp [ackQuery, hp, hu, hf]

theorem ackQuery_unwritten {d : Dev} {q : Query} (hp : q.phase = .returning) (hu : q.unacked = true) :
    ackQuery d q true = d.modQuery q.id fun q => { q with
      failed := some (q.failed.getD .dataTransferError), phase := .done, unacked := false, streaming := false, finalWaits := false } := by
  simp [ackQuery, hp, hu]

/-! The acknowledgement of a command's writes. -/

theorem writeAck_single {d : Dev} {queue cid : Nat} {q : Query} (h : d.queriesOf queue cid = [q]) (bad : List Nat) :
    writeAck d queue cid bad =
      (((ackQuery d q (bad.contains q.index)).settleQuery queue cid).ackEnd queue cid !bad.isEmpty).driveStages := by
  unfold writeAck
  rw [h]
  rfl

/-- A command without queries has nothing to settle. -/
theorem settleQuery_none {d : Dev} {queue cid : Nat} (h : d.queriesOf queue cid = []) :
    d.settleQuery queue cid = (d.forget []).retireIdle := by
  unfold Dev.settleQuery
  rw [h]
  rfl

theorem writeAck_none {d : Dev} {queue cid : Nat} (h : d.queriesOf queue cid = []) (bad : List Nat) :
    writeAck d queue cid bad = ((d.forget []).retireIdle.ackEnd queue cid !bad.isEmpty).driveStages := by
  rw [← settleQuery_none h]
  unfold writeAck
  rw [h]
  rfl

/-- Settles O27: the phase of the query decides its merge, and what its command's acknowledgement does; the open slot decides repair. -/
theorem resultEventsComplete : Obligations.ResultEventsComplete := by
  have acks {s : State} {queue cid : Nat} {bad : List Nat} {e : Dev} (h : writeAck s.clear queue cid bad = e) :
      Completes (.rdmaWriteAck queue { cid := cid, failed := bad }) s e := .of_effect (execRdmaWriteAck.eq_1 queue _ s) h
  refine ⟨fun s i q hq hp hw hn hs => .of_effect (execGateMerge.eq_1 i s) (gateMerge_merges hq hp hw hn hs),
    fun s queue cid q h hp hu hf => acks ?acknowledged, fun s queue cid q h hp hu => acks ?unwritten,
    fun s queue cid bad h => acks (writeAck_none h bad),
    fun s ns h => .of_effect (execRepairBackground.eq_1 ns s) (if_pos h),
    fun s ns h => .of_effect (execRepairBackground.eq_1 ns s) (if_neg (Bool.eq_false_iff.1 h))⟩
  case acknowledged =>
    rw [writeAck_single h, List.contains_nil, ackQuery_acknowledged hp hu hf]
    rfl
  case unwritten =>
    have hbad : [q.index].contains q.index = true := by simp
    rw [writeAck_single h, hbad, ackQuery_unwritten hp hu]
    rfl

end Sys2Proof.Machine
end

section
/-! SUPPORT. Where the queries of a module come from: what ends a query or a command, or retires a version, makes no query and gives none
another descriptor (R241, R243, R287). -/

namespace Sys2Proof.Machine

/-- Every query of `e` is one of `d`, as far as its descriptor goes. -/
def QueriesFrom (d e : Dev) : Prop := ∀ y ∈ e.queries, ∃ x ∈ d.queries, y.2.desc = x.2.desc

namespace QueriesFrom

theorem of_queries {d e : Dev} (h : e.queries = d.queries) : QueriesFrom d e := fun y hy => ⟨y, h ▸ hy, rfl⟩

theorem refl (d : Dev) : QueriesFrom d d := of_queries rfl

theorem trans {d e f : Dev} (h : QueriesFrom d e) (g : QueriesFrom e f) : QueriesFrom d f := fun z hz => by
  obtain ⟨y, hy, hzy⟩ := g z hz
  obtain ⟨x, hx, hyx⟩ := h y hy
  exact ⟨x, hx, hzy.trans hyx⟩

theorem logs {d e : Dev} (h : LogOnly d e) : QueriesFrom d e := by
  obtain ⟨_, _, _, _, _, _, _, rfl⟩ := h
  exact of_queries rfl

theorem media {d e : Dev} (h : MediaOnly d e) : QueriesFrom d e := by
  obtain ⟨⟨_, _, _, _, rfl⟩, -⟩ := h
  exact of_queries rfl

theorem foldl {α : Type} (f : Dev → α → Dev) (h : ∀ d a, QueriesFrom d (f d a)) (l : List α) (d : Dev) :
    QueriesFrom d (l.foldl f d) := foldl_keeps (QueriesFrom d) f l d (.refl d) fun _ a g => g.trans (h _ a)

theorem ite {c : Prop} [Decidable c] {d a b : Dev} (h : QueriesFrom d a) (g : QueriesFrom d b) : QueriesFrom d (if c then a else b) := by
  split
  · exact h
  · exact g

theorem modQuery (d : Dev) (i : Nat) (f : Query → Query) (h : ∀ q, (f q).desc = q.desc := by exact fun _ => rfl) :
    QueriesFrom d (d.modQuery i f) := fun y hy => by
  obtain ⟨x, hx, rfl⟩ := List.mem_map.1 hy
  refine ⟨x, hx, ?_⟩
  dsimp only
  split
  · exact h x.2
  · rfl

end QueriesFrom

/-! The end of a command is an event: registers, sequence numbers and the host's queues change. -/

theorem LogOnly.host (d : Dev) (h : HostState) : LogOnly d { d with host := h } := .mk d d.regs d.seqs d.trace d.out h

theorem LogOnly.emit (d : Dev) (o : Out) : LogOnly d (d.emit o) := .mk d d.regs d.seqs d.trace _ d.host

namespace Dev

theorem countPort_logs (d : Dev) (port dist : Nat) (out : Bool) (n : Nat) : LogOnly d (d.countPort port dist out n) := by
  unfold countPort
  split <;> exact .fadd d _ _ _

theorem putResult_logs (d : Dev) (q : Query) (o : Nat) (bytes : List Byte) : LogOnly d (d.putResult q o bytes) := by
  unfold putResult
  split
  · exact .refl d
  · exact (LogOnly.emit d _).trans (countPort_logs _ _ _ _ _)

theorem countEnd_logs (d : Dev) (q cid : Nat) (st : Status) : LogOnly d (d.countEnd q cid st) := by
  unfold countEnd
  split
  · exact .fadd d _ _ _
  · exact (LogOnly.fadd d Reg.HIF_CMDS Fld.HIF_CMDS_ERRORS 1).trans (.host _ _)

theorem recordEnd_logs (d : Dev) (port : Nat) (nqn : List Byte) (c : Instr) (q cid : Nat) (st : Status) :
    LogOnly d (d.recordEnd port nqn c q cid st) :=
  ((d.countEnd_logs q cid st).trans (.host _ _)).trans (.host _ _)

theorem postEnd_logs (d : Dev) (q cid : Nat) (st : Status) (dw0 dw1 : Nat) : LogOnly d (d.postEnd q cid st dw0 dw1) :=
  (((d.countEnd_logs q cid st).trans (.host _ _)).trans (.host _ _)).trans (.emit _ _)

theorem finishWith_logs (d : Dev) (q cid : Nat) (st : Status) (dw0 dw1 : Nat) : LogOnly d (d.finishWith q cid st dw0 dw1) := by
  unfold finishWith
  split
  · exact d.recordEnd_logs _ _ _ _ _ _
  · exact .host d _
  · exact d.postEnd_logs _ _ _ _ _

theorem finishPort_logs (d : Dev) (q cid : Nat) (st : Status) (dw0 : Nat) : LogOnly d (d.finishPort q cid st dw0) :=
  (LogOnly.takeSeq d _).trans (finishWith_logs _ _ _ _ _ _)

/-! A discarded range leaves the media, and its bytes are zeros. -/

theorem unmap_media (d : Dev) (ns u : Nat) : MediaOnly d (d.unmap ns u) :=
  .ite (.refl d) ((d.journalPut_keepsCheckpoint _).1.trans (.media _ _))

theorem dropSpec_queries (d : Dev) (k : Nat) (p : CachePiece) : QueriesFrom d (d.dropSpec k p) := .ite (.of_queries rfl) (.refl d)

theorem cacheDropWhere_queries (d : Dev) (k : Nat) (c : CachePiece → Bool) : QueriesFrom d (d.cacheDropWhere k c) :=
  .trans (.of_queries rfl) (.foldl _ (fun d p => d.dropSpec_queries k p) _ _)

theorem discard_queries (d : Dev) (owner : Option (Nat × Nat)) (ns first count : Nat) :
    QueriesFrom d (d.discard owner ns first count) := by
  have unmaps (us : List Nat) (d : Dev) : QueriesFrom d (us.foldl (fun d u => d.unmap ns u) d) :=
    .foldl _ (fun d u => .media (d.unmap_media ns u)) us d
  have drops (d : Dev) : QueriesFrom d (d.invalidate ns first count) := .foldl _ (fun d k => d.cacheDropWhere_queries k _) _ d
  have puts (d : Dev) (us : List ProgUnit) : QueriesFrom d (d.putUnits us) :=
    .media ((MediaOnly.media d _).trans (drainUnplaced_frame _))
  unfold discard
  dsimp only
  have zeros (m : Mem) : QueriesFrom d { d with nsMem := m } := .of_queries rfl
  exact (((zeros _).trans (unmaps _ _)).trans (drops _)).trans (puts _ _)

/-! The end of a query. -/

theorem retireSpace_queries (d : Dev) (v : Version) : QueriesFrom d (d.retireSpace v) := by
  unfold retireSpace
  dsimp only
  split
  · exact .foldl _ (fun d p => .ite (.refl d) (d.discard_queries _ _ _ _)) _ d
  · refine .foldl _ (fun d l => .ite (.refl d) ?_) _ d
    exact (((d.discard_queries _ _ _ _).trans (discard_queries _ _ _ _ _)).trans (discard_queries _ _ _ _ _)).trans
      (discard_queries _ _ _ _ _)

theorem retireIdle_queries (d : Dev) : QueriesFrom d d.retireIdle :=
  .trans (.of_queries rfl) (.foldl _ (fun d v => d.retireSpace_queries v) _ _)

theorem forget_queries (d : Dev) (qs : List Nat) : QueriesFrom d (d.forget qs) := by
  have keep (ids : List (Nat × IdState × List Nat)) (m : MediaState) : QueriesFrom d { d with staleIds := ids, media := m } :=
    .of_queries rfl
  exact (keep _ _).trans (.media (driveVictims_keepsCheckpoint _).1)

theorem settleQuery_queries (d : Dev) (queue cid : Nat) : QueriesFrom d (d.settleQuery queue cid) := by
  have idle (d : Dev) (qs : List Nat) : QueriesFrom d (d.forget qs).retireIdle := (d.forget_queries qs).trans (retireIdle_queries _)
  have records (qs : List Query) (d : Dev) : QueriesFrom d (qs.foldl (fun d q => d.queryRecord q) d) :=
    .foldl _ (fun d q => by unfold queryRecord; exact .logs (d.traceEvent_logs _ _ _)) qs d
  have drops (ids : List Nat) (d : Dev) : QueriesFrom d { d with queries := d.queries.filter fun q => !ids.contains q.1 } :=
    fun y hy => ⟨y, (List.mem_filter.1 hy).1, rfl⟩
  unfold settleQuery
  refine (idle d _).trans (.ite (.refl _) ?_)
  exact (((records _ _).trans (drops _ _)).trans (idle _ _)).trans (.logs (finishPort_logs _ _ _ _ _))

theorem failQuery_queries (d : Dev) (i : Nat) (st : Status) (header : Bool) : QueriesFrom d (d.failQuery i st header) := by
  unfold failQuery
  split
  · exact .refl d
  · next q _ =>
    refine .ite (.refl d) ?_
    have drop : QueriesFrom d (d.dropQuery i) := .of_queries rfl
    exact ((drop.trans (.ite (.logs (putResult_logs _ _ _ _)) (.refl _))).trans (.modQuery _ i _)).trans (settleQuery_queries _ _ _)

/-- A query that resolves keeps its descriptor, or fails. -/
theorem resolve_queries (d : Dev) (i : Nat) : QueriesFrom d (d.resolve i) := by
  unfold resolve
  split
  · exact .refl d
  · have fails {c : Dev} (h : QueriesFrom d c) (st : Status) (header : Bool) : QueriesFrom d (c.failQuery i st header) :=
      h.trans (c.failQuery_queries i st header)
    refine .ite (fails (.refl d) _ _) ?_
    dsimp only
    split
    · exact fails (.modQuery d i _) _ _
    · split
      · exact fails (.modQuery d i _) _ _
      · split
        · exact fails (.modQuery d i _) _ _
        · refine .ite (fails ?kept _ _) (.ite (fails ?kept _ _) ?kept)
          exact ((QueriesFrom.modQuery d i _).trans (.modQuery _ i _)).trans (.modQuery _ i _)

end Dev

end Sys2Proof.Machine
end

section
/-! Payloads and windows (R243, R251, R297, R470). -/

namespace Sys2Proof.Machine

/-! Payloads. -/

@[simp] theorem Dev.queryOf_modQuery_same (d : Dev) (i : Nat) (f : Query → Query) :
    (d.modQuery i f).queryOf i = (d.queryOf i).map f := by
  unfold Dev.queryOf Dev.modQuery
  rw [AMap.look_upd, if_pos rfl]

/-- The vector of a payload: of binary32 or bfloat16 elements, and none of tokens (R280). -/
def payloadVector (kind : Nat) (b : List Byte) : List Datum :=
  match kind with
  | 1 => table32 b 0 (b.length / 4)
  | 2 => (unpack 16 (b.length / 2) b).map fun c => (decodeFloat .b16 true c {}).1
  | _ => []

/-- The query holds its payload, and waits for its window; its port has carried the bytes. -/
def Dev.holdPayload (d : Dev) (i : Nat) (q : Query) (b : List Byte) : Dev :=
  (d.countPort (d.portOf q.queue) q.district false b.length).modQuery i fun x =>
    { x with payload := b, vector := payloadVector q.desc.payloadKind b, paid := true, phase := .waiting }

section
variable {d : Dev} {i : Nat} {q : Query} (hq : d.queryOf i = some q)
include hq

theorem payloadFetched_bytes {b : List Byte} (hp : q.phase = .fetching) (hr : q.resolved = false)
    (hb : q.desc.payloadKind = 0 ∨ b.length % (if q.desc.payloadKind = 1 then 4 else 2) = 0) :
    payloadFetched d i (.bytes b) = if q.closeBeat = 0 then (d.holdPayload i q b).encodeAhead q.service
      else ((d.holdPayload i q b).startStages i).driveStages := by
  have hsize : ¬ (decide (q.desc.payloadKind ≠ 0) && decide (b.length % (if q.desc.payloadKind = 1 then 4 else 2) ≠ 0)) = true := by
    rcases hb with hb | hb <;> simp [hb]
  unfold payloadFetched
  rw [hq]
  simp only [hp, hr, hsize, ne_eq, not_true_eq_false, Bool.false_and, Bool.false_eq_true, if_false]
  rfl

theorem payloadFetched_unreadable (hp : q.phase = .fetching) :
    payloadFetched d i .unreadable = (d.failQuery i .dataTransferError false).driveStages := by
  unfold payloadFetched
  rw [hq]
  exact if_neg (by simp [hp])

theorem queryOf_holdPayload (b : List Byte) : (d.holdPayload i q b).queryOf i =
    some { q with payload := b, vector := payloadVector q.desc.payloadKind b, paid := true, phase := .waiting } := by
  have hc : (d.countPort (d.portOf q.queue) q.district false b.length).queryOf i = d.queryOf i := by
    obtain ⟨_, _, _, _, _, _, _, he⟩ := d.countPort_logs (d.portOf q.queue) q.district false b.length
    rw [he]
    rfl
  unfold Dev.holdPayload
  rw [Dev.queryOf_modQuery_same, hc, hq]
  rfl

end

theorem Dev.holdPayload_mems (d : Dev) (i : Nat) (q : Query) (b : List Byte) : (d.holdPayload i q b).mems = d.mems := by
  obtain ⟨_, _, _, _, _, _, _, he⟩ := d.countPort_logs (d.portOf q.queue) q.district false b.length
  unfold Dev.holdPayload
  rw [he]
  rfl

theorem Dev.holdPayload_earlyRows (d : Dev) (i : Nat) (q : Query) (b : List Byte) :
    (d.holdPayload i q b).earlyRows = d.earlyRows := by
  obtain ⟨_, _, _, _, _, _, _, he⟩ := d.countPort_logs (d.portOf q.queue) q.district false b.length
  unfold Dev.holdPayload
  rw [he]
  rfl

theorem Dev.encodeAhead_off {d : Dev} (h : d.earlyRows = 0) (s : Service) : d.encodeAhead s = d := if_pos (by simp [h])

/-! Gather windows. -/

/-- Without deferred changes there are none to take out. -/
theorem Dev.changes_nil {d : Dev} (h : d.changes = []) : ({ d with changes := [] } : Dev) = d := by rw [← h]

/-- The queries that a gather close resolves. -/
def Dev.gatherDue (d : Dev) : List Query := (d.queries.map (·.2)).filter fun q =>
  !q.desc.sweep && !q.resolved && (q.phase = .fetching || q.phase = .waiting) && decide (q.arrivalNs < d.time.ns) &&
    (!q.desc.atBeat || decide (q.desc.targetBeat ≤ d.beat))

/-- The SWEEP queries whose stages a gather close starts. -/
def Dev.gatherSweeps (d : Dev) : List Query := (d.queries.map (·.2)).filter fun q =>
  q.desc.sweep && q.closeBeat = 0 && (q.phase = .fetching || q.phase = .waiting) && decide (q.arrivalNs < d.time.ns)

/-- A query that a gather close resolves, which notes the close. -/
def Dev.gatherQuery (d : Dev) (q : Query) : Dev := (d.resolve q.id).modQuery q.id fun q => { q with closeBeat := d.beat + 1 }

/-- A SWEEP query notes the close. -/
def Dev.noteClose (d : Dev) (q : Query) : Dev := d.modQuery q.id fun q => { q with closeBeat := d.beat + 1 }

/-- What follows a gather close. -/
def Dev.endGather (d : Dev) : Dev :=
  ({ d with time := { d.time with lastGather := d.time.ns } } : Dev).adoptGather.driveStages.gatherFill

section
variable {d c : Dev} (hd : c = d.reach d.gatherAt) (hc : c.changes = [])
include hd hc

/-- A close without deferred changes that finds one query, of either kind: its record is written and its stages start. -/
theorem gatherClose_one {e f : Dev} {q : Query} (he : e = c.gatherDue.foldl Dev.gatherQuery c)
    (hf : f = e.gatherSweeps.foldl Dev.noteClose e) (hq : c.gatherDue ++ e.gatherSweeps = [q]) : gatherClose d =
      ((f.gatherRecord q.service.id 1 q.ahead.toList.length (f.portOf q.queue)).startStages q.id).endGather := by
  subst hd he hf
  unfold Dev.gatherDue Dev.gatherSweeps Dev.gatherQuery at hq
  unfold gatherClose Dev.endGather Dev.gatherDue Dev.gatherSweeps Dev.gatherQuery Dev.noteClose
  simp only [hc, List.foldl_nil, Dev.changes_nil hc, hq]
  cases h : q.ahead <;> simp [h]

/-- A close of one waiting query brings it to its version and starts its stages: as it keeps its descriptor, it is no SWEEP query then. -/
theorem gatherClose_query {i : Nat} {q : Query} (hq : c.queries = [(i, q)]) (hw : q.desc.sweep = false) (hr : q.resolved = false)
    (hp : q.phase = .waiting) (ha : q.arrivalNs < c.time.ns) (hb : q.desc.atBeat = false) : gatherClose d =
      (((c.gatherQuery q).gatherRecord q.service.id 1 q.ahead.toList.length ((c.gatherQuery q).portOf q.queue)).startStages
        q.id).endGather := by
  have hdue : c.gatherDue = [q] := by simp [Dev.gatherDue, hq, hw, hr, hp, ha, hb]
  have hnone : (c.gatherQuery q).gatherSweeps = [] := by
    refine List.filter_eq_nil_iff.2 fun x hx => ?_
    obtain ⟨y, hy, rfl⟩ := List.mem_map.1 hx
    obtain ⟨z, hz, hyz⟩ := ((c.resolve_queries q.id).trans (.modQuery _ q.id _)) y hy
    rw [hq, List.mem_singleton] at hz
    simp [hyz, hz, hw]
  refine gatherClose_one hd hc (e := c.gatherQuery q) ?_ ?_ ?_
  · rw [hdue, List.foldl_cons, List.foldl_nil]
  · rw [hnone, List.foldl_nil]
  · rw [hdue, hnone, List.append_nil]

/-- A close of one waiting SWEEP query starts its stages. -/
theorem gatherClose_sweep {i : Nat} {q : Query} (hq : c.queries = [(i, q)]) (hw : q.desc.sweep = true) (hb : q.closeBeat = 0)
    (hp : q.phase = .waiting) (ha : q.arrivalNs < c.time.ns) : gatherClose d =
      (((c.noteClose q).gatherRecord q.service.id 1 q.ahead.toList.length ((c.noteClose q).portOf q.queue)).startStages
        q.id).endGather := by
  have hdue : c.gatherDue = [] := by simp [Dev.gatherDue, hq, hw]
  have hsweeps : c.gatherSweeps = [q] := by simp [Dev.gatherSweeps, hq, hw, hb, hp, ha]
  refine gatherClose_one hd hc (e := c) ?_ ?_ ?_
  · rw [hdue, List.foldl_nil]
  · rw [hsweeps, List.foldl_cons, List.foldl_nil]
  · rw [hdue, hsweeps, List.nil_append]

/-- A close without queries. -/
theorem gatherClose_none (hq : c.queries = []) : gatherClose d = c.endGather := by
  subst hd
  unfold gatherClose Dev.endGather
  simp [hc, hq]

end

/-! Sweep windows. -/

/-- The SWEEP queries that a sweep close resolves. -/
def Dev.sweepDue (d : Dev) : List Query := (d.queries.map (·.2)).filter fun q =>
  q.desc.sweep && !q.resolved && q.phase ≠ .done && q.phase ≠ .returning && decide (q.arrivalNs < d.time.ns) &&
    (!q.desc.atBeat || decide (q.desc.targetBeat ≤ d.beat))

/-- What follows a sweep close. -/
def Dev.endSweep (d : Dev) : Dev := ({ d with time := { d.time with lastSweep := d.time.ns } } : Dev).adoptSweep

/-- A close of one waiting SWEEP query brings it to its version, and the query forms a pass. -/
theorem sweepClose_query {d c e : Dev} {i : Nat} {q z : Query} (hd : c = d.reach d.sweepAt) (hc : c.changes = [])
    (hq : c.queries = [(i, q)]) (hi : q.id = i) (hw : q.desc.sweep = true) (hr : q.resolved = false) (hp : q.phase = .route)
    (ha : q.arrivalNs < c.time.ns) (hb : q.desc.atBeat = false) (he : e = c.resolve i) (hz : e.queryOf i = some z)
    (hres : z.resolved = true) (hok : z.failed = none) (hl : e.sweepLeft = []) :
    sweepClose d = (e.formPass q.desc.ns [i]).endSweep := by
  have hdue : c.sweepDue = [q] := by simp [Dev.sweepDue, hq, hw, hr, hp, ha, hb]
  subst hd he hi
  unfold Dev.sweepDue at hdue
  unfold sweepClose Dev.endSweep
  simp only [hc, List.filter_nil, List.foldl_nil, Dev.changes_nil hc, hdue, List.foldl_cons, List.filter_cons, hz, hres, hok, hl]
  simp

/-- A close without queries. -/
theorem sweepClose_none {d c : Dev} (hd : c = d.reach d.sweepAt) (hc : c.changes = []) (hq : c.queries = []) (hl : c.sweepLeft = []) :
    sweepClose d = c.endSweep := by
  subst hd
  unfold sweepClose Dev.endSweep
  simp [hc, hq, hl]

/-- Settles O24: a payload is held in `Dev.holdPayload`; a close without deferred changes is decided by the one query that it finds, which
keeps its descriptor as it resolves. -/
theorem windowEventsComplete : Obligations.WindowEventsComplete := by
  have fetched {s : State} {i : Nat} {p : Fetch} {e : Dev} (h : payloadFetched s.clear i p = e) : Completes (.payloadFetchDone i p) s e :=
    .of_effect (execPayloadFetchDone.eq_1 i p s) h
  have gathers {s : State} {e : Dev} (h : gatherClose s.clear = e) : Completes .gatherWindowClose s e :=
    .of_effect (execGatherWindowClose.eq_1 s) h
  have sweeps {s : State} {e : Dev} (h : sweepClose s.clear = e) : Completes .sweepWindowClose s e :=
    .of_effect (execSweepWindowClose.eq_1 s) h
  refine ⟨fun s i q b hq hp hr hb => ⟨s.clear.holdPayload i q b, _, queryOf_holdPayload hq b, rfl, rfl, rfl, fun hk => ?vector,
      Dev.holdPayload_mems _ i q b, fun h0 => ⟨fetched ?ahead, fun hn => ?off⟩, fun h0 => fetched ?closed⟩,
    fun s i q hq hp => fetched (payloadFetched_unreadable hq hp),
    fun s i q d e hd hc hq hi hw hr hp ha hb he => gathers ?query, fun s i q d e hd hc hq hi hw hb hp ha he => gathers ?sweep,
    fun s d hd hc hq => gathers (gatherClose_none hd hc hq),
    fun s i q z d e hd hc hq hi _ hw hr hp ha hb he hz hres hok hl =>
      sweeps (sweepClose_query hd hc hq hi hw hr hp ha hb he hz hres hok hl),
    fun s d hd hc hq hl => sweeps (sweepClose_none hd hc hq hl)⟩
  case vector => rw [hk]; rfl
  case ahead => rw [payloadFetched_bytes hq hp hr hb, if_pos h0]
  case off => exact Dev.encodeAhead_off ((Dev.holdPayload_earlyRows _ i q b).trans hn) _
  case closed => rw [payloadFetched_bytes hq hp hr hb, if_neg h0]
  case query =>
    subst he hi
    exact gatherClose_query hd hc hq hw hr hp ha hb
  case sweep =>
    subst he hi
    exact gatherClose_sweep hd hc hq hw hb hp ha

end Sys2Proof.Machine
end

section
/-! The event log and its numbers: an event takes its source's number and moves it on, and recording it in the trace leaves the
event log alone. -/

namespace Sys2Proof.Machine

/-! What a map reads as after a put. -/

@[simp] theorem AMap.get_put {α : Type} (m : AMap α) (k : Nat) (v dflt : α) : AMap.get (AMap.put m k v) k dflt = v := by
  rw [AMap.get, AMap.look_put, Option.getD_some]

theorem AMap.get_put_ne {α : Type} (m : AMap α) {k b : Nat} (v dflt : α) (h : b ≠ k) :
    AMap.get (AMap.put m k v) b dflt = AMap.get m b dflt := by
  rw [AMap.get, AMap.look_put_ne m v h, AMap.get]

/-! The number of an event (R339). -/

/-- The source's next number is one more, and 0 after 0xFFFF_FFFF. -/
theorem Dev.takeSeq_same (d : Dev) (src : Nat) :
    AMap.get (d.takeSeq src).2.seqs src 0 = (AMap.get d.seqs src 0 + 1) % 2 ^ 32 := AMap.get_put _ _ _ _

/-- Every other source keeps its next number. -/
theorem Dev.takeSeq_other (d : Dev) {src x : Nat} (h : x ≠ src) : AMap.get (d.takeSeq src).2.seqs x 0 = AMap.get d.seqs x 0 :=
  AMap.get_put_ne _ _ _ h

/-! What the trace's operations can do. `LogOnly` lets the event log grow as well; here it stays as it was. -/

/-- `e` differs from `d` by the trace, its registers and the sequence numbers only. -/
def TraceOnly (d e : Dev) : Prop := ∃ rs sq tr, e = { d with regs := rs, seqs := sq, trace := tr }

namespace TraceOnly

theorem refl (d : Dev) : TraceOnly d d := ⟨_, _, _, rfl⟩

theorem trans {d e f : Dev} (h : TraceOnly d e) (g : TraceOnly e f) : TraceOnly d f := by
  obtain ⟨_, _, _, rfl⟩ := h
  obtain ⟨_, _, _, rfl⟩ := g
  exact ⟨_, _, _, rfl⟩

theorem fset (d : Dev) (a : Nat) (f : Fld) (v : Nat) : TraceOnly d (d.fset a f v) := ⟨_, _, _, rfl⟩

theorem takeSeq (d : Dev) (src : Nat) : TraceOnly d (d.takeSeq src).2 := ⟨_, _, _, rfl⟩

theorem traced (d : Dev) (t : TraceState) : TraceOnly d { d with trace := t } := ⟨_, _, _, rfl⟩

theorem events {d e : Dev} (h : TraceOnly d e) : e.events = d.events := by
  obtain ⟨_, _, _, rfl⟩ := h
  rfl

theorem mems {d e : Dev} (h : TraceOnly d e) : e.mems = d.mems := by
  obtain ⟨_, _, _, rfl⟩ := h
  rfl

theorem freeze (d : Dev) : TraceOnly d d.traceFreeze := (fset d _ _ _).trans (fset _ _ _ _)

theorem discard (d : Dev) : TraceOnly d d.traceDiscard := fset d _ _ _

theorem put (d : Dev) (pos n : Nat) (bytes : List Byte) : TraceOnly d (d.tracePut pos n bytes) := by
  unfold Dev.tracePut
  refine trans ?_ (fset _ _ _ _)
  refine trans ?_ (traced _ _)
  split
  · exact fset d _ _ _
  · exact refl d

/-- With the filler that the end of the buffer may need, and without. -/
theorem write (d : Dev) (n : Nat) (bytes : List Byte) : TraceOnly d (d.traceWrite n bytes) := by
  unfold Dev.traceWrite
  refine trans ?_ (put _ _ _ _)
  split
  · exact refl d
  · exact put d _ _ _

/-- A record that the trace has no room for freezes the buffer and is discarded. -/
theorem full (d : Dev) : TraceOnly d d.traceFreeze.traceDiscard := (freeze d).trans (discard _)

/-- A record that reaches the trace is written, which may fill the buffer, or is discarded. -/
theorem enter (d : Dev) (n : Nat) (bytes : List Byte) : TraceOnly d (d.traceEnter n bytes) := by
  unfold Dev.traceEnter
  split
  case isTrue => exact refl d
  case isFalse =>
    split
    · dsimp only
      split
      · exact write d n bytes
      · split
        · exact full d
        · split
          · exact (write d n bytes).trans (freeze _)
          · exact write d n bytes
    · dsimp only
      split
      · exact full d
      · split
        · exact ((write d n bytes).trans (traced _ _)).trans (freeze _)
        · exact (write d n bytes).trans (traced _ _)
    · exact discard d
    · exact refl d

/-- A trigger writes its marker, or counts as an extra one. -/
theorem trigger (d : Dev) (cause src seq : Nat) : TraceOnly d (d.traceTrigger cause src seq) := by
  unfold Dev.traceTrigger
  split
  · exact refl d
  · split
    · refine trans (trans (trans ?_ (fset _ _ _ _)) (fset _ _ _ _)) (traced _ _)
      exact (takeSeq d _).trans (write _ _ _)
    · exact fset d _ _ _

/-- A record that the trace selects enters it, and may be a trigger. -/
theorem record (d : Dev) (src ev n : Nat) (p : List Byte) : TraceOnly d (d.traceRecord src ev n p) := by
  unfold Dev.traceRecord
  split
  · exact refl d
  · split
    · exact refl d
    · dsimp only
      split
      · exact (enter d _ _).trans (trigger _ _ _ _)
      · exact enter d _ _

end TraceOnly

/-- An event of no class of the trace changes nothing there. -/
theorem Dev.traceRecord_unclassed {ev : Nat} (h : Dev.traceClass ev = none) (d : Dev) (src n : Nat) (p : List Byte) :
    d.traceRecord src ev n p = d := by
  rw [Dev.traceRecord, h]

/-! The event log. -/

/-- Its source's number is taken, the entry joins the log with it, and the trace gets its record. -/
theorem Dev.logEvent_eq (d : Dev) (src ev : Nat) (p : List Byte) : d.logEvent src ev p =
    ({ (d.takeSeq src).2 with events := d.events ++ [EventRec.mk src ev (AMap.get d.seqs src 0) d.time.ns d.holdover p] } :
      Dev).traceRecord src ev (AMap.get d.seqs src 0) p := rfl

/-- The entry joins the log at its end, with the number that its source gives it. -/
theorem Dev.logEvent_events (d : Dev) (src ev : Nat) (p : List Byte) : (d.logEvent src ev p).events =
    d.events ++ [EventRec.mk src ev (AMap.get d.seqs src 0) d.time.ns d.holdover p] := by
  rw [Dev.logEvent_eq, (TraceOnly.record _ _ _ _ _).events]

theorem Dev.logEvent_mems (d : Dev) (src ev : Nat) (p : List Byte) : (d.logEvent src ev p).mems = d.mems := by
  rw [Dev.logEvent_eq, (TraceOnly.record _ _ _ _ _).mems]
  rfl

/-- An event that the trace does not record takes one number, of its own source. -/
theorem Dev.logEvent_seqs {ev : Nat} (h : Dev.traceClass ev = none) (d : Dev) (src : Nat) (p : List Byte) :
    (d.logEvent src ev p).seqs = (d.takeSeq src).2.seqs := by
  rw [Dev.logEvent_eq, Dev.traceRecord_unclassed h]

/-- Settles O58: the trace leaves the log alone, and where it records nothing only the number that the event took has moved on. -/
theorem eventsAreNumberedBySource : Obligations.EventsAreNumberedBySource := by
  intro d source event payload
  refine ⟨d.logEvent_events source event payload, d.logEvent_mems source event payload, fun h => ?_⟩
  rw [Dev.logEvent_seqs h]
  exact ⟨d.takeSeq_same source, fun x hx => d.takeSeq_other hx⟩

end Sys2Proof.Machine
end

section
/-! The commands of placement and of leases, as they arrive (R355, R362, R366, R367). -/

namespace Sys2Proof.Machine

/-- Settles O31: each of the rows arrives in its submission queue, and the body of each is its own command. -/
theorem placementCommandsRun : Obligations.PlacementCommandsRun :=
  ⟨fun _ _ _ _ _ A => A.completes rfl rfl, fun _ _ _ _ A => A.completes rfl rfl, fun _ _ _ _ A => A.completes rfl rfl,
    fun _ _ _ _ _ A => A.completes rfl rfl, fun _ _ _ _ A => A.completes rfl rfl, fun _ _ _ _ A => A.completes rfl rfl,
    fun _ _ _ _ A => A.completes rfl rfl, fun _ _ _ _ A => A.completes rfl rfl⟩

/-- Settles O34: a lease command arrives in an admin queue as any command does, and its body is its own command. -/
theorem leaseCommandsRun : Obligations.LeaseCommandsRun :=
  ⟨fun _ _ _ _ _ _ _ A => A.completes rfl rfl, fun _ _ _ _ _ A => A.completes rfl rfl,
    fun _ _ _ _ _ _ _ A => A.completes rfl rfl, fun _ _ _ _ A => A.completes rfl rfl, fun _ _ _ _ _ A => A.completes rfl rfl,
    fun _ _ _ _ A => A.completes rfl rfl⟩

end Sys2Proof.Machine
end

section
/-! The placement loop: releases, moves extent by extent, what is brought in, and hotness (R355, R360 to R362, R474). -/

namespace Sys2Proof.Machine

/-! Releases (R355). -/

theorem releaseComplete_eq {d : Dev} {i : Nat} {o : Obj} (ho : AMap.look d.place.objs i = some o) (hr : o.releasing.isSome = true)
    (hu : o.uses = 0) : releaseComplete d i = d.dropObject i := by
  unfold releaseComplete
  simp [ho, hr, hu]

/-! Moves (R360, R361, R364). -/

/-- The extents of the object, the prefetch streams and the count of the cycle change, and nothing outside placement does. -/
theorem moveExtent_frame {d : Dev} {i x : Nat} {o : Obj} {m : Moving} (ho : AMap.look d.place.objs i = some o)
    (hm : o.moving = some m) (hslot : d.slotNames 9 = true) (hlost : o.lost = false)
    (hcycle : d.place.moveCycle = d.beat / d.plan.windows.slotCycle) (hcap : d.place.movedExtents < 512 * d.plan.caps.moveGib)
    (hshare : d.shareUsed o.district m.tier < d.shareOf o.district m.tier) (hx : d.nextPlace o m = some x) :
    ∃ os ss, moveExtent d i = { d with place := { d.place with
      objs := os, streams := ss, movedExtents := d.place.movedExtents + 1, moveCycle := d.beat / d.plan.windows.slotCycle } } := by
  have hgo : (!d.slotNames 9 || o.lost || decide (512 * d.plan.caps.moveGib ≤ d.place.movedExtents) ||
      decide (d.shareOf o.district m.tier ≤ d.shareUsed o.district m.tier)) = false := by
    simp [hslot, hlost, hcap, hshare]
  unfold moveExtent
  simp only [ho, hm, Option.bind_some, Option.map_some, if_pos hcycle, hgo, Bool.false_eq_true, if_false, hx]
  split
  · split
    · exact ⟨_, _, rfl⟩
    · exact ⟨_, _, rfl⟩
  · exact ⟨_, _, rfl⟩

/-! What is brought in (R474). -/

theorem sortBy_singleton {α : Type} (before : α → α → Bool) (a : α) : sortBy before [a] = [a] := rfl

theorem placementLoop_single {d : Dev} {i : Nat} {o : Obj} (hf : d.frozen = false) (hslot : d.slotNames 9 = true)
    (hos : d.place.objs = [(i, o)]) (hmove : Dev.canMove o 0 = true) (hcap : d.plan.caps.moveGib ≠ 0)
    (hroom : d.moveRoom o 0 = true) : placementLoop d = d.startMove i 0 := by
  have hmovable : (d.place.objs.filter fun o => Dev.canMove o.2 0) = [(i, o)] := by simp [hos, hmove]
  unfold placementLoop
  simp only [hf, hslot, Bool.not_true, Bool.or_self, Bool.false_eq_true, if_false, hmovable, sortBy_singleton, hcap, hroom, if_true]

/-! Hotness (R362). -/

theorem hotnessDecay_due {d : Dev} (h : d.beat % 4096 = 0) : hotnessDecay d = { d with place := { d.place with
    objs := d.place.objs.map fun (i, o) => (i, { o with reads := o.reads / 2, writes := o.writes / 2 }) } } :=
  if_neg (not_not_intro h)

theorem hotnessDecay_idle {d : Dev} (h : d.beat % 4096 ≠ 0) : hotnessDecay d = d := if_pos h

/-- Settles O44: where an event is due none of its guards turns it away, and what it then does is its equation. -/
theorem placementEventsComplete : Obligations.PlacementEventsComplete := by
  refine ⟨fun s i o ho hr hu => ?released, fun s i x o m ho hm hslot hlost hcycle hcap hshare hx => ?moved,
    fun s i o hf hslot hos hmove hcap hroom => ?broughtIn, fun s h => ?halved, fun s h => ?kept⟩
  case released => exact .of_effect (f := (releaseComplete · i)) rfl (releaseComplete_eq ho hr hu)
  case moved =>
    obtain ⟨os, ss, he⟩ := moveExtent_frame ho hm hslot hlost hcycle hcap hshare hx
    exact ⟨_, .of_effect (f := (moveExtent · i)) rfl he, rfl, rfl⟩
  case broughtIn => exact .of_effect (f := placementLoop) rfl (placementLoop_single hf hslot hos hmove hcap hroom)
  case halved => exact ⟨_, .of_effect (f := hotnessDecay) rfl (hotnessDecay_due h), rfl, rfl⟩
  case kept => exact .of_effect (f := hotnessDecay) rfl (hotnessDecay_idle h)

end Sys2Proof.Machine
end

section
/-! Leases: an ACQUIRE that no peer answers, notices, ends, requests of peers, and the batches of copies to and from T3 (R366 to
R369). -/

namespace Sys2Proof.Machine

/-! The lease's own events. -/

theorem leaseAcquireTimeout_eq {d : Dev} {l q cid : Nat} {x : Lease} (hl : d.lease l = some x) (hs : x.state = .asked)
    (hw : x.waiting = some (q, cid)) : leaseAcquireTimeout d l =
      ({ d with place := { d.place with leases := AMap.drop d.place.leases l } } : Dev).finishSquare q cid .leaseRevoked := by
  cases x
  subst hs hw
  unfold leaseAcquireTimeout
  rw [hl]

theorem leaseNotice_active {d : Dev} {l : Nat} {x : Lease} (hl : d.lease l = some x) (hb : x.borrower = true)
    (hs : x.state = .active) (deadline : Nat) : leaseNotice d l deadline =
      ((d.modLease l fun x => { x with state := .revoking, deadline := deadline }).emit
        (.leaseNotice l x.set deadline)).asyncVendor := by
  cases x
  subst hb hs
  unfold leaseNotice
  rw [hl]

theorem leaseDeadline_eq {d : Dev} {l : Nat} {x : Lease} (hl : d.lease l = some x) (hs : x.state = .revoking)
    (hd : x.deadline ≤ d.beat) : leaseDeadline d l = d.endLease l := by
  unfold leaseDeadline
  simp [hl, hs, hd]

/-- The only lease ends when its borrower has been idle for too long. -/
theorem leaseIdle_single {d : Dev} {p l : Nat} {x : Peer} {y : Lease} (hp : AMap.look d.place.peers p = some x)
    (hidle : x.lastContact + d.place.lendIdle ≤ d.beat) (hls : d.place.leases = [(l, y)]) (hb : y.borrower = false)
    (hy : y.peer = p) : leaseIdle d p = d.endLease l := by
  have hlent : (d.place.leases.filter fun l => !l.2.borrower && l.2.peer = p) = [(l, y)] := by simp [hls, hb, hy]
  unfold leaseIdle
  simp only [hp, if_neg (Nat.not_lt.2 hidle), hlent, List.foldl_cons, List.foldl_nil]

/-! A peer's request (R365, R366). -/

/-- What may still be lent does not hang on the peers, so that noting the contact of one leaves it as it was. -/
theorem Dev.pool_peers (d : Dev) (ps : AMap Peer) (tier : Nat) :
    ({ d with place := { d.place with peers := ps } } : Dev).pool tier = d.pool tier := rfl

/-- A request that the pool covers is granted: the lease is put under the next number, and the peer is told. -/
theorem peerMessage_granted {d : Dev} {p tier gib : Nat} {x : Peer} {key : List Byte} (hp : AMap.look d.place.peers p = some x)
    (ht : tier ≤ 1) (hg : gib ≠ 0) (hpool : gib ≤ d.pool tier) (hk : x.hash = sha256Bytes key) (l set : Nat) :
    peerMessage d (.request p l set tier gib key) = ({ d with place := { d.place with
      peers := AMap.upd d.place.peers p fun x => { x with lastContact := d.beat }
      leases := AMap.put d.place.leases d.place.nextLease
        { borrower := false, state := .active, peer := p, set := set, tier := tier, gib := gib, start := d.beat, remote := l }
      nextLease := d.place.nextLease + 1 } } : Dev).emit (.peer p l 1 gib) := by
  unfold peerMessage
  simp only [hp, hk, decide_true, Bool.not_true, Bool.false_eq_true, if_false, Dev.pool_peers, Nat.not_lt.2 ht, hg,
    Nat.not_lt.2 hpool, decide_false, Bool.or_self]
  rfl

/-- A request under a key that the peer does not have is passed over. -/
theorem peerMessage_untrusted {d : Dev} {p : Nat} {key : List Byte}
    (hk : ∀ x, AMap.look d.place.peers p = some x → x.hash ≠ sha256Bytes key) (l set tier gib : Nat) :
    peerMessage d (.request p l set tier gib key) = d := by
  unfold peerMessage
  cases hp : AMap.look d.place.peers p with
  | none => simp [hp]
  | some x => simp [hp, hk x hp]

/-! Batches of copies (R367). -/

theorem Dev.emit_place (d : Dev) (o : Out) : (d.emit o).place = d.place := rfl

theorem Dev.emit_beat (d : Dev) (o : Out) : (d.emit o).beat = d.beat := rfl

/-- No copy goes on before its batch has been sent. -/
theorem t3Drive_unsent {d : Dev} (h : ∀ c ∈ d.place.t3, c.sent = false) (n : Nat) : t3Drive d n = d := by
  cases n with
  | zero => rfl
  | succ n =>
    unfold t3Drive
    split
    next c rest ht =>
      have hc : c.sent = false := h c (by simp [ht])
      simp [hc]
    next => rfl

/-- The last copy of the batches sent runs; while it waits it stands before the copies that come after it. -/
theorem t3Drive_last {d e : Dev} {c : T3Copy} (ht : d.place.t3 = [c]) (hs : c.sent = true) (hb : c.begun = false)
    (he : e = t3Run { d with place := { d.place with t3 := [] } } c) : t3Drive d 1 =
      if (e.inflightOf c.queue c.cid).isSome then { e with place := { e.place with t3 := { c with begun := true } :: e.place.t3 } }
      else e := by
  subst he
  unfold t3Drive
  simp only [ht, hs, hb, Bool.not_true, Bool.false_eq_true, if_false]
  rfl

theorem t3BatchSend_idle {d : Dev} (h : ∀ c ∈ d.place.t3, d.beat ≤ c.beat ∧ c.sent = false) : t3BatchSend d = d := by
  have hdue : (d.place.t3.filter fun c => decide (c.beat < d.beat) && !c.sent) = [] :=
    List.filter_eq_nil_iff.2 fun c hc => by simp [Nat.not_lt.2 (h c hc).1]
  have hsame : (d.place.t3.map fun c => { c with sent := c.sent || decide (c.beat < d.beat) }) = d.place.t3 :=
    (List.map_congr_left fun c hc => by simp [Nat.not_lt.2 (h c hc).1]).trans (List.map_id _)
  unfold t3BatchSend
  simp only [hdue, List.isEmpty_nil, if_true, hsame]
  exact t3Drive_unsent (fun c hc => (h c hc).2) _

/-- The only copy that waits goes out as a batch of its own, and is then driven. -/
theorem t3BatchSend_single {d : Dev} {c : T3Copy} (ht : d.place.t3 = [c]) (hc : c.beat < d.beat) (hs : c.sent = false) :
    t3BatchSend d = t3Drive (({ d with place := { d.place with t3 := [{ c with sent := true }] } } : Dev).emit
      (.t3Batch [(c.queue, c.cid)])) 1 := by
  have hdue : (d.place.t3.filter fun c => decide (c.beat < d.beat) && !c.sent) = [c] := by simp [ht, hc, hs]
  have hsent : (d.place.t3.map fun c => { c with sent := c.sent || decide (c.beat < d.beat) }) = [{ c with sent := true }] := by
    simp [ht, hc]
  unfold t3BatchSend
  simp only [hdue, List.isEmpty_cons, Bool.false_eq_true, if_false, Dev.emit_place, Dev.emit_beat, hsent, List.map_cons,
    List.map_nil, List.length_singleton]
  rfl

/-- Settles O45: where an event is due none of its guards turns it away, and what it then does is its equation. -/
theorem leaseEventsComplete : Obligations.LeaseEventsComplete := by
  refine ⟨fun s l q cid x hl hs hw => ?unanswered, fun s l deadline x hl hb hs => ?noticed, fun s l x hl hs hd => ?ended,
    fun s p l x y hp hidle hls hb hy => ?idle, fun s p l set tier gib x hp ht hg hpool key hk => ?granted,
    fun s p l set tier gib key hk => ?passedOver, fun s h => ?nothingDue, fun s c h x e ht hbeat hs hb hc he => ?sent⟩
  case unanswered => exact .of_effect (f := (leaseAcquireTimeout · l)) rfl (leaseAcquireTimeout_eq hl hs hw)
  case noticed => exact .of_effect (f := (leaseNotice · l deadline)) rfl (leaseNotice_active hl hb hs deadline)
  case ended => exact .of_effect (f := (leaseDeadline · l)) rfl (leaseDeadline_eq hl hs hd)
  case idle => exact .of_effect (f := (leaseIdle · p)) rfl (leaseIdle_single hp hidle hls hb hy)
  case granted =>
    have he := peerMessage_granted hp ht hg hpool hk l set
    exact ⟨_, .of_effect (f := (peerMessage · (.request p l set tier gib key))) rfl he, rfl, rfl, rfl⟩
  case passedOver =>
    exact .of_effect (f := (peerMessage · (.request p l set tier gib key))) rfl (peerMessage_untrusted hk l set tier gib)
  case nothingDue => exact .of_effect (f := t3BatchSend) rfl (t3BatchSend_idle h)
  case sent =>
    have hrun : e = t3Run (({ s.clear with place := { s.clear.place with t3 := [] } } : Dev).emit (.t3Batch [(c.queue, c.cid)]))
        { c with sent := true } := by
      rw [he]
      unfold t3Run
      simp only [hc]
    have hgoes := t3BatchSend_single ht hbeat hs
    exact .of_effect (f := t3BatchSend) rfl (hgoes.trans (t3Drive_last (c := { c with sent := true }) rfl rfl hb hrun))

end Sys2Proof.Machine
end

section
/-! SUPPORT. What a field of a register reads as after a write to it, or to another field of its register. -/

namespace Sys2Proof.Machine

theorem Dev.fget_fset_same (d : Dev) (a : Nat) (f : Fld) (v : Nat) : (d.fset a f v).fget a f = v % 2 ^ f.width := by
  rw [Dev.fset, Dev.fget, Dev.reg_setReg, bits_setBits_same]

theorem Dev.fget_fset_apart {f g : Fld} (h : f.lo + f.width ≤ g.lo ∨ g.lo + g.width ≤ f.lo) (d : Dev) (a v : Nat) :
    (d.fset a f v).fget a g = d.fget a g := by
  rw [Dev.fset, Dev.fget, Dev.reg_setReg, bits_setBits_apart h, Dev.fget]

theorem Dev.fget_fadd_apart {f g : Fld} (h : f.lo + f.width ≤ g.lo ∨ g.lo + g.width ≤ f.lo) (d : Dev) (a n : Nat) :
    (d.fadd a f n).fget a g = d.fget a g := Dev.fget_fset_apart h d a _

end Sys2Proof.Machine
end

section
/-! The ports: links that train or are lost, codewords, congestion, pauses and faults (R405, R406, R441, R496). -/

namespace Sys2Proof.Machine

/-! Links (R405, R441). -/

/-- A link's bit of LINK_UP reads as it was set. -/
theorem Dev.setLink_up (d : Dev) (p : Nat) {l : Nat} (hl : l < 2) (up : Bool) :
    bits ((d.setLink p l up).fget (Reg.HIF_PORT_STAT p) Fld.HIF_PORT_STAT_LINK_UP) l 1 = up.toNat := by
  have hwidth : setBits (d.fget (Reg.HIF_PORT_STAT p) Fld.HIF_PORT_STAT_LINK_UP) l 1 up.toNat < 2 ^ 2 :=
    setBits_lt (bits_lt _ _ 2) (by omega)
  have hbit : up.toNat < 2 ^ 1 := Bool.toNat_lt up
  rw [Dev.setLink, Dev.fget_fset_same, show Fld.HIF_PORT_STAT_LINK_UP.width = 2 from rfl, Nat.mod_eq_of_lt hwidth, bits_setBits_same,
    Nat.mod_eq_of_lt hbit]

/-- The fields above LINK_UP read as before. -/
theorem Dev.setLink_apart {f : Fld} (hf : 2 ≤ f.lo) (d : Dev) (p l : Nat) (up : Bool) :
    (d.setLink p l up).fget (Reg.HIF_PORT_STAT p) f = d.fget (Reg.HIF_PORT_STAT p) f :=
  Dev.fget_fset_apart (f := Fld.HIF_PORT_STAT_LINK_UP) (.inl hf) d _ _

@[simp] theorem Dev.setLink_mems (d : Dev) (p l : Nat) (up : Bool) : (d.setLink p l up).mems = d.mems := rfl

/-- What a port shows of its module: the kind of media, and the cable's length where the media has one. -/
def Dev.showMedia (d : Dev) (p media dm : Nat) : Dev :=
  (d.fset (Reg.HIF_PORT_STAT p) Fld.HIF_PORT_STAT_MEDIA media).fset (Reg.HIF_PORT_STAT p) Fld.HIF_PORT_STAT_CABLE_DM
    (if media = 1 || media = 2 then min dm 255 else 255)

theorem Dev.showMedia_media (d : Dev) (p dm : Nat) {media : Nat} (h : media < 16) :
    (d.showMedia p media dm).fget (Reg.HIF_PORT_STAT p) Fld.HIF_PORT_STAT_MEDIA = media := by
  rw [Dev.showMedia, Dev.fget_fset_apart (by decide), Dev.fget_fset_same]
  exact Nat.mod_eq_of_lt h

theorem Dev.showMedia_cableDm (d : Dev) (p : Nat) {media dm : Nat} (hm : media = 1 ∨ media = 2 ∨ media = 3) (hdm : dm < 256) :
    (d.showMedia p media dm).fget (Reg.HIF_PORT_STAT p) Fld.HIF_PORT_STAT_CABLE_DM = if media = 3 then 255 else dm := by
  have hmin : min dm 255 % 256 = dm := by omega
  rw [Dev.showMedia, Dev.fget_fset_same]
  rcases hm with rfl | rfl | rfl
  · exact hmin
  · exact hmin
  · rfl

/-- A port whose settings do not split it has no second link. -/
def Dev.settleSecond (d : Dev) (p cfg : Nat) : Dev := if bits cfg 0 1 = 1 then d else d.setLink p 1 false

theorem Dev.settleSecond_apart {f : Fld} (hf : 2 ≤ f.lo) (d : Dev) (p cfg : Nat) :
    (d.settleSecond p cfg).fget (Reg.HIF_PORT_STAT p) f = d.fget (Reg.HIF_PORT_STAT p) f := by
  unfold Dev.settleSecond
  split
  · rfl
  · exact Dev.setLink_apart hf d p 1 false

@[simp] theorem Dev.settleSecond_mems (d : Dev) (p cfg : Nat) : (d.settleSecond p cfg).mems = d.mems := by
  unfold Dev.settleSecond
  split <;> rfl

/-- A link trains where its Gate and the module are up: its port shows the module, and its bit of LINK_UP says whether media is there
that the port supports. -/
theorem linkTrained_shows {d : Dev} {p l media : Nat} (hp : p < 2) (hl : l < 2)
    (hsplit : l = 1 → bits (d.reg (Reg.HIF_PORT_CFG p)) 0 1 = 1) (hm : media ≤ 4) (hdown : d.contain.shutdown = 0)
    (hgate : d.contain.gatesDown.contains p = false) (dm : Nat) : ∃ e : Dev, e.mems = d.mems ∧ linkTrained d p l media dm =
      ((e.showMedia p media dm).settleSecond p (d.reg (Reg.HIF_PORT_CFG p))).setLink p l
        (media ≠ 0 && media ≠ 4) := by
  have hguard : (2 ≤ p || 2 ≤ l || 4 < media || (l = 1 && !decide (bits (d.reg (Reg.HIF_PORT_CFG p)) 0 1 = 1)) ||
      d.contain.gatesDown.contains p || decide (d.contain.shutdown ≠ 0)) = false := by
    have hsecond : (decide (l = 1) && !decide (bits (d.reg (Reg.HIF_PORT_CFG p)) 0 1 = 1)) = false := by simpa using hsplit
    simp only [hsecond, hdown, hgate, Nat.not_le.2 hp, Nat.not_le.2 hl, Nat.not_lt.2 hm]
    rfl
  refine ⟨_, ?mems, (if_neg (ne_true_of_eq_false hguard)).trans rfl⟩
  case mems => split <;> rfl

theorem linkTrained_down {d : Dev} {p : Nat} (h : d.contain.shutdown ≠ 0 ∨ d.contain.gatesDown.contains p = true) (l media dm : Nat) :
    linkTrained d p l media dm = d := by
  refine if_pos ?_
  rcases h with h | h <;> simp only [h, Bool.or_true, Bool.true_or, ne_eq, not_false_eq_true, decide_true]

/-! Codewords, congestion and pauses (R406, R496). -/

/-- An uncorrectable codeword is counted, with the corrected ones before it, and logged. -/
theorem ethernetUncorrectable_eq {p : Nat} (hp : p < 2) (d : Dev) (n : Nat) : ethernetUncorrectable d p n =
    ((d.fadd (Reg.HIF_PORT_FEC p) Fld.HIF_PORT_FEC_UNCORRECTED 1).fadd (Reg.HIF_PORT_FEC p) Fld.HIF_PORT_FEC_CORRECTED n).logFault
      (srcPort p) 0x0604 0 0 0 := if_neg (Nat.not_le.2 hp)

theorem ecnReceived_on {d : Dev} {p : Nat} (hp : p < 2) (hon : bits (d.portConfig p) 4 1 = 1) (qp : Nat) :
    ecnReceived d p qp = d.emit (.cnp qp) := if_neg (by simp [hp, hon])

theorem ecnReceived_off {d : Dev} {p : Nat} (hoff : bits (d.portConfig p) 4 1 = 0) (qp : Nat) : ecnReceived d p qp = d :=
  if_pos (by simp [hoff])

theorem cnpReceived_on {d : Dev} {p : Nat} (hp : p < 2) (hon : bits (d.portConfig p) 4 1 = 1) (qp : Nat) : cnpReceived d p qp =
    { d with host := { d.host with slowed := AMap.put d.host.slowed qp (AMap.get d.host.slowed qp 0 + 1) } } :=
  if_neg (by simp [hp, hon])

theorem cnpReceived_off {d : Dev} {p : Nat} (hoff : bits (d.portConfig p) 4 1 = 0) (qp : Nat) : cnpReceived d p qp = d :=
  if_pos (by simp [hoff])

/-- The paused priorities once one of them is paused or goes on. -/
def pausedAfter (paused : List Nat) (key : Nat) (pause : Bool) : List Nat :=
  if pause then paused.filter (· ≠ key) ++ [key] else paused.filter (· ≠ key)

theorem contains_pausedAfter (paused : List Nat) (key : Nat) (pause : Bool) : (pausedAfter paused key pause).contains key = pause := by
  cases pause <;> simp [pausedAfter]

theorem pfcReceived_on {d : Dev} {p prio : Nat} (hp : p < 2) (hprio : prio < 8) (hon : bits (d.portConfig p) (8 + prio) 1 = 1)
    (pause : Bool) : pfcReceived d p prio pause =
      { d with host := { d.host with paused := pausedAfter d.host.paused (8 * p + prio) pause } } := if_neg (by simp [hp, hprio, hon])

theorem pfcReceived_off {d : Dev} {p prio : Nat} (hoff : bits (d.portConfig p) (8 + prio) 1 = 0) (pause : Bool) :
    pfcReceived d p prio pause = d := if_pos (by simp [hoff])

/-- Settles O50: where an event is due none of its guards turns it away, and the fields of its port's registers are apart, so that each
reads as the event left it. -/
theorem portEventsComplete : Obligations.PortEventsComplete := by
  refine ⟨fun s p l media dm hp hl hsplit hm hdm hdown hgate => ?trained, fun s p l media dm h => ?gateDown, fun s p l hp hl => ?lost,
    fun s p n hp => ?uncorrectable, fun s p qp hp hon => ⟨?marked, ?notified⟩, fun s p qp hoff => ⟨?markedOff, ?notifiedOff⟩,
    fun s p prio pause hp hprio hon => ?paused, fun s p prio pause hoff => ?pausedOff, fun s p hp => ?fault⟩
  case trained =>
    have hle : media ≤ 4 := by omega
    obtain ⟨e, hmems, he⟩ := linkTrained_shows hp hl hsplit hle hdown hgate dm
    have hup : (decide (media ≠ 0) && decide (media ≠ 4)) = true := by rcases hm with rfl | rfl | rfl <;> rfl
    rw [hup] at he
    refine ⟨_, .of_effect (f := (linkTrained · p l media dm)) rfl he, Dev.setLink_up _ p hl true, ?_, ?_, ?_⟩
    · rw [Dev.setLink_apart (by decide), Dev.settleSecond_apart (by decide), Dev.showMedia_media e p dm (by omega)]
    · rw [Dev.setLink_apart (by decide), Dev.settleSecond_apart (by decide), Dev.showMedia_cableDm e p hm hdm]
    · rw [Dev.setLink_mems, Dev.settleSecond_mems]
      exact hmems
  case gateDown => exact .of_effect (f := (linkTrained · p l media dm)) rfl (linkTrained_down h l media dm)
  case lost =>
    have he : linkDown s.clear p l = s.clear.setLink p l false := if_neg (by simp [hp, hl])
    exact ⟨_, .of_effect (f := (linkDown · p l)) rfl he, Dev.setLink_up _ p hl false, rfl⟩
  case uncorrectable =>
    refine ⟨_, .of_effect (f := (ethernetUncorrectable · p n)) rfl (ethernetUncorrectable_eq hp s.clear n), ?_, rfl⟩
    rw [Dev.fget_fadd_apart (by decide), Dev.fget_fadd_same]
    rfl
  case marked => exact .of_effect (f := (ecnReceived · p qp)) rfl (ecnReceived_on hp hon qp)
  case notified => exact ⟨_, .of_effect (f := (cnpReceived · p qp)) rfl (cnpReceived_on hp hon qp), AMap.get_put _ _ _ _, rfl⟩
  case markedOff => exact .of_effect (f := (ecnReceived · p qp)) rfl (ecnReceived_off hoff qp)
  case notifiedOff => exact .of_effect (f := (cnpReceived · p qp)) rfl (cnpReceived_off hoff qp)
  case paused =>
    exact ⟨_, .of_effect (f := (pfcReceived · p prio pause)) rfl (pfcReceived_on hp hprio hon pause), contains_pausedAfter _ _ _, rfl⟩
  case pausedOff => exact .of_effect (f := (pfcReceived · p prio pause)) rfl (pfcReceived_off hoff pause)
  case fault => exact .of_effect (f := (gateFault · p)) rfl (if_neg (Nat.not_le.2 hp))

end Sys2Proof.Machine
end

section
/-! SUPPORT. Arbitration: the queue that a Gate serves next (R24, R417, R419). A Gate first takes its admin queues; of the others it
serves an urgent one, or grants a weighted class and serves a queue of it. -/

namespace Sys2Proof.Machine

namespace Dev

/-! Taking turns. -/

/-- The least of some queues. -/
def leastQueue (qs : List Nat) : Option Nat := qs.foldl (fun m q => match m with
  | some x => some (min x q)
  | none => some q) none

theorem nextQueue_none (qs : List Nat) : nextQueue qs none = leastQueue qs := rfl

theorem nextQueue_some (qs : List Nat) (x : Nat) :
    nextQueue qs (some x) = (leastQueue (qs.filter (x < ·))).or (leastQueue qs) := by
  change (match leastQueue (qs.filter (x < ·)) with
    | some q => some q
    | none => leastQueue qs) = _
  cases leastQueue (qs.filter (x < ·)) <;> rfl

/-- The least of some queues is one of them. -/
theorem leastQueue_mem {qs : List Nat} (h : qs ≠ []) : ∃ q ∈ qs, leastQueue qs = some q := by
  obtain ⟨x, t, rfl⟩ := List.exists_cons_of_ne_nil h
  clear h
  induction t generalizing x with
  | nil => exact ⟨x, by simp, rfl⟩
  | cons y t ih =>
    obtain ⟨q, hq, he⟩ := ih (min x y)
    refine ⟨q, ?_, he⟩
    rcases List.mem_cons.1 hq with rfl | hq
    · rcases min_choice x y with h | h <;> simp [h]
    · simp [hq]

/-- Some queue has the next turn, whichever was served last. -/
theorem nextQueue_mem {qs : List Nat} (hqs : qs ≠ []) (last : Option Nat) : ∃ q ∈ qs, nextQueue qs last = some q := by
  obtain ⟨q, hq, hleast⟩ := leastQueue_mem hqs
  cases last with
  | none => exact ⟨q, hq, hleast⟩
  | some x =>
    rw [nextQueue_some]
    by_cases habove : qs.filter (x < ·) = []
    · exact ⟨q, hq, by rw [habove, hleast]; rfl⟩
    · obtain ⟨r, hr, he⟩ := leastQueue_mem habove
      exact ⟨r, List.mem_of_mem_filter hr, by rw [he]; rfl⟩

@[simp] theorem nextQueue_nil (last : Option Nat) : nextQueue [] last = none := by cases last <;> rfl

/-! The contenders of a class (R24), and the classes (R417). -/

/-- One of the contenders is chosen, and only their credits change. -/
theorem chooseContender_mem (d : Dev) (a : GateArb) (cls : Nat) {xs : List Nat} (hxs : xs ≠ []) :
    ∃ x ∈ xs, ∃ cs, d.chooseContender a cls xs = some (x, { a with credits := cs }) := by
  unfold chooseContender
  dsimp only
  split
  next x _ hrich =>
    have hx : x ∈ xs := List.mem_of_mem_filter (hrich ▸ List.mem_cons_self)
    exact ⟨x, hx, _, rfl⟩
  next =>
    split
    next x _ hround =>
      have hx : x ∈ xs := List.mem_of_mem_filter (hround ▸ List.mem_cons_self)
      exact ⟨x, hx, _, rfl⟩
    next =>
      obtain ⟨x, hx, he⟩ := nextQueue_mem hxs (AMap.look a.credits (32 * cls + 31))
      simp only [he]
      exact ⟨x, hx, _, rfl⟩

/-- The contenders of a class, as its service puts them in order. -/
def contenders (d : Dev) (cls : Nat) (qs : List Nat) : List Nat :=
  (((qs.filter fun q => d.classOf q = cls).map d.contenderOf).dedup).mergeSort (· ≤ ·)

theorem mem_contenders {d : Dev} {cls x : Nat} {qs : List Nat} :
    x ∈ d.contenders cls qs ↔ ∃ q ∈ qs.filter fun q => d.classOf q = cls, d.contenderOf q = x := by
  rw [contenders, List.mem_mergeSort, List.mem_dedup, List.mem_map]

/-- A class of which a queue waits is served: only credits and the turns of the queues change. -/
theorem serveClass_mem (d : Dev) (a : GateArb) {cls : Nat} {qs : List Nat} (h : ∃ q ∈ qs, d.classOf q = cls) :
    ∃ q ∈ qs, d.classOf q = cls ∧ ∃ cs ls, d.serveClass a cls qs = some (q, { a with credits := cs, lastQueue := ls }) := by
  obtain ⟨p, hp, hcls⟩ := h
  have hxs : d.contenders cls qs ≠ [] :=
    List.ne_nil_of_mem (mem_contenders.2 ⟨p, List.mem_filter.2 ⟨hp, decide_eq_true hcls⟩, rfl⟩)
  obtain ⟨x, hx, cs, he⟩ := d.chooseContender_mem { a with credits := a.credits.filter fun k =>
    k.1 / 32 ≠ cls || k.1 % 32 = 31 || (d.contenders cls qs).contains (k.1 % 32) } cls hxs
  obtain ⟨r, hr, hrx⟩ := mem_contenders.1 hx
  have hmine : ((qs.filter fun q => d.classOf q = cls).filter fun q => d.contenderOf q = x) ≠ [] :=
    List.ne_nil_of_mem (List.mem_filter.2 ⟨hr, decide_eq_true hrx⟩)
  obtain ⟨q, hq, hnext⟩ := nextQueue_mem hmine (AMap.look a.lastQueue (32 * cls + x))
  obtain ⟨hqs, hqc⟩ := List.mem_filter.1 (List.mem_of_mem_filter hq)
  refine ⟨q, hqs, of_decide_eq_true hqc, cs, AMap.put a.lastQueue (32 * cls + x) q, ?_⟩
  rw [contenders] at he
  unfold serveClass
  simp only [he, hnext]

/-- One of the classes gets the next grant: only the grants and the burst change. -/
theorem chooseClass_mem (d : Dev) (a : GateArb) {cs : List Nat} (hcs : cs ≠ []) :
    ∃ c ∈ cs, ∃ gs n, d.chooseClass a cs = some (c, { a with grants := gs, burst := n, burstClass := c }) := by
  unfold chooseClass
  dsimp only
  split
  next c hc => exact ⟨c, List.mem_of_find?_eq_some hc, _, _, rfl⟩
  next =>
    split
    next c _ _ => exact ⟨c, List.mem_cons_self, _, _, rfl⟩
    next => exact absurd rfl hcs

/-! The grant (R417, R419). -/

/-- The queues of the urgent class, and of the others. -/
def urgentOf (d : Dev) (qs : List Nat) : List Nat := qs.filter fun q => d.classOf q = 0
def weightedOf (d : Dev) (qs : List Nat) : List Nat := qs.filter fun q => d.classOf q ≠ 0

/-- The weighted classes of which a queue waits. -/
def classesOf (d : Dev) (qs : List Nat) : List Nat := [1, 2, 3].filter fun c => (d.weightedOf qs).any fun q => d.classOf q = c

theorem urgentOf_isEmpty {d : Dev} {qs : List Nat} : (d.urgentOf qs).isEmpty = false ↔ ∃ q ∈ qs, d.classOf q = 0 := by
  simp [urgentOf, List.isEmpty_eq_false_iff]

theorem weightedOf_isEmpty {d : Dev} {qs : List Nat} : (d.weightedOf qs).isEmpty = false ↔ ∃ q ∈ qs, d.classOf q ≠ 0 := by
  simp [weightedOf, List.isEmpty_eq_false_iff]

theorem mem_classesOf {d : Dev} {qs : List Nat} (hle : ∀ q ∈ qs, d.classOf q ≤ 3) {c : Nat} :
    c ∈ d.classesOf qs ↔ ∃ q ∈ d.weightedOf qs, d.classOf q = c := by
  have hrange (q : Nat) (hq : q ∈ d.weightedOf qs) : d.classOf q = 1 ∨ d.classOf q = 2 ∨ d.classOf q = 3 := by
    obtain ⟨hqs, hne⟩ := List.mem_filter.1 hq
    have := hle q hqs
    have := of_decide_eq_true hne
    omega
  simp only [classesOf, List.mem_filter, List.any_eq_true, decide_eq_true_eq, and_iff_right_iff_imp]
  rintro ⟨q, hq, rfl⟩
  simpa using hrange q hq

/-- The arbitration once a burst whose class has nothing more has ended. -/
def arbNow (d : Dev) (g : Nat) (qs : List Nat) : GateArb :=
  if (d.arb g).yielding && !(d.classesOf qs).contains (d.arb g).burstClass then
    { d.arb g with yielding := false, urgentRun := 0, burst := 0 }
  else d.arb g

/-- The urgent class gives way: it has had its run, and others wait. -/
def givesWay (d : Dev) (a : GateArb) (qs : List Nat) : Bool :=
  !a.yielding && decide (d.fget Reg.HIF_ARB Fld.HIF_ARB_URGENT_RUN ≤ a.urgentRun) && !(d.weightedOf qs).isEmpty &&
    !(d.urgentOf qs).isEmpty

/-- The arbitration once a dispatch of the present grant is gone; with the last one of a burst the urgent class has its turn again. -/
def spent (a : GateArb) : GateArb := { a with
  burst := a.burst - 1, yielding := a.yielding && a.burst - 1 ≠ 0,
  urgentRun := if (a.yielding && a.burst - 1 = 0) || !a.yielding then 0 else a.urgentRun }

/-- A burst to which the urgent class gave way goes on until nothing of it is left. -/
theorem spent_yielding {a : GateArb} (h : a.yielding = true) : ((spent a).burst ≠ 0 → (spent a).yielding = true) ∧
    ((spent a).burst = 0 → (spent a).yielding = false ∧ (spent a).urgentRun = 0) := by
  refine ⟨fun hleft => by simpa [spent, h] using hleft, fun hleft => ?_⟩
  have hlast : a.burst - 1 = 0 := hleft
  simp [spent, h, hlast]

/-- A weighted queue is served in the burst that goes on, or in one of a class that gets the next grant. -/
def serveWeighted (d : Dev) (a : GateArb) (qs : List Nat) (yield : Bool) : Option (Nat × GateArb × Bool) :=
  match (if a.burst ≠ 0 && (d.classesOf qs).contains a.burstClass then some (a.burstClass, a) else d.chooseClass a (d.classesOf qs)) with
  | none => none
  | some (c, a) => match d.serveClass a c (d.weightedOf qs) with
    | none => none
    | some (q, a) => some (q, spent a, yield)

/-- A Gate serves an admin queue before any other. -/
theorem arbitrate_admin {d : Dev} {g : Nat} {qs : List Nat} (h : ∃ p ∈ qs, isAdmin p = true) :
    ∃ q ∈ qs, isAdmin q = true ∧ ∃ a, d.arbitrate g qs = some (q, a, false) := by
  obtain ⟨p, hp, hadmin⟩ := h
  have hne : qs.filter isAdmin ≠ [] := List.ne_nil_of_mem (List.mem_filter.2 ⟨hp, hadmin⟩)
  obtain ⟨q, hq, he⟩ := nextQueue_mem hne (AMap.look (d.arb g).lastQueue 1024)
  obtain ⟨hqs, hqa⟩ := List.mem_filter.1 hq
  unfold arbitrate
  simp only [he]
  exact ⟨q, hqs, hqa, _, rfl⟩

/-- Without an admin queue a Gate serves an urgent queue, unless a weighted burst goes on or the urgent class gives way to one. -/
theorem arbitrate_io {d : Dev} {g : Nat} {qs : List Nat} (h : ∀ q ∈ qs, isAdmin q = false) : d.arbitrate g qs =
    if !(d.urgentOf qs).isEmpty && !(d.arbNow g qs).yielding && !d.givesWay (d.arbNow g qs) qs then
      match nextQueue (d.urgentOf qs) (AMap.look (d.arbNow g qs).lastQueue 0) with
      | some q => some (q, { d.arbNow g qs with
          urgentRun := (d.arbNow g qs).urgentRun + 1, lastQueue := AMap.put (d.arbNow g qs).lastQueue 0 q }, false)
      | none => none
    else d.serveWeighted (if d.givesWay (d.arbNow g qs) qs then { d.arbNow g qs with yielding := true, burst := 0 } else d.arbNow g qs)
      qs (d.givesWay (d.arbNow g qs) qs) := by
  have hadmin : qs.filter isAdmin = [] := List.filter_eq_nil_iff.2 fun q hq => by simp [h q hq]
  have hio : (qs.filter fun q => !isAdmin q) = qs := List.filter_eq_self.2 fun q hq => by simp [h q hq]
  unfold arbitrate
  simp only [hadmin, hio, nextQueue_nil]
  rfl

/-- Where a weighted queue waits, one is served, and its dispatch is spent. -/
theorem serveWeighted_mem {d : Dev} {qs : List Nat} (hle : ∀ q ∈ qs, d.classOf q ≤ 3) (hw : ∃ q ∈ qs, d.classOf q ≠ 0) (a : GateArb)
    (y : Bool) : ∃ q ∈ qs, d.classOf q ≠ 0 ∧ ∃ b : GateArb, b.yielding = a.yielding ∧ d.serveWeighted a qs y = some (q, spent b, y) := by
  obtain ⟨p, hp, hne⟩ := hw
  have hpw : p ∈ d.weightedOf qs := List.mem_filter.2 ⟨hp, decide_eq_true hne⟩
  have hclasses : d.classesOf qs ≠ [] := List.ne_nil_of_mem ((mem_classesOf hle).2 ⟨p, hpw, rfl⟩)
  -- whether a burst goes on or a class gets a grant, a queue of that class waits
  obtain ⟨c, hc, e, hgrant, hyield⟩ : ∃ c ∈ d.classesOf qs, ∃ e : GateArb,
      (if a.burst ≠ 0 && (d.classesOf qs).contains a.burstClass then some (a.burstClass, a) else d.chooseClass a (d.classesOf qs)) =
        some (c, e) ∧ e.yielding = a.yielding := by
    by_cases hgoes : (a.burst ≠ 0 && (d.classesOf qs).contains a.burstClass) = true
    · have hin : (d.classesOf qs).contains a.burstClass = true := (Bool.and_eq_true_iff.1 hgoes).2
      exact ⟨_, List.contains_iff_mem.1 hin, a, if_pos hgoes, rfl⟩
    · obtain ⟨c, hc, gs, n, he⟩ := d.chooseClass_mem a hclasses
      exact ⟨c, hc, _, (if_neg hgoes).trans he, rfl⟩
  obtain ⟨q, hq, -, cs, ls, hserve⟩ := d.serveClass_mem e ((mem_classesOf hle).1 hc)
  obtain ⟨hqs, hq0⟩ := List.mem_filter.1 hq
  refine ⟨q, hqs, of_decide_eq_true hq0, { e with credits := cs, lastQueue := ls }, hyield, ?_⟩
  unfold serveWeighted
  simp only [hgrant, hserve]

/-! What a Gate serves where no admin command waits. -/

section
variable {d : Dev} {g : Nat} {qs : List Nat}

theorem givesWay_iff {a : GateArb} : d.givesWay a qs = true ↔ a.yielding = false ∧
    d.fget Reg.HIF_ARB Fld.HIF_ARB_URGENT_RUN ≤ a.urgentRun ∧ (∃ q ∈ qs, d.classOf q ≠ 0) ∧ ∃ q ∈ qs, d.classOf q = 0 := by
  simp only [givesWay, Bool.and_eq_true, Bool.not_eq_true', decide_eq_true_eq, weightedOf_isEmpty, urgentOf_isEmpty, and_assoc]

/-- A burst goes on where its class still has a command. -/
theorem arbNow_goesOn (h : (d.arb g).yielding = true → (d.arb g).burstClass ∈ d.classesOf qs) : d.arbNow g qs = d.arb g := by
  refine if_neg ?_
  cases hy : (d.arb g).yielding with
  | false => simp
  | true => simpa using h hy

/-- A burst whose class has nothing more ends, and urgent dispatches count from zero. -/
theorem arbNow_ended (hy : (d.arb g).yielding = true) (hc : (d.arb g).burstClass ∉ d.classesOf qs) :
    d.arbNow g qs = { d.arb g with yielding := false, urgentRun := 0, burst := 0 } :=
  if_pos (by simp [hy, hc])

/-- Where a burst still interrupts the urgent class, a weighted command waits. -/
theorem weighted_of_arbNow_yielding (hle : ∀ q ∈ qs, d.classOf q ≤ 3) (hy : (d.arbNow g qs).yielding = true) :
    ∃ q ∈ qs, d.classOf q ≠ 0 := by
  by_contra hnone
  have hempty : d.classesOf qs = [] := List.eq_nil_iff_forall_not_mem.2 fun c hc => by
    obtain ⟨q, hq, -⟩ := (mem_classesOf hle).1 hc
    obtain ⟨hqs, hq0⟩ := List.mem_filter.1 hq
    exact hnone ⟨q, hqs, of_decide_eq_true hq0⟩
  cases hold : (d.arb g).yielding with
  | false => rw [arbNow_goesOn (by simp [hold]), hold] at hy; cases hy
  | true => rw [arbNow_ended hold (by simp [hempty])] at hy; cases hy

variable (hio : ∀ q ∈ qs, isAdmin q = false)
include hio

theorem arbitrate_urgent (hu : ∃ q ∈ qs, d.classOf q = 0) (hy : (d.arbNow g qs).yielding = false)
    (hrun : d.givesWay (d.arbNow g qs) qs = false) : ∃ q a, d.arbitrate g qs = some (q, a, false) ∧ q ∈ qs ∧ d.classOf q = 0 ∧
      a.urgentRun = (d.arbNow g qs).urgentRun + 1 ∧ a.yielding = false := by
  have hne := urgentOf_isEmpty.2 hu
  obtain ⟨q, hq, he⟩ := nextQueue_mem (List.isEmpty_eq_false_iff.1 hne) (AMap.look (d.arbNow g qs).lastQueue 0)
  obtain ⟨hqs, hq0⟩ := List.mem_filter.1 hq
  rw [arbitrate_io hio, hne, hy, hrun]
  simp only [he]
  exact ⟨q, _, rfl, hqs, of_decide_eq_true hq0, rfl, hy⟩

/-- A weighted queue is served where no urgent one waits or the urgent class gives way; in the latter case the dispatch counts against
the burst. -/
theorem arbitrate_weighted (hle : ∀ q ∈ qs, d.classOf q ≤ 3) (hw : ∃ q ∈ qs, d.classOf q ≠ 0)
    (hturn : (∃ q ∈ qs, d.classOf q = 0) → (d.arbNow g qs).yielding = true ∨ d.givesWay (d.arbNow g qs) qs = true) :
    ∃ q a, d.arbitrate g qs = some (q, a, d.givesWay (d.arbNow g qs) qs) ∧ q ∈ qs ∧ d.classOf q ≠ 0 ∧
      ((d.arbNow g qs).yielding = true ∨ d.givesWay (d.arbNow g qs) qs = true →
        (a.burst ≠ 0 → a.yielding = true) ∧ (a.burst = 0 → a.yielding = false ∧ a.urgentRun = 0)) := by
  have hskip : (!(d.urgentOf qs).isEmpty && !(d.arbNow g qs).yielding && !d.givesWay (d.arbNow g qs) qs) = false := by
    cases hne : (d.urgentOf qs).isEmpty with
    | true => rfl
    | false => rcases hturn (urgentOf_isEmpty.1 hne) with h | h <;> simp [h]
  obtain ⟨q, hqs, hq0, b, hyield, he⟩ := serveWeighted_mem hle hw
    (if d.givesWay (d.arbNow g qs) qs then { d.arbNow g qs with yielding := true, burst := 0 } else d.arbNow g qs)
    (d.givesWay (d.arbNow g qs) qs)
  refine ⟨q, spent b, ?_, hqs, hq0, fun h => spent_yielding (hyield.trans ?_)⟩
  · rw [arbitrate_io hio, hskip]
    exact he
  · split
    next => rfl
    next hno => exact h.resolve_right hno

end

end Dev

end Sys2Proof.Machine
end

section
/-! What arbitration owes the queues that wait: the urgent class its run, the weighted classes a burst after it, and every Gate a queue to
serve (R24, R417, R419). -/

namespace Sys2Proof.Machine

/-- Settles O55: an admin queue comes first; of the others an urgent queue is served, or else a weighted one waits and is served. -/
theorem gatesServeAWaitingQueue : Obligations.GatesServeAWaitingQueue := by
  intro d g qs hne hle
  by_cases hadmin : ∃ p ∈ qs, Dev.isAdmin p = true
  · obtain ⟨q, hq, hqa, a, he⟩ := Dev.arbitrate_admin (d := d) (g := g) hadmin
    exact ⟨q, a, false, he, hq, fun _ => hqa⟩
  · have hio : ∀ q ∈ qs, Dev.isAdmin q = false := fun q hq => Bool.eq_false_iff.2 fun h => hadmin ⟨q, hq, h⟩
    by_cases hturn : (∃ q ∈ qs, d.classOf q = 0) → (d.arbNow g qs).yielding = true ∨ d.givesWay (d.arbNow g qs) qs = true
    · have hw : ∃ q ∈ qs, d.classOf q ≠ 0 := by
        by_cases hu : ∃ q ∈ qs, d.classOf q = 0
        · rcases hturn hu with hy | hg
          · exact Dev.weighted_of_arbNow_yielding hle hy
          · obtain ⟨-, -, hw, -⟩ := Dev.givesWay_iff.1 hg
            exact hw
        · obtain ⟨q, hq⟩ := List.exists_mem_of_ne_nil qs hne
          exact ⟨q, hq, fun h0 => hu ⟨q, hq, h0⟩⟩
      obtain ⟨q, a, he, hq, -⟩ := Dev.arbitrate_weighted hio hle hw hturn
      exact ⟨q, a, _, he, hq, fun h => absurd h hadmin⟩
    · obtain ⟨hu, hno⟩ := Classical.not_imp.1 hturn
      obtain ⟨hy, hg⟩ := not_or.1 hno
      obtain ⟨q, a, he, hq, -⟩ := Dev.arbitrate_urgent hio hu (Bool.eq_false_iff.2 hy) (Bool.eq_false_iff.2 hg)
      exact ⟨q, a, false, he, hq, fun h => absurd h hadmin⟩

/-- Settles O54: below URGENT_RUN the urgent class does not give way; at URGENT_RUN it does, and the burst goes on while its class has a
command; once the class has none the burst has ended, and the urgent class is served with its count at zero. -/
theorem urgentRunYieldsABurst : Obligations.UrgentRunYieldsABurst := by
  refine ⟨by decide, fun d g qs hio hle hu hw => ⟨fun hy hrun => ?urgent, fun hturn => ?weighted, fun hy hdry hlimit => ?dry⟩⟩
  case urgent =>
    have hnow : d.arbNow g qs = d.arb g := Dev.arbNow_goesOn (by simp [hy])
    have hg : d.givesWay (d.arb g) qs = false := Bool.eq_false_iff.2 fun h => by
      obtain ⟨-, hpast, -⟩ := Dev.givesWay_iff.1 h
      omega
    have he := Dev.arbitrate_urgent (g := g) hio hu
    rw [hnow] at he
    exact he hy hg
  case weighted =>
    have hnow : d.arbNow g qs = d.arb g := by
      refine Dev.arbNow_goesOn fun hy => (Dev.mem_classesOf hle).2 ?_
      rcases hturn with ⟨-, q, hq, hne, hc⟩ | ⟨hno, -⟩
      · exact ⟨q, List.mem_filter.2 ⟨hq, decide_eq_true hne⟩, hc⟩
      · rw [hy] at hno; cases hno
    have hgives : d.givesWay (d.arb g) qs = !(d.arb g).yielding := by
      rcases hturn with ⟨hy, -⟩ | ⟨hy, hrun⟩
      · rw [hy]
        exact Bool.eq_false_iff.2 fun h => by
          obtain ⟨hno, -⟩ := Dev.givesWay_iff.1 h
          rw [hy] at hno; cases hno
      · rw [hy]
        exact Dev.givesWay_iff.2 ⟨hy, hrun, hw, hu⟩
    have hor : (d.arb g).yielding = true ∨ d.givesWay (d.arb g) qs = true := by
      rw [hgives]
      cases (d.arb g).yielding
      · exact .inr rfl
      · exact .inl rfl
    have he := Dev.arbitrate_weighted (g := g) hio hle hw
    rw [hnow] at he
    obtain ⟨q, a, he, hq, hq0, hburst⟩ := he fun _ => hor
    exact ⟨q, a, hgives ▸ he, hq, hq0, hburst hor⟩
  case dry =>
    have hc : (d.arb g).burstClass ∉ d.classesOf qs := fun h => by
      obtain ⟨q, hq, hqc⟩ := (Dev.mem_classesOf hle).1 h
      obtain ⟨hqs, hq0⟩ := List.mem_filter.1 hq
      exact hdry q hqs (of_decide_eq_true hq0) hqc
    have hnow := Dev.arbNow_ended hy hc
    have hg : d.givesWay (d.arbNow g qs) qs = false := Bool.eq_false_iff.2 fun h => by
      obtain ⟨-, hpast, -⟩ := Dev.givesWay_iff.1 h
      rw [hnow] at hpast
      exact absurd hlimit (Nat.not_lt.2 hpast)
    have he := Dev.arbitrate_urgent hio hu (by rw [hnow]) hg
    rwa [hnow] at he

end Sys2Proof.Machine
end

section
/-! The NVM commands, as they arrive (R421). -/

namespace Sys2Proof.Machine

/-- Settles O29: each of the rows arrives in its submission queue, and the body of each is its own command. -/
theorem nvmCommandsRun : Obligations.NvmCommandsRun :=
  ⟨fun _ _ _ _ A => A.completes rfl rfl, fun _ _ _ _ _ _ _ A => A.completes rfl rfl, fun _ _ _ _ _ _ A => A.completes rfl rfl,
    fun _ _ _ _ _ _ A => A.completes rfl rfl, fun _ _ _ _ _ A => A.completes rfl rfl, fun _ _ _ _ _ A => A.completes rfl rfl⟩

end Sys2Proof.Machine
end

section
/-! CONNECT, and the events of the Gates: the dispatch of a queue's head, the end of a wait for a range lock, and keep-alive timers that
expire (R408, R417 to R421). -/

namespace Sys2Proof.Machine

/-! CONNECT (R408). -/

/-- A CONNECT over a link that is up passes every check, and its QID says what it connects. -/
theorem connectArrives_passed {d : Dev} {h : Hdr} {a port link : Nat} (hqueue : h.queue = 4096 + a) (ha : a < 2048) (hport : port < 2)
    (hlink : link < 2) (hknown : d.known h = false)
    (hup : bits (d.fget (Reg.HIF_PORT_STAT port) Fld.HIF_PORT_STAT_LINK_UP) link 1 = 1) (hdown : d.contain.shutdown = 0)
    (hlisted : h.unlisted = false) (hfuse : h.fuse = 0) (hres : h.reserved = false)
    (hwipe : ∀ w, d.host.wipe = some w → w.sanitize = false) (qid : Nat) (rdma : Bool) (depth kato : Nat) (nqn : List Byte) (mtu reads deep : Nat) :
    connectArrives d (.connect h a qid port link rdma depth kato nqn mtu reads deep) =
      if qid = 0 then d.connectAdmin h a port link rdma depth kato nqn mtu reads deep
      else match d.assoc a with
        | some x => d.connectIo h a qid depth x
        | none => d := by
  refine (if_neg ?shape).trans ((if_neg ?up).trans ((if_neg ?fields).trans ((if_neg ?wipe).trans rfl)))
  case shape => simp [hlisted, hqueue, hknown, ha, hport, hlink]
  case up => simp [hup, hdown]
  case fields => simp [hfuse, hres]
  case wipe =>
    split
    next w hw => simp [hwipe w hw]
    next => exact Bool.false_ne_true

/-- Settles O35: no check turns the CONNECT away, and with an I/O queue's QID its association is there. -/
theorem connectsComplete : Obligations.ConnectsComplete := by
  intro s h a port link rdma depth kato nqn mtu reads deep hqueue ha hport hlink hknown hup hdown hlisted hfuse hres hwipe
  have passed (qid : Nat) := connectArrives_passed hqueue ha hport hlink hknown hup hdown hlisted hfuse hres hwipe qid rdma depth kato
    nqn mtu reads deep
  have completes (qid : Nat) {e : Dev} := Completes.of_effect (s := s)
    (c := .connect h a qid port link rdma depth kato nqn mtu reads deep)
    (f := (connectArrives · (.connect h a qid port link rdma depth kato nqn mtu reads deep))) (e := e) rfl
  refine ⟨completes 0 ((passed 0).trans (if_pos rfl)), fun qid x hqid hx => completes qid ((passed qid).trans ?_)⟩
  rw [if_neg hqid, hx]

/-! The Gates (R417 to R421). -/

/-- The Gate dispatches the head of the queue that arbitration names. -/
theorem Dev.dispatchNext_head {d : Dev} {g q : Nat} {a : GateArb} {y : Bool} {c : Instr} {h : Hdr}
    (ha : d.arbitrate g ((d.heads g).map queueOf) = some (q, a, y)) (hhead : ((d.heads g).find? fun c => queueOf c = q) = some c)
    (hc : hdrOf c = some h) : d.dispatchNext g = (d.serveQueue g q a y).dispatch c h := by
  unfold dispatchNext
  simp only [ha, hhead, hc]

/-- The only command that waits for a lock proceeds once no earlier lock holds it. -/
theorem rangeLockAcquire_single {d : Dev} {c : Instr} {h : Hdr} (hw : d.host.lockWaiters = [c]) (hc : hdrOf c = some h)
    (hfree : d.lockBlocked c h = false) : rangeLockAcquire d h.queue h.cid =
      ({ d with host := { d.host with lockWaiters := [] } } : Dev).hostBody c false := by
  unfold rangeLockAcquire
  simp [hw, hc, hfree]

/-- Settles O36: the head passes its checks and meets no lock, so that it runs; the lock's waiter is alone and free; a timer that expires
is the end of its association. -/
theorem gateEventsComplete : Obligations.GateEventsComplete := by
  refine ⟨fun s g q a y c h hg ha hhead hc hcheck hlock => ?dispatched, fun s q cid c h hw hc hq hcid hfree => ?acquired,
    fun s a x _ => ?expired⟩
  case dispatched =>
    refine .of_effect (f := (gateDispatch · g)) rfl ?_
    have hrun := (Dev.dispatchNext_head ha hhead hc).trans (Dev.dispatch_runs hcheck rfl hlock)
    rw [gateDispatch, if_neg (Nat.not_le.2 hg), hrun]
  case acquired =>
    subst hq hcid
    exact .of_effect (f := (rangeLockAcquire · h.queue h.cid)) rfl (rangeLockAcquire_single hw hc hfree)
  case expired => exact .of_effect (f := (keepAliveExpiry · a)) rfl rfl

end Sys2Proof.Machine
end

section
/-! Canonical memories: what a store, a wipe and a change elsewhere leave of them (R64, R358). -/

namespace Sys2Proof.Machine

/-- Every memory of the module is in its canonical form. -/
structure Canon (d : Dev) : Prop where
  blocks : Mem.wf d.bmem = true
  objects : Mem.wf d.objMem = true
  spaces : Mem.wf d.nsMem = true

namespace Canon
variable {d e : Dev}

/-- The frame lemmas about work in flight and about the media say that the memories stay. -/
theorem of_keeps (h : Canon d) (hk : KeepsWork d e) : Canon e := by
  obtain ⟨⟨hb, ho, hn⟩, -⟩ := hk
  exact ⟨hb ▸ h.blocks, ho ▸ h.objects, hn ▸ h.spaces⟩

theorem of_media (h : Canon d) (hm : MediaOnly d e) : Canon e := by
  obtain ⟨⟨_, _, _, _, rfl⟩, -⟩ := hm
  exact ⟨h.blocks, h.objects, h.spaces⟩

/-- A change of any part of the module but its memories. -/
theorem upd {regs out events seqs plan blocks waits kerbs versions ids texts changes staleIds filters services queries
      nextQuery batches nextBatch sweepLeft nextBlock passes jobs place media host time power contain squares sec mon trace
      pins drawn}
    (h : Canon d) : Canon {
      regs, out, events, seqs, plan, blocks, bmem := d.bmem, waits, kerbs, versions, ids, texts, changes, staleIds, filters,
      services, queries, nextQuery, batches, nextBatch, sweepLeft, nextBlock, passes, jobs, place,
      objMem := d.objMem, media, nsMem := d.nsMem, host, time, power, contain, squares, sec, mon, trace, pins, drawn } :=
  ⟨h.blocks, h.objects, h.spaces⟩

/-- The objects of another module, itself canonical. -/
theorem withObjects (h : Canon d) (g : Canon e) : Canon { d with objMem := e.objMem } := ⟨h.blocks, g.objects, h.spaces⟩

theorem zeroObjects {a n : Nat} (h : Canon d) : Canon { d with objMem := Mem.zero d.objMem a n } :=
  ⟨h.blocks, Mem.wf_zero _ _ _ h.objects, h.spaces⟩

theorem zeroSpaces {a n : Nat} (h : Canon d) : Canon { d with nsMem := Mem.zero d.nsMem a n } :=
  ⟨h.blocks, h.objects, Mem.wf_zero _ _ _ h.spaces⟩

theorem ite {c : Prop} {_ : Decidable c} (h : Canon d) (g : Canon e) : Canon (if c then d else e) := by
  split
  · exact h
  · exact g

theorem opt {α : Type} {x : Option α} {f : α → Dev} (h : Canon d) (g : ∀ v, Canon (f v)) : Canon (Option.casesOn x d f) := by
  cases x with
  | none => exact h
  | some v => exact g v

theorem optFst {α β : Type} {x : Option α} {p : Dev × β} {f : α → Dev × β} (h : Canon p.1) (g : ∀ v, Canon (f v).1) :
    Canon (Option.casesOn (motive := fun _ => Dev × β) x p f).1 := by
  cases x with
  | none => exact h
  | some v => exact g v

theorem optSnd {α β : Type} {x : Option α} {p : β × Dev} {f : α → β × Dev} (h : Canon p.2) (g : ∀ v, Canon (f v).2) :
    Canon (Option.casesOn (motive := fun _ => β × Dev) x p f).2 := by
  cases x with
  | none => exact h
  | some v => exact g v

/-- A match that names one constructor compiles to a recursor whose alternatives take the answer for every other one. -/
theorem optElse {α : Type} {P : Option α → Prop} {x : Option α} {p : P none} {f : α → Dev} (h : Canon d) (g : ∀ v, Canon (f v)) :
    Canon (Option.rec (motive := fun t => (P t → Dev) → Dev) (fun a => a p) (fun v _ => f v) x fun _ => d) := by
  cases x with
  | none => exact h
  | some v => exact g v

theorem lstElse {α : Type} {P : List α → Prop} {x : List α} {p : P []} {f : α → List α → Dev} (h : Canon d)
    (g : ∀ v l, Canon (f v l)) :
    Canon (List.rec (motive := fun t => (P t → Dev) → Dev) (fun a => a p) (fun v l _ _ => f v l) x fun _ => d) := by
  cases x with
  | nil => exact h
  | cons v l => exact g v l

theorem exc {ε α : Type} {x : Except ε α} {f : ε → Dev} {f' : α → Dev} (h : ∀ v, Canon (f v)) (g : ∀ v, Canon (f' v)) :
    Canon (Except.casesOn x f f') := by
  cases x with
  | error v => exact h v
  | ok v => exact g v

theorem excFst {ε α β : Type} {x : Except ε α} {f : ε → Dev × β} {f' : α → Dev × β} (h : ∀ v, Canon (f v).1)
    (g : ∀ v, Canon (f' v).1) : Canon (Except.casesOn (motive := fun _ => Dev × β) x f f').1 := by
  cases x with
  | error v => exact h v
  | ok v => exact g v

theorem excSnd {ε α β : Type} {x : Except ε α} {f : ε → β × Dev} {f' : α → β × Dev} (h : ∀ v, Canon (f v).2)
    (g : ∀ v, Canon (f' v).2) : Canon (Except.casesOn (motive := fun _ => β × Dev) x f f').2 := by
  cases x with
  | error v => exact h v
  | ok v => exact g v

theorem lst {α : Type} {x : List α} {f : α → List α → Dev} (h : Canon d) (g : ∀ v l, Canon (f v l)) :
    Canon (List.casesOn x d f) := by
  cases x with
  | nil => exact h
  | cons v l => exact g v l

theorem lstFst {α β : Type} {x : List α} {p : Dev × β} {f : α → List α → Dev × β} (h : Canon p.1) (g : ∀ v l, Canon (f v l).1) :
    Canon (List.casesOn (motive := fun _ => Dev × β) x p f).1 := by
  cases x with
  | nil => exact h
  | cons v l => exact g v l

theorem lstSnd {α β : Type} {x : List α} {p : β × Dev} {f : α → List α → β × Dev} (h : Canon p.2) (g : ∀ v l, Canon (f v l).2) :
    Canon (List.casesOn (motive := fun _ => β × Dev) x p f).2 := by
  cases x with
  | nil => exact h
  | cons v l => exact g v l

theorem bool {x : Bool} (h : Canon d) (g : Canon e) : Canon (Bool.casesOn x d e) := by
  cases x with
  | false => exact h
  | true => exact g

/-- A function that keeps the form, applied to each entry of a list. -/
theorem foldl {α : Type} {f : Dev → α → Dev} (l : List α) (h : Canon d) (hs : ∀ {d} a, Canon d → Canon (f d a)) :
    Canon (l.foldl f d) :=
  foldl_keeps Canon f l d h fun _ a h => hs a h

/-- The same, for an accumulator with more than the module in it. -/
theorem foldlFst {α β : Type} {f : Dev × β → α → Dev × β} (l : List α) {p : Dev × β} (h : Canon p.1)
    (hs : ∀ {p} a, Canon p.1 → Canon (f p a).1) : Canon (l.foldl f p).1 :=
  foldl_keeps (fun p => Canon p.1) f l p h fun _ a h => hs a h

theorem foldlSnd {α β : Type} {f : β × Dev → α → β × Dev} (l : List α) {p : β × Dev} (h : Canon p.2)
    (hs : ∀ {p} a, Canon p.2 → Canon (f p a).2) : Canon (l.foldl f p).2 :=
  foldl_keeps (fun p => Canon p.2) f l p h fun _ a h => hs a h

/-- The only member of an option. -/
theorem one {α : Type} {a : α} (h : Canon d) : ∀ q ∈ some (d, a), Canon q.1 := by
  rintro _ ⟨⟩
  exact h

/-- The second part of a pair that is canonical there. -/
theorem of_snd {α : Type} {p : α × Dev} {x : α} (he : p = (x, e)) (h : Canon p.2) : Canon e := by
  subst he
  exact h

/-- The device that an operation gives where its guard holds. -/
theorem of_guard {c : Prop} [Decidable c] (he : (if c then some d else none) = some e) (h : Canon d) : Canon e := by
  split at he
  · cases he
    exact h
  · cases he

/-- Either of two answers, each with the device that goes with it. -/
theorem iteSnd {α : Type} {c : Prop} {_ : Decidable c} {p q : α × Dev} (h : Canon p.2) (g : Canon q.2) :
    Canon (if c then p else q).2 := by
  split
  · exact h
  · exact g

theorem iteFst {α : Type} {c : Prop} {_ : Decidable c} {p q : Dev × α} (h : Canon p.1) (g : Canon q.1) :
    Canon (if c then p else q).1 := by
  split
  · exact h
  · exact g

end Canon

/-- A sequence that ends in an answer has passed its first part. -/
theorem ok_of_bind {ε α β : Type} {x : Except ε α} {f : α → Except ε β} {b : β} (h : (x >>= f) = .ok b) :
    ∃ a, x = .ok a ∧ f a = .ok b := by
  cases x with
  | error => cases h
  | ok a => exact ⟨a, rfl, h⟩

/-- What an operation that may be refused leaves, where it is not, is canonical. -/
def CanonOk (r : Except Status Dev) : Prop := ∀ e, r = .ok e → Canon e

namespace CanonOk
variable {d : Dev}

theorem ok (h : Canon d) : CanonOk (.ok d) := by
  rintro _ ⟨⟩
  exact h

theorem error {st : Status} : CanonOk (.error st) := fun _ he => nomatch he

theorem ite {c : Prop} [Decidable c] {r s : Except Status Dev} (h : CanonOk r) (g : CanonOk s) : CanonOk (if c then r else s) := by
  split
  · exact h
  · exact g

end CanonOk

end Sys2Proof.Machine
end

section
/-! Every function of the module that the meaning of a command calls keeps the memories canonical. One lemma for each, in the order of
the model: it chains the lemmas of the functions that its function calls, `h.setReg.fadd` for a change of a register and then of a
field. Only the stores, the wipes and the losses of power touch a memory; `Canon.upd` passes every other change. -/

namespace Sys2Proof.Machine
namespace Canon
variable {d e : Dev}

section
set_option smartUnfolding false

/-! Functions of `Machine/Ops`. -/

theorem setReg {a v : Nat} (h : Canon d) : Canon (d.setReg a v) := by
  unfold Dev.setReg
  exact .upd h

theorem fset {a : Nat} {f : Fld} {v : Nat} (h : Canon d) : Canon (d.fset a f v) := h.setReg

theorem fadd {a : Nat} {f : Fld} {n : Nat} (h : Canon d) : Canon (d.fadd a f n) := h.fset

theorem fon {a : Nat} {f : Fld} (h : Canon d) : Canon (d.fon a f) := h.fset

theorem foff {a : Nat} {f : Fld} (h : Canon d) : Canon (d.foff a f) := h.fset

theorem draw (h : Canon d) : Canon d.draw.2 := by
  unfold Dev.draw
  exact .upd h



theorem addBasis {unit dist n : Nat} (h : Canon d) : Canon (d.addBasis unit dist n) := by
  unfold Dev.addBasis
  exact .ite h (.upd h)

theorem setBlock {b : Nat} {x : Block} (h : Canon d) : Canon (d.setBlock b x) := by
  unfold Dev.setBlock
  exact .upd h

theorem modBlock {b : Nat} {f : Block → Block} (h : Canon d) : Canon (d.modBlock b f) := h.setBlock

theorem setKerb {k : Nat} {x : Kerb} (h : Canon d) : Canon (d.setKerb k x) := by
  unfold Dev.setKerb
  exact .upd h

theorem modKerb {k : Nat} {f : Kerb → Kerb} (h : Canon d) : Canon (d.modKerb k f) := h.setKerb

theorem storeBm {b a : Nat} {bytes : List Byte} (h : Canon d) : Canon (d.storeBm b a bytes) := ⟨Mem.wf_store _ _ _ h.blocks, h.objects, h.spaces⟩

theorem storeObj {i o : Nat} {bytes : List Byte} (h : Canon d) : Canon (d.storeObj i o bytes) :=
  ⟨h.blocks, Mem.wf_store _ _ _ h.objects, h.spaces⟩

theorem storeNs {ns o : Nat} {bytes : List Byte} (h : Canon d) : Canon (d.storeNs ns o bytes) :=
  ⟨h.blocks, h.objects, Mem.wf_store _ _ _ h.spaces⟩

theorem setId {ns id : Nat} {x : IdState} (h : Canon d) : Canon (d.setId ns id x) := by
  unfold Dev.setId
  exact .upd h

/-! Functions of `Machine/Events`. -/

theorem takeSeq {src : Nat} (h : Canon d) : Canon (d.takeSeq src).2 := by
  unfold Dev.takeSeq
  exact .upd h

theorem emit {o : Out} (h : Canon d) : Canon (d.emit o) := by
  unfold Dev.emit
  exact .upd h

theorem traceFreeze (h : Canon d) : Canon d.traceFreeze := h.fset.fset

theorem tracePut {pos units : Nat} {bytes : List Byte} (h : Canon d) : Canon (d.tracePut pos units bytes) := by
  unfold Dev.tracePut
  exact .fset (.upd (.ite h.fon h))

theorem traceDiscard (h : Canon d) : Canon d.traceDiscard := h.fadd

theorem traceWrite {units : Nat} {bytes : List Byte} (h : Canon d) : Canon (d.traceWrite units bytes) := by
  unfold Dev.traceWrite
  exact .tracePut (.ite h h.tracePut)

theorem traceEnter {units : Nat} {bytes : List Byte} (h : Canon d) : Canon (d.traceEnter units bytes) := by
  unfold Dev.traceEnter
  refine .ite h ?_
  split
  · exact .ite h.traceWrite (.ite h.traceFreeze.traceDiscard (.ite h.traceWrite.traceFreeze h.traceWrite))
  · exact .ite h.traceFreeze.traceDiscard (.ite (.traceFreeze (.upd h.traceWrite)) (.upd h.traceWrite))
  · exact h.traceDiscard
  · exact h

theorem traceTrigger {cause src seq : Nat} (h : Canon d) : Canon (d.traceTrigger cause src seq) := by
  unfold Dev.traceTrigger
  exact .ite h (.ite (.upd h.takeSeq.traceWrite.fset.fset) h.fadd)

theorem traceRecord {src ev seq : Nat} {payload : List Byte} (h : Canon d) : Canon (d.traceRecord src ev seq payload) := by
  unfold Dev.traceRecord
  with_reducible_and_instances exact .opt h fun _ => .ite h (.ite h.traceEnter.traceTrigger h.traceEnter)

theorem traceEvent {src ev : Nat} {payload : List Byte} (h : Canon d) :
    Canon (d.traceEvent src ev payload) := h.takeSeq.traceRecord

theorem postTail {q : Nat} (h : Canon d) : Canon (d.postTail q) := by
  unfold Dev.postTail
  exact .upd h

theorem postAsync {a cid : Nat} {kind : AsyncKind} {page : Nat} (h : Canon d) :
    Canon (d.postAsync a cid kind page) := h.fadd.postTail.emit

theorem asyncAll {kind : AsyncKind} {page : Nat} {config : Option Nat} (h : Canon d) : Canon (d.asyncAll kind page config) := by
  unfold Dev.asyncAll
  with_reducible_and_instances exact .foldl _ (.upd h) fun _ h => .ite h (.lst (.upd h) fun _ _ => .postAsync (.upd h))

theorem asyncVendor (h : Canon d) : Canon d.asyncVendor := h.asyncAll

theorem logEvent {src ev : Nat} {payload : List Byte} (h : Canon d) : Canon (d.logEvent src ev payload) := by
  unfold Dev.logEvent
  exact .traceRecord (.upd h.takeSeq)

theorem logError {src ev code severity reset unit : Nat} {dist : Option Nat} {address detail region : Nat} (h : Canon d) :
    Canon (d.logError src ev code severity reset unit dist address detail region) := by
  unfold Dev.logError
  extract_lets _ e f
  have hf : Canon f := .ite h.logEvent.traceTrigger h.logEvent
  exact .ite hf.asyncVendor hf

theorem logFault {src code severity reset detail : Nat} (h : Canon d) :
    Canon (d.logFault src code severity reset detail) := h.logError

theorem logNotice {ev : Nat} {payload : List Byte} (h : Canon d) : Canon (d.logNotice ev payload) := by
  unfold Dev.logNotice
  exact .ite h.logEvent h.logEvent.asyncVendor

theorem logOverride {ev loop unit bound applied measured : Nat} (h : Canon d) :
    Canon (d.logOverride ev loop unit bound applied measured) := by
  unfold Dev.logOverride
  exact .ite h.logEvent.traceTrigger h.logEvent

theorem leave {q cid : Nat} (h : Canon d) : Canon (d.leave q cid) := by
  unfold Dev.leave
  exact .upd h

theorem takeEffect {q cid : Nat} (h : Canon d) : Canon (d.takeEffect q cid) := by
  unfold Dev.takeEffect
  exact .upd h

theorem countEnd {q cid : Nat} {st : Status} (h : Canon d) : Canon (d.countEnd q cid st) := by
  unfold Dev.countEnd
  exact .ite h.fadd (.upd h.fadd)

theorem postEnd {q cid : Nat} {st : Status} {dw0 dw1 : Nat} (h : Canon d) :
    Canon (d.postEnd q cid st dw0 dw1) := h.countEnd.leave.postTail.emit

theorem recordEnd {port : Nat} {nqn : List Byte} {c : Instr} {q cid : Nat} {st : Status} (h : Canon d) :
    Canon (d.recordEnd port nqn c q cid st) := by
  unfold Dev.recordEnd
  exact .upd h.countEnd.leave

theorem finishWith {q cid : Nat} {st : Status} {dw0 dw1 : Nat} (h : Canon d) : Canon (d.finishWith q cid st dw0 dw1) := by
  unfold Dev.finishWith
  induction Dev.inflightOf d q cid with
  | none => exact h.postEnd
  | some =>
      split
      · exact h.recordEnd
      · exact .upd h
      · exact h.postEnd

theorem sendHost {q cid : Nat} {o : Out} (h : Canon d) : Canon (d.sendHost q cid o) := by
  unfold Dev.sendHost
  exact .ite (.upd h.emit) h.emit

theorem ackEnd {q cid : Nat} {bad : Bool} (h : Canon d) : Canon (d.ackEnd q cid bad) := by
  unfold Dev.ackEnd
  induction Dev.inflightOf d q cid with
  | none => exact h
  | some =>
      split
      · exact h.postEnd
      · exact h

theorem finish {q cid : Nat} {st : Status} {dw0 : optParam Nat 0} (h : Canon d) : Canon (d.finish q cid st dw0) := h.finishWith

theorem finishFrom {src q cid : Nat} {st : Status} {dw0 : optParam Nat 0} (h : Canon d) :
    Canon (d.finishFrom src q cid st dw0) := h.takeSeq.finishWith

theorem finishPort {q cid : Nat} {st : Status} {dw0 : optParam Nat 0} (h : Canon d) :
    Canon (d.finishPort q cid st dw0) := h.finishFrom

theorem finishSquare {q cid : Nat} {st : Status} {dw0 : optParam Nat 0} (h : Canon d) :
    Canon (d.finishSquare q cid st dw0) := h.finishFrom

/-! Functions of `Machine/Objects`. -/

theorem modObj {i : Nat} {f : Obj → Obj} (h : Canon d) : Canon (d.modObj i f) := by
  unfold Dev.modObj
  exact .upd h

theorem hold {is : List Nat} (h : Canon d) : Canon (d.hold is) := by
  unfold Dev.hold
  exact .foldl _ h fun _ h => h.modObj

theorem unhold {is : List Nat} (h : Canon d) : Canon (d.unhold is) := by
  unfold Dev.unhold
  exact .foldl _ h fun _ h => h.modObj

theorem countTier {dist tier n : Nat} (h : Canon d) : Canon (d.countTier dist tier n) := by
  unfold Dev.countTier
  split
  · exact h.fadd
  · exact h.fadd
  · exact h.fadd

theorem basisBytes {dist : Nat} {o : Obj} {a n : Nat} (h : Canon d) : Canon (d.basisBytes dist o a n) := by
  unfold Dev.basisBytes
  with_reducible_and_instances exact .ite h (.foldl _ h fun _ h => .opt h fun _ => h.addBasis)

theorem touchRead {dist i n : Nat} {a : optParam Nat 0} (h : Canon d) : Canon (d.touchRead dist i n a) := by
  unfold Dev.touchRead
  with_reducible_and_instances exact .opt h fun _ => h.basisBytes.countTier.modObj

theorem touchWrite {dist i n : Nat} {a : optParam Nat 0} (h : Canon d) : Canon (d.touchWrite dist i n a) := by
  unfold Dev.touchWrite
  with_reducible_and_instances exact .opt h fun _ => h.basisBytes.countTier.modObj

theorem letGo {held : List Nat} {queue cid : Nat} (h : Canon d) : Canon (d.letGo held queue cid) := by
  unfold Dev.letGo
  exact .upd (.foldl _ h fun _ h => h.modObj)

theorem freeBytes {n : Nat} (h : Canon d) : Canon (d.freeBytes n).2 := by
  unfold Dev.freeBytes
  exact .upd h

theorem undefineBm {b a n : Nat} (h : Canon d) : Canon (d.undefineBm b a n) := h.freeBytes.storeBm

theorem undefineObj {i a n : Nat} (h : Canon d) : Canon (d.undefineObj i a n) := h.freeBytes.storeObj

/-! Functions of `Machine/Flags`. -/

theorem raiseFlags {dist : Nat} {f : Flags} (h : Canon d) : Canon (d.raiseFlags dist f) := by
  unfold Dev.raiseFlags
  exact .ite (.ite h h.setReg) (.fadd (.ite h h.setReg))

theorem withFlags {α : Type} {dist : Nat} {x : FM α} (h : Canon d) : Canon (d.withFlags dist x).2 := h.raiseFlags

theorem opCount {g i n : Nat} (h : Canon d) : Canon (d.opCount g i n) := by
  unfold Dev.opCount
  exact .ite h h.fset

theorem countOp {g cls fmt n : Nat} (h : Canon d) : Canon (d.countOp g cls fmt n) := h.opCount

theorem charge {b dist : Nat} {c : Cost} (h : Canon d) : Canon (d.charge b dist c) := by
  unfold Dev.charge
  extract_lets e f g
  have hf : Canon f := .ite h.addBasis h.addBasis.fadd
  have hg : Canon g := .ite hf hf.fadd
  exact .ite hg hg.fadd

/-! Functions of `Machine/Slots`. -/

theorem modSlot {b i : Nat} {f : Slot → Slot} (h : Canon d) : Canon (d.modSlot b i f) := h.modBlock

theorem recordCommand {b : Nat} {bytes : List Byte} {seq : Nat} (h : Canon d) : Canon (d.recordCommand b bytes seq) := by
  unfold Dev.recordCommand
  exact .ite h.modBlock.traceRecord h.modBlock

theorem dropWaits {b i : Nat} (h : Canon d) : Canon (d.dropWaits b i) := by
  unfold Dev.dropWaits
  exact .upd (.foldl _ h fun _ h => h.fset)

theorem dropStreams {b i : Nat} (h : Canon d) : Canon (d.dropStreams b i) := by
  unfold Dev.dropStreams
  exact .upd h

theorem dropStream {b i op : Nat} (h : Canon d) : Canon (d.dropStream b i op) := by
  unfold Dev.dropStream
  exact .upd h

theorem emptySlot {b i : Nat} (h : Canon d) : Canon (d.emptySlot b i) := by
  unfold Dev.emptySlot
  with_reducible_and_instances exact .opt h fun _ => h.dropWaits.dropStreams.unhold.modBlock

theorem spend {b : Nat} {x : Slot} (h : Canon d) : Canon (d.spend b x) := h.modBlock

theorem endCommand {b i : Nat} {st : Status} {started : Bool} (h : Canon d) : Canon (d.endCommand b i st started) := by
  unfold Dev.endCommand
  with_reducible_and_instances
    refine .opt h fun x1 => ?_
    beta_reduce
    extract_lets e
    have he : Canon e := .ite h.spend h
    split
    next _ _ r hr =>
      have h := of_snd hr he.takeSeq
      beta_reduce
      extract_lets _ f g k
      have hf : Canon f := .ite h.recordCommand h
      have hg : Canon g := by
        unfold g
        beta_reduce
        induction st with
        | success | computeAborted => exact hf.fadd.fadd
        | _ => exact hf
      beta_reduce
      induction Slot.origin x1 with
      | host => exact .finishWith (.ite hg.emptySlot.sendHost hg.emptySlot)
      | _ => exact .upd hg.emptySlot

theorem refuseCompute {q c g : Nat} {st : Status} (h : Canon d) : Canon (d.refuseCompute q c g st) := by
  unfold Dev.refuseCompute
  extract_lets e
  have he : Canon e := by
    unfold e
    split
    · exact h.fadd.fadd
    · exact h
  exact he.finishFrom

theorem undefineOutputs {b : Nat} {x : Slot} (h : Canon d) : Canon (d.undefineOutputs b x) := by
  unfold Dev.undefineOutputs
  with_reducible_and_instances exact .foldl _ h fun _ h => .opt h fun _ => .ite h (.ite h.undefineBm (.ite h.undefineBm h))

/-! Functions of `Machine/Lights`. -/

theorem lightRecord {l op dist blk operand : Nat} (h : Canon d) : Canon (d.lightRecord l op dist blk operand) := h.traceEvent

theorem releaseSlot {b i : Nat} (h : Canon d) : Canon (d.releaseSlot b i) := h.modSlot

theorem releaseWaits {l : Nat} (h : Canon d) : Canon (d.releaseWaits l) := by
  unfold Dev.releaseWaits
  exact .foldl _ (.fset (.upd h)) fun _ h => h.releaseSlot.lightRecord

theorem lightSet {l v dist blk : Nat} (h : Canon d) : Canon (d.lightSet l v dist blk) := h.fset.lightRecord.releaseWaits

theorem lightAdd {l v dist blk : Nat} (h : Canon d) : Canon (d.lightAdd l v dist blk) := by
  unfold Dev.lightAdd
  exact .releaseWaits (.lightRecord (.ite h.fset.fon h.fset))

theorem expireWait {w : Wait} (h : Canon d) : Canon (d.expireWait w) := by
  unfold Dev.expireWait
  exact h.fadd.lightRecord.endCommand

theorem registerWait {b i l operand timeout dist : Nat} (h : Canon d) : Canon (d.registerWait b i l operand timeout dist) := by
  unfold Dev.registerWait
  dsimp only
  split
  · exact h.lightRecord.releaseSlot.lightRecord
  · exact .ite h.lightRecord.expireWait (.upd h.lightRecord.fset.modSlot)

theorem lightWaitStep {b i : Nat} (h : Canon d) : Canon (lightWaitStep d b i) := by
  unfold Machine.lightWaitStep
  with_reducible_and_instances exact .opt h fun _ => .ite (.lst h fun _ _ => h.registerWait) h

theorem lightExpiryStep {b i : Nat} (h : Canon d) : Canon (lightExpiryStep d b i) := by
  unfold Machine.lightExpiryStep
  split
  · exact .ite h.expireWait h
  · exact h

/-! Functions of `Machine/Engines`. -/

theorem pickNext {b : Nat} (h : Canon d) : Canon (d.pickNext b).2 := by
  unfold Dev.pickNext
  dsimp only
  split
  · dsimp only
    exact h.modBlock
  · dsimp only
    exact h.modBlock.modBlock
  · dsimp only
    exact h.modBlock.modBlock

theorem opDone {b i dist : Nat} {c : Cost} (h : Canon d) : Canon (d.opDone b i dist c) := by
  unfold Dev.opDone
  exact .modSlot (.ite h.charge h.charge.fadd)

theorem runOp {b : Nat} {want : Desc → Bool} {f : Dev → Nat → Slot → Desc → Option (Dev × Cost)} (h : Canon d)
    (hf : ∀ {i x o}, ∀ p ∈ f d i x o, Canon p.1) : Canon (runOp d b want f) := by
  unfold Machine.runOp
  split
  · exact h
  · split
    · exact h
    · split
      · exact h.opDone
      · split
        next hr => exact (hf _ hr).opDone
        next => exact h

theorem modCell {b c : Nat} {f : Cell → Cell} (h : Canon d) : Canon (d.modCell b c f) := h.modBlock

theorem countReuse {b c : Nat} {run : List BufTag} (h : Canon d) : Canon (countReuse d b c run) := by
  unfold Machine.countReuse
  exact .ite h h.fadd

theorem countArray {b : Nat} {s : ArrStats} (h : Canon d) : Canon (countArray d b s) := by
  unfold Machine.countArray
  exact .fadd (.fadd (.fadd (.foldl _ (.foldl _ h fun _ h => h.fadd) fun _ h => h.fadd)))

theorem stallCells {b i : Nat} {f : Fld} {cells : List Nat} (h : Canon d) : Canon (stallCells d b i f cells) := by
  unfold Machine.stallCells
  exact .foldl _ h fun _ h => h.draw.fadd.modSlot

theorem observe {b i : Nat} {x : Slot} {o : Obs} (h : Canon d) : Canon (observe d b i x o) := by
  unfold Machine.observe
  exact .ite h.modSlot h

theorem drainCells {b : Nat} {cells : List Nat} (h : Canon d) : Canon (drainCells d b cells) := by
  unfold Machine.drainCells
  with_reducible_and_instances exact .foldl _ h fun _ h => .modCell (.opt h fun _ => h.countReuse)

theorem countArrayOps {b : Nat} {o : Desc} {y : ArrOp} {st : ArrStats} (h : Canon d) : Canon (countArrayOps d b o y st) := by
  unfold Machine.countArrayOps
  with_reducible_and_instances
    refine .opt h fun _ => ?_
    beta_reduce
    extract_lets e f
    have he : Canon e := by
      unfold e
      split
      · exact h.countOp
      · exact h.countOp
      · exact h.countOp
    have hf : Canon f := .ite he he.countOp
    exact .ite hf hf.countOp

theorem settle {b : Nat} {o : Desc} {x : ArrOp} (h : Canon d) : Canon (settle d b o x) := by
  unfold Machine.settle
  exact .foldl _ h fun _ h => h.modCell.countReuse

theorem arrayFails {b i : Nat} {o : Desc} {f : Fmt} (h : Canon d) : Canon (arrayFails d b i o f) := h.undefineBm.modSlot

theorem arrayBadMeta {b i : Nat} {x : Slot} {o : Desc} {y : ArrOp} {bad : List (Nat × Nat)} (h : Canon d) :
    ∀ p ∈ arrayBadMeta d b i x o y bad, Canon p.1 := by
  unfold Machine.arrayBadMeta
  dsimp only
  split
  · exact fun _ h => nomatch h
  · exact .one (.arrayFails (.foldl _ h.settle.withFlags.countArray fun _ h => h.modCell))

theorem arrayOp {b i : Nat} {x : Slot} {o : Desc} (h : Canon d) : ∀ p ∈ arrayOp d b i x o, Canon p.1 := by
  unfold Machine.arrayOp
  split
  · exact fun _ h => nomatch h
  · dsimp only
    split
    · exact h.arrayBadMeta
    · split
      · exact fun _ h => nomatch h
      · exact .one h.settle.withFlags.observe.countArray.countArrayOps.drainCells.stallCells.storeBm

theorem loadCell {b dist : Nat} {c : Nat × Want} (h : Canon d) : Canon (loadCell d b dist c) := h.withFlags.modCell.fadd

theorem loadDone {b : Nat} (h : Canon d) : Canon (loadDone d b) := by
  unfold Machine.loadDone
  with_reducible_and_instances
    refine .lst h fun _ _ => ?_
    dsimp only
    refine .opt h fun _ => .ite (.ite h.fadd.modSlot h) ?_
    refine .modSlot ?_
    exact .ite (.stallCells (.foldl _ (.ite h.fadd.modSlot h) fun _ h => h.loadCell))
      (.foldl _ (.ite h.fadd.modSlot h) fun _ h => h.loadCell)

theorem shadowLoad {b : Nat} (h : Canon d) : Canon (shadowLoad d b) := by
  unfold Machine.shadowLoad
  with_reducible_and_instances exact .opt h.loadDone fun _ => h.settle.loadDone

theorem countVector {b : Nat} {x : Desc} (h : Canon d) : Canon (countVector d b x) := by
  unfold Machine.countVector
  with_reducible_and_instances
    refine .opt h fun _ => ?_
    beta_reduce
    extract_lets _ e
    have he : Canon e := .ite h.countOp h.countOp
    split
    · exact he.countOp
    · exact he.countOp
    · exact he.countOp
    · exact he

theorem vectorOp {b i : Nat} {x : Slot} {o : Desc} (h : Canon d) : ∀ p ∈ vectorOp d b i x o, Canon p.1 := by
  unfold Machine.vectorOp
  split
  · dsimp only
    exact .one h.withFlags.observe.countVector.storeBm
  · exact fun _ h => nomatch h

theorem sfuOp {b : Nat} {x : Slot} {o : Desc} (h : Canon d) : ∀ p ∈ sfuOp d b x o, Canon p.1 := by
  unfold Machine.sfuOp
  split
  · dsimp only
    split
    · exact .one h.withFlags.countOp.storeBm
    · exact .one h.withFlags.storeBm
  · exact fun _ h => nomatch h

theorem dmaStore {b dist tier a peer : Nat} {bytes : List Byte} (h : Canon d) : Canon (dmaStore d b dist tier a peer bytes) := by
  unfold Machine.dmaStore
  with_reducible_and_instances
    split
    · exact h.storeBm
    · exact .opt h fun _ => h.storeBm
    · exact h.storeObj

theorem dmaPart {b dist : Nat} {o : Desc} {n : Nat} (h : Canon d) : Canon (dmaPart d b dist o n) := by
  unfold Machine.dmaPart
  extract_lets e f
  have he : Canon e := .foldl _ h fun _ h => .ite h h.dmaStore
  have hf : Canon f := .ite he.touchRead he
  exact .ite hf.touchWrite hf

theorem dmaMove {b dist : Nat} {o : Desc} (h : Canon d) : Canon (dmaMove d b dist o) := h.dmaPart

theorem breakDma {b dist : Nat} {o : Desc} (h : Canon d) : Canon (breakDma d b dist o) := by
  unfold Machine.breakDma
  exact .foldl _ h.draw.dmaPart fun _ h => .ite h h.freeBytes.dmaStore

theorem breakDmas {b i : Nat} {x : Slot} (h : Canon d) : Canon (breakDmas d b i x) := by
  unfold Machine.breakDmas
  exact .foldl _ h fun _ h => h.breakDma

theorem cutDma {b i : Nat} {x : Slot} (h : Canon d) : Canon (cutDma d b i x) := by
  unfold Machine.cutDma
  exact .foldl _ h fun _ h => h.draw.dmaPart

theorem openStreams {b i op dist : Nat} {o : Desc} (h : Canon d) : Canon (openStreams d b i op dist o) := by
  unfold Machine.openStreams
  with_reducible_and_instances exact .ite h (.opt h fun _ => .ite h (.foldl _ h fun _ h => .ite (.upd h) h))

theorem dmaOperation {b i : Nat} {x : Slot} {o : Desc} (h : Canon d) : ∀ p ∈ dmaOperation d b i x o, Canon p.1 := by
  unfold Machine.dmaOperation
  split
  · exact .one h.openStreams.modBlock
  · exact .one h.dmaMove

theorem issueAhead {b : Nat} (h : Canon d) : Canon (dmaStep.issueAhead d b) := by
  unfold Machine.dmaStep.issueAhead
  split
  · exact h
  · exact h.openStreams.modBlock.modSlot

theorem dmaStep {b : Nat} (h : Canon d) : Canon (dmaStep d b) := by
  unfold Machine.dmaStep
  split
  · exact .ite (.runOp h h.dmaOperation) h.issueAhead
  · exact h.issueAhead



theorem dmaFinish {b : Nat} (h : Canon d) : Canon (dmaFinish d b) := by
  unfold Machine.dmaFinish
  with_reducible_and_instances
    exact .lst h fun _ _ => .opt h.modBlock fun _ => h.dmaMove.charge.fadd.modBlock.dropStream.modSlot

theorem lightOperation {add : Bool} {b i : Nat} {x : Slot} {o : Desc} (h : Canon d) :
    ∀ p ∈ lightOperation add d b i x o, Canon p.1 := by
  unfold Machine.lightOperation
  split
  · exact fun _ h => nomatch h
  · exact .one (.ite h.lightAdd h.lightSet)

/-! Functions of `Machine/PlanCore`. -/

theorem measure {register digest : Nat} (h : Canon d) : Canon (d.measure register digest) := by
  unfold Dev.measure
  exact .upd h.draw

theorem freeDigest (h : Canon d) : Canon d.freeDigest.2 := h.draw.draw.draw.draw

theorem defaultWindows {b home : Nat} (h : Canon d) : Canon (d.defaultWindows b home) := by
  unfold Dev.defaultWindows
  exact .foldl _ h fun _ h => h.setReg

theorem zeroBlock {b : Nat} (h : Canon d) : Canon (d.zeroBlock b) := ⟨Mem.wf_zero _ _ _ h.blocks, h.objects, h.spaces⟩

theorem fillBanks {b : Nat} (h : Canon d) : Canon (d.fillBanks b) := by
  unfold Dev.fillBanks
  dsimp only
  exact h.modBlock

theorem takeRole {b : Nat} (h : Canon d) : Canon (d.takeRole b) := by
  unfold Dev.takeRole
  extract_lets e x
  clear_value e x
  induction e.role with
  | active =>
    induction x.role with
    | unset => exact h.setBlock.defaultWindows
    | active => exact .ite h.setBlock.defaultWindows.zeroBlock h.setBlock
    | spare => exact h.setBlock.defaultWindows.zeroBlock
    | retired => exact h.setBlock.defaultWindows.zeroBlock.fillBanks
  | _ => exact .ite h h.setBlock

theorem takeCells {b : Nat} (h : Canon d) : Canon (d.takeCells b) := h.modBlock

theorem evictStrangers {b : Nat} (h : Canon d) : Canon (d.evictStrangers b) := by
  unfold Dev.evictStrangers
  exact .foldl _ h fun _ h => h.endCommand

theorem modSlot' {i : Nat} {f : AmendSlot → AmendSlot} (h : Canon d) : Canon (d.modSlot' i f) := by
  unfold Dev.modSlot'
  exact .upd h

theorem planError {cause sect : Nat} (h : Canon d) : Canon (d.planError cause sect) := h.setReg

theorem quiesceScope {i : Nat} {s : Scope} {on : Bool} (h : Canon d) : Canon (d.quiesceScope i s on) := by
  unfold Dev.quiesceScope
  exact .foldl _ (.foldl _ h fun _ h => h.modBlock) fun _ h => h.modKerb

theorem amendFails {i : Nat} {st : Status} {cause : Nat} (h : Canon d) : Canon (d.amendFails i st cause) := by
  unfold Dev.amendFails
  exact .finishSquare (.ite h.modSlot'.planError h.modSlot'.planError.fadd)

theorem amendDone {i : Nat} (h : Canon d) : Canon (d.amendDone i) := by
  unfold Dev.amendDone
  with_reducible_and_instances exact .opt h fun _ => h.modSlot'.fadd.measure.finishSquare

theorem swapBank {b : Nat} (h : Canon d) : Canon (d.swapBank b) := by
  unfold Dev.swapBank
  exact .ite h (.foldl _ h.setBlock.fadd fun _ h => .ite (.ite h.modSlot'.amendDone h.modSlot') h)

/-! Functions of `Machine/Indexes`. -/

theorem modVersion {ns n : Nat} {f : Version → Version} (h : Canon d) : Canon (d.modVersion ns n f) := by
  unfold Dev.modVersion
  exact .upd h

/-! Functions of `Machine/Compute`. -/

theorem enterSlot {b i : Nat} {x : Slot} (h : Canon d) : Canon (d.enterSlot b i x) := by
  unfold Dev.enterSlot
  with_reducible_and_instances
    refine .exc (fun _ => h.modBlock) fun _ => ?_
    exact .lst h.modBlock fun _ _ => .ite (.exc (fun _ => h.modBlock.endCommand) fun _ => h.modBlock.hold.modSlot) h.modBlock

theorem compute {hdr : Hdr} {g count : Nat} {t0 : Bool} {hist list scale route gather buf : Nat} (h : Canon d) :
    Canon (d.compute hdr g count t0 hist list scale route gather buf) := by
  unfold Dev.compute
  with_reducible_and_instances
    refine .opt h.refuseCompute fun _ => ?_
    exact .ite h.refuseCompute
      (.opt h.refuseCompute fun _ => .ite h.refuseCompute (.ite h.refuseCompute (.opt h fun _ => h.enterSlot)))

theorem discardAhead {b i : Nat} (h : Canon d) : Canon (d.discardAhead b i) := h.dropStreams.modBlock.modSlot

theorem startNext {b n : Nat} (h : Canon d) : Canon (d.startNext b n) := by
  induction n generalizing d with
  | zero => exact h
  | succ n ih =>
    unfold Dev.startNext
    split
    next hr => exact of_snd hr h.pickNext
    next hr =>
      have h := of_snd hr h.pickNext
      split
      · exact h
      · dsimp only
        split
        · exact ih h.endCommand
        · exact .ite (ih h.hold.modSlot) (.modBlock (.modSlot (.ite h.hold h.hold.discardAhead)))

theorem discardRead {b : Nat} {ws : List (Nat × List Byte)} (h : Canon d) : Canon (d.discardRead b ws) := by
  unfold Dev.discardRead
  exact .foldl _ h fun _ h => .ite h.discardAhead h

theorem updateScales {b : Nat} {x : Slot} (h : Canon d) : Canon (d.updateScales b x) := by
  unfold Dev.updateScales
  exact .ite h (.discardRead (.foldl _ h fun _ h => h.storeBm))

theorem finishRunning {b : Nat} (h : Canon d) : Canon (d.finishRunning b) := by
  unfold Dev.finishRunning
  with_reducible_and_instances exact .opt h fun _ => .ite h (.opt h.updateScales.endCommand fun _ => h.endCommand)

theorem boundary {b : Nat} (h : Canon d) : Canon (d.boundary b) := by
  unfold Dev.boundary
  exact .ite h.finishRunning (.ite h.finishRunning.swapBank.startNext h.finishRunning.swapBank)

theorem pairGather {b i : Nat} {x : Slot} (h : Canon d) : Canon (d.pairGather b i x) := by
  unfold Dev.pairGather
  exact .ite h.modSlot
    (.storeBm (.storeBm (.storeBm (.touchRead (.foldl _ h.modSlot fun _ h => h.storeBm.storeBm)))))

theorem writeSection {b g : Nat} {r : CheckCtx.RouteRec} {e : CheckCtx.Expert} {tokens : List Nat} (h : Canon d) :
    Canon (d.writeSection b g r e tokens) := by
  unfold Dev.writeSection
  with_reducible_and_instances
    exact .opt h fun _ => .storeBm (.foldl _ (.foldl _ h fun _ h => h.storeBm) fun _ h => h.storeBm)

theorem writeLog {b : Nat} {r : CheckCtx.RouteRec} {cs : List Choice} (h : Canon d) : Canon (d.writeLog b r cs) := by
  unfold Dev.writeLog
  exact .foldl _ h fun _ h => h.storeBm

theorem expertDispatch {b i : Nat} {x : Slot} (h : Canon d) : Canon (d.expertDispatch b i x) := by
  unfold Dev.expertDispatch
  exact .ite h.modSlot
    (.modSlot (.fadd (.charge (.fadd (.fadd (.fadd (.fadd (.storeBm (.storeBm (.storeBm (.storeBm (.foldl _ (.foldl _
      h.modSlot.writeLog fun _ h => h.writeSection) fun _ h => h.lightAdd))))))))))))

theorem arrayStep {mode b : Nat} (h : Canon d) : Canon (arrayStep mode d b) := .runOp h h.arrayOp

theorem vectorStep {code b : Nat} (h : Canon d) : Canon (vectorStep code d b) := .runOp h h.vectorOp

/-! Functions of `Machine/Dies`. -/

theorem modBg {k : Nat} {f : BlockGroup → BlockGroup} (h : Canon d) : Canon (d.modBg k f) := by
  unfold Dev.modBg
  exact .upd h

theorem modSb {g b : Nat} {f : SuperBlock → SuperBlock} (h : Canon d) : Canon (d.modSb g b f) := by
  unfold Dev.modSb
  exact .upd h

theorem dropSpec {k : Nat} {p : CachePiece} (h : Canon d) : Canon (d.dropSpec k p) := by
  unfold Dev.dropSpec
  exact .ite h.fadd h

theorem cacheDropWhere {k : Nat} {c : CachePiece → Bool} (h : Canon d) : Canon (d.cacheDropWhere k c) := by
  unfold Dev.cacheDropWhere
  exact .foldl _ h.modKerb fun _ h => h.dropSpec



theorem cachePut {k ns piece gen : Nat} {speculative : Bool} (h : Canon d) : Canon (d.cachePut k ns piece gen speculative) := by
  unfold Dev.cachePut
  with_reducible_and_instances
    exact .lst h.cacheDropWhere.modKerb.cacheDropWhere fun _ _ => .ite
      h.cacheDropWhere.modKerb.cacheDropWhere.cacheDropWhere h.cacheDropWhere.modKerb.cacheDropWhere

theorem modDie {k j : Nat} {f : Die → Die} (h : Canon d) : Canon (d.modDie k j f) := h.modKerb

theorem suspendFor {k j : Nat} (h : Canon d) : Canon (d.suspendFor k j) := by
  unfold Dev.suspendFor
  with_reducible_and_instances exact .opt h fun _ => .ite h.modDie.fadd h

theorem issue {k j : Nat} (h : Canon d) : Canon (d.issue k j) := by
  have hs : Canon (if (d.kerb k).resetting then d else d.suspendFor k j) := .ite h h.suspendFor
  unfold Dev.issue
  dsimp only
  generalize (if (d.kerb k).resetting then d else d.suspendFor k j) = e at hs ⊢
  split
  · exact hs
  · split
    · exact hs.modDie
    · split
      · exact hs
      · split
        · exact hs
        · exact hs.modDie

theorem enqueue {k j : Nat} {o : DieOp} (h : Canon d) : Canon (d.enqueue k j o) := h.modDie.issue

theorem enqueueAt {l : UnitLoc} {o : DieOp} (h : Canon d) : Canon (d.enqueueAt l o) := h.enqueue

theorem issueAll (h : Canon d) : Canon d.issueAll := by
  unfold Dev.issueAll
  exact .foldl _ h fun _ h => .foldl _ h fun _ h => h.issue

theorem forgetReads {tag : Nat} (h : Canon d) : Canon (d.forgetReads tag) := by
  unfold Dev.forgetReads
  exact .upd h

theorem countOther {query ns piece : Nat} (h : Canon d) : Canon (d.countOther query ns piece) := by
  unfold Dev.countOther
  with_reducible_and_instances exact .opt h fun _ => h.fadd



theorem needPiece {query ns piece : Nat} {high : Bool} {cls : DieClass} {p : DiePurpose} (h : Canon d) :
    Canon (d.needPiece query ns piece high cls p).2 := h.of_keeps (d.needPiece_keeps query ns piece high cls p)

theorem needAll {dist : Option Nat} {cls : DieClass} {ps : List (Nat × Nat × Nat × DiePurpose)} (h : Canon d) :
    Canon (d.needAll dist cls ps).2 := by
  unfold Dev.needAll
  with_reducible_and_instances
    split
    next _ _ r hr =>
      have h := of_snd hr (.foldlSnd _ h fun _ h => h.countOther.needPiece)
      exact .optSnd h fun _ => h.fadd

/-! Functions of `Machine/Media`. -/

theorem modMedia {f : MediaState → MediaState} (h : Canon d) : Canon (d.modMedia f) := by
  unfold Dev.modMedia
  exact .upd h

theorem openIn {g b : Nat} {state : SbState} (h : Canon d) : Canon (d.openIn g b state) := by
  unfold Dev.openIn
  dsimp only
  exact h.modSb

theorem ftlError {bit : Nat} (h : Canon d) : Canon (d.ftlError bit) := h.setReg

theorem checkFull {g : Nat} (h : Canon d) : Canon (d.checkFull g) := by
  unfold Dev.checkFull
  exact .ite (.ite h h.fon.ftlError) (.ite h.foff h)

theorem openTwice {j : Nat} {state : SbState} (h : Canon d) : Canon (d.openTwice j state) := by
  unfold Dev.openTwice
  with_reducible_and_instances exact .foldl _ h fun _ h => .opt h fun _ => h.openIn.modSb.checkFull

theorem openPair {j : Nat} (h : Canon d) : Canon (d.openPair j) := h.modMedia.openTwice

theorem programJournal (h : Canon d) : Canon d.programJournal := by
  unfold Dev.programJournal
  exact .ite h.modMedia.openPair h.modMedia

theorem journalPut {r : JournalRec} (h : Canon d) : Canon (d.journalPut r) := by
  unfold Dev.journalPut
  exact .ite h.modMedia.programJournal h.modMedia



theorem addProgram {p : Program} {cls : DieClass} (h : Canon d) : Canon (d.addProgram p cls) := h.modMedia.enqueue



theorem placeUnit {u : ProgUnit} (h : Canon d) : ∀ e ∈ d.placeUnit u, Canon e := fun _ he => h.of_media (Dev.placeUnit_frame he)

theorem drainUnplaced (h : Canon d) : Canon d.drainUnplaced := by
  unfold Dev.drainUnplaced
  refine .foldl _ h.modMedia fun u h => ?_
  split
  next hr => exact h.placeUnit _ hr
  next => exact h.modMedia

theorem settleAcks (h : Canon d) : Canon d.settleAcks := by
  unfold Dev.settleAcks
  refine .foldl _ h.modMedia fun a h => ?_
  have hn : Canon (Dev.finish _ a.queue a.cid .success) := h.finish
  have hp : Canon (Dev.finishPort _ a.queue a.cid .success) := (h.letGo (held := a.held) (queue := a.queue) (cid := a.cid)).finishPort
  beta_reduce
  induction a.command with
  | write | writeZeroes | deallocate => exact hn
  | _ => exact hp

theorem putUnits {us : List ProgUnit} (h : Canon d) : Canon (d.putUnits us) := h.modMedia.drainUnplaced

theorem writeNs {owner : Option (Nat × Nat)} {ns o : Nat} {bytes : List Byte} (h : Canon d) :
    Canon (d.writeNs owner ns o bytes) := by
  unfold Dev.writeNs
  exact .putUnits (.ite h.storeNs.fadd h.storeNs)

theorem readPieces {q cid ns : Nat} {ps : List Nat} (h : Canon d) : Canon (d.readPieces q cid ns ps).2 := h.needAll

theorem invalidate {ns first count : Nat} (h : Canon d) : Canon (d.invalidate ns first count) := by
  unfold Dev.invalidate
  exact .foldl _ h fun _ h => h.cacheDropWhere

theorem unmap {ns u : Nat} (h : Canon d) : Canon (d.unmap ns u) := by
  unfold Dev.unmap
  exact .ite h h.journalPut.modMedia

theorem discard {owner : Option (Nat × Nat)} {ns first count : Nat} (h : Canon d) : Canon (d.discard owner ns first count) := by
  unfold Dev.discard
  exact .putUnits (.invalidate (.foldl _ h.zeroSpaces fun _ h => h.unmap))

theorem dropBuffered {ns first count : Nat} (h : Canon d) : Canon (d.dropBuffered ns first count) := by
  unfold Dev.dropBuffered
  dsimp only
  exact h.modMedia

theorem secureStart {q cid ns : Nat} {ranges : List (Nat × Nat)} (h : Canon d) : Canon (d.secureStart q cid ns ranges) := by
  unfold Dev.secureStart
  exact .modMedia (.foldl _ h fun _ h => h.dropBuffered.discard)

theorem relocate {ns u : Nat} {cls : DieClass} (h : Canon d) : Canon (d.relocate ns u cls) := by
  unfold Dev.relocate
  with_reducible_and_instances exact .opt h fun _ => .ite h.putUnits h.enqueueAt

theorem startErase {v : Victim} (h : Canon d) : Canon (d.startErase v) := by
  unfold Dev.startErase
  exact .foldl _ h.modMedia fun _ h => h.modBg.journalPut.enqueue

theorem driveVictims (h : Canon d) : Canon d.driveVictims := by
  unfold Dev.driveVictims
  exact .foldl _ h fun _ h => .ite h.startErase h

theorem closeSb {g b : Nat} (h : Canon d) : Canon (d.closeSb g b) := by
  unfold Dev.closeSb
  exact .ite h h.modSb.modMedia

theorem addVictim {g b : Nat} {cls : DieClass} {erasures : List Nat} (h : Canon d) : Canon (d.addVictim g b cls erasures) := by
  unfold Dev.addVictim
  with_reducible_and_instances
    exact .opt (.driveVictims (.drainUnplaced (.foldl _ h.closeSb.modMedia fun _ h => h.relocate))) fun _ => h.modMedia

theorem erasureCheck {i : Nat} (h : Canon d) : Canon (d.erasureCheck i) := by
  unfold Dev.erasureCheck
  with_reducible_and_instances refine .opt h fun x => .ite ?_ h
  beta_reduce
  extract_lets e f st
  have hf : Canon f := .ite h.journalPut.modMedia.fadd.ftlError h.journalPut.modMedia
  have hn : Canon (f.finish x.queue x.cid st) := hf.finish
  have hp : Canon (f.finishPort x.queue x.cid st) := hf.finishPort
  refine .ite hf ?_
  clear_value f st
  induction f.inflightOf _ _ with
  | none => exact hn
  | some y =>
    induction y with
    | mk _ _ c =>
      induction c with
      | delete => exact hp
      | _ => exact hn

theorem eraseCopies {i : Nat} {e : Erasure} (h : Canon d) : Canon (d.eraseCopies i e) := by
  unfold Dev.eraseCopies
  exact .erasureCheck (.foldl _ (.foldl _ h.journalPut.modMedia fun _ h => h.draw.logFault) fun _ h => h.addVictim)

theorem extendErasures {u : ProgUnit} (h : Canon d) : Canon (d.extendErasures u) := by
  unfold Dev.extendErasures
  exact .foldl _ h fun _ h => .ite h h.modMedia.addVictim

theorem checkErasures (h : Canon d) : Canon d.checkErasures := by
  unfold Dev.checkErasures
  exact .foldl _ h fun _ h => h.erasureCheck

theorem freeSb {v : Victim} (h : Canon d) : Canon (d.freeSb v) := by
  unfold Dev.freeSb
  exact .settleAcks (.drainUnplaced (.checkFull (.foldl _ (.ite h.modSb.modMedia.fadd (.ite h.modSb.modMedia.fadd
    h.modSb.modMedia)) fun _ h => h.modMedia.erasureCheck)))

theorem scheduleRewrite {die b : Nat} {disturb : Bool} (h : Canon d) : Canon (d.scheduleRewrite die b disturb) := by
  unfold Dev.scheduleRewrite
  exact .ite h (.foldl _ h.modMedia.fadd.modSb fun _ h => h.relocate)

theorem dropDieWork {die : Nat} (h : Canon d) : Canon (d.dropDieWork die) := by
  unfold Dev.dropDieWork
  exact .drainUnplaced (.foldl _ h.modDie.modMedia fun _ h => .ite h h.freeSb)

theorem retireDie {die : Nat} (h : Canon d) : Canon (d.retireDie die) := by
  unfold Dev.retireDie
  exact .ite h
    (.checkFull (.foldl _ (.foldl _ (.dropDieWork (.foldl _ h.modMedia.setReg.ftlError.logFault.asyncAll fun _ h =>
      h.closeSb.modSb)) fun _ h => h.relocate) fun _ h => .foldl _ h fun _ h => h.scheduleRewrite))

theorem badCheck {die : Nat} (h : Canon d) : Canon (d.badCheck die) := by
  unfold Dev.badCheck
  exact .ite h.retireDie h

theorem unitProgrammed {u : ProgUnit} (h : Canon d) : Canon (d.unitProgrammed u) := by
  unfold Dev.unitProgrammed
  with_reducible_and_instances
    exact .opt (.ite h.journalPut.modMedia h) fun _ => .upd (.ite h.fadd.journalPut.modMedia h.fadd.extendErasures)

theorem trimClean (h : Canon d) : Canon d.trimClean := by
  unfold Dev.trimClean
  exact .ite h h.modMedia

theorem driveParity {g b : Nat} {cls : DieClass} (h : Canon d) : Canon (d.driveParity g b cls) := by
  unfold Dev.driveParity
  with_reducible_and_instances
    refine .opt h fun _ => ?_
    beta_reduce
    extract_lets _ e f
    have he : Canon e := .foldl _ h fun _ h => h.addProgram
    exact .ite he.modSb.modSb he.modSb

theorem rebuildCheck (h : Canon d) : Canon d.rebuildCheck := h.modMedia

theorem programmed {p : Program} {cls : DieClass} (h : Canon d) : Canon (d.programmed p cls) := by
  unfold Dev.programmed
  extract_lets e _ f g k
  have hg : Canon g := .foldl _ h.modMedia.modSb fun _ h => h.unitProgrammed
  exact .ite hg.driveParity.drainUnplaced.rebuildCheck.trimClean.driveVictims.settleAcks.checkErasures
    hg.driveParity.drainUnplaced.rebuildCheck.trimClean.driveVictims.settleAcks

theorem nandProgramDone {k j : Nat} {verified : Bool} (h : Canon d) : Canon (nandProgramDone d k j verified) := by
  unfold Machine.nandProgramDone
  with_reducible_and_instances
    exact .opt h fun _ => .ite h (.issue (.opt h.modDie.fadd fun _ => .ite h.modDie.fadd.programmed h.modDie.fadd.modDie))

theorem nandEraseDone {k j : Nat} {verified : Bool} (h : Canon d) : Canon (nandEraseDone d k j verified) := by
  unfold Machine.nandEraseDone
  with_reducible_and_instances
    refine .opt h fun _ => .ite h ?_
    beta_reduce
    extract_lets e _ f g m _ n
    have hg : Canon g := .ite h.modDie.modBg.cacheDropWhere.journalPut h.modDie.modBg.badCheck
    have hn : Canon n := .opt hg.modMedia fun _ => .ite hg.modMedia.freeSb hg.modMedia
    exact hn.issue

theorem mutableRowTimeout {g : Nat} (h : Canon d) : Canon (mutableRowTimeout d g) := by
  unfold Machine.mutableRowTimeout
  exact .foldl _ h fun _ h => .foldl _ h fun _ h => .fset (.modMedia (.modSb (.foldl _ (.ite h h.modMedia.addProgram)
    fun _ h => h.addProgram)))

theorem reclaimVictim {g profile : Nat} (h : Canon d) : Canon (reclaimVictim d g profile) := by
  unfold Machine.reclaimVictim
  with_reducible_and_instances exact .ite h (.opt h fun _ => h.addVictim)

theorem journalCheckpoint (h : Canon d) : Canon (journalCheckpoint d) := by
  unfold Machine.journalCheckpoint
  exact .ite h (.foldl _ h.programJournal.modMedia.openTwice.fadd fun _ h => h.addVictim)

theorem secureDrained {i : Nat} (h : Canon d) : Canon (secureDrained d i) := by
  unfold Machine.secureDrained
  with_reducible_and_instances exact .opt h fun _ => .ite h h.eraseCopies

/-! Functions of `Machine/Services`. -/

theorem modQuery {i : Nat} {f : Query → Query} (h : Canon d) : Canon (d.modQuery i f) := by
  unfold Dev.modQuery
  exact .upd h

theorem mark {i stage : Nat} (h : Canon d) : Canon (d.mark i stage) := h.modQuery

theorem countPort {port dist : Nat} {out : Bool} {n : Nat} (h : Canon d) : Canon (d.countPort port dist out n) := by
  unfold Dev.countPort
  split
  · exact h.fadd
  · exact h.fadd
  · exact h.fadd
  · exact h.fadd

theorem putResult {q : Query} {o : Nat} {bytes : List Byte} (h : Canon d) : Canon (d.putResult q o bytes) := by
  unfold Dev.putResult
  exact .ite h h.emit.countPort

theorem writeFinal {i : Nat} (h : Canon d) : Canon (d.writeFinal i) := by
  unfold Dev.writeFinal
  with_reducible_and_instances
    exact .opt h fun _ => .modQuery (.putResult (.foldl _ h.putResult.putResult fun _ h => .ite h h.putResult))

theorem finalRecord {i : Nat} (h : Canon d) : Canon (d.finalRecord i) := by
  unfold Dev.finalRecord
  with_reducible_and_instances exact .opt h fun _ => .ite h.modQuery h.writeFinal

theorem provisionalRecord {i : Nat} (h : Canon d) : Canon (d.provisionalRecord i) := by
  unfold Dev.provisionalRecord
  with_reducible_and_instances exact .opt h fun _ => .ite h (.ite h h.putResult.putResult.modQuery)

theorem retireSpace {v : Version} (h : Canon d) : Canon (d.retireSpace v) := by
  unfold Dev.retireSpace
  exact .ite (.foldl _ h fun _ h => .ite h h.discard)
    (.foldl _ h fun _ h => .ite h h.discard.discard.discard.discard)

theorem retireIdle (h : Canon d) : Canon d.retireIdle := by
  unfold Dev.retireIdle
  exact .foldl _ (.upd h) fun _ h => h.retireSpace

theorem forget {qs : List Nat} (h : Canon d) : Canon (d.forget qs) := by
  unfold Dev.forget
  exact .driveVictims (.upd h)

theorem queryRecord {q : Query} (h : Canon d) : Canon (d.queryRecord q) := by
  unfold Dev.queryRecord
  dsimp only
  exact h.traceEvent

theorem settleQuery {queue cid : Nat} (h : Canon d) : Canon (d.settleQuery queue cid) := by
  unfold Dev.settleQuery
  exact .ite h.forget.retireIdle
    (.finishPort (.retireIdle (.forget (.upd (.foldl _ h.forget.retireIdle fun _ h => h.queryRecord)))))

theorem dropQuery {i : Nat} (h : Canon d) : Canon (d.dropQuery i) := by
  unfold Dev.dropQuery
  exact .upd h

theorem failQuery {i : Nat} {st : Status} {header : Bool} (h : Canon d) : Canon (d.failQuery i st header) := by
  unfold Dev.failQuery
  with_reducible_and_instances
    exact .opt h fun _ => .ite h (.settleQuery (.modQuery (.ite h.dropQuery.putResult h.dropQuery)))

theorem startGather {b i : Nat} {x : Slot} (h : Canon d) : Canon (d.startGather b i x) := by
  unfold Dev.startGather
  dsimp only
  exact .ite h.needAll.pairGather h.needAll.modSlot

theorem gatherRead {b seq : Nat} {bad : Bool} (h : Canon d) : Canon (d.gatherRead b seq bad) := by
  unfold Dev.gatherRead
  with_reducible_and_instances exact .opt h fun _ => .opt h fun _ => .ite h (.ite h.modSlot (.ite h.modSlot h.pairGather))

/-! Functions of `Machine/Kerbs`. -/

theorem modQb {k id : Nat} {f : QBlock → QBlock} (h : Canon d) : Canon (d.modQb k id f) := h.modKerb

theorem addQb {k : Nat} {b : QBlock} (h : Canon d) : Canon (d.addQb k b) := by
  unfold Dev.addQb
  exact .upd h.modKerb

theorem countQ {q : Nat} {f : QCounts → QCounts} (h : Canon d) : Canon (d.countQ q f) := h.modQuery

theorem chargeKerb {k : Nat} {b : QBlock} {n : Nat} (h : Canon d) : Canon (d.chargeKerb k b n) := by
  unfold Dev.chargeKerb
  exact .foldl _ h fun _ h => h.addBasis.fadd

theorem needPieces {k : Nat} {b : QBlock} {ps : List (Nat × List Nat)} {high : Bool} {page : Nat × Fld} {count : Nat → QCounts → QCounts} {purpose : Nat → DiePurpose} (h : Canon d) :
    Canon (d.needPieces k b ps high page count purpose).2 := by
  unfold Dev.needPieces
  exact .foldl _ (.foldlSnd _ (.fadd (.foldl _ h fun _ h => .foldl _ h fun _ h => .ite h.countQ h)) fun _ h => h.needPiece)
    fun _ h => h.addBasis.fadd

theorem startHead {k : Nat} {b : QBlock} {v : Version} (h : Canon d) : Canon (d.startHead k b v) := by
  unfold Dev.startHead
  dsimp only
  exact h.needPieces.touchRead.modQb

theorem readHigh {k : Nat} {b : QBlock} {v : Version} {s : Nat} (h : Canon d) : Canon (d.readHigh k b v s).2 := by
  unfold Dev.readHigh
  exact h.needPieces

theorem compareHigh {k : Nat} {b : QBlock} {v : Version} {s : Nat} (h : Canon d) : Canon (d.compareHigh k b v s).2 := by
  unfold Dev.compareHigh
  refine .foldlSnd _ h fun q h => ?_
  dsimp only
  split
  · exact h
  · dsimp only
    exact h.fadd.fadd.countQ

theorem chargeHigh {k : Nat} {b : QBlock} {v : Version} {s : Nat} (h : Canon d) : Canon (d.chargeHigh k b v s) := h.chargeKerb

theorem dropGone {k id : Nat} (h : Canon d) : Canon (d.dropGone k id) := h.modQb

theorem startStripe {k id : Nat} {v : Version} (h : Canon d) : Canon (d.startStripe k id v) := by
  unfold Dev.startStripe
  have h := h.dropGone (k := k) (id := id)
  with_reducible_and_instances refine .opt h fun b => ?_
  beta_reduce
  induction b.stripes with
  | nil => exact h.modQb
  | cons s _ =>
    induction b.ahead with
    | none => exact .ite h.modQb h.readHigh.modQb
    | some n =>
      induction n with
      | zero => exact h.modQb
      | succ => exact h.modQb

theorem nextStripe {k id : Nat} {v : Version} (h : Canon d) : Canon (d.nextStripe k id v) := h.modQb.startStripe

theorem headStep {k : Nat} {b : QBlock} {v : Version} (h : Canon d) : Canon (d.headStep k b v) := by
  unfold Dev.headStep
  dsimp only
  refine .foldl _ (.modQb ?_) fun _ h => h.failQuery
  split
  · exact h
  · exact h.logError

theorem beginStripes {k : Nat} {b : QBlock} {v : Version} (h : Canon d) : Canon (d.beginStripes k b v) := h.modQb.startStripe

theorem highStep {k : Nat} {b : QBlock} {v : Version} {s : Nat} (h : Canon d) :
    Canon (d.highStep k b v s) := h.chargeHigh.compareHigh.modQb

theorem aheadStep {k id : Nat} (h : Canon d) : Canon (d.aheadStep k id) := by
  unfold Dev.aheadStep
  with_reducible_and_instances
    refine .opt h fun _ => ?_
    beta_reduce
    split
    · exact h.chargeHigh.compareHigh.modQb
    · exact h

theorem readAhead {k : Nat} {b : QBlock} {v : Version} (h : Canon d) : Canon (d.readAhead k b v) := by
  unfold Dev.readAhead
  split
  · exact h.readHigh.modQb.aheadStep
  · exact h

theorem passedStep {k : Nat} {b : QBlock} {v : Version} {s : Nat} (h : Canon d) : Canon (d.passedStep k b v s) := by
  unfold Dev.passedStep
  dsimp only
  exact .ite h.readAhead.nextStripe h.readAhead.needPieces.modQb

theorem sideStep {k : Nat} {b : QBlock} {v : Version} {s : Nat} (h : Canon d) : Canon (d.sideStep k b v s) := by
  unfold Dev.sideStep
  dsimp only
  generalize hr : b.queries.foldl _ ([], d) = r
  have h : Canon r.2 := hr ▸ .foldlSnd _ h fun q h => by
    split
    · exact h
    · dsimp only
      exact h.fadd.countQ
  exact .ite h.modQb.nextStripe h.modQb.needPieces.modQb

theorem lowStep {k : Nat} {b : QBlock} {v : Version} {s : Nat} (h : Canon d) : Canon (d.lowStep k b v s) := by
  unfold Dev.lowStep
  with_reducible_and_instances
    exact .nextStripe (.fadd (.draw (.chargeKerb (.fadd (.foldl _ h fun _ h => .opt h fun _ => h.modQuery)))))

theorem wantRecords {k : Nat} {b : QBlock} {q : Query} {v : Version} {p : Dev.Part} {ids : List Nat} (h : Canon d) :
    Canon (d.wantRecords k b q v p ids) := by
  unfold Dev.wantRecords
  dsimp only
  exact .modQb (.needPieces (.foldl _ h fun _ h => h.draw.logError))

theorem startWalk {k : Nat} {b : QBlock} {q : Query} {v : Version} (h : Canon d) : Canon (d.startWalk k b q v) := by
  unfold Dev.startWalk
  with_reducible_and_instances exact .opt h.modQb.wantRecords fun _ => h.modQb.wantRecords

theorem prefetch {k : Nat} {q : Query} {v : Version} {p : Dev.Part} {w : Walk} (h : Canon d) : Canon (d.prefetch k q v p w) := by
  unfold Dev.prefetch
  with_reducible_and_instances exact .foldl _ h fun _ h => .opt h fun _ => .ite h h.fadd.enqueueAt

theorem walkStep {k : Nat} {b : QBlock} {q : Query} {qq : QbQuery} {v : Version} (h : Canon d) :
    Canon (d.walkStep k b q qq v) := by
  unfold Dev.walkStep
  exact .ite h.fadd.chargeKerb.modVersion.modQuery.modQb.fadd.countQ.modQuery.modQb
    h.fadd.chargeKerb.modVersion.modQuery.modQb.wantRecords.prefetch

theorem qbStep {k id : Nat} (h : Canon d) : Canon (d.qbStep k id) := by
  unfold Dev.qbStep
  with_reducible_and_instances
    refine .opt h fun x1 => .opt h.modQb fun _ => ?_
    beta_reduce
    induction QBlock.phase x1 with
    | head => exact h.headStep
    | ready => exact .ite h.beginStripes h
    | high =>
        beta_reduce
        induction QBlock.stripes x1 with
        | nil => exact h.modQb
        | cons => exact h.highStep
    | passed =>
        beta_reduce
        induction QBlock.stripes x1 with
        | nil => exact h.modQb
        | cons => exact h.passedStep
    | side =>
        beta_reduce
        induction QBlock.stripes x1 with
        | nil => exact h.modQb
        | cons => exact h.sideStep
    | low =>
        beta_reduce
        induction QBlock.stripes x1 with
        | nil => exact h.modQb
        | cons => exact h.lowStep
    | seeds | level =>
        beta_reduce
        induction QBlock.stripes x1 with
        | nil | cons =>
            beta_reduce
            induction QBlock.queries x1 with
            | nil => exact h.modQb
            | cons => exact .opt h.modQb fun _ => .ite h.modQb h.walkStep
    | done => exact h.modQb

theorem qbRun {k id n : Nat} (h : Canon d) : Canon (d.qbRun k id n) := by
  induction n generalizing d with
  | zero => exact h
  | succ n ih =>
    unfold Dev.qbRun
    split
    · exact h
    · exact .ite h (ih h.qbStep)

theorem clearQbs {k : Nat} (h : Canon d) : Canon (d.clearQbs k) := h.modKerb

theorem sendListBlock {v : Version} {l : Nat} {qs : List Nat} {sweep : Bool} {turn : Nat} (h : Canon d) :
    Canon (d.sendListBlock v l qs sweep turn) := by
  unfold Dev.sendListBlock
  with_reducible_and_instances
    refine .lst h fun _ _ => .foldl _ h fun x h => ?_
    dsimp only
    exact .ite (.foldl _ h fun _ h => h.failQuery)
      (.ite (.foldl _ h fun _ h => h.modQuery) (.addQb (.foldl _ h fun _ h => h.modQuery)))

theorem sendList {v : Version} {l : Nat} {qs : List Nat} (h : Canon d) : Canon (d.sendList v l qs) := by
  unfold Dev.sendList
  exact .foldl _ h fun _ h => h.sendListBlock

theorem sendWalk {v : Version} {q : Query} {i : Nat} {beams : List Nat} (h : Canon d) :
    Canon (d.sendWalk v q i beams) := h.modQuery.touchRead.touchRead.addQb

theorem sendGraph {v : Version} {q : Query} (h : Canon d) : Canon (d.sendGraph v q) := by
  unfold Dev.sendGraph
  exact .foldl _ (.foldl _ h fun _ h => h.touchRead) fun _ h => .ite h (.ite h.failQuery h.sendWalk)

theorem passNext {ns n : Nat} (h : Canon d) : Canon (d.passNext ns n) := by
  induction n generalizing d with
  | zero => exact h
  | succ n ih =>
    unfold Dev.passNext
    split
    · exact h
    · dsimp only
      split
      · exact h
      · split
        · exact h
        · split
          · exact ih (.upd h)
          · split
            · exact ih (.upd h)
            · exact ih (.upd h.sendListBlock)

theorem passOn {ns n : Nat} (h : Canon d) : Canon (d.passOn ns n) := by
  induction n generalizing d with
  | zero => exact h
  | succ n ih =>
    have hp : Canon (((List.range 48).foldl (fun d k =>
        if ((d.kerb k).qblocks.any fun b => b.sweep && b.ns = ns) then d.clearQbs k else d) d).passNext ns 4096) :=
      .passNext (.foldl _ h fun _ h => .ite h.clearQbs h)
    unfold Dev.passOn
    exact .ite hp (ih (.foldl _ hp fun _ h => h.qbRun))

theorem afterKerb {k : Nat} (h : Canon d) : Canon (d.afterKerb k) := by
  unfold Dev.afterKerb
  exact .foldl _ h.clearQbs fun _ h => h.passOn

theorem blockRead {id : Nat} {o : DieOp} {bad : Bool} (h : Canon d) : Canon (d.blockRead id o bad) := by
  unfold Dev.blockRead
  with_reducible_and_instances
    refine .opt h fun _ => .opt h fun _ => ?_
    beta_reduce
    extract_lets e _ f
    have he : Canon e := .ite (.foldl _ h fun _ h => h.failQuery) h
    exact .ite he.modQb.aheadStep he.modQb.qbRun.afterKerb

theorem queryBlockAdmit {k id : Nat} (h : Canon d) : Canon (queryBlockAdmit d k id) := by
  unfold Machine.queryBlockAdmit
  with_reducible_and_instances
    refine .opt h fun x1 => .ite h ?_
    beta_reduce
    induction Dev.versionFor d x1 with
    | none => exact h.modQb.afterKerb
    | some =>
        beta_reduce
        induction QBlock.queries x1 with
        | nil => exact h.modQb.afterKerb
        | cons => exact .afterKerb (.qbRun (.ite (.opt h.modQb fun _ => h.modQb.startWalk) h.modQb.startHead))

theorem thetaShare {k : Nat} (h : Canon d) : Canon (thetaShare d k) := by
  unfold Machine.thetaShare
  with_reducible_and_instances exact .ite h (.foldl _ h fun _ h => .ite h (.opt h fun _ => h.modQuery.emit))

theorem thetaReturn {k i : Nat} {theta : BitVec 32} (h : Canon d) : Canon (thetaReturn d k i theta) := by
  unfold Machine.thetaReturn
  with_reducible_and_instances
    refine .opt h fun _ => ?_
    beta_reduce
    split
    · exact .ite h.modQuery h
    · exact h

/-! Functions of `Machine/Append`. -/

theorem applyTouches {ts : List Touch} (h : Canon d) : Canon (d.applyTouches ts) := by
  unfold Dev.applyTouches
  exact .foldl _ h fun _ h => .ite h.touchWrite h.touchRead

theorem staged (h : Canon d) : Canon d.staged.dev := by
  refine .foldl _ h fun c h => ?_
  split
  · exact h.storeNs
  · exact h

section Staged
variable {s t : Staged}

theorem put {ns o : Nat} {bytes : List Byte} (h : Canon s.dev) : Canon (s.put ns o bytes).dev := h.storeNs

theorem putObj {object offset : Nat} {bytes : List Byte} (h : Canon s.dev) : Canon (s.putObj object offset bytes).dev := h.storeObj

theorem flushStripe {v : Version} {l : ListHead} {st obj base : Nat} (h : Canon s.dev) : Canon (s.flushStripe v l st obj base).dev :=
  h.storeNs.storeNs.storeNs

theorem appendList {v : Version} {l : Nat} {r : Rec} {u : List Nat} {staging : Option Nat} (h : Canon s.dev)
    (he : appendList s v l r u staging = .ok t) : Canon t.dev := by
  unfold Machine.appendList at he
  dsimp only at he
  split at he
  · cases he
  · split at he
    · cases he
    · cases he
      refine put ?_
      split
      · exact put (put (put h))
      · split
        · exact putObj (putObj (putObj h))
        · exact flushStripe (putObj (putObj (putObj h)))

theorem insertNode {v : Version} {r : Rec} {vec : List Datum} {u : List Nat} {w : Nat} (h : Canon s.dev) :
    Canon (insertNode s v r vec u w).dev := by
  unfold Machine.insertNode
  split
  · exact h
  · refine foldl_keeps (fun (s : Staged) => Canon s.dev) _ _ _ (put h) fun s b h => ?_
    split
    · exact put h
    · exact h

end Staged

theorem readBack {v : Version} {l dist obj : Nat} (h : Canon d) : Canon (readBack d v l dist obj) := by
  unfold Machine.readBack
  exact .ite h h.storeObj.storeObj.storeObj.touchWrite

theorem defer {cs : List Deferred} (h : Canon d) : Canon (d.defer cs) := by
  unfold Dev.defer
  exact .upd h

theorem deferWrites {owner : Option (Nat × Nat)} {ws : List (Nat × Nat × List Byte)} (h : Canon d) :
    Canon (d.deferWrites owner ws) := h.defer

theorem countWrites {dist : Nat} {ws : List (Nat × Nat × List Byte)} (h : Canon d) : Canon (d.countWrites dist ws) := h.fadd

theorem writeNow {owner : Option (Nat × Nat)} {ws : List (Nat × Nat × List Byte)} (h : Canon d) :
    Canon (d.writeNow owner ws) := by
  unfold Dev.writeNow
  exact .foldl _ h fun _ h => h.writeNs

theorem keepEarlier {ns o n : Nat} (h : Canon d) : Canon (d.keepEarlier ns o n) := by
  unfold Dev.keepEarlier
  exact .ite h (.foldl _ h fun _ h => .upd h)

theorem applyRewrite {owner : Option (Nat × Nat)} {ns o : Nat} {bytes : List Byte} (h : Canon d) :
    Canon (d.applyRewrite owner ns o bytes) := h.keepEarlier.writeNs

theorem changeId {ns id : Nat} {f : IdState → IdState} (h : Canon d) : Canon (d.changeId ns id f) := by
  unfold Dev.changeId
  exact .setId (.ite h (.upd h))

/-! Functions of `Machine/IndexMaint`. -/

theorem batchBase {b dist count list : Nat} (h : Canon d) : Canon (d.batchBase b dist count list).2 := by
  unfold Dev.batchBase
  with_reducible_and_instances exact .excSnd (fun _ => h) fun _ => h.draw

theorem modJob {i : Nat} {f : Job → Job} (h : Canon d) : Canon (d.modJob i f) := by
  unfold Dev.modJob
  exact .upd h

theorem writeJob {i : Nat} (h : Canon d) : Canon (d.writeJob i) := by
  unfold Dev.writeJob
  with_reducible_and_instances exact .opt h fun _ => h.storeObj.touchWrite

theorem setJob {i : Nat} {f : Job → Job} (h : Canon d) : Canon (d.setJob i f) := h.modJob.writeJob

theorem createCmd {hdr : Hdr} {ns : Nat} {b : List Byte} (h : Canon d) : Canon (d.createCmd hdr ns b) := by
  unfold Dev.createCmd
  with_reducible_and_instances exact .opt h.finishPort fun _ => .exc (fun _ => h.finishPort) fun _ => .finishPort (.upd h)

theorem sealCmd {hdr : Hdr} {ns n : Nat} (h : Canon d) : Canon (d.sealCmd hdr ns n) := by
  unfold Dev.sealCmd
  dsimp only
  induction Dev.districtOf _ _ with
  | none => exact h.finishPort
  | some =>
      beta_reduce
      induction Dev.versionOf d ns n with
      | none => exact h.finishPort
      | some => exact .ite h.finishPort (.ite h.finishPort (.ite h.finishPort h.modVersion.finishPort))

theorem switchCmd {hdr : Hdr} {ns n beat : Nat} (h : Canon d) : Canon (d.switchCmd hdr ns n beat) := by
  unfold Dev.switchCmd
  dsimp only
  induction Dev.districtOf _ _ with
  | none => exact h.finishPort
  | some =>
      beta_reduce
      induction Dev.versionOf d ns n with
      | none => exact h.finishPort
      | some => exact .ite h.finishPort h.defer

theorem switchNow {ns n queue cid : Nat} (h : Canon d) : Canon (d.switchNow ns n queue cid) := by
  unfold Dev.switchNow
  with_reducible_and_instances
    exact .opt h.finishPort fun _ => .ite h.finishPort (.finishPort (.foldl _ (.upd h) fun _ h => h.setJob))

theorem retireCmd {hdr : Hdr} {ns n : Nat} (h : Canon d) : Canon (d.retireCmd hdr ns n) := by
  unfold Dev.retireCmd
  dsimp only
  induction Dev.districtOf _ _ with
  | none => exact h.finishPort
  | some =>
      beta_reduce
      induction Dev.versionOf d ns n with
      | none => exact h.finishPort
      | some => exact .ite h.finishPort (.finishPort (.retireIdle (.foldl _ h.modVersion fun _ h => h.setJob)))

theorem filterLoadCmd {hdr : Hdr} {first count : Nat} {b : List Byte} (h : Canon d) :
    Canon (d.filterLoadCmd hdr first count b) := by
  unfold Dev.filterLoadCmd
  with_reducible_and_instances
    exact .opt h.finishPort fun _ => .ite h.finishPort (.ite h.finishPort (.opt h.finishPort fun _ => h.defer))

theorem repairAll {ns : Nat} (h : Canon d) : Canon (d.repairAll ns) := by
  unfold Dev.repairAll
  exact .foldl _ h fun _ h => .ite h (.defer (.foldl _ h fun _ h => h.deferWrites.modVersion))

theorem repairCmd {hdr : Hdr} {ns : Nat} (h : Canon d) : Canon (d.repairCmd hdr ns) := by
  unfold Dev.repairCmd
  induction Dev.districtOf _ _ with
  | none => exact h.finishPort
  | some =>
      beta_reduce
      induction Dev.nsDef d ns with
      | none => exact h.finishPort
      | some => exact h.repairAll.finishPort

theorem statsCmd {hdr : Hdr} {ns len : Nat} (h : Canon d) : Canon (d.statsCmd hdr ns len) := by
  unfold Dev.statsCmd
  dsimp only
  induction Dev.districtOf _ _ with
  | none => exact h.finishPort
  | some =>
      beta_reduce
      induction Dev.nsDef d ns with
      | none => exact h.finishPort
      | some => exact .ite h.finishPort h.sendHost.finishPort

theorem deleteCmd {hdr : Hdr} {ns id gen : Nat} {secure : Bool} {text lba blocks : Nat} (h : Canon d) :
    Canon (d.deleteCmd hdr ns id gen secure text lba blocks) := by
  unfold Dev.deleteCmd
  with_reducible_and_instances
    refine .opt h.finishPort fun _ => .ite h.finishPort ?_
    refine .ite h.finishPort ?_
    exact .ite h.finishPort
      (.ite h.finishPort (.ite h.finishPort (.ite h.takeEffect.defer h.takeEffect.defer)))

theorem modEncode {q cid : Nat} {f : Option IngestRun → Option IngestRun} (h : Canon d) : Canon (d.modEncode q cid f) := by
  unfold Dev.modEncode
  exact .upd h

theorem issueEncode {q cid : Nat} (h : Canon d) : Canon (d.issueEncode q cid) := by
  unfold Dev.issueEncode
  with_reducible_and_instances
    refine .opt h fun _ => .lst h fun _ _ => ?_
    split
    · exact h
    · exact .opt h.finishPort fun _ => .ite h.finishPort (.opt h fun _ => h.batchBase.modEncode.enterSlot)

theorem ingestEffect {q cid ns text : Nat} {dist : Option Nat} {es : List Dev.IngestEntry} {s : Staged}
    {ws : List (Nat × Nat × List Byte)} (h : Canon d) (hs : Canon s.dev) : Canon (d.ingestEffect q cid ns text dist es s ws) := by
  have ha := ((h.takeEffect (q := q) (cid := cid)).withObjects hs).applyTouches (ts := s.touches)
  unfold Dev.ingestEffect
  refine .defer (.deferWrites ?_)
  split
  · split
    · exact ha.setJob.countWrites
    · exact ha.countWrites
  · split
    · exact ha.setJob
    · exact ha

section Staged
variable {s t : Staged}

theorem appendTo {v : Version} {l : Nat} {x : Dev.IngestEntry} {vec : List Datum} {staging : Option Nat} (h : Canon s.dev)
    (he : Dev.appendTo s v l x vec staging = .ok t) : Canon t.dev := by
  unfold Dev.appendTo at he
  exact h.appendList he

theorem insertInto {v : Version} {x : Dev.IngestEntry} {vec : List Datum} {w : Nat} (h : Canon s.dev) :
    Canon (Dev.insertInto s v x vec w).dev := h.insertNode

theorem iteStaged {c : Prop} [Decidable c] (h : Canon s.dev) (g : Canon t.dev) : Canon (if c then s else t).dev := by
  split
  · exact h
  · exact g

theorem ingestJob {x : Dev.IngestEntry} {j : Job} {v : Version} (h : Canon s.dev) (he : Dev.ingestJob s x j v = .ok t) :
    Canon t.dev := by
  unfold Dev.ingestJob at he
  dsimp only at he
  split at he
  · cases he
    exact iteStaged (putObj (insertInto h)) (insertInto h)
  · obtain ⟨r, hr, he⟩ := ok_of_bind he
    have h : Canon r.dev := appendTo (by exact h) hr
    cases he
    exact iteStaged (putObj h) h

theorem ingestOne {ns w : Nat} {given : Bool} {x : Dev.IngestEntry} (h : Canon s.dev) (he : Dev.ingestOne s ns w given x = .ok t) :
    Canon t.dev := by
  have hins {r : Staged} {vec : Version → List Datum} (h : Canon r.dev) (o : Option Version) :
      Canon (match (generalizing := false) o with
        | some v => Dev.insertInto r v x (vec v) w
        | none => r).dev := by
    split
    · exact h.insertInto
    · exact h
  unfold Dev.ingestOne at he
  dsimp only at he
  have hp : Canon (if given = true then (x.vector, s) else Dev.nextVector s (s.dev.currentDims ns)).2.dev := by
    split <;> exact h
  generalize (if given = true then (x.vector, s) else Dev.nextVector s (s.dev.currentDims ns)) = p at he hp
  have rest {r : Staged} (h : Canon r.dev) := hins (vec := fun v => p.1.take v.params.dims) h (r.dev.currentOf ns true)
  split at he
  · obtain ⟨r, hr, he⟩ := ok_of_bind he
    have h : Canon r.dev := by
      split at hr
      · exact appendTo (by exact hp) hr
      · exact appendTo hp hr
    split at he
    · exact (rest h).ingestJob he
    · cases he
      exact rest h
  · obtain ⟨r, hr, he⟩ := ok_of_bind he
    cases hr
    split at he
    · exact (rest hp).ingestJob he
    · cases he
      exact rest hp

end Staged

theorem ingestCmd {hdr : Hdr} {ns count : Nat} {given : Bool} {service text0 : Nat} {b : List Byte} {ready : Bool} (h : Canon d) :
    Canon (d.ingestCmd hdr ns count given service text0 b ready) := by
  unfold Dev.ingestCmd
  extract_lets dist _ e out _ _ _ _ bad _ _ _ _ _ r
  clear_value dist
  have he : Canon e := by
    unfold e
    split
    · exact .ite h.countPort h
    · exact h
  have hout {st : Status} {i : Nat} : Canon (out st i) := he.finishPort
  refine .ite hout (.ite hout (.ite hout (.ite hout (.ite hout (.ite hout (.ite hout (.ite he.modEncode.issueEncode ?_)))))))
  have hr : ∀ s, r = .ok s → Canon s.dev := by
    refine foldl_keeps (fun (acc : Except (Status × Nat) Staged) => ∀ s, acc = .ok s → Canon s.dev) _ _ _ ?_ fun acc x h => ?_
    · intro s hs
      cases hs
      exact he.staged
    · intro s hs
      dsimp only at hs
      split at hs
      · cases hs
      · split at hs
        · cases hs
        next hi =>
          cases hs
          exact (h _ rfl).ingestOne hi
  clear_value e bad r
  split
  · exact hout
  · exact hout
  next s _ =>
    refine .ite hout ?_
    have hp {ps : List (Nat × Nat)} : Canon (if ready = true then (true, e) else ps.foldl (fun acc p =>
        match acc.2.readPieces hdr.queue hdr.cid p.1 [p.2] with
        | (here, d) => (acc.1 && here, d)) (true, e)).2 := .iteSnd he (.foldlSnd _ he fun _ h => by
      split
      next hp => exact of_snd hp h.readPieces)
    exact .ite hp (.ingestEffect hp (hr s rfl))

theorem driveIngest {x : Inflight} (h : Canon d) : Canon (d.driveIngest x) := by
  unfold Dev.driveIngest
  with_reducible_and_instances refine .opt h fun r => ?_
  beta_reduce
  induction r.result with
  | none => exact h.issueEncode
  | some st =>
    induction st with
    | computeAborted => exact h.modEncode.issueEncode
    | success =>
      refine .ite h.modEncode.issueEncode ?_
      extract_lets e
      have he : Canon e := .upd h.modEncode
      clear_value e
      induction x.command with
      | ingest => exact he.ingestCmd
      | _ => exact he
    | _ => exact h.finishPort

theorem driveIngests (h : Canon d) : Canon d.driveIngests := by
  unfold Dev.driveIngests
  exact .foldl _ h fun _ h => h.driveIngest

/-! Functions of `Machine/Queries`. -/

theorem trainStacks {which : Nat → Bool} (h : Canon d) : Canon (d.trainStacks which) := by
  unfold Dev.trainStacks
  exact .foldl _ h fun _ h => h.fon

theorem retrainStacks {which : Nat → Bool} (h : Canon d) : Canon (d.retrainStacks which) := by
  unfold Dev.retrainStacks
  exact .foldl _ h fun _ h => h.foff.fadd

theorem putSlots {ss : List Nat} (h : Canon d) : Canon (d.putSlots ss) := by
  unfold Dev.putSlots
  exact .ite (.upd h) (.retrainStacks (.upd h))

theorem retentionRewrites (h : Canon d) : Canon d.retentionRewrites := by
  unfold Dev.retentionRewrites
  exact .foldl _ h fun _ h => .foldl _ h fun _ h => h.scheduleRewrite

theorem slotBegins {i : Nat} (h : Canon d) : Canon (d.slotBegins i) := by
  unfold Dev.slotBegins
  with_reducible_and_instances
    exact .opt h fun _ => .ite (.retentionRewrites (.ite h.draw.trainStacks h.draw)) (.ite h.draw.trainStacks h.draw)

theorem enterSlots (h : Canon d) : Canon d.enterSlots := by
  unfold Dev.enterSlots
  exact .foldl _ h.putSlots fun _ h => h.slotBegins

theorem adoptSlots (h : Canon d) : Canon d.adoptSlots := by
  unfold Dev.adoptSlots
  with_reducible_and_instances exact .opt h fun _ => .enterSlots (.upd h)

theorem reach {ns : Nat} (h : Canon d) : Canon (d.reach ns) := by
  unfold Dev.reach
  exact .ite h (.issueAll (.ite (.adoptSlots (.upd (.upd h))) (.upd (.upd h))))

theorem acceptQuery {hdr : Hdr} {index : Nat} {raw : List Byte} (h : Canon d) : Canon (d.acceptQuery hdr index raw) := by
  unfold Dev.acceptQuery
  with_reducible_and_instances
    exact .ite (.upd h)
      (.ite (.ite (.upd h) (.putResult (.upd h))) (.exc (fun _ => .upd h) fun _ => .emit (.upd h)))

theorem queryCmd {hdr : Hdr} {count : Nat} {data : Fetch} (h : Canon d) : Canon (d.queryCmd hdr count data) := by
  unfold Dev.queryCmd
  with_reducible_and_instances
    induction data with
    | bytes =>
        exact .ite h.finishPort
          (.ite h.finishPort (.settleQuery (.foldl _ (.opt h fun _ => h.countPort) fun _ h => h.acceptQuery)))
    | unreadable => exact h.finishPort

theorem makeBatches {s : Service} {kind cascade : Nat} {e : StageEntry} {qs : List Nat} (h : Canon d) :
    Canon (d.makeBatches s kind cascade e qs) := by
  unfold Dev.makeBatches
  with_reducible_and_instances exact .opt (.foldl _ h fun _ h => .upd h) fun _ => .upd h

theorem formBatch {q : Query} (h : Canon d) : Canon (d.formBatch q) := by
  unfold Dev.formBatch
  with_reducible_and_instances exact .opt h fun _ => .ite h h.makeBatches

theorem advanceBatches (h : Canon d) : Canon d.advanceBatches := by
  unfold Dev.advanceBatches
  refine .foldl _ h fun x h => ?_
  dsimp only
  beta_reduce
  induction Batch.result _ with
  | none => exact h
  | some =>
      split
      · exact .ite h (.upd h)
      · exact .foldl _ (.upd h) fun _ h => h.failQuery
      · exact h

theorem issueBatches (h : Canon d) : Canon d.issueBatches := by
  unfold Dev.issueBatches
  with_reducible_and_instances
    refine .foldl _ h fun x h => ?_
    dsimp only
    refine .ite h ?_
    exact .opt (.foldl _ h fun _ h => h.failQuery) fun _ => .ite (.foldl _ h fun _ h => h.failQuery) (.opt h fun _ =>
      .enterSlot (.upd h.batchBase))

theorem sendReady {q : Query} (h : Canon d) : Canon (d.sendReady q) := by
  unfold Dev.sendReady
  with_reducible_and_instances
    refine .ite h (.ite (.opt h fun _ => h.modQuery.sendGraph) ?_)
    exact .ite h
      (.foldl _ (.foldl _ h fun _ h => .opt h fun _ => .foldl _ h fun _ h => h.sendList) fun _ h => h.modQuery)

theorem driveStages (h : Canon d) : Canon d.driveStages := by
  unfold Dev.driveStages
  with_reducible_and_instances
    exact .issueBatches (.foldl _ h.advanceBatches fun _ h => .opt h fun _ => h.formBatch.sendReady)

theorem resolve {i : Nat} (h : Canon d) : Canon (d.resolve i) := by
  unfold Dev.resolve
  with_reducible_and_instances
    refine .opt h fun _ => .ite h.failQuery ?_
    refine .exc (fun _ => h.modQuery.failQuery) fun _ => .exc (fun _ => h.modQuery.failQuery) fun _ => ?_
    refine .opt h.modQuery.failQuery fun _ => ?_
    exact .ite h.modQuery.modQuery.modQuery.failQuery
      (.ite h.modQuery.modQuery.modQuery.failQuery h.modQuery.modQuery.modQuery)

theorem leaveBatch {bi i : Nat} (h : Canon d) : Canon (d.leaveBatch bi i) := by
  unfold Dev.leaveBatch
  with_reducible_and_instances exact .opt (.upd h) fun _ => .ite (.upd (.upd h)) (.upd h)

theorem startStages {i : Nat} (h : Canon d) : Canon (d.startStages i) := by
  unfold Dev.startStages
  with_reducible_and_instances
    exact .opt h fun _ => .ite h (.ite (.ite h.modQuery h.modQuery) (.modQuery (.opt h fun _ => h.leaveBatch)))

theorem returnQuery {i : Nat} (h : Canon d) : Canon (d.returnQuery i) := h.finalRecord

theorem extractOrReturn {i : Nat} (h : Canon d) : Canon (d.extractOrReturn i) := by
  unfold Dev.extractOrReturn
  with_reducible_and_instances exact .opt h fun _ => .ite h.modQuery h.returnQuery

theorem rerankOr {i : Nat} (h : Canon d) : Canon (d.rerankOr i) := by
  unfold Dev.rerankOr
  with_reducible_and_instances exact .opt h fun _ => .ite h.modQuery h.extractOrReturn

theorem deliverTexts {i : Nat} (h : Canon d) : Canon (d.deliverTexts i) := by
  unfold Dev.deliverTexts
  with_reducible_and_instances exact .opt h fun _ => .foldl _ h fun _ h => .ite h (.foldl _ h fun _ h => h.draw.storeBm.fadd)

theorem fetchTexts {i : Nat} (h : Canon d) : Canon (d.fetchTexts i) := by
  unfold Dev.fetchTexts
  split
  · exact h
  · dsimp only
    exact .ite h.rerankOr (.ite h.modQuery.countQ.needAll.modQuery.deliverTexts.mark.rerankOr h.modQuery.countQ.needAll.modQuery)

theorem textRead {i : Nat} {bad : Bool} (h : Canon d) : Canon (d.textRead i bad) := by
  unfold Dev.textRead
  with_reducible_and_instances
    refine .opt h fun _ => ?_
    exact .ite h
      (.ite h.failQuery.driveStages (.ite h.modQuery.deliverTexts.mark.rerankOr.driveStages h.modQuery))

theorem merge {i : Nat} (h : Canon d) : Canon (d.merge i) := by
  unfold Dev.merge
  with_reducible_and_instances
    refine .opt h fun _ => .opt h fun _ => .ite ?_ h.modQuery.mark.modQuery.provisionalRecord.fetchTexts
    refine .ite (.opt h.modQuery.modQuery.modQuery fun _ => h.modQuery.modQuery.modQuery.sendGraph) ?_
    refine .opt h.modQuery.modQuery.modQuery fun _ => ?_
    exact .ite (.upd h.modQuery.modQuery.modQuery)
      (.modQuery (.foldl _ h.modQuery.modQuery.modQuery fun _ h => h.sendList))

theorem formPass {ns : Nat} {fresh : List Nat} (h : Canon d) : Canon (d.formPass ns fresh) := by
  unfold Dev.formPass
  exact .ite (.upd h) (.upd (.upd h))

theorem encodeAhead {s : Service} (h : Canon d) : Canon (d.encodeAhead s) := by
  unfold Dev.encodeAhead
  exact .ite h (.driveStages (.makeBatches (.foldl _ h fun _ h => h.modQuery)))

theorem gatherFill (h : Canon d) : Canon d.gatherFill := by
  unfold Dev.gatherFill
  exact .ite h (.upd h.draw.fadd)

theorem payloadFetched {i : Nat} {p : Fetch} (h : Canon d) : Canon (payloadFetched d i p) := by
  unfold Machine.payloadFetched
  with_reducible_and_instances
    refine .opt h fun _ => .ite h ?_
    beta_reduce
    induction p with
    | bytes =>
        refine .ite h.countPort.failQuery (.ite h.countPort.modQuery.failQuery ?_)
        exact .ite h.countPort.modQuery.failQuery
          (.ite h.countPort.modQuery.encodeAhead h.countPort.modQuery.startStages.driveStages)
    | unreadable => exact h.failQuery.driveStages

theorem applyChange {c : Deferred} (h : Canon d) : Canon (d.applyChange c) := by
  unfold Dev.applyChange
  with_reducible_and_instances
    induction c with
    | tomb => exact h.changeId
    | secure => exact h.keepEarlier.secureStart
    | assign | free => exact .changeId (.upd h)
    | written => exact .opt h fun _ => h.modMedia.settleAcks
    | done => exact h.finishPort
    | switch => exact .ite h.switchNow h.defer
    | filterLoad | serviceGone => exact .upd h
    | service => exact .ite (.upd h) h
    | freeNext => exact h.defer
    | rewrite => exact h.applyRewrite

theorem gatherRecord {service n early port : Nat} (h : Canon d) : Canon (d.gatherRecord service n early port) := h.traceEvent

theorem adoptGather (h : Canon d) : Canon d.adoptGather := by
  unfold Dev.adoptGather
  with_reducible_and_instances exact .opt h fun _ => .upd h

theorem adoptSweep (h : Canon d) : Canon d.adoptSweep := by
  unfold Dev.adoptSweep
  with_reducible_and_instances exact .opt h fun _ => .upd h

theorem gatherClose (h : Canon d) : Canon (gatherClose d) := by
  unfold Machine.gatherClose
  exact .gatherFill (.driveStages (.adoptGather (.upd (.foldl _ (.foldl _ (.foldl _ (.foldl _ (.foldl _ (.upd h.reach)
    fun _ h => h.applyChange) fun _ h => h.resolve.modQuery) fun _ h => h.modQuery) fun _ h => h.gatherRecord) fun _ h => h.startStages))))

theorem sweepClose (h : Canon d) : Canon (sweepClose d) := by
  unfold Machine.sweepClose
  exact .adoptSweep (.upd (.foldl _ (.foldl _ (.foldl _ (.upd h.reach) fun _ h => h.applyChange) fun _ h => h.resolve)
    fun _ h => h.formPass))

theorem passStart {ns : Nat} (h : Canon d) : Canon (passStart d ns) := by
  unfold Machine.passStart
  with_reducible_and_instances exact .ite h (.opt h fun _ => .ite h (.passNext (.upd h)))

theorem passEnd {ns : Nat} (h : Canon d) : Canon (passEnd d ns) := by
  unfold Machine.passEnd
  with_reducible_and_instances
    refine .opt h fun _ => ?_
    exact .ite h
      (.driveStages (.retireIdle (.foldl _ (.upd (.upd h.traceEvent.modVersion)) fun _ h => h.modQuery.merge)))

theorem runEnded {bi : Nat} {b : Batch} (h : Canon d) : Canon (d.runEnded bi b) := by
  unfold Dev.runEnded
  dsimp only
  refine .upd ?_
  split
  · exact h.endCommand
  · exact h

theorem compact {b : Batch} {rows : Nat} (h : Canon d) : Canon (d.compact b rows) := h.draw.charge.fadd

theorem decodeStep {bi i : Nat} {q : Query} {scores : List (BitVec 32)} (h : Canon d) : Canon (d.decodeStep bi i q scores) := by
  unfold Dev.decodeStep
  exact .ite h.modQuery.leaveBatch.mark.returnQuery.driveStages (.driveStages (.upd h.modQuery))

theorem stageOutput {bi i : Nat} {b : Batch} {q : Query} {out : StageOutput} (h : Canon d) :
    Canon (d.stageOutput bi i b q out) := by
  unfold Dev.stageOutput
  dsimp only
  induction Query.phase q with
  | waiting | encode =>
      beta_reduce
      induction out with
      | vector => exact .ite h.leaveBatch.failQuery.driveStages h.leaveBatch.mark.modQuery.driveStages
      | _ => exact h.leaveBatch.failQuery.driveStages
  | route =>
      beta_reduce
      induction out with
      | ranking => exact .driveStages (.upd h.leaveBatch.modQuery.modQuery)
      | _ => exact h.leaveBatch.failQuery.driveStages
  | rerank =>
      beta_reduce
      induction out with
      | scores =>
          exact .ite h.leaveBatch.modQuery.provisionalRecord.compact.modQuery.driveStages
            h.leaveBatch.modQuery.provisionalRecord.mark.extractOrReturn.driveStages
      | _ => exact h.leaveBatch.failQuery.driveStages
  | extract =>
      beta_reduce
      induction out with
      | step => exact .ite h.decodeStep h.leaveBatch.failQuery.driveStages
      | spans => exact .ite h.leaveBatch.failQuery.driveStages h.leaveBatch.modQuery.mark.returnQuery.driveStages
      | _ => exact h.leaveBatch.failQuery.driveStages
  | _ =>
      beta_reduce
      induction out with
      | _ => exact h.leaveBatch.failQuery.driveStages

theorem stageRunDone {i : Nat} {out : StageOutput} (h : Canon d) : Canon (stageRunDone d i out) := by
  unfold Machine.stageRunDone
  dsimp only
  split
  · refine .ite h.stageOutput ?_
    split
    · exact h.runEnded
    · split
      · exact h.runEnded
      · exact .ite h.runEnded.stageOutput h.runEnded.driveStages
      · exact h.runEnded.leaveBatch.failQuery.driveStages
  · exact h

theorem gateMerge {i : Nat} (h : Canon d) : Canon (gateMerge d i) := by
  unfold Machine.gateMerge
  with_reducible_and_instances exact .opt h fun _ => .ite h h.merge.driveStages

theorem ackQuery {q : Query} {bad : Bool} (h : Canon d) : Canon (ackQuery d q bad) := by
  unfold Machine.ackQuery
  exact .ite (.ite h.failQuery h.modQuery)
    (.ite h.modQuery (.ite h.modQuery.writeFinal (.ite h.mark.modQuery h)))

theorem writeAck {queue cid : Nat} {failed : List Nat} (h : Canon d) : Canon (writeAck d queue cid failed) := by
  unfold Machine.writeAck
  exact .driveStages (.ackEnd (.settleQuery (.foldl _ h fun _ h => h.ackQuery)))

/-! Functions of `Machine/Jobs`. -/

theorem writeTarget {i : Nat} {ws : List (Nat × Nat × List Byte)} (h : Canon d) : Canon (d.writeTarget i ws) := by
  unfold Dev.writeTarget
  exact .ite h.deferWrites h.writeNow

theorem flushStripes {j : Job} (h : Canon d) : Canon (d.flushStripes j) := by
  unfold Dev.flushStripes
  with_reducible_and_instances exact .opt h fun _ => h.writeTarget.countWrites.applyTouches

theorem checkpoint {i : Nat} (h : Canon d) : Canon (d.checkpoint i) := by
  unfold Dev.checkpoint
  with_reducible_and_instances exact .opt h fun _ => h.flushStripes.journalPut

theorem follow {i : Nat} (h : Canon d) : Canon (d.follow i) := by
  unfold Dev.follow
  with_reducible_and_instances exact .opt h fun _ => .ite h.flushStripes.setJob h

theorem jobBoundary {i : Nat} (h : Canon d) : Canon (d.jobBoundary i) := by
  unfold Dev.jobBoundary
  with_reducible_and_instances
    refine .opt h fun _ => .ite h ?_
    split
    · exact .ite h.setJob.follow h.follow
    · exact .ite h.checkpoint.setJob h
    · exact .ite h.setJob h

theorem resumeJob {i : Nat} (h : Canon d) : Canon (d.resumeJob i) := by
  unfold Dev.resumeJob
  with_reducible_and_instances
    exact .opt h fun _ => .opt h fun _ => .opt h.setJob fun _ => .foldl _ h.setJob fun _ h => .ite h h.writeNs.readBack

theorem placeJob {object : Nat} {b : List Byte} (h : Canon d) : Canon (d.placeJob object b) := by
  unfold Dev.placeJob
  exact .jobBoundary (.setJob (.ite (.setJob (.ite (.resumeJob (.upd h)) (.upd h))) (.ite (.resumeJob (.upd h)) (.upd h))))

theorem changeJob {i : Nat} {b : List Byte} (h : Canon d) : Canon (d.changeJob i b) := h.modJob.jobBoundary

theorem stopJob {i : Nat} {st : Status} (h : Canon d) : Canon (d.stopJob i st) := h.setJob

theorem repeatBatch {i : Nat} (h : Canon d) : Canon (d.repeatBatch i) := h.setJob.jobBoundary

theorem issueRun {i : Nat} {j : Job} {e : StageEntry} {next : Nat} (h : Canon d) : Canon (d.issueRun i j e next) := by
  unfold Dev.issueRun
  with_reducible_and_instances exact .opt h.stopJob fun _ => .opt h fun _ => .ite h h.modJob.enterSlot

theorem driveJobs (h : Canon d) : Canon d.driveJobs := by
  unfold Dev.driveJobs
  refine .foldl _ h.driveIngests fun x h => ?_
  split
  split
  · exact h
  · extract_lets _ e
    have he : Canon e := by
      unfold e
      split
      · exact .ite h.modJob h
      · exact .ite h.repeatBatch h
      · exact .ite h h.stopJob
      · exact h
    clear_value e
    split
    · exact he
    · refine .ite he ?_
      split
      · exact he.issueRun
      · exact he.issueRun
      · exact he

theorem passagesRead {i : Nat} (h : Canon d) : Canon (d.passagesRead i) := h.modJob.driveJobs

theorem readPassages {i : Nat} (h : Canon d) : Canon (d.readPassages i) := by
  unfold Dev.readPassages
  split
  · exact h
  · dsimp only
    exact .ite h.needAll.passagesRead h.needAll.modJob

theorem passageRead {i turn ns piece : Nat} {bad : Bool} (h : Canon d) : Canon (d.passageRead i turn ns piece bad) := by
  unfold Dev.passageRead
  with_reducible_and_instances exact .opt h fun _ => .ite h (.ite h.modJob.passagesRead h.modJob)

theorem jobBatchStart {i : Nat} (h : Canon d) : Canon (jobBatchStart d i) := by
  unfold Machine.jobBatchStart
  with_reducible_and_instances exact .opt h fun _ => .ite h (.ite h.stopJob (.readPassages (.setJob (.ite h.touchRead h))))

theorem embedOne {acc : Except Status (Staged × Nat)} {j : Job} {v : Version} {x : Nat × List Datum × Nat}
    (h : ∀ p, acc = .ok p → Canon p.1.dev) : ∀ p, Dev.embedOne acc j v x = .ok p → Canon p.1.dev := by
  intro p he
  unfold Dev.embedOne at he
  obtain ⟨⟨s, sat⟩, hs, he⟩ := ok_of_bind he
  have h : Canon s.dev := h _ hs
  dsimp only at he
  split at he
  · cases he
    exact h.insertNode
  · obtain ⟨t, ht, he⟩ := ok_of_bind he
    cases he
    exact h.appendList ht

theorem jobBatchEnd {i : Nat} {vectors : List (Nat × List (BitVec 32) × List (BitVec 32))} (h : Canon d) :
    Canon (Machine.jobBatchEnd d i vectors) := by
  unfold Machine.jobBatchEnd
  split
  · exact h
  · split
    · exact h
    · split
      · exact h.stopJob
      · dsimp only
        split
        · exact h.stopJob
        next s sat hr =>
          have hs : Canon s.dev := foldl_keeps (fun acc => ∀ p, acc = Except.ok p → Canon p.1.dev) _ _ _
            (fun p hp => by cases hp; exact h.staged) (fun acc x h => embedOne h) _ hr
          have ho := (h.withObjects hs).applyTouches (ts := s.touches)
          exact .ite h.stopJob (.driveJobs (.follow (.jobBoundary (.ite
            (.checkpoint (.setJob (.foldl _ (.countWrites (.writeTarget ho)) fun _ h => h.draw.logError)))
            (.setJob (.foldl _ (.countWrites (.writeTarget ho)) fun _ h => h.draw.logError))))))

/-! Functions of `Machine/Copies`. -/

theorem placeDone {hdr : Hdr} {held : List Nat} {st : Status} {dw0 : optParam Nat 0} (h : Canon d) :
    Canon (d.placeDone hdr held st dw0) := by
  unfold Dev.placeDone
  exact .finishPort (.letGo (.upd h))

theorem copyFails {hdr : Hdr} {i : Nat} {p : PlaceDesc} {fresh : Bool} {lets : List Nat} {st : Status} {dw0 : Nat} (h : Canon d) :
    Canon (d.copyFails hdr i p fresh lets st dw0) := by
  unfold Dev.copyFails
  with_reducible_and_instances
    exact .ite h.undefineObj.placeDone (.ite (.opt h.placeDone fun _ => .placeDone (.upd h)) h.placeDone)

theorem outLost {dist : Nat} {p : PlaceDesc} (h : Canon d) : Canon (d.outLost dist p) := by
  unfold Dev.outLost
  split
  · exact h.freeBytes.writeNs
  · exact h.undefineObj
  · exact h

theorem endCopy {x : Inflight} {hdr : Hdr} {st : Status} (h : Canon d) : Canon (d.endCopy x hdr st) := by
  unfold Dev.endCopy
  with_reducible_and_instances
    exact .opt h fun _ => .ite (.placeDone (.outLost (.modMedia (.upd h)))) (.copyFails (.modMedia (.upd h)))

/-! Functions of `Machine/Flash`. -/

theorem setSquare {s : Nat} {x : SqState} (h : Canon d) : Canon (d.setSquare s x) := by
  unfold Dev.setSquare
  exact .fset (.upd h)

theorem showFlash {s : Nat} (h : Canon d) : Canon (d.showFlash s) := h.fset.fset.fset.fset.fset.fset.fset

theorem modFlash {s : Nat} {g : CfgFlash → CfgFlash} (h : Canon d) : Canon (d.modFlash s g) := by
  unfold Dev.modFlash
  exact .showFlash (.upd h)

theorem abandonErases (h : Canon d) : Canon d.abandonErases := by
  unfold Dev.abandonErases
  exact .foldl _ h fun _ h => h.modFlash

theorem beginErase {s : Nat} {copy : Option Nat} (h : Canon d) : Canon (d.beginErase s copy) := h.modFlash.setSquare

theorem beginSectorErase {s p : Nat} (h : Canon d) : Canon (d.beginSectorErase s p) := h.modFlash.setSquare

theorem driveWrites (h : Canon d) : Canon d.driveWrites := by
  unfold Dev.driveWrites
  with_reducible_and_instances
    refine .ite h ?_
    exact .opt (.lst h fun _ _ => .opt h fun _ => h.beginErase) fun _ => .opt h.beginSectorErase fun _ => .ite h.beginErase
      h.beginSectorErase

theorem keysDone (h : Canon d) : Canon d.keysDone := by
  unfold Dev.keysDone
  with_reducible_and_instances exact .opt h fun _ => .ite h.finish (.ite h (.upd h))

theorem settleKeys {was : Bool} (h : Canon d) : Canon (d.settleKeys was) := by
  unfold Dev.settleKeys
  exact .ite h.keysDone h

theorem addWriteSet {q cid kind n : Nat} {e : WriteEffect} (h : Canon d) : Canon (d.addWriteSet q cid kind n e) := by
  unfold Dev.addWriteSet
  exact .ite h.finishSquare (.driveWrites (.upd h))

theorem killSectors {c : Sector → Bool} (h : Canon d) : Canon (d.killSectors c) := by
  unfold Dev.killSectors
  exact .foldl _ h fun _ h => h.modFlash

theorem rekindSectors {o n : Nat} (h : Canon d) : Canon (d.rekindSectors o n) := by
  unfold Dev.rekindSectors
  exact .foldl _ h fun _ h => h.modFlash

theorem serve {s : Nat} (h : Canon d) : Canon (d.serve s) := by
  unfold Dev.serve
  exact .ite h h.setSquare

theorem sqOut {s : Nat} (h : Canon d) : Canon (d.sqOut s) := by
  unfold Dev.sqOut
  exact .settleKeys (.driveWrites (.upd h.modFlash.setSquare))

theorem flashDone {s : Nat} {verified : Bool} (h : Canon d) : Canon (d.flashDone s verified) := by
  unfold Dev.flashDone
  split
  · exact h
  · split
    · exact h
    · exact .ite (.ite (.sqOut (.modFlash (.upd h.modFlash))) (.driveWrites (.serve (.modFlash (.upd h.modFlash)))))
        (.ite (.driveWrites (.serve (.modFlash (.upd h.modFlash)))) (.driveWrites (.serve (.upd (.modFlash (.upd h.modFlash))))))

theorem sectorErased {s : Nat} {verified : Bool} (h : Canon d) : Canon (d.sectorErased s verified) := h.flashDone.settleKeys

theorem appendSector {s : Nat} {k : Nat × Nat} (h : Canon d) : Canon (d.appendSector s k) := h.modFlash

theorem suspendErase {s : Nat} (h : Canon d) : Canon (d.suspendErase s) := by
  unfold Dev.suspendErase
  with_reducible_and_instances exact .opt h fun _ => .ite h h.modFlash.fadd

theorem nextKey {slot : Nat} (h : Canon d) : Canon (d.nextKey slot) := by
  unfold Dev.nextKey
  exact .measure (.upd h.freeDigest)

theorem keysIn {slots : List Nat} {object : Nat} (h : Canon d) : Canon (d.keysIn slots object) := by
  unfold Dev.keysIn
  exact .upd h.killSectors

theorem startKeys {slots : List Nat} (h : Canon d) : Canon (d.startKeys slots) := by
  unfold Dev.startKeys
  exact .ite h
    (.keysIn (.foldl _ (.foldl _ (.upd h) fun _ h => h.nextKey) fun _ h => .ite h h.appendSector))

theorem configResume {s : Nat} (h : Canon d) : Canon (configResume d s) := by
  unfold Machine.configResume
  exact .ite h h.modFlash

theorem copyForward {s : Nat} (h : Canon d) : Canon (copyForward d s) := by
  unfold Machine.copyForward
  with_reducible_and_instances exact .ite h (.opt h fun _ => h.beginErase)

/-! Functions of `Machine/Amend`. -/

theorem putLink {u l : Nat} (h : Canon d) : Canon (d.putLink u l) := by
  unfold Dev.putLink
  exact .ite h.modKerb h.fset

theorem changeLink {u l : Nat} (h : Canon d) : Canon (d.changeLink u l) := by
  unfold Dev.changeLink
  exact .logFault (.draw (.ite h.putLink.fadd h.putLink.fadd))

theorem settleLinks {us : List Nat} (h : Canon d) : Canon (d.settleLinks us) := by
  unfold Dev.settleLinks
  exact .foldl _ h fun _ h => .ite h h.changeLink

theorem setBucket {r v : Nat} (h : Canon d) : Canon (d.setBucket r v) := by
  unfold Dev.setBucket
  exact .ite h.fset (.ite h.fset (.upd h))

theorem clearBuckets {c : Container} (h : Canon d) : Canon (d.clearBuckets c) := by
  unfold Dev.clearBuckets
  exact .foldl _ h fun _ h => .foldl _ h fun _ h => .ite h h.setBucket

theorem makeKeys (h : Canon d) : Canon d.makeKeys := h.startKeys

theorem refresh (h : Canon d) : Canon d.refresh := by
  unfold Dev.refresh
  exact .upd h

theorem applyQuiesced {c : Container} (h : Canon d) : Canon (d.applyQuiesced c) := by
  unfold Dev.applyQuiesced
  extract_lets _ _ _ _ e f g k
  have he : Canon e := .upd h
  have hf : Canon f := .ite he.clearBuckets he
  have hg : Canon g := .ite hf.makeKeys hf
  have hk : Canon k := by
    unfold k
    refine .ite ?_ hg
    refine .foldl _ hg fun b h => ?_
    dsimp only
    split
    · exact h.takeRole.evictStrangers
    · exact .foldl _ h.takeRole fun _ h => h.endCommand
  exact .ite (.foldl _ hk fun _ h => h.takeCells) hk

theorem writeBanks {secs : List Section} {c : Container} (h : Canon d) : Canon (d.writeBanks secs c) := by
  unfold Dev.writeBanks
  exact .foldl _ (.ite h.planError h) fun _ h => h.modBlock

theorem armBanks {i : Nat} {c : Container} (h : Canon d) : Canon (d.armBanks i c) := by
  unfold Dev.armBanks
  extract_lets _ _ e f
  have he : Canon e := .foldl _ h fun _ h => h.modBlock
  exact .ite he.modSlot'.amendDone (.foldl _ he.modSlot' fun _ h => .ite h.swapBank h)

theorem applyAmend {i : Nat} (h : Canon d) : Canon (d.applyAmend i) := by
  unfold Dev.applyAmend
  with_reducible_and_instances
    refine .opt h fun _ => ?_
    beta_reduce
    extract_lets _ _ e f g _ k
    have he : Canon e := .refresh (.upd h)
    have hf : Canon f := .ite he.applyQuiesced.quiesceScope he
    have hg : Canon g := .ite hf.armBanks hf.amendDone
    exact .ite hg.settleLinks.driveStages.driveJobs.issueAll hg.settleLinks

theorem quiesceSettled {i : Nat} (h : Canon d) : Canon (d.quiesceSettled i) := by
  unfold Dev.quiesceSettled
  with_reducible_and_instances exact .opt h fun _ => .ite h.applyAmend h

theorem abandon {i cause : Nat} (h : Canon d) : Canon (d.abandon i cause) := by
  unfold Dev.abandon
  with_reducible_and_instances
    refine .opt h fun _ => ?_
    exact .ite h
      (.issueAll (.driveJobs (.driveStages (.ite h.quiesceScope.amendFails.settleLinks h.quiesceScope.amendFails))))

/-! Functions of `Machine/Contain`. -/

theorem resetRegs {c : Char} {scope : RegRow → List Nat → Bool} (h : Canon d) : Canon (d.resetRegs c scope) := by
  unfold Dev.resetRegs
  exact .upd h

theorem setError {a bit n multi : Nat} (h : Canon d) : Canon (d.setError a bit n multi) := h.setReg

theorem endBlockTest {b : Nat} (h : Canon d) : Canon (d.endBlockTest b) := by
  unfold Dev.endBlockTest
  extract_lets e
  have he : Canon e := .foldl _ h fun _ h => .ite h (.ite h.foff (.ite h.foff.setError.draw.setReg h.foff.setError))
  exact .ite he.foff.fadd he

theorem endKerbTest {k : Nat} (h : Canon d) : Canon (d.endKerbTest k) := by
  unfold Dev.endKerbTest
  exact .ite h h.foff.draw.logFault

theorem amendsOver {holds : Scope → Bool} {st : Status} {cause : Nat} (h : Canon d) : Canon (d.amendsOver holds st cause) := by
  unfold Dev.amendsOver
  with_reducible_and_instances
    exact .foldl _ h fun _ h => .opt h fun _ => .ite (.ite h.quiesceScope.amendFails.settleLinks h.quiesceScope.amendFails) h

theorem awaitNoMore {b : Nat} (h : Canon d) : Canon (d.awaitNoMore b) := by
  unfold Dev.awaitNoMore
  exact .foldl _ h fun _ h => .ite (.ite h.modSlot'.amendDone h.modSlot') h

theorem annotate {a : Annotation} (h : Canon d) : Canon (d.annotate a) := by
  unfold Dev.annotate
  extract_lets _ e
  have he : Canon e := .upd h
  beta_reduce
  induction a with
  | activate => exact he
  | _ => exact he.freeDigest.measure

theorem fence {b c : Nat} (h : Canon d) : Canon (d.fence b c) := h.annotate.takeCells

theorem leaveVacant {b : Nat} (h : Canon d) : Canon (d.leaveVacant b) := by
  unfold Dev.leaveVacant
  exact .modBlock (.foldl _ (.foldl _ h.logFault fun _ h => h.endCommand) fun _ h => .ite h.stopJob h)

theorem restream {b : Nat} {x : Binding} (h : Canon d) : Canon (d.restream b x) := by
  unfold Dev.restream
  with_reducible_and_instances exact .opt h fun _ => .ite h.storeBm h.undefineBm

theorem mapSpare {b s : Nat} (h : Canon d) : Canon (d.mapSpare b s) := by
  unfold Dev.mapSpare
  dsimp only
  split
  · exact .foldl _ (.upd (.modBlock (.takeCells (.modBlock (.foldl _ h.annotate fun _ h => h.setReg))))) fun _ h => h.restream
  · exact h

theorem relieve {b : Nat} (h : Canon d) : Canon (d.relieve b) := by
  unfold Dev.relieve
  with_reducible_and_instances exact .ite h (.opt (.ite h h.leaveVacant) fun _ => .mapSpare (.upd h))

theorem seekSpare {b : Nat} (h : Canon d) : Canon (d.seekSpare b) := by
  unfold Dev.seekSpare
  with_reducible_and_instances exact .opt h.modBlock.relieve fun _ => .modBlock (.upd h.modBlock)

theorem annotateRetired {b : Nat} (h : Canon d) : Canon (d.annotateRetired b) := h.annotate.amendsOver.awaitNoMore

theorem retireBlock {b : Nat} (h : Canon d) : Canon (d.retireBlock b) := by
  unfold Dev.retireBlock
  refine .ite h ?_
  dsimp only
  induction Block.role (Dev.block (Dev.annotateRetired d b) b) with
  | active => exact h.annotateRetired.seekSpare
  | _ => exact h.annotateRetired.modBlock

theorem clearTags {b : Nat} (h : Canon d) : Canon (d.clearTags b) := h.modBlock

theorem abortBlock {b : Nat} (h : Canon d) : Canon (d.abortBlock b) := by
  unfold Dev.abortBlock
  with_reducible_and_instances
    exact .clearTags (.foldl _ (.foldl _ (.opt h fun _ => h.undefineOutputs) fun _ h => h.cutDma) fun _ h => h.endCommand)

theorem computeAbort {faulty : List Nat} {src : Nat} (h : Canon d) : Canon (d.computeAbort faulty src) := by
  unfold Dev.computeAbort
  extract_lets _ e f g _ k _ m n o
  have he : Canon e := .upd h
  have hg : Canon g := .ite he.fadd.traceTrigger he.fadd
  have hk : Canon k := .upd hg
  have hm : Canon m := .foldl _ hk fun _ h => h.abortBlock
  have hn : Canon n := .foldl _ hm fun _ h => h.failQuery
  have ho : Canon o := .upd hn
  exact .ite he.fadd (.foldl _ ho.driveJobs fun _ h => h.quiesceSettled)

theorem blockFault {b bit code address : Nat} (h : Canon d) : Canon (d.blockFault b bit code address) := by
  unfold Dev.blockFault
  extract_lets _ e f _ _ g
  have hf : Canon f := .ite h.setError.setReg h.setError
  exact .ite hf hf.logError.computeAbort

theorem bucketAdd {r : Nat} (h : Canon d) : Canon (d.bucketAdd r) := by
  unfold Dev.bucketAdd
  extract_lets _ e f
  have hf : Canon f := .ite h.setBucket.fadd.fadd (.ite h.setBucket.fadd.fadd h.setBucket.fadd)
  exact .ite h.setBucket (.ite hf (.asyncVendor (.logError (.draw (.upd hf)))))

theorem kerbOffline {k : Nat} (h : Canon d) : Canon (d.kerbOffline k) := by
  unfold Dev.kerbOffline
  exact .foldl _ h.amendsOver fun _ h => h.failQuery

theorem linkLost {u link : Nat} (h : Canon d) : Canon (d.linkLost u link) := by
  unfold Dev.linkLost
  extract_lets _ _ e
  have he : Canon e := .ite h.modKerb (.upd h)
  exact .ite he (.ite he.changeLink (.ite he.kerbOffline he))

theorem restartQuery {k i : Nat} (h : Canon d) : Canon (d.restartQuery k i) := by
  unfold Dev.restartQuery
  with_reducible_and_instances
    refine .opt h fun _ => .ite h ?_
    refine .ite h.failQuery (.opt h.modQuery fun _ => ?_)
    refine .ite h.modQuery ?_
    exact .ite (.foldl _ h.modQuery.modQuery fun _ h => h.sendWalk)
      (.foldl _ h.modQuery.modQuery fun _ h => .opt h fun _ => h.addQb)

theorem restartSweepBlock {k : Nat} {b : QBlock} (h : Canon d) : Canon (d.restartSweepBlock k b) := by
  unfold Dev.restartSweepBlock
  exact .modQb (.ite (.foldl _ h fun _ h => h.modQuery) h)

theorem endSecure {k : Nat} (h : Canon d) : Canon (d.endSecure k) := by
  unfold Dev.endSecure
  refine .foldl _ h fun x h => ?_
  dsimp only
  beta_reduce
  induction Dev.inflightOf _ _ _ with
  | none => exact h.modMedia.finish
  | some =>
      split
      · exact h.modMedia.finishPort
      · exact h.modMedia.finish

theorem kerbReset {k : Nat} (h : Canon d) : Canon (d.kerbReset k) := by
  unfold Dev.kerbReset
  with_reducible_and_instances
    exact .afterKerb (.foldl _ (.foldl _ (.modKerb (.foldl _ h.amendsOver.endSecure.resetRegs.fadd fun _ h => .ite
      h.repeatBatch h)) fun _ h => h.restartQuery) fun _ h => .opt h fun _ => h.restartSweepBlock)

theorem kerbError {k cause location : Nat} (h : Canon d) : Canon (d.kerbError k cause location) := by
  unfold Dev.kerbError
  exact .ite h.setError.setReg h.setError

theorem stopDies (h : Canon d) : Canon d.stopDies := by
  unfold Dev.stopDies
  exact .upd h

theorem drainBuffer {n : Nat} (h : Canon d) : Canon (d.drainBuffer n) := by
  induction n generalizing d with
  | zero => exact h
  | succ n ih =>
    unfold Dev.drainBuffer
    split
    · exact ih h.programmed
    · split
      · refine ih ?_
        split
        · exact h.modMedia.addProgram
        · exact h.modMedia
      · exact .ite h (.ite h.drainUnplaced (ih h.drainUnplaced))

theorem flushParity (h : Canon d) : Canon d.flushParity := by
  unfold Dev.flushParity
  with_reducible_and_instances exact .foldl _ h fun _ h => .opt h fun _ => .modSb (.foldl _ h fun _ h => h.addProgram)

theorem closeRows (h : Canon d) : Canon d.closeRows := h.modMedia

theorem endFlush (h : Canon d) : Canon d.endFlush := h.stopDies.closeRows.journalPut.programJournal.modMedia.draw.fset.fset.fadd

theorem flushMedia (h : Canon d) : Canon d.flushMedia := h.modMedia.stopDies.drainBuffer.flushParity.drainBuffer.endFlush

theorem closeGates (h : Canon d) : Canon d.closeGates := by
  unfold Dev.closeGates
  exact .upd (.foldl _ h.resetRegs fun _ h => h.fset)

theorem dropSlots (h : Canon d) : Canon d.dropSlots := by
  unfold Dev.dropSlots
  with_reducible_and_instances
    exact .foldl _ h fun _ h => .clearTags (.foldl _ (.foldl _ (.opt h fun _ => h.undefineOutputs) fun _ h => h.cutDma)
      fun _ h => h.emptySlot)

theorem shutDown {cause code src detail : Nat} (h : Canon d) : Canon (d.shutDown cause code src detail) := by
  unfold Dev.shutDown
  exact .ite h
    (.flushMedia (.closeGates (.upd (.fadd (.dropSlots (.fset (.fon (.foff (.upd h.logError)))))))))

theorem loseObjects {c : Nat → Bool} (h : Canon d) : Canon (d.loseObjects c) := by
  unfold Dev.loseObjects
  exact .upd h

theorem traceToStack3 (h : Canon d) : Canon d.traceToStack3 := by
  unfold Dev.traceToStack3
  exact .fon (.setReg (.setReg (.upd h)))

theorem quarantine {q code src detail : Nat} (h : Canon d) : Canon (d.quarantine q code src detail) := by
  unfold Dev.quarantine
  with_reducible_and_instances
    refine .opt ?_ fun _ => .ite h h.shutDown
    refine .ite h ?_
    beta_reduce
    extract_lets e _ f g k m n o u v w e'
    have hf : Canon f := .upd h.logError
    have hk : Canon k := .foldl _ hf.amendsOver fun _ h => h.failQuery
    have hn : Canon n := .foldl _ hk.computeAbort fun _ h => h.awaitNoMore
    have ho : Canon o := .foldl _ hn fun _ h => .ite h.linkLost (.ite h.linkLost h)
    have hv : Canon v := .foldl _ ho.loseObjects fun _ h => .ite h.stopJob h
    have he' : Canon e' := .ite hv.annotate.fadd.traceToStack3 hv.annotate.fadd
    exact he'.driveStages

theorem abandonMove {region address : Nat} (h : Canon d) : Canon (d.abandonMove region address) := by
  unfold Dev.abandonMove
  with_reducible_and_instances exact .opt h fun _ => h.modObj

theorem repairLine {region address : Nat} (h : Canon d) : Canon (d.repairLine region address) := by
  unfold Dev.repairLine
  with_reducible_and_instances exact .opt h fun _ => .opt h fun _ => .ite h.storeObj.draw.logError h

theorem failReader {queue cid : Nat} (h : Canon d) : Canon (d.failReader queue cid) := by
  unfold Dev.failReader
  with_reducible_and_instances
    refine .opt ?_ fun _ => h.breakDmas.endCommand
    refine .ite (.foldl _ h fun _ h => h.failQuery) (.opt h fun x => ?_)
  have hn : Canon (d.finish queue cid .unrecoveredReadError) := h.finish
  have hp : Canon (d.finishPort queue cid .unrecoveredReadError) := h.finishPort
  beta_reduce
  induction x.command with
  | allocate | copyIn | copyOut => exact h.endCopy
  | flush | write | read | writeZeroes | deallocate | secureDeallocate => exact hn
  | _ => exact hp

theorem spareChannel {s c : Nat} (h : Canon d) : Canon (d.spareChannel s c) := by
  unfold Dev.spareChannel
  exact .ite h.quarantine h.fset.fon.annotate.logError

theorem cellError {source entry column b i : Nat} (h : Canon d) : Canon (cellError source entry column b d i) := by
  unfold Machine.cellError
  exact .ite h.setError.setReg h.setError

theorem cellStops {b : Nat} {spares : Bool} (h : Canon d) : Canon (cellStops d b spares) := by
  unfold Machine.cellStops
  with_reducible_and_instances exact .opt h fun _ => .ite h h.cutDma.undefineOutputs.endCommand.fadd

theorem cellFenced {b c src : Nat} (h : Canon d) : Canon (cellFenced d b c src) := by
  unfold Machine.cellFenced
  exact .ite h.amendsOver.fence h.amendsOver.fence.logFault.retireBlock

theorem cellParityError {b c source entry column : Nat} (h : Canon d) : Canon (cellParityError d b c source entry column) := by
  unfold Machine.cellParityError
  refine .ite h (.ite ?_ (.ite h (.ite h.cellError h.cellError.logError.cellStops.cellFenced.driveStages.driveJobs)))
  beta_reduce
  extract_lets e f
  have he : Canon e := .foldl _ h fun _ h => h.cellError
  exact .ite he he.logError.computeAbort

theorem spareSelfTestDone {s : Nat} {passed : Bool} (h : Canon d) : Canon (spareSelfTestDone d s passed) := by
  unfold Machine.spareSelfTestDone
  with_reducible_and_instances
    refine .opt h fun _ => .driveJobs (.driveStages ?_)
    exact .ite (.relieve (.upd (.modBlock (.endBlockTest (.upd h)))))
      (.seekSpare (.modBlock (.annotateRetired (.modBlock (.endBlockTest (.upd h))))))

theorem blockMemoryUncorrectable {b address : Nat} (h : Canon d) : Canon (blockMemoryUncorrectable d b address) := h.blockFault

theorem sequencerWatchdog {b : Nat} (h : Canon d) : Canon (sequencerWatchdog d b) := by
  unfold Machine.sequencerWatchdog
  exact .ite h h.blockFault

theorem queueIntegrityError {b : Nat} (h : Canon d) : Canon (queueIntegrityError d b) := h.blockFault

theorem computeAbortEnd (h : Canon d) : Canon (computeAbortEnd d) := by
  unfold Machine.computeAbortEnd
  exact .ite h
    (.driveJobs (.driveStages (.foldl _ (.foldl _ (.upd h) fun _ h => h.retireBlock) fun _ h => h.relieve)))

theorem blockMemoryCorrected {b : Nat} (h : Canon d) : Canon (blockMemoryCorrected d b) := by
  unfold Machine.blockMemoryCorrected
  exact .ite h.fadd h.fadd.bucketAdd

theorem bucketLeak {r : Nat} (h : Canon d) : Canon (bucketLeak d r) := by
  unfold Machine.bucketLeak
  exact .ite h.setBucket h

theorem patrolScrub {r address : Nat} {found : LineRead} (h : Canon d) : Canon (patrolScrub d r address found) := by
  unfold Machine.patrolScrub
  refine .ite h (.ite ?_ ?_)
  · beta_reduce
    induction found with
    | good => exact h
    | corrected => exact h.blockMemoryCorrected
    | uncorrectable => exact h.blockMemoryUncorrectable
  · beta_reduce
    extract_lets _ e _ f g
    have he : Canon e := .ite h.fadd h
    beta_reduce
    induction found with
    | good => exact he
    | corrected => exact he.fadd.bucketAdd
    | uncorrectable => exact he.fadd.logError.abandonMove.repairLine

theorem stackReadUncorrectable {s c address queue cid : Nat} (h : Canon d) :
    Canon (stackReadUncorrectable d s c address queue cid) := by
  unfold Machine.stackReadUncorrectable
  refine .driveJobs (.driveStages ?_)
  exact .ite h.fadd.fadd.logError.failReader.abandonMove.repairLine.spareChannel
    h.fadd.fadd.logError.failReader.abandonMove.repairLine

theorem spareCopyDone {s : Nat} (h : Canon d) : Canon (spareCopyDone d s) := by
  unfold Machine.spareCopyDone
  exact .ite h.foff.fon h

theorem lpddrReadUncorrectable {a address queue cid : Nat} (h : Canon d) :
    Canon (lpddrReadUncorrectable d a address queue cid) := h.fadd.fadd.logError.failReader.abandonMove.driveStages.driveJobs

theorem countRetries {n : Nat} (h : Canon d) : Canon (countRetries d n) := by
  unfold Machine.countRetries
  exact .upd h.fadd

theorem avenueFlitCrc {q retries lanes : Nat} (h : Canon d) : Canon (avenueFlitCrc d q retries lanes) := by
  unfold Machine.avenueFlitCrc
  extract_lets e _ _ _ f
  have hf : Canon f := .upd h.countRetries
  exact .ite hf.quarantine (.ite hf.logError hf.logError)

theorem routerUncorrectable {q : Nat} {stop : Bool} (h : Canon d) : Canon (routerUncorrectable d q stop) := h.quarantine

theorem boulevardCrc {segment lanes : Nat} (h : Canon d) : Canon (boulevardCrc d segment lanes) := by
  unfold Machine.boulevardCrc
  exact .ite (.shutDown (.upd h.countRetries)) (.logError (.upd h.countRetries))

theorem arcadeFault {a : Nat} (h : Canon d) : Canon (arcadeFault d a) := h.shutDown

theorem kerbFault {k cause location : Nat} (h : Canon d) : Canon (kerbFault d k cause location) := by
  unfold Machine.kerbFault
  with_reducible_and_instances
    refine .ite h (.ite h.kerbError ?_)
    exact .ite h.kerbError.logError.kerbReset
      (.opt h.kerbError.logError fun _ => h.kerbError.logError.cacheDropWhere)

theorem kerbResetDone {k : Nat} {passed : Bool} (h : Canon d) : Canon (kerbResetDone d k passed) := by
  unfold Machine.kerbResetDone
  exact .ite h (.ite h.endKerbTest.modKerb.kerbOffline h.endKerbTest.modKerb.issueAll)

theorem linkError {arcade : Bool} {unit : Nat} (h : Canon d) : Canon (linkError d arcade unit) := by
  unfold Machine.linkError
  exact .ite (.ite h.draw.logError.linkLost h.draw.logError.linkLost.shutDown) h.kerbError.logError.linkLost

/-! Functions of `Machine/Power`. -/

theorem conflict {loop : Nat} (h : Canon d) : Canon (d.conflict loop) := h.fadd

theorem setClock {q : Nat} (h : Canon d) : Canon (d.setClock q) := h.fset

theorem setTarget {q f : Nat} (h : Canon d) : Canon (d.setTarget q f) := by
  unfold Dev.setTarget
  exact .ite h h.draw.fset.fset.setClock

theorem divideEnergy {unit uj : Nat} (h : Canon d) : Canon (d.divideEnergy unit uj).1 := by
  unfold Dev.divideEnergy
  exact .iteFst h (.foldlFst _ h fun _ h => .iteFst h (.upd h.fadd))

theorem throttle (h : Canon d) : Canon d.throttle := by
  unfold Dev.throttle
  exact .foldl _ h fun _ h => .ite (.fadd (.upd h)) h

theorem countGated (h : Canon d) : Canon d.countGated := by
  unfold Dev.countGated
  exact .foldl _ h fun _ h => .ite h h.fadd

theorem powerCap (h : Canon d) : Canon d.powerCap := by
  unfold Dev.powerCap
  exact .ite h.countGated (.ite (.fset (.countGated (.upd h))) (.conflict (.fset (.countGated (.upd h)))))

theorem showOverrides (h : Canon d) : Canon d.showOverrides := by
  unfold Dev.showOverrides
  exact .fset (.foldl _ h fun _ h => h.fset)

theorem startOverride {loop unit clock measured : Nat} (h : Canon d) : Canon (d.startOverride loop unit clock measured) := by
  unfold Dev.startOverride
  refine .ite h ?_
  dsimp only
  split
  · exact .logOverride (.showOverrides (.setClock (.fadd (.upd h))))
  · exact .logOverride (.showOverrides (.fadd (.upd h.draw.draw)))

theorem modOverride {loop unit : Nat} {f : Override → Option Override} (h : Canon d) : Canon (d.modOverride loop unit f) := by
  unfold Dev.modOverride
  with_reducible_and_instances exact .showOverrides (.opt (.upd h) fun _ => .setClock (.upd h))

theorem coolantNotice {s : Nat} (h : Canon d) : Canon (d.coolantNotice s) := h.draw.logFault.asyncVendor

theorem watchCoolant {s : Nat} {was : Option Int} (h : Canon d) : Canon (d.watchCoolant s was) := by
  unfold Dev.watchCoolant
  with_reducible_and_instances
    extract_lets _ e _ f
    have he : Canon e := .ite h.asyncAll h
    have hf : Canon f := .ite he.coolantNotice he
    exact .ite hf (.ite (.upd hf) (.opt (.upd hf) fun _ => .ite (.coolantNotice (.upd hf)) hf))

theorem beatStart {watts railUj : Nat} (h : Canon d) : Canon (beatStart d watts railUj) := by
  unfold Machine.beatStart
  extract_lets _ e _ f _ g _ k m
  have hf : Canon f := .upd h.reach
  have hg : Canon g := .upd hf
  have hk : Canon k := .upd hg
  exact .ite hk.fset hk.fset.draw.fon.logFault

theorem energyInterval {bs ks ss xs : List (Nat × Nat)} {rest : Nat} (h : Canon d) : Canon (energyInterval d bs ks ss xs rest) := by
  unfold Machine.energyInterval
  dsimp only
  refine .powerCap (.throttle (.upd (.fadd (.foldlFst _ h fun x h => ?_))))
  dsimp only
  exact h.divideEnergy

theorem hotnessDecay (h : Canon d) : Canon (hotnessDecay d) := by
  unfold Machine.hotnessDecay
  exact .ite h (.upd h)

theorem quarterDvfs {q : Nat} {temperature : Int} {watts : Nat} {work : Bool} (h : Canon d) :
    Canon (quarterDvfs d q temperature watts work) := by
  unfold Machine.quarterDvfs
  exact .ite h (.setTarget (.ite h.conflict h))

theorem readThreshold {die : Nat} {offset : Int} {margin : Nat} (h : Canon d) : Canon (readThreshold d die offset margin) := by
  unfold Machine.readThreshold
  exact .ite h (.upd (.ite h.conflict h))

theorem widenLoop {use : Nat} (h : Canon d) : Canon (widenLoop d use) := by
  unfold Machine.widenLoop
  exact .ite h (.upd (.ite h.conflict h))

theorem stackRefresh {s : Nat} (h : Canon d) : Canon (stackRefresh d s) := by
  unfold Machine.stackRefresh
  exact .ite h h.fset

theorem sensorSample {s : Nat} {value : Int} {current : Nat} (h : Canon d) : Canon (sensorSample d s value current) := by
  unfold Machine.sensorSample
  exact .ite (.fset (.ite (.upd h.fset.fset) h.fset.fset))
    (.ite h (.ite h.fset.fon.fset.watchCoolant.quarantine h.fset.fon.fset.watchCoolant))

theorem thermalTrip {s : Nat} (h : Canon d) : Canon (thermalTrip d s) := by
  unfold Machine.thermalTrip
  with_reducible_and_instances exact .opt h fun _ => .ite h.startOverride h

theorem overCurrent {r : Nat} (h : Canon d) : Canon (overCurrent d r) := by
  unfold Machine.overCurrent
  with_reducible_and_instances exact .opt h fun _ => .ite h.startOverride h

theorem underVoltage {r : Nat} (h : Canon d) : Canon (underVoltage d r) := by
  unfold Machine.underVoltage
  exact .ite h.startOverride h

theorem protectionRelease {loop unit : Nat} (h : Canon d) : Canon (protectionRelease d loop unit) := by
  unfold Machine.protectionRelease
  with_reducible_and_instances exact .opt h fun _ => .ite h h.modOverride.logOverride

theorem rampStep {loop unit : Nat} (h : Canon d) : Canon (rampStep d loop unit) := by
  unfold Machine.rampStep
  with_reducible_and_instances exact .opt h fun _ => .ite h h.modOverride

theorem holdTimeout {loop unit : Nat} (h : Canon d) : Canon (holdTimeout d loop unit) := by
  unfold Machine.holdTimeout
  refine .ite h ?_
  split
  · exact h.quarantine
  · exact h.shutDown
  · exact h.quarantine
  · exact h.shutDown
  · exact h

/-! Functions of `Machine/Placement`. -/

theorem copySource {hdr : Hdr} {dist : Nat} {p : PlaceDesc} {src : Fetch} {bs : List Byte} (h : Canon d)
    (he : d.copySource hdr dist p src = .ok (bs, e)) : Canon e := by
  unfold Dev.copySource at he
  split at he
  · split at he
    · cases he
      exact h.countPort
    · cases he
  · cases he
  · cases he
    exact h
  · cases he
    exact h.touchRead
  · cases he
    exact h

theorem countLease {i o n : Nat} (h : Canon d) : Canon (d.countLease i o n) := by
  unfold Dev.countLease
  with_reducible_and_instances exact .opt h fun _ => .ite h (.foldl _ h fun _ h => .opt h fun _ => .upd h)

theorem recordWritten {i kind : Nat} {b : List Byte} (h : Canon d) : Canon (d.recordWritten i kind b) := by
  unfold Dev.recordWritten
  split
  · exact .upd h
  · exact h.defer
  · exact h.placeJob
  · exact h.changeJob
  · exact h

theorem copyIn {hdr : Hdr} {dist i : Nat} {p : PlaceDesc} {src : Fetch} (h : Canon d)
    (he : d.copyIn hdr dist i p src = .ok e) : Canon e := by
  unfold Dev.copyIn at he
  obtain ⟨⟨b, f⟩, hsrc, he⟩ := ok_of_bind he
  obtain ⟨-, -, he⟩ := ok_of_bind he
  have hf := (h.copySource hsrc).storeObj (i := i) (o := p.offset) (bytes := b)
  cases he
  exact .ite hf.touchWrite.countLease hf.touchWrite.countLease.recordWritten

theorem copyWaits {held : Bool} {names : List Nat} (h : Canon d) : Canon (d.copyWaits held names) := by
  unfold Dev.copyWaits
  exact .ite h h.hold

theorem sendLater {hdr : Hdr} {names : List Nat} {c : Instr} (h : Canon d) : Canon (d.sendLater hdr names c) := by
  unfold Dev.sendLater
  exact .upd h.hold

theorem copyInto {hdr : Hdr} {dist i : Nat} {p : PlaceDesc} {src : Fetch} {fresh sent ready : Bool} {c : Instr} (h : Canon d) :
    Canon (d.copyInto hdr dist i p src fresh sent ready c) := by
  unfold Dev.copyInto
  dsimp only
  refine .ite h.placeDone ?_
  split
  · exact h.copyFails
  · refine .ite h.sendLater ?_
    generalize hp : (if (decide (p.sourceKind = 2) && !ready) = true then _ else _) = r
    have hr : Canon r.2 := hp ▸ .iteSnd h.readPieces h
    refine .ite hr.copyWaits ?_
    split
    next he => exact (hr.copyIn he).placeDone
    next => exact hr.copyFails

theorem settleReturns (h : Canon d) : Canon d.settleReturns := by
  unfold Dev.settleReturns
  with_reducible_and_instances
    exact .foldl _ h fun _ h => .ite (.opt (.emit (.upd h)) fun _ => .finishSquare (.emit (.upd h))) h

theorem dropObject {i : Nat} (h : Canon d) : Canon (d.dropObject i) := by
  unfold Dev.dropObject
  split
  · exact h
  next o _ =>
    extract_lets _ _ e f g k
    have hf : Canon f := (Canon.upd h).zeroObjects
    have hg : Canon g := by
      unfold g
      split
      · split
        · exact .defer (.upd hf)
        · exact hf
      · exact .upd hf
      · exact hf
    split
    · exact hg.settleReturns.finishPort
    · exact hg.settleReturns

theorem startMove {i tier : Nat} (h : Canon d) : Canon (d.startMove i tier) := h.modObj

theorem closeStreams {i stack : Nat} (h : Canon d) : Canon (d.closeStreams i stack) := by
  unfold Dev.closeStreams
  exact .upd h

theorem restoreT0 {stack : Nat → Bool} (h : Canon d) : Canon (d.restoreT0 stack) := by
  unfold Dev.restoreT0
  exact .foldl _ h fun _ h => .ite h (.foldl _ h fun _ h => .ite h.storeObj h.undefineObj)

theorem restoreBlock {b : Nat} (h : Canon d) : Canon (d.restoreBlock b) := by
  unfold Dev.restoreBlock
  with_reducible_and_instances exact .opt h.undefineBm fun _ => .foldl _ h.undefineBm fun _ h => h.restream

theorem allocateCmd {hdr : Hdr} {desc : List Byte} {src : Fetch} {sent ready : Bool} (h : Canon d) :
    Canon (allocateCmd d hdr desc src sent ready) := by
  unfold Machine.allocateCmd
  with_reducible_and_instances
    refine .opt h.finishPort fun _ => .opt ?_ fun _ => h.copyInto
    exact .ite h.finishPort
      (.exc (fun _ => h.finishPort) fun _ => .ite h.finishPort (.opt h.finishPort fun _ => .copyInto (.upd h)))

theorem releaseCmd {hdr : Hdr} {desc : List Byte} (h : Canon d) : Canon (releaseCmd d hdr desc) := by
  unfold Machine.releaseCmd
  with_reducible_and_instances
    exact .opt h.finishPort fun _ => .opt h.finishPort fun _ => .ite h.finishPort (.ite h.finishPort (.ite h.modObj.dropObject h.modObj))

theorem releaseComplete {i : Nat} (h : Canon d) : Canon (releaseComplete d i) := by
  unfold Machine.releaseComplete
  with_reducible_and_instances exact .opt h fun _ => .ite h.dropObject h

theorem updateCmd {hdr : Hdr} {desc : List Byte} (h : Canon d) : Canon (updateCmd d hdr desc) := by
  unfold Machine.updateCmd
  with_reducible_and_instances
    exact .opt h.finishPort fun _ => .exc (fun _ => h.finishPort) fun _ => .ite h.finishPort h.modObj.finishPort

theorem copyInCmd {hdr : Hdr} {desc : List Byte} {src : Fetch} {sent ready : Bool} (h : Canon d) :
    Canon (copyInCmd d hdr desc src sent ready) := by
  unfold Machine.copyInCmd
  with_reducible_and_instances
    exact .opt h.finishPort fun _ => .exc (fun _ => .ite h.placeDone h.copyFails) fun _ => h.copyInto

theorem copyOutCmd {hdr : Hdr} {desc : List Byte} {sent ready : Bool} (h : Canon d) : Canon (copyOutCmd d hdr desc sent ready) := by
  unfold Machine.copyOutCmd
  dsimp only
  split
  · exact h.finishPort
  · split
    · exact .placeDone (.ite h h.outLost)
    · refine .ite h.placeDone (.ite h.sendLater (.ite h.placeDone ?_))
      generalize hp : (if (decide ((placeDesc desc).sourceKind = 2) && !ready) = true then _ else _) = r
      have hr : Canon r.2 := hp ▸ .iteSnd h.readPieces h
      refine .ite hr.copyWaits ?_
      split
      · exact hr.touchRead.countLease.sendHost.countPort.placeDone
      · exact hr.touchRead.countLease.writeNs.fadd.copyWaits.modMedia.settleAcks
      · exact hr.touchRead.countLease.storeObj.touchWrite.countLease.placeDone

theorem bindCmd {hdr : Hdr} {desc : List Byte} (h : Canon d) : Canon (bindCmd d hdr desc) := by
  unfold Machine.bindCmd
  with_reducible_and_instances
    refine .opt h.finishPort fun _ => .exc (fun _ => h.finishPort) fun _ => .ite h.finishPort ?_
    refine .ite h.finishPort (.opt h.finishPort fun _ => ?_)
    exact .ite h.finishPort
      (.ite h.finishPort (.ite h.finishPort (.finishPort (.ite (.touchRead (.storeBm (.upd h))) (.upd h)))))

theorem unbindCmd {hdr : Hdr} {desc : List Byte} (h : Canon d) : Canon (unbindCmd d hdr desc) := by
  unfold Machine.unbindCmd
  with_reducible_and_instances
    exact .opt h.finishPort fun _ => .exc (fun _ => h.finishPort) fun _ => .ite h.finishPort (.finishPort (.upd h))

theorem reportCmd {hdr : Hdr} {length : Nat} (h : Canon d) : Canon (reportCmd d hdr length) := by
  unfold Machine.reportCmd
  with_reducible_and_instances exact .opt h.finishPort fun _ => .finishPort (.ite h h.sendHost)

theorem moveExtent {i : Nat} (h : Canon d) : Canon (moveExtent d i) := by
  unfold Machine.moveExtent
  with_reducible_and_instances
    exact .opt h fun _ => .ite h (.opt h fun _ => .modObj (.opt (.upd h) fun _ => .ite (.closeStreams (.upd h)) (.upd h)))

theorem placementLoop (h : Canon d) : Canon (placementLoop d) := by
  unfold Machine.placementLoop
  with_reducible_and_instances
    exact .ite h (.lst h fun _ _ => .ite h.conflict (.ite h.startMove (.opt h fun _ => .ite h.startMove h)))

/-! Functions of `Machine/Leases`. -/

theorem modLease {l : Nat} {f : Lease → Lease} (h : Canon d) : Canon (d.modLease l f) := by
  unfold Dev.modLease
  exact .upd h

theorem loseLease {l : Nat} (h : Canon d) : Canon (d.loseLease l) := by
  unfold Dev.loseLease
  exact .upd h

theorem endLease {l : Nat} (h : Canon d) : Canon (d.endLease l) := by
  unfold Dev.endLease
  with_reducible_and_instances
    extract_lets e f
    have hf : Canon f := by
      unfold f
      split
      · exact .opt h.loseLease fun _ => h.loseLease.finishSquare
      · exact h
    exact hf.modLease

theorem revokeT0 (h : Canon d) : Canon d.revokeT0 := by
  unfold Dev.revokeT0
  exact .ite h (.logOverride (.fadd (.foldl _ h fun _ h => h.emit.modLease)))

theorem leaseLendCmd {hdr : Hdr} {t0 t1 notice idle : Nat} (h : Canon d) : Canon (leaseLendCmd d hdr t0 t1 notice idle) := by
  unfold Machine.leaseLendCmd
  exact .ite h.finishSquare (.finishSquare (.upd h))

theorem leasePeerCmd {hdr : Hdr} {peer : Nat} {b : List Byte} (h : Canon d) : Canon (leasePeerCmd d hdr peer b) := by
  unfold Machine.leasePeerCmd
  exact .ite h.finishSquare (.finishSquare (.upd h))

theorem leaseAcquireCmd {hdr : Hdr} {peer set tier gib : Nat} (h : Canon d) :
    Canon (leaseAcquireCmd d hdr peer set tier gib) := by
  unfold Machine.leaseAcquireCmd
  exact .ite h.finishSquare (.ite h.finishSquare (.ite h.finishSquare (.emit (.upd h))))

theorem leaseAcquireTimeout {l : Nat} (h : Canon d) : Canon (leaseAcquireTimeout d l) := by
  unfold Machine.leaseAcquireTimeout
  induction Dev.lease d l with
  | none => exact h
  | some =>
      split
      · exact .finishSquare (.upd h)
      · exact h

theorem leaseReturnCmd {hdr : Hdr} {l : Nat} (h : Canon d) : Canon (leaseReturnCmd d hdr l) := by
  unfold Machine.leaseReturnCmd
  induction Dev.lease d l with
  | none => exact h.finishSquare
  | some =>
      split
      · exact h.modLease.settleReturns
      · exact h.modLease.settleReturns
      · exact h.finishSquare

theorem leaseRevokeCmd {hdr : Hdr} {l notice : Nat} (h : Canon d) : Canon (leaseRevokeCmd d hdr l notice) := by
  unfold Machine.leaseRevokeCmd
  induction Dev.lease d l with
  | none => exact h.finishSquare
  | some =>
      split
      · exact .ite h.finishSquare h.modLease.emit.finishSquare
      · exact h.finishSquare

theorem leaseStatusCmd {hdr : Hdr} {length : Nat} (h : Canon d) : Canon (leaseStatusCmd d hdr length) := by
  unfold Machine.leaseStatusCmd
  exact .ite h.finishSquare (.finishSquare (.ite h h.sendHost))

theorem leaseNotice {l deadline : Nat} (h : Canon d) : Canon (leaseNotice d l deadline) := by
  unfold Machine.leaseNotice
  induction Dev.lease d l with
  | none => exact h
  | some =>
      split
      · exact h.modLease.emit.asyncVendor
      · exact h.modLease.emit.asyncVendor
      · exact h

theorem leaseDeadline {l : Nat} (h : Canon d) : Canon (leaseDeadline d l) := by
  unfold Machine.leaseDeadline
  with_reducible_and_instances exact .opt h fun _ => .ite h.endLease h

theorem leaseIdle {peer : Nat} (h : Canon d) : Canon (leaseIdle d peer) := by
  unfold Machine.leaseIdle
  with_reducible_and_instances exact .opt h fun _ => .ite h (.foldl _ h fun _ h => h.endLease)

theorem peerMessage {m : LeaseMessage} (h : Canon d) : Canon (peerMessage d m) := by
  unfold Machine.peerMessage
  refine .ite h ?_
  beta_reduce
  induction m with
  | request => exact .ite (.emit (.upd h)) (.emit (.upd (.upd h)))
  | grant =>
      dsimp only
      induction Dev.lease _ _ with
      | none => exact h
      | some =>
          split
          · exact .finishSquare (.modLease (.upd h))
          · exact h
  | refuse =>
      dsimp only
      induction Dev.lease _ _ with
      | none => exact h
      | some =>
          split
          · exact .finishSquare (.upd h)
          · exact h
  | giveBack => exact .foldl _ (.upd h) fun _ h => h.endLease
  | contact => exact .upd h
  | lost =>
      dsimp only
      induction Dev.lease _ _ with
      | none => exact h
      | some =>
          split
          · exact h
          · exact h
          · exact h.endLease
          · exact h

theorem t3Run {c : T3Copy} (h : Canon d) : Canon (t3Run d c) := by
  unfold Machine.t3Run
  split
  · exact h.allocateCmd
  · exact h.copyInCmd
  · exact h.copyOutCmd
  · exact h

theorem t3Drive {n : Nat} (h : Canon d) : Canon (t3Drive d n) := by
  induction n generalizing d with
  | zero => exact h
  | succ n ih =>
    unfold Machine.t3Drive
    split
    next c rest _ =>
      have hr : Canon { d with place := { d.place with t3 := rest } } := .upd h
      have ht := hr.t3Run (c := c)
      exact .ite h (.ite (.ite h (ih hr)) (.ite (.upd ht) (ih ht)))
    · exact h

theorem t3BatchSend (h : Canon d) : Canon (t3BatchSend d) := by
  unfold Machine.t3BatchSend
  exact .t3Drive (.upd (.ite h h.emit))

/-! Functions of `Machine/Time`. -/

theorem showPower {ps : Nat} (h : Canon d) : Canon (d.showPower ps) := by
  unfold Dev.showPower
  exact .foldl _ (.foldl _ h.fset fun _ h => .ite h h.fset.fset) fun _ h => h.fset

theorem loseQuarters (h : Canon d) : Canon d.loseQuarters := by
  unfold Dev.loseQuarters
  exact .restoreT0 (.foldl _ (.foldl _ h fun _ h => h.clearTags.undefineBm) fun _ h => h.cacheDropWhere)

theorem restoreQuarters (h : Canon d) : Canon d.restoreQuarters := by
  unfold Dev.restoreQuarters
  exact .foldl _ h.retrainStacks.restoreT0 fun _ h => h.restoreBlock

theorem enterPower {ps : Nat} (h : Canon d) : Canon (d.enterPower ps) := by
  unfold Dev.enterPower
  refine .ite (.upd h) ?_
  beta_reduce
  extract_lets _ _ e f g k
  have he : Canon e := .upd h
  have hg : Canon g := .ite he.showPower.revokeT0.loseQuarters he.showPower
  have hk : Canon k := .ite hg.restoreQuarters hg
  exact .foldl _ hk.driveStages.driveJobs fun _ h => h.setTarget.setClock

theorem timeNotice {ev prev : Nat} (h : Canon d) : Canon (d.timeNotice ev prev) := h.logNotice

theorem enterLock {l : LockState} (h : Canon d) : Canon (d.enterLock l) := by
  unfold Dev.enterLock
  refine .ite h ?_
  beta_reduce
  extract_lets _ e f g k _ m _ n o
  have he : Canon e := .upd h
  have hm : Canon m := .ite (.upd he.fset.fset.fadd) he.fset.fset
  have hn : Canon n := .upd hm
  have ho : Canon o := .ite hn.fset.fset hm
  exact ho.timeNotice

theorem expireTo {beat : Nat} (h : Canon d) : Canon (d.expireTo beat) := by
  unfold Dev.expireTo
  exact .foldl _ h fun _ h => .ite h.expireWait h

theorem beatEvents {b1 b2 : Nat} (h : Canon d) : Canon (d.beatEvents b1 b2) := by
  unfold Dev.beatEvents
  extract_lets _ _ _ e f _ _ g k m
  have he : Canon e := .ite h (.upd h)
  have hf : Canon f := .foldl _ he fun _ h => h.setBucket
  have hg : Canon g := .ite hf (.upd hf)
  have hk : Canon k := hg.t3BatchSend
  have hm : Canon m := .foldl _ hk fun _ h => h.leaseDeadline
  split
  · exact .ite hm.enterPower hm
  · exact hm

theorem stepForward {ns : Nat} (h : Canon d) : Canon (d.stepForward ns) := by
  unfold Dev.stepForward
  extract_lets _ _ _ e f _ _ g k m
  have hk : Canon k := .ite h.reach.enterSlots.beatEvents.expireTo.gatherClose h.reach.enterSlots.beatEvents.expireTo
  have hm : Canon m := .ite hk.sweepClose hk
  exact hm.expireTo

theorem measured' {src : Nat} {o : Int} (h : Canon d) : Canon (d.measured' src o) := by
  unfold Dev.measured'
  extract_lets _ _ e f g k m _ _ n _ _ _ u _ _ v w
  have he : Canon e := .upd h
  have hg : Canon g := .ite he.fset.setReg.fadd he.fset.setReg
  have hk : Canon k := .ite hg.timeNotice hg
  have hm : Canon m := by
    unfold m
    beta_reduce
    induction TimeState.lock (Dev.time g) with
    | freeRun => exact hg.enterLock
    | acquiring | recovering => exact hg
    | locked => exact .ite hg.enterLock hg
    | holdover => exact hk.enterLock
  have hn : Canon n := .upd hm
  have hu : Canon u := .upd hn
  have hv : Canon v := .upd hu
  have hw : Canon w := .ite (.ite hu.fadd.stepForward hv.putSlots) (.ite hn.fadd.stepForward hn)
  exact .ite hw.enterLock hw

theorem showMaster {port : Nat} (h : Canon d) : Canon (d.showMaster port) := by
  unfold Dev.showMaster
  with_reducible_and_instances exact .opt h fun _ => h.fset.fset.setReg

theorem ptpAnnounce {port cls steps identity : Nat} (h : Canon d) : Canon (ptpAnnounce d port cls steps identity) := by
  unfold Machine.ptpAnnounce
  exact .ite h (.ite (.showMaster (.upd h)) (.upd h))

theorem ptpSync {port : Nat} {o : Int} (h : Canon d) : Canon (ptpSync d port o) := by
  unfold Machine.ptpSync
  extract_lets _ _ e f
  have he : Canon e := .upd h
  exact .ite he (.ite he.showMaster.measured' (.ite he.showMaster he.showMaster.measured'))

theorem ppsIn {o : Int} {ok : Bool} (h : Canon d) : Canon (ppsIn d o ok) := by
  unfold Machine.ppsIn
  extract_lets e _ f
  have hf : Canon f := .upd h.fon
  refine .ite hf ?_
  split
  · exact hf.measured'
  · exact hf.measured'
  · exact hf

theorem sourceLoss (h : Canon d) : Canon (sourceLoss d) := by
  unfold Machine.sourceLoss
  extract_lets _ _ _ e f
  have he : Canon e := .upd h
  have hf : Canon f := .ite he he.foff
  beta_reduce
  induction TimeState.lock (Dev.time f) with
  | freeRun | holdover => exact hf
  | _ => exact hf.enterLock

theorem forceHold {on : Bool} (h : Canon d) : Canon (forceHold d on) := by
  unfold Machine.forceHold
  exact .ite h.fset.enterLock h.fset

theorem ppsOutPulse (h : Canon d) : Canon (ppsOutPulse d) := by
  unfold Machine.ppsOutPulse
  exact .ite h.reach.emit h.reach

theorem timeJournal (h : Canon d) : Canon (timeJournal d) := by
  unfold Machine.timeJournal
  exact .upd h

theorem slotStart {i : Nat} (h : Canon d) : Canon (slotStart d i) := by
  unfold Machine.slotStart
  with_reducible_and_instances exact .opt h fun _ => .ite h (.slotBegins (.putSlots (.ite h h.reach)))

theorem slotEnd {i : Nat} (h : Canon d) : Canon (slotEnd d i) := by
  unfold Machine.slotEnd
  with_reducible_and_instances exact .opt h fun _ => .ite h (.putSlots (.ite h h.reach))

theorem powerTransition (h : Canon d) : Canon (powerTransition d) := by
  unfold Machine.powerTransition
  with_reducible_and_instances exact .opt h fun _ => h.enterPower

theorem apstIdle (h : Canon d) : Canon (apstIdle d) := by
  unfold Machine.apstIdle
  with_reducible_and_instances exact .ite h (.opt h fun _ => .ite h (.upd h))

/-! Functions of `Machine/Wipe`. -/

theorem emptyNs {ns : Nat} (h : Canon d) : Canon (d.emptyNs ns) := by
  unfold Dev.emptyNs
  extract_lets e mine f g k
  have he : Canon e := .foldl _ h fun _ h => h.failQuery
  have hf : Canon f := .foldl _ he fun _ h => h.unmap
  have hg : Canon g := hf.modMedia
  have hk : Canon k := .foldl _ hg fun _ h => h.cacheDropWhere
  clear_value k
  refine .foldl _ ?_ fun _ h => h.finishPort
  exact .upd (hk.zeroSpaces (a := 2 ^ 49 * ns) (n := 2 ^ 49))

theorem addRecordSet {owner : Option (Nat × Nat)} {e : WriteEffect} (h : Canon d) : Canon (d.addRecordSet owner e) := by
  unfold Dev.addRecordSet
  exact .driveWrites (.upd h)

theorem finishKeyErases (h : Canon d) : Canon d.finishKeyErases := by
  unfold Dev.finishKeyErases
  with_reducible_and_instances exact .upd (.foldl _ h fun _ h => .modFlash (.opt h fun _ => .ite h.appendSector h))

theorem formatRun {q cid nsid ses : Nat} (h : Canon d) : Canon (d.formatRun q cid nsid ses) := by
  unfold Dev.formatRun
  extract_lets _ _ _ e f
  have he : Canon e := .upd h
  have hf : Canon f := .foldl _ he fun _ h => h.emptyNs
  split
  · exact hf.finish
  · exact hf.modMedia.eraseCopies
  · exact hf.addRecordSet

theorem endIo (h : Canon d) : Canon d.endIo := by
  unfold Dev.endIo
  exact .foldl _ (.foldl _ (.foldl _ h fun _ h => h.failQuery) fun _ h => .foldl _ h fun _ h => h.endCommand) fun _ h => h.finish

theorem sanitizePhase1 (h : Canon d) : Canon d.sanitizePhase1 := by
  unfold Dev.sanitizePhase1
  extract_lets e f g k gens m
  have hf : Canon f := .foldl _ h.endIo fun _ h => h.cacheDropWhere
  have hg : Canon g := hf.stopDies.modMedia
  clear_value g
  have hk : Canon k := .foldl _ hg fun _ h => .ite h h.emit.endLease
  exact ⟨hk.blocks, Mem.wf_nil, hk.spaces⟩

theorem eraseGroup {w : Wipe} {g : Nat} (h : Canon d) : Canon (d.eraseGroup w g) := by
  unfold Dev.eraseGroup
  with_reducible_and_instances exact .opt (.upd h) fun _ => .upd (.foldl _ h fun _ h => h.modBg.journalPut.modDie)

theorem sanitizeFails {w : Wipe} (h : Canon d) : Canon (d.sanitizeFails w) := by
  unfold Dev.sanitizeFails
  exact .upd h

theorem wipeErased {w : Wipe} {die : Nat} {verified : Bool} (h : Canon d) : Canon (d.wipeErased w die verified) := by
  unfold Dev.wipeErased
  refine .ite h ?_
  exact .ite h.modDie.modBg.badCheck.sanitizeFails
    (.ite h.modDie.modBg.journalPut.eraseGroup (.upd h.modDie.modBg.journalPut))

theorem emptyFlash (h : Canon d) : Canon d.emptyFlash := ⟨h.blocks, h.objects, Mem.wf_nil⟩

theorem sanitizePhase2 {w : Wipe} (h : Canon d) : Canon (d.sanitizePhase2 w) := by
  unfold Dev.sanitizePhase2
  exact .ite (.ite (.upd h.emptyFlash) (.addRecordSet (.upd h.emptyFlash))) h.emptyFlash.eraseGroup

theorem sanitizeDone (h : Canon d) : Canon d.sanitizeDone := by
  unfold Dev.sanitizeDone
  exact .upd h.modMedia.openPair.openTwice.fadd

theorem sanitizeRun {q cid action : Nat} {ause : Bool} (h : Canon d) : Canon (d.sanitizeRun q cid action ause) := by
  unfold Dev.sanitizeRun
  exact .sanitizePhase1 (.upd h.finish)

theorem emptySb {failed : List Nat} {g b : Nat} (h : Canon d) : Canon (d.emptySb failed g b) := by
  unfold Dev.emptySb
  exact .modSb (.modMedia (.foldl _ h.closeSb.modMedia.putUnits.drainBuffer.stopDies fun _ h => .ite
    h.journalPut.modBg.badCheck h.journalPut.modBg.journalPut))

theorem resumeErase {w : Wipe} {failed : List Nat} {first : Nat} (h : Canon d) : Canon (d.resumeErase w failed first) := by
  unfold Dev.resumeErase
  extract_lets _ _ stop e
  have he : Canon e := .foldl _ h fun _ h => .foldl _ h fun _ h => .ite h.journalPut.modBg.badCheck h.journalPut.modBg.journalPut
  clear_value e stop
  split
  · exact he.sanitizeFails
  · exact he.stopDies.sanitizeDone

theorem resumeWipe {failed : List Nat} (h : Canon d) : Canon (d.resumeWipe failed) := by
  unfold Dev.resumeWipe
  with_reducible_and_instances
    refine .opt h.finishKeyErases fun _ => .ite h.finishKeyErases ?_
    refine .ite ?_ ?_
    · beta_reduce
      extract_lets e _ f _ g
      have he : Canon e := .foldl _ h.finishKeyErases fun _ h => h.emptyNs
      have hf : Canon f := .ite (.foldl _ he fun _ h => h.emptySb) he
      have hg : Canon g := .ite hf.startKeys.finishKeyErases hf
      exact .upd hg
    · refine .ite ?_ h.finishKeyErases.sanitizePhase1.emptyFlash.resumeErase
      refine .sanitizeDone (.stopDies ?_)
      exact .ite h.finishKeyErases.sanitizePhase1.emptyFlash
        h.finishKeyErases.sanitizePhase1.emptyFlash.startKeys.finishKeyErases

theorem sanitizePhaseDone {erased : Bool} (h : Canon d) : Canon (sanitizePhaseDone d erased) := by
  unfold Machine.sanitizePhaseDone
  with_reducible_and_instances
    refine .opt h fun _ => .ite h ?_
    split
    · exact h.sanitizePhase2
    · exact h.sanitizeFails
    · exact h.sanitizeDone
    · exact h

/-! Functions of `Machine/Start`. -/

theorem revertUnit {table : AMap UnitLoc} {key : Nat} (h : Canon d) : Canon (d.revertUnit table key) := by
  unfold Dev.revertUnit
  dsimp only
  split
  · exact h.modMedia.zeroSpaces
  · split
    · exact h.storeNs.modMedia
    · exact h.modMedia.zeroSpaces

theorem loseBuffer (h : Canon d) : Canon d.loseBuffer := by
  unfold Dev.loseBuffer
  exact .foldl _ h.modMedia fun _ h => h.revertUnit

theorem loseWork {letter : Char} (h : Canon d) : Canon (d.loseWork letter) := by
  have hn {d : Dev} (h : Canon d) : Canon { d with bmem := [], objMem := [] } := ⟨Mem.wf_nil, Mem.wf_nil, h.spaces⟩
  unfold Dev.loseWork
  exact .upd (.upd (.ite (.foff (.upd (hn h))) (.modMedia (.foff (.upd (hn h))))))

theorem loseWriteSets (h : Canon d) : Canon d.loseWriteSets := by
  unfold Dev.loseWriteSets
  exact .abandonErases (.foldl _ h fun _ h => h.killSectors)

theorem loseState {letter : Char} (h : Canon d) : Canon (d.loseState letter) := by
  unfold Dev.loseState
  exact .foldl _ (.upd h.loseWriteSets.resetRegs.loseWork) fun _ h => h.modDie

theorem halfErased {failed : List (Nat × Nat)} (h : Canon d) : Canon (d.halfErased failed) := by
  unfold Dev.halfErased
  exact .foldl _ h fun _ h => h.modFlash.fadd

theorem restartTime (h : Canon d) : Canon d.restartTime := by
  unfold Dev.restartTime
  exact .upd h

theorem pickImage (h : Canon d) : Canon d.pickImage := by
  unfold Dev.pickImage
  exact .ite (.logFault (.draw (.fset (.fset (.upd h))))) (.fset (.fset (.upd h)))

theorem startSquares {ok : Bool × Bool} (h : Canon d) : Canon (d.startSquares ok) := by
  unfold Dev.startSquares
  exact .pickImage (.fset (.fset (.fset (.fset (.setSquare (.setSquare (.upd h)))))))

theorem measureFirmware (h : Canon d) : Canon d.measureFirmware := by
  unfold Dev.measureFirmware
  with_reducible_and_instances exact .opt h.measure.measure fun _ => h.measure.fset.measure.fset

theorem activatePlan (h : Canon d) : Canon d.activatePlan := by
  unfold Dev.activatePlan
  with_reducible_and_instances
    exact .opt h fun _ => .foldl _ (.upd (.clearBuckets (.rekindSectors (.killSectors (.fset (.upd h)))))) fun _ h => h.emptyNs

theorem applyAll (h : Canon d) : Canon d.applyAll := by
  unfold Dev.applyAll
  exact .makeKeys (.foldl _ (.upd h) fun _ h => h.takeRole.takeCells.fillBanks)

theorem measurePlan (h : Canon d) : Canon d.measurePlan := by
  unfold Dev.measurePlan
  with_reducible_and_instances exact .foldl _ h fun _ h => .opt h.measure fun _ => .ite h.measure.draw.logFault h.measure

theorem startLinks (h : Canon d) : Canon d.startLinks := by
  unfold Dev.startLinks
  exact .foldl _ (.upd (.foldl _ h fun _ h => .ite h.modKerb h)) fun _ h => .ite h h.putLink

theorem startKerbs {failed : List Nat} (h : Canon d) : Canon (d.startKerbs failed) := by
  unfold Dev.startKerbs
  exact .foldl _ h fun _ h => h.modKerb

theorem startQuarters {f : Discovery} (h : Canon d) : Canon (d.startQuarters f) := by
  unfold Dev.startQuarters
  induction ContainState.quarantined (Dev.contain d) with
  | none =>
      beta_reduce
      induction Discovery.failedQuarters f with
      | nil => exact h
      | cons => exact .fadd (.annotate (.upd h))
  | some => exact h

theorem startCells {failed : List (Nat × Nat)} (h : Canon d) : Canon (d.startCells failed) := by
  unfold Dev.startCells
  exact .foldl _ h fun _ h => .ite h h.fence

theorem staysFenced {was : List (Nat × Nat)} {activated : Bool} (h : Canon d) : Canon (d.staysFenced was activated).2 := by
  unfold Dev.staysFenced
  exact .foldlSnd _ h fun _ h => .iteSnd h.draw h.draw

theorem showMemory {gibs packages : List Nat} (h : Canon d) : Canon (d.showMemory gibs packages) := by
  unfold Dev.showMemory
  exact .foldl _ (.foldl _ h fun _ h => h.fset.fset.fset.foff) fun _ h => h.fset.fset.fset

theorem disableDistricts (h : Canon d) : Canon d.disableDistricts := by
  unfold Dev.disableDistricts
  exact .foldl _ h fun _ h => .ite h (.asyncVendor (.logError (.draw (.upd h))))

theorem startSpares {failed : List Nat} (h : Canon d) : Canon (d.startSpares failed) := by
  unfold Dev.startSpares
  with_reducible_and_instances
    extract_lets e f
    have he : Canon e := .foldl _ h fun _ h => .ite h h.annotate
    have hf : Canon f := by
      unfold f
      refine .foldl _ he fun b h => ?_
      split
      · exact h
      · exact h.modBlock
    refine .foldl _ hf fun _ h => .ite h ?_
    refine .opt h fun _ => ?_
    dsimp only
    beta_reduce
    induction Dev.physOf _ _ with
    | none =>
        beta_reduce
        induction Dev.nearestSpare _ _ with
        | none => exact h.modBlock
        | some => exact h.modBlock.modBlock.mapSpare.defaultWindows
    | some => exact h.modBlock

theorem holdup {microfarad : Nat} (h : Canon d) : Canon (d.holdup microfarad) := by
  unfold Dev.holdup
  exact .ite h.modMedia.fset.ftlError.logFault h.modMedia.fset

theorem finishErasures {failed : List Nat} (h : Canon d) : Canon (d.finishErasures failed) := by
  unfold Dev.finishErasures
  exact .foldl _ (.modMedia (.foldl _ h fun _ h => .ite h.emptySb.fadd h.emptySb)) fun _ h => h.journalPut

theorem findJournal (h : Canon d) : Canon d.findJournal := by
  unfold Dev.findJournal
  exact .ite h.modMedia.ftlError h.modMedia

theorem replay {clean : Bool} {failed : List Nat} (h : Canon d) : Canon (d.replay clean failed) := by
  unfold Dev.replay
  extract_lets e f g _ _ k m n o u
  have hf : Canon f := .ite h.findJournal h.findJournal.loseBuffer.ftlError
  have hm : Canon m := .ite hf.fset.modMedia hf.fset.modMedia.modMedia
  have hn : Canon n := .foldl _ hm fun _ h => h.badCheck
  have hu : Canon u := .ite hn.finishErasures.resumeWipe hn.finishErasures.resumeWipe.openPair
  exact .foldl _ hu.retireIdle fun _ h => h.relocate

theorem ready (h : Canon d) : Canon d.ready := by
  unfold Dev.ready
  exact .foldl _ (.showPower (.upd h.fset.draw.draw.fset.fset.fon)) fun _ h => h.setClock

theorem logReset {letter : Char} {cause : Nat} (h : Canon d) : Canon (d.logReset letter cause) := by
  unfold Dev.logReset
  dsimp only
  split
  · exact h.fset.fset.fadd
  · exact h.fset.fset.fadd
  · exact h.fset.fset.fadd
  · exact h.fset.fset

theorem phases {f : Discovery} {clean : Bool} {fenced : List (Nat × Nat)} (h : Canon d) : Canon (d.phases f clean fenced) := by
  unfold Dev.phases
  dsimp only
  generalize hd : Dev.ready _ = r
  have hr : Canon r := by
    rw [← hd]
    refine .ready (.fset (.replay (.foldl _ (.upd (.disableDistricts (.startSpares ?_))) fun _ h => h.modDie.retireDie)))
    exact h.measureFirmware.activatePlan.applyAll.measurePlan.startQuarters.staysFenced.startCells.holdup.startLinks.startKerbs.showMemory
  exact .ite hr.draw.shutDown hr

theorem startUp {letter : Char} {cause : Nat} {f : Discovery} (h : Canon d) : Canon (d.startUp letter cause f) := by
  unfold Dev.startUp
  extract_lets _ e _ g k _ m
  have hk : Canon k := by
    unfold k
    exact .ite h.loseState.logReset.halfErased.restartTime.startSquares.fadd
      h.loseState.logReset.halfErased.restartTime.startSquares
  have hm : Canon m := .upd hk
  exact .ite hm.fset hm.phases

theorem resetD {cause : Nat} (h : Canon d) : Canon (d.resetD cause) := by
  unfold Dev.resetD
  exact .phases (.pickImage (.logReset (.loseState (.ite h h.computeAbort.closeGates.flushMedia))))

theorem coldStart {f : Discovery} (h : Canon d) : Canon (coldStart d f) := h.startUp

theorem bankTest {microfarad : Nat} (h : Canon d) : Canon (bankTest d microfarad) := h.holdup

/-! Functions of `Machine/Squares`. -/

theorem monitorAnew (h : Canon d) : Canon d.monitorAnew := by
  unfold Dev.monitorAnew
  exact .upd (.fset (.upd h))

theorem interruptSnapshots (h : Canon d) : Canon d.interruptSnapshots := by
  unfold Dev.interruptSnapshots
  exact .foldl _ (.upd h) fun _ h => h.finishSquare

theorem rewriteSet (h : Canon d) : Canon d.rewriteSet := by
  unfold Dev.rewriteSet
  with_reducible_and_instances exact .lst h fun _ _ => .ite h (.driveWrites (.upd h.killSectors))

theorem logFailover {cause : Nat} (h : Canon d) : Canon (d.logFailover cause) := by
  unfold Dev.logFailover
  split
  · exact h.logFault
  · exact h
  · exact h.draw.logFault

theorem failTo {s cause : Nat} (h : Canon d) : Canon (d.failTo s cause) := by
  unfold Dev.failTo
  extract_lets e f _ g k _ m n
  have hg : Canon g := .upd h.logFailover.interruptSnapshots.sqOut
  have hk : Canon k := .ite hg hg.setSquare
  exact hk.fset.fadd.fset.rewriteSet.monitorAnew.freeDigest.measure

theorem failover {cause : Nat} (h : Canon d) : Canon (d.failover cause) := by
  unfold Dev.failover
  with_reducible_and_instances exact .opt h fun _ => h.failTo

theorem loseSquares (h : Canon d) : Canon d.loseSquares := by
  unfold Dev.loseSquares
  extract_lets e _ _ f g k
  have hf : Canon f := .upd h.sqOut.sqOut
  have hk : Canon k := .upd hf.fon.fset
  exact .ite hk hk.dropSlots.closeGates.flushMedia

theorem catchUp {s : Nat} (h : Canon d) : Canon (d.catchUp s) := by
  unfold Dev.catchUp
  exact .foldl _ h.modFlash fun _ h => .foldl _ h fun _ h => h.appendSector

theorem mergeReset {letter : Char} {detail : Nat} (h : Canon d) : Canon (d.mergeReset letter detail) := h.draw.logFault

theorem undefineStacks {c : Nat → Bool} (h : Canon d) : Canon (d.undefineStacks c) := by
  unfold Dev.undefineStacks
  exact .foldl _ h fun _ h => .ite h (.foldl _ h fun _ h => h.undefineObj)

theorem resetQ {q cause : Nat} (h : Canon d) : Canon (d.resetQ q cause) := by
  unfold Dev.resetQ
  extract_lets _ e f g k _ _ m n o u
  have hm : Canon m := .upd (.foldl _ h.logReset.amendsOver.computeAbort fun _ h => h.resetRegs)
  have hn : Canon n := .foldl _ hm fun _ h => h.clearTags.undefineBm
  have hu : Canon u := hn.undefineStacks.settleLinks.trainStacks
  exact .ite h.mergeReset (.ite hu.traceToStack3 hu)

theorem resetB {b : Nat} (h : Canon d) : Canon (d.resetB b) := by
  unfold Dev.resetB
  exact .ite h.mergeReset
    (.driveJobs (.upd (.resetRegs (.upd (.foldl _ h.amendsOver.abortBlock fun _ h => h.failQuery)))))

theorem reapply {b : Nat} (h : Canon d) : Canon (d.reapply b) := h.takeRole.takeCells.fillBanks.awaitNoMore

theorem heartbeat (h : Canon d) : Canon (heartbeat d) := by
  unfold Machine.heartbeat
  exact .ite h h.emit

theorem activeFails {cause : Nat} (h : Canon d) : Canon (activeFails d cause) := by
  unfold Machine.activeFails
  with_reducible_and_instances exact .opt (.ite h h.loseSquares) fun _ => h.failTo

theorem heartbeatMiss (h : Canon d) : Canon (heartbeatMiss d) := h.failover

theorem activeSquareFault (h : Canon d) : Canon (activeSquareFault d) := h.logFault.activeFails

theorem standbySquareFault (h : Canon d) : Canon (standbySquareFault d) := by
  unfold Machine.standbySquareFault
  with_reducible_and_instances exact .opt h fun _ => h.logFault.sqOut

theorem squaresLost (h : Canon d) : Canon (squaresLost d) := by
  unfold Machine.squaresLost
  exact .ite h h.loseSquares

theorem squareSelfTestDone {passed : Bool} (h : Canon d) : Canon (squareSelfTestDone d passed) := by
  unfold Machine.squareSelfTestDone
  exact .ite h (.ite (.upd h) (.driveWrites (.upd (.catchUp (.setSquare (.upd h))))))

theorem quarterResetDone {q : Nat} {passed : Bool} (h : Canon d) : Canon (quarterResetDone d q passed) := by
  unfold Machine.quarterResetDone
  refine .ite h ?_
  beta_reduce
  extract_lets _ e f g k m
  have he : Canon e := .upd h
  have hf : Canon f := .foldl _ he fun _ h => h.foff
  have hg : Canon g := .foldl _ he.settleLinks fun _ h => h.endBlockTest.reapply
  have hm : Canon m := .foldl _ hg.retrainStacks.restoreT0 fun _ h => .ite h.restoreBlock h
  exact .ite hf.draw.quarantine hm.driveStages.driveJobs

theorem blockResetDone {b : Nat} {passed : Bool} (h : Canon d) : Canon (blockResetDone d b passed) := by
  unfold Machine.blockResetDone
  refine .ite h ?_
  beta_reduce
  extract_lets _ e f
  have he : Canon e := .upd h
  exact .ite he.endBlockTest.reapply.driveStages.driveJobs he.endBlockTest.retireBlock

/-! Functions of `Machine/Plan`. -/

theorem planReject {hdr : Hdr} {r : Reject} {container : Bool} (h : Canon d) : Canon (d.planReject hdr r container) := by
  unfold Dev.planReject
  exact .finishSquare (.ite (.fadd (.ite h.planError.fadd h.planError)) (.ite h.planError.fadd h.planError))

theorem keyCause {cause : Nat} (h : Canon d) : Canon (d.keyCause cause) := h.fset

theorem beginAmend {hdr : Hdr} {c : Container} {reverting : Bool} (h : Canon d) : Canon (d.beginAmend hdr c reverting) := by
  unfold Dev.beginAmend
  extract_lets _ _ e f g k
  have hf : Canon f := .ite h.modSlot'.writeBanks h.modSlot'
  have hk : Canon k := .ite hf.modSlot'.quiesceScope.settleLinks hf.modSlot'.quiesceScope
  exact .ite hf.applyAmend (.ite hk.abandon hk)

theorem applyCmd {hdr : Hdr} {b : List Byte} (h : Canon d) : Canon (applyCmd d hdr b) := by
  unfold Machine.applyCmd
  with_reducible_and_instances
    exact .exc (fun _ => h.planReject) fun _ => .ite h.planReject (.ite h.planReject (.ite h.fadd.measure.finishSquare h.beginAmend))

theorem revertCmd {hdr : Hdr} (h : Canon d) : Canon (revertCmd d hdr) := by
  unfold Machine.revertCmd
  with_reducible_and_instances
    refine .ite h.planReject ?_
    exact .ite h.planReject
      (.opt h.planReject fun _ => .ite h.planReject (.exc (fun _ => h.planReject) fun _ => h.beginAmend))

theorem commitCmd {hdr : Hdr} (h : Canon d) : Canon (commitCmd d hdr) := by
  unfold Machine.commitCmd
  exact .ite h.planReject (.ite h.planReject (.ite h.planReject (.ite h.finishSquare h.addWriteSet)))

theorem planLoadCmd {hdr : Hdr} {activate : Bool} {b : List Byte} (h : Canon d) : Canon (planLoadCmd d hdr activate b) := by
  unfold Machine.planLoadCmd
  with_reducible_and_instances
    refine .ite h.finishSquare ?_
    exact .exc (fun _ => .planReject (.ite h.keyCause h)) fun _ => .ite (.planReject (.ite h.keyCause h)) (.ite
      h.addWriteSet h.addWriteSet)

theorem planDiscardCmd {hdr : Hdr} {activate : Bool} {length : Nat} (h : Canon d) :
    Canon (planDiscardCmd d hdr activate length) := by
  unfold Machine.planDiscardCmd
  exact .ite h.finishSquare (.ite h.planReject (.ite h.finishSquare h.addRecordSet))

theorem installKeys {c : Container} (h : Canon d) : Canon (d.installKeys c) := by
  unfold Dev.installKeys
  extract_lets _ e f
  have he : Canon e := by
    unfold e
    refine .foldl _ h fun s h => ?_
    beta_reduce
    induction Section.body _ with
    | keyTable => exact .foldl _ h fun _ h => .upd h
    | _ => exact h
  exact he.fset.measure

theorem setDone {w : WriteSet} {dw0 : optParam Nat 0} (h : Canon d) : Canon (d.setDone w dw0) := by
  unfold Dev.setDone
  with_reducible_and_instances exact .opt h fun _ => h.finishSquare

theorem stdDone {w : WriteSet} {st : Status} (h : Canon d) : Canon (d.stdDone w st) := by
  unfold Dev.stdDone
  with_reducible_and_instances exact .opt h fun _ => h.finish

theorem keysReplaced {slots : List Nat} {object : Nat} (h : Canon d) : Canon (d.keysReplaced slots object) := by
  unfold Dev.keysReplaced
  extract_lets e
  have he : Canon e := .keysIn (.foldl _ h fun _ h => h.nextKey)
  exact .ite he.keysDone he.driveWrites

theorem imageActive {w : WriteSet} {slot : Nat} {f : FwSlot} (h : Canon d) : Canon (d.imageActive w slot f) := by
  unfold Dev.imageActive
  exact .upd (.stdDone (.fset (.fset (.fset (.measure (.upd h.failover))))))

theorem imageStored {w : WriteSet} {slot action : Nat} {f : FwSlot} (h : Canon d) : Canon (d.imageStored w slot action f) := by
  unfold Dev.imageStored
  extract_lets e _ g _ k
  have hg : Canon g := .upd h.killSectors
  have hk : Canon k := .ite hg (.upd hg)
  exact .ite hk.stdDone (.ite hk.stdDone hk.imageActive)

theorem recordSaved {w : WriteSet} {f : HostState → HostState} (h : Canon d) : Canon (d.recordSaved w f) := by
  unfold Dev.recordSaved
  exact .stdDone (.upd h.killSectors)

theorem writeSetDone {w : WriteSet} (h : Canon d) : Canon (d.writeSetDone w) := by
  unfold Dev.writeSetDone
  induction WriteSet.effect w with
  | pendingPlan => exact .ite (.resetD (.upd h.killSectors)) (.setDone (.upd h.killSectors))
  | discardPlan => exact .setDone (.upd h.killSectors)
  | commitChain => exact .setDone (.foldl _ (.fset (.upd h)) fun _ h => h.measure)
  | keyTable => exact h.installKeys.setDone
  | firmware => exact h.imageStored
  | mirrorImage => exact h
  | nsKeys => exact h.keysReplaced
  | feature | queueClass => exact h.recordSaved

theorem settleWrites (h : Canon d) : Canon d.settleWrites := by
  unfold Dev.settleWrites
  with_reducible_and_instances exact .lst h fun _ _ => .ite (.driveWrites (.writeSetDone (.upd h))) h

theorem configErased {s : Nat} {verified : Bool} (h : Canon d) : Canon (configErased d s verified) := by
  unfold Machine.configErased
  exact .ite h h.sectorErased.settleWrites

theorem quiesceDrained {i : Nat} (h : Canon d) : Canon (quiesceDrained d i) := by
  unfold Machine.quiesceDrained
  with_reducible_and_instances exact .opt h fun _ => .ite h (.ite h.applyAmend h.abandon)

theorem quiesceTimeout {i : Nat} (h : Canon d) : Canon (quiesceTimeout d i) := by
  unfold Machine.quiesceTimeout
  with_reducible_and_instances exact .opt h fun _ => .ite h (.ite h.reach.applyAmend h.reach.abandon)

/-! Functions of `Machine/Security`. -/

theorem attestCmd {hdr : Hdr} {nonce : List Byte} {length : Nat} (h : Canon d) : Canon (attestCmd d hdr nonce length) := by
  unfold Machine.attestCmd
  exact .ite h.finishSquare h.fadd.sendHost.finishSquare

theorem imageDownloadCmd {hdr : Hdr} {offset : Nat} {b : List Byte} (h : Canon d) : Canon (imageDownloadCmd d hdr offset b) := by
  unfold Machine.imageDownloadCmd
  exact .ite h.finish (.ite h.finish (.finish (.upd h)))

theorem imageFails {cause : Nat} (h : Canon d) : Canon (d.imageFails cause) := by
  unfold Dev.imageFails
  exact .ite h.fset.fadd h.fset

theorem addImageSet {hdr : Hdr} {slot action n : Nat} {e : WriteEffect} (h : Canon d) :
    Canon (d.addImageSet hdr slot action n e) := by
  unfold Dev.addImageSet
  exact .ite h.finish (.driveWrites (.upd h))

theorem firmwareCommitCmd {hdr : Hdr} {slot0 action : Nat} (h : Canon d) : Canon (firmwareCommitCmd d hdr slot0 action) := by
  unfold Machine.firmwareCommitCmd
  with_reducible_and_instances
    refine .ite h.finish (.ite (.ite (.finish (.upd h)) h.finish) ?_)
    beta_reduce
    extract_lets _ _ e
    have he : Canon e := .upd h
    exact .exc (fun _ => he.imageFails.finish) fun _ => .ite he.draw.draw.draw.finish he.draw.draw.draw.addImageSet

/-! Functions of `Machine/Gate`. -/

theorem dropQueries {q cid : Nat} (h : Canon d) : Canon (d.dropQueries q cid) := by
  unfold Dev.dropQueries
  exact .finishPort (.retireIdle (.forget (.upd (.foldl _ h fun _ h => h.dropQuery))))

theorem dropCopy {x : Inflight} {hdr : Hdr} (h : Canon d) : Canon (d.dropCopy x hdr) := by
  unfold Dev.dropCopy
  with_reducible_and_instances exact .opt h fun _ => .ite h.endCopy h

theorem settleFlight {x : Inflight} (h : Canon d) : Canon (d.settleFlight x) := by
  unfold Dev.settleFlight
  extract_lets q cid _ e _ f _ _ g
  have he : Canon e := by
    have h' : Canon (if x.effective then d else d.forgetReads (65536 * q + cid)) := .ite h h.forgetReads
    unfold e
    induction x.command with
    | read | write | writeZeroes | deallocate | secureDeallocate | ingest => exact h'
    | _ => exact h
  have hf : Canon f := .upd he
  have hg : Canon g := .upd he
  have hn : Canon (f.finish q cid .transientTransportError) := hf.finish
  have hp : Canon (f.finishPort q cid .transientTransportError) := hf.finishPort
  have hr : Canon (e.finish q cid .transientTransportError) := he.finish
  have hd : Canon (match x.held with
      | some (st, _, _) => e.finish q cid st
      | none => e) := by
    with_reducible_and_instances exact .opt he fun _ => he.finish
  clear_value e f g
  induction x.command with
  | query => exact he.dropQueries
  | read => exact hn
  | write | writeZeroes | deallocate | secureDeallocate => exact .ite he hn
  | ingest | delete => exact .ite he hp
  | allocate | copyIn | copyOut => exact .ite hr he.dropCopy
  | snapshot => exact hg.finishSquare
  | _ => exact hd

theorem endAssoc {a : Nat} (h : Canon d) : Canon (d.endAssoc a) := by
  unfold Dev.endAssoc
  with_reducible_and_instances
    exact .opt h fun _ => .upd (.setReg (.setReg (.foldl _ (.foldl _ (.upd h) fun _ h => h.settleFlight) fun _ h => h.setReg)))

theorem gateReset {p : Nat} (h : Canon d) : Canon (d.gateReset p) := by
  unfold Dev.gateReset
  extract_lets _ e _ f g k
  have he : Canon e := .upd h
  have hf : Canon f := .foldl _ he fun _ h => h.endAssoc
  have hg : Canon g := by
    unfold g
    refine .foldl _ hf fun x h => ?_
    split
    · exact h.forgetReads.endCopy
    · exact h
  exact hg.resetRegs.fset.fadd

theorem setLink {p link : Nat} {up : Bool} (h : Canon d) : Canon (d.setLink p link up) := h.fset

theorem keepAliveExpiry {a : Nat} (h : Canon d) : Canon (keepAliveExpiry d a) := h.endAssoc

theorem gateFault {p : Nat} (h : Canon d) : Canon (gateFault d p) := by
  unfold Machine.gateFault
  exact .ite h h.logFault.gateReset

theorem linkTrained {p link media dm : Nat} (h : Canon d) : Canon (linkTrained d p link media dm) := by
  unfold Machine.linkTrained
  refine .ite h ?_
  beta_reduce
  extract_lets _ _ _ e f g k m
  have he : Canon e := .upd h
  have hf : Canon f := .ite he.fadd he
  have hm : Canon m := .ite hf.fset.fset.fset hf.fset.fset.fset.setLink
  exact hm.setLink

theorem linkDown {p link : Nat} (h : Canon d) : Canon (linkDown d p link) := by
  unfold Machine.linkDown
  exact .ite h h.setLink

theorem ethernetUncorrectable {p corrected : Nat} (h : Canon d) : Canon (ethernetUncorrectable d p corrected) := by
  unfold Machine.ethernetUncorrectable
  exact .ite h h.fadd.fadd.logFault

theorem ecnReceived {p qp : Nat} (h : Canon d) : Canon (ecnReceived d p qp) := by
  unfold Machine.ecnReceived
  exact .ite h h.emit

theorem cnpReceived {p qp : Nat} (h : Canon d) : Canon (cnpReceived d p qp) := by
  unfold Machine.cnpReceived
  exact .ite h (.upd h)

theorem pfcReceived {p prio : Nat} {pause : Bool} (h : Canon d) : Canon (pfcReceived d p prio pause) := by
  unfold Machine.pfcReceived
  exact .ite h (.upd h)

theorem linkEq {kind index : Nat} {high : Bool} (h : Canon d) : Canon (linkEq d kind index high) := by
  unfold Machine.linkEq
  exact .ite h h.setLink

/-! Functions of `Machine/Registers`. -/

theorem clearRc {r : RegRow} {a : Nat} (h : Canon d) : Canon (d.clearRc r a) := by
  unfold Dev.clearRc
  exact .ite h.setReg h

theorem storeReg {r : RegRow} {a v : Nat} (h : Canon d) : Canon (d.storeReg r a v) := h.setReg

theorem clearCounters {rows : List RegRow} {letters : Nat} (h : Canon d) : Canon (d.clearCounters rows letters) := by
  unfold Dev.clearCounters
  exact .upd h

theorem dropCache {k : Nat} (h : Canon d) : Canon (d.dropCache k) := by
  unfold Dev.dropCache
  dsimp only
  exact h.cacheDropWhere.modKerb

theorem clearKerbCounters {k : Nat} (h : Canon d) : Canon (d.clearKerbCounters k) := by
  unfold Dev.clearKerbCounters
  exact .upd h

theorem writeInject {b c : Nat} {r : RegRow} {a v : Nat} (h : Canon d) : CanonOk (d.writeInject b c r a v) := by
  unfold Dev.writeInject
  exact .ite .error (.ite (.ok h) (.ite (.ok h.storeReg) (.ite .error (.ok h))))

theorem writeBlkCtl {b : Nat} {r : RegRow} {a v : Nat} (h : Canon d) : CanonOk (d.writeBlkCtl b r a v) := by
  unfold Dev.writeBlkCtl
  exact .ite (.ok (.storeReg (.ite h h.setReg.setReg.setReg))) (.ite .error (.ok (.ite h h.setReg.setReg.setReg)))

theorem writeWindow {b x a v : Nat} (h : Canon d) : CanonOk (d.writeWindow b x a v) := by
  have hz (left : List Nat) : Canon { d with bmem := left.foldl (fun m u => Mem.zero m (2 ^ 23 * b + 65536 * u) 65536) d.bmem } :=
    ⟨foldl_keeps (Mem.wf · = true) _ _ _ h.blocks fun m u hm => Mem.wf_zero m _ _ hm, h.objects, h.spaces⟩
  unfold Dev.writeWindow
  exact .ite (.ok h) (.ite .error (.ok (hz _).setReg))

theorem writeKerbCtl {k : Nat} {r : RegRow} {a v : Nat} (h : Canon d) : CanonOk (d.writeKerbCtl k r a v) := by
  unfold Dev.writeKerbCtl
  extract_lets e f g
  have hf : Canon f := .ite h.storeReg.clearKerbCounters h.storeReg
  have hg : Canon g := .ite hf.dropCache hf
  exact .ite .error (.ok (.ite hg (.ite hg.mergeReset hg.kerbReset)))

theorem writeLight {l : Nat} {add : Bool} {v : Nat} (h : Canon d) : Canon (d.writeLight l add v) := by
  unfold Dev.writeLight
  exact .ite h.draw.lightAdd h.draw.lightSet

theorem writeLightCtl {l : Nat} {r : RegRow} {a v : Nat} (h : Canon d) : CanonOk (d.writeLightCtl l r a v) := by
  unfold Dev.writeLightCtl
  exact .ite .error (.ok h.storeReg)

theorem writeTime {v : Nat} (h : Canon d) : CanonOk (d.writeTime v) := by
  unfold Dev.writeTime
  exact .ite (.ok h.stepForward) .error

theorem writeReset {v : Nat} (h : Canon d) : CanonOk (d.writeReset v) := by
  unfold Dev.writeReset
  exact .ite (.ok h.resetD) (.ite (.ok h.resetQ) (.ite (.ok h.resetB) .error))

theorem emptyTrace (h : Canon d) : Canon d.emptyTrace := by
  unfold Dev.emptyTrace
  exact .setReg (.upd h)

theorem armTrace (h : Canon d) : Canon d.armTrace := by
  unfold Dev.armTrace
  exact .ite (.fset (.fset (.upd h.emptyTrace))) (.fset (.upd h.emptyTrace))

theorem writeTrace {r : RegRow} {a v cause : Nat} (h : Canon d) : CanonOk (d.writeTrace r a v cause) := by
  unfold Dev.writeTrace
  extract_lets _ e _ f g k
  have hf : Canon f := .ite h.storeReg.fset (.ite h.storeReg.fset h.storeReg)
  have hg : Canon g := .ite hf.emptyTrace.setReg hf
  have hk : Canon k := .ite hg.armTrace hg
  exact .ite .error (.ok (.ite hk.traceTrigger hk))

theorem abandonAll {mask : Nat} (h : Canon d) : Canon (d.abandonAll mask) := by
  unfold Dev.abandonAll
  exact .foldl _ h fun _ h => h.abandon

theorem writeEffect {who : Who} {r : RegRow} {ix : List Nat} {a v : Nat} (h : Canon d) : CanonOk (d.writeEffect who r ix a v) := by
  have hs := h.storeReg (r := r) (a := a) (v := v)
  unfold Dev.writeEffect
  split
  · exact .ok hs.abandonAll
  · exact h.writeInject
  · exact h.writeBlkCtl
  · exact h.writeWindow
  · exact h.writeKerbCtl
  · exact .ok h.writeLight
  · exact .ok h.writeLight
  · exact h.writeLightCtl
  · exact .ok (.ite hs.clearCounters.modMedia hs)
  · exact .ok (.foldl _ (.ite h.clearCounters h) fun _ h => h.gateReset)
  · exact .ite .error (.ok hs)
  · exact .ite .error (.ok hs)
  · exact .ok hs.forceHold
  · exact h.writeTime
  · exact .ok (.ite hs.clearCounters hs)
  · exact .ite (.ok h) (.ite .error (.ok h.failover))
  · exact h.writeReset
  · exact .ok (.ite h h.fset.fset)
  · exact h.writeTrace
  · exact .ite .error (.ok hs)
  · exact .ite .error (.ok hs)
  · exact .ok hs

theorem writeReg {who : Who} {a bytes v : Nat} (h : Canon d) (he : d.writeReg who a bytes v = .ok e) : Canon e := by
  unfold Dev.writeReg at he
  split at he
  · cases he
  · exact CanonOk.ite h.writeEffect .error e he

theorem readRegs {who : Who} {a bytes count : Nat} {keep : Bool} {vs : List Nat} (h : Canon d)
    (he : d.readRegs who a bytes count keep = .ok (vs, e)) : Canon e := by
  unfold Dev.readRegs at he
  dsimp only at he
  split at he
  · cases he
  · refine of_snd (Except.ok.inj he) (.foldlSnd _ h fun i h => ?_)
    split
    · exact .ite h h.clearRc
    · exact h

/-! Functions of `Machine/Trace`. -/

theorem traceRead {limit : Nat} (h : Canon d) : Canon (d.traceRead limit).2 := h.fset

theorem telemetryRead {limit : Nat} (h : Canon d) : Canon (d.telemetryRead limit).2 := h.fset

theorem creditEntries {ports : List Nat} (h : Canon d) : Canon (d.creditEntries ports).2 := by
  unfold Dev.creditEntries
  exact .foldlSnd _ h fun _ h => h.freeBytes

theorem sectionsOf {unit time : Nat} {silent : Bool} (h : Canon d) : Canon (d.sectionsOf unit time silent).2 := by
  unfold Dev.sectionsOf
  dsimp only
  split
  · exact h
  · exact h
  · exact h
  · exact .iteSnd h h.creditEntries
  · exact .iteSnd h h.creditEntries

theorem freeKind (h : Canon d) : Canon d.freeKind.2 := h.draw

theorem counterSnapshot (h : Canon d) : Canon d.counterSnapshot.2 := h.freeKind

theorem reply {type seq status : Nat} {payload : List Byte} (h : Canon d) : Canon (d.reply type seq status payload) := by
  unfold Dev.reply
  exact .upd h.emit

theorem snapshotDone {hdr : Hdr} {bytes : List Byte} (h : Canon d) : Canon (d.snapshotDone hdr bytes) := h.sendHost.finishSquare

theorem startStandstill {queue : Option (Nat × Nat)} {request : Option Nat} {length : Nat} (h : Canon d) :
    Canon (d.startStandstill queue request length) := by
  unfold Dev.startStandstill
  exact .upd h

theorem takeSnapshot {kind length : Nat} (h : Canon d) : Canon (d.takeSnapshot kind length).2 := by
  unfold Dev.takeSnapshot
  split
  · exact h.counterSnapshot
  · exact h.traceRead
  · exact h.telemetryRead
  · exact h

theorem replyPart {seq offset : Nat} (h : Canon d) : Canon (d.replyPart seq offset) := h.reply

theorem serveSnapshot {c : Instr} (h : Canon d) : Canon (d.serveSnapshot c) := by
  unfold Dev.serveSnapshot
  induction c with
  | snapshot => exact .ite h.startStandstill h.takeSnapshot.snapshotDone
  | monitorSnapshot => exact .ite h.startStandstill (.replyPart (.upd h.takeSnapshot))
  | _ => exact h

theorem askSnapshot {c : Instr} (h : Canon d) : Canon (d.askSnapshot c) := by
  unfold Dev.askSnapshot
  exact .ite (.upd h) h.serveSnapshot

theorem standstillCheck (h : Canon d) : Canon d.standstillCheck := by
  unfold Dev.standstillCheck
  with_reducible_and_instances
    refine .opt h fun _ => ?_
    exact .ite h
      (.foldl _ (.opt (.opt (.upd h) fun _ => .replyPart (.upd (.upd h))) fun _ => .snapshotDone (.upd h)) fun _ h => h.askSnapshot)

theorem addSections {unit : Nat} {silent : Bool} (h : Canon d) : Canon (d.addSections unit silent) := by
  unfold Dev.addSections
  with_reducible_and_instances exact .opt h fun _ => .ite h (.standstillCheck (.upd h.sectionsOf))

theorem telemetryPut {bytes : List Byte} (h : Canon d) : Canon (d.telemetryPut bytes) := by
  unfold Dev.telemetryPut
  exact .ite (.upd h) (.upd h)

theorem telemetryRecord {src ev size : Nat} {fields : List Byte} (h : Canon d) :
    Canon (d.telemetryRecord src ev size fields) := h.takeSeq.telemetryPut

theorem loopFields (h : Canon d) : Canon d.loopFields.2 := by
  unfold Dev.loopFields
  exact .foldlSnd _ h fun _ h => h.freeBytes

theorem telemetryTake (h : Canon d) : Canon d.telemetryTake := by
  unfold Dev.telemetryTake
  exact .upd (.telemetryRecord (.loopFields (.foldl _ (.foldl _ h.telemetryRecord fun _ h => h.freeBytes.telemetryRecord)
    fun _ h => h.telemetryRecord)))

theorem snapshotCmd {hdr : Hdr} {kind length : Nat} (h : Canon d) : Canon (snapshotCmd d hdr kind length) := by
  unfold Machine.snapshotCmd
  with_reducible_and_instances exact .opt h.finishSquare fun _ => .ite h.finishSquare h.askSnapshot

theorem standstillLatch {kind i : Nat} (h : Canon d) : Canon (standstillLatch d kind i) := by
  unfold Machine.standstillLatch
  with_reducible_and_instances exact .opt h fun _ => h.reach.addSections

theorem snapshotUnitTimeout {kind i : Nat} (h : Canon d) : Canon (snapshotUnitTimeout d kind i) := by
  unfold Machine.snapshotUnitTimeout
  with_reducible_and_instances exact .opt h fun _ => h.reach.addSections

theorem telemetrySample (h : Canon d) : Canon (telemetrySample d) := by
  unfold Machine.telemetrySample
  exact .ite h.telemetryTake h

/-! Functions of `Machine/Host`. -/

theorem chargeRead {q cid n : Nat} (h : Canon d) : Canon (d.chargeRead q cid n) := by
  unfold Dev.chargeRead
  with_reducible_and_instances exact .opt h fun _ => h.countPort

theorem chargeWrite {q cid bytes n : Nat} (h : Canon d) : Canon (d.chargeWrite q cid bytes n) := by
  unfold Dev.chargeWrite
  with_reducible_and_instances exact .opt h fun _ => h.countPort.fadd

theorem awaitBuffer {hdr : Hdr} {c : Instr} (h : Canon d) : Canon (d.awaitBuffer hdr c) := h.takeEffect.modMedia.settleAcks

theorem readCmd {hdr : Hdr} {ns lba blocks : Nat} {ready : Bool} (h : Canon d) : Canon (d.readCmd hdr ns lba blocks ready) := by
  unfold Dev.readCmd
  split
  · exact h.finish
  · refine .ite h.finish ?_
    split
    next hr =>
      have h : Canon _ := of_snd hr (.iteSnd h h.readPieces)
      exact .ite h h.chargeRead.sendHost.finish

theorem zeroNs {owner : Option (Nat × Nat)} {ns o n : Nat} (h : Canon d) : Canon (d.zeroNs owner ns o n) := by
  unfold Dev.zeroNs
  exact h.zeroSpaces.fadd.putUnits

theorem writeCmd {hdr : Hdr} {ns lba blocks : Nat} {data : Option (List Byte)} {ready : Bool} {c : Instr} (h : Canon d) :
    Canon (d.writeCmd hdr ns lba blocks data ready c) := by
  unfold Dev.writeCmd
  with_reducible_and_instances
    refine .exc (fun _ => h.finish) fun _ => .ite h.finish ?_
    refine .ite h.finish ?_
    split
    next _ _ r hr =>
      have h := of_snd hr (.iteSnd h h.readPieces)
      exact .ite h (.awaitBuffer (.chargeWrite (.opt h.zeroNs fun _ => h.writeNs)))

theorem deallocCmd {hdr : Hdr} {ns : Nat} {ranges : List LbaRange} {ready : Bool} {c : Instr} (h : Canon d) :
    Canon (d.deallocCmd hdr ns ranges ready c) := by
  unfold Dev.deallocCmd
  with_reducible_and_instances
    refine .opt ?_ fun _ => h.finish
    refine .opt h.finish fun _ => .ite h.finish ?_
    refine .ite h.finish ?_
    split
    next _ _ r hr =>
      have h := of_snd hr (.iteSnd h h.readPieces)
      refine .ite h ?_
      beta_reduce
      extract_lets _ _ e
      have he : Canon e := .foldl _ h fun _ h => h.discard
      exact .ite he.awaitBuffer he.takeEffect.secureStart

theorem flushCmd {hdr : Hdr} {ns : Nat} (h : Canon d) : Canon (d.flushCmd hdr ns) := h.finish

theorem finishAccess {hdr : Hdr} {st : Status} {dw0 : optParam Nat 0} (h : Canon d) : Canon (d.finishAccess hdr st dw0) := by
  unfold Dev.finishAccess
  exact .ite h (.ite h.finishSquare h.finishPort)

theorem registerReadCmd {hdr : Hdr} {a count : Nat} {wide : Bool} {length : Nat} (h : Canon d) :
    Canon (d.registerReadCmd hdr a count wide length) := by
  unfold Dev.registerReadCmd
  refine .ite h.finishAccess (.ite h.finishAccess ?_)
  refine .ite h.finishAccess ?_
  split
  · exact h.finishAccess
  next _ _ r hr =>
    have h := h.readRegs hr
    exact h.sendHost.finishAccess

theorem registerWriteCmd {hdr : Hdr} {a : Nat} {wide : Bool} {v : Nat} (h : Canon d) :
    Canon (d.registerWriteCmd hdr a wide v) := by
  unfold Dev.registerWriteCmd
  split
  · exact h.finishAccess
  next _ r hr =>
    have h := h.writeReg hr
    exact h.finishAccess

theorem accessCmd {hdr : Hdr} {n : Access} (h : Canon d) : Canon (d.accessCmd hdr n) := by
  unfold Dev.accessCmd
  split
  · exact h.registerWriteCmd
  · exact h.registerReadCmd

theorem modAssoc {a : Nat} {f : Assoc → Assoc} (h : Canon d) : Canon (d.modAssoc a f) := by
  unfold Dev.modAssoc
  exact .upd h

theorem putFeature {hdr : Hdr} {f v : Nat} {save : Bool} (h : Canon d) : Canon (d.putFeature hdr f v save) := by
  unfold Dev.putFeature
  exact .ite (.addRecordSet (.upd h)) (.finish (.upd h))

theorem setQueues {hdr : Hdr} {a : Nat} {x : Assoc} {dw11 : Nat} (h : Canon d) : Canon (d.setQueues hdr a x dw11) := by
  unfold Dev.setQueues
  exact .ite h.finish (.ite h.finish (.ite h.finish h.modAssoc.finish))

theorem setBase {hdr : Hdr} {a : Nat} {x : Assoc} {dw11 : Nat} (h : Canon d) : Canon (d.setBase hdr a x dw11) := by
  unfold Dev.setBase
  exact .ite h.finish (.ite h.finish h.modAssoc.fset.finish)

theorem setClass {hdr : Hdr} {x : Assoc} {save : Bool} {dw11 : Nat} (h : Canon d) : Canon (d.setClass hdr x save dw11) := by
  unfold Dev.setClass
  with_reducible_and_instances exact .opt h.finish fun _ => .ite h.finish (.ite (.addRecordSet (.upd h)) (.finish (.upd h)))

theorem setFeaturesCmd {hdr : Hdr} {f : Nat} {save : Bool} {dw11 dw12 : Nat} {data : List Byte} (h : Canon d) :
    Canon (d.setFeaturesCmd hdr f save dw11 dw12 data) := by
  unfold Dev.setFeaturesCmd
  with_reducible_and_instances
    refine .ite h.finish ?_
    split
    · exact .ite h.putFeature h.finish
    · exact .ite h.finish (.putFeature (.upd h))
    · exact .ite h.putFeature h.finish
    · exact .opt h.finish fun _ => .ite h.finish (.putFeature (.upd h))
    · exact h.setQueues
    · exact h.modAssoc.finish
    · exact .ite h.finish h.modAssoc.finish
    · exact h.setBase
    · exact h.setClass
    · exact h.finish

theorem getFeaturesCmd {hdr : Hdr} {f select dw11 : Nat} (h : Canon d) : Canon (d.getFeaturesCmd hdr f select dw11) := by
  unfold Dev.getFeaturesCmd
  with_reducible_and_instances
    exact .opt h.finish fun _ => .opt h.finish fun _ => .ite h.finish (.ite h.finish (.finish (.ite h.sendHost h)))

theorem getLogPageCmd {hdr : Hdr} {page length : Nat} (h : Canon d) : Canon (d.getLogPageCmd hdr page length) := by
  unfold Dev.getLogPageCmd
  with_reducible_and_instances
    refine .opt h.finish fun _ => ?_
    exact .ite h.sendHost.finish
      (.ite (.finish (.sendHost (.upd h))) (.opt h.finish fun _ => .finish (.sendHost (.ite (.upd h) h))))

theorem identifyCmd {hdr : Hdr} {cns nsid : Nat} (h : Canon d) : Canon (d.identifyCmd hdr cns nsid) := by
  unfold Dev.identifyCmd
  with_reducible_and_instances
    dsimp only
    split
    · exact .opt h.finish fun _ => h.sendHost.finish
    · exact .ite h.sendHost.finish h.finish
    · exact h.sendHost.finish
    · exact h.finish

theorem abortCmd {hdr : Hdr} {sqid cid : Nat} (h : Canon d) : Canon (d.abortCmd hdr sqid cid) := by
  unfold Dev.abortCmd
  exact .ite (.finish (.finish (.upd h))) h.finish

theorem asyncCmd {hdr : Hdr} (h : Canon d) : Canon (d.asyncCmd hdr) := by
  unfold Dev.asyncCmd
  with_reducible_and_instances
    exact .opt h fun _ => .lst (.ite h.finish h.leave.modAssoc) fun _ _ => h.leave.modAssoc.postAsync

theorem formatCmd {hdr : Hdr} {nsid lbaf ses : Nat} (h : Canon d) : Canon (d.formatCmd hdr nsid lbaf ses) := by
  unfold Dev.formatCmd
  with_reducible_and_instances exact .opt h.formatRun fun _ => h.finish

theorem sanitizeCmd {hdr : Hdr} {action : Nat} {ause noDealloc : Bool} (h : Canon d) :
    Canon (d.sanitizeCmd hdr action ause noDealloc) := by
  unfold Dev.sanitizeCmd
  with_reducible_and_instances
    exact .ite h.finish
      (.ite h.sanitizeRun (.opt h.finish fun _ => .ite (.ite (.finish (.upd h)) h.finish) h.finish))

theorem connectAdmin {hdr : Hdr} {a port link : Nat} {rdma : Bool} {depth kato : Nat} {nqn : List Byte} {mtu maxReads maxDepth : Nat} (h : Canon d) :
    Canon (d.connectAdmin hdr a port link rdma depth kato nqn mtu maxReads maxDepth) := by
  unfold Dev.connectAdmin
  exact .ite h.finish (.ite h.finish (.finish (.upd h.draw.setReg.setReg)))

theorem connectIo {hdr : Hdr} {a qid depth : Nat} {x : Assoc} (h : Canon d) : Canon (d.connectIo hdr a qid depth x) := by
  unfold Dev.connectIo
  with_reducible_and_instances
    exact .opt h.finish fun _ => .ite h.finish (.ite h.finish (.finish (.upd h.modAssoc.setReg.fset.fset)))

theorem propertyGetCmd {hdr : Hdr} {offset : Nat} {wide : Bool} (h : Canon d) : Canon (d.propertyGetCmd hdr offset wide) := by
  unfold Dev.propertyGetCmd
  with_reducible_and_instances exact .opt h.finish fun _ => h.finishWith

theorem propertySetCmd {hdr : Hdr} {offset value : Nat} (h : Canon d) : Canon (d.propertySetCmd hdr offset value) := by
  unfold Dev.propertySetCmd
  exact .ite h.modAssoc.finish (.ite (.ite h.resetD h.finish) h.finish)

theorem endQueue {a q : Nat} (h : Canon d) : Canon (d.endQueue a q) := by
  unfold Dev.endQueue
  with_reducible_and_instances exact .opt h fun _ => .fset (.setReg (.foldl _ (.upd h) fun _ h => h.settleFlight))

theorem disconnectCmd {hdr : Hdr} {qid : Nat} (h : Canon d) : Canon (d.disconnectCmd hdr qid) := by
  unfold Dev.disconnectCmd
  with_reducible_and_instances
    exact .opt h fun _ => .ite h.finish.endAssoc (.opt h.finish fun _ => .ite h.finish.endQueue h.finish)

/-! Functions of `Machine/Arrive`. -/

theorem refuse {c : Instr} {hdr : Hdr} {st : Status} (h : Canon d) : Canon (d.refuse c hdr st) := by
  unfold Dev.refuse
  induction kindOf c with
  | compute =>
    have hn : Canon (d.finish hdr.queue hdr.cid st) := h.finish
    induction c with
    | compute => exact h.refuseCompute
    | _ => exact hn
  | vendorIo => exact h.finishPort
  | vendorAdmin => exact h.finishSquare
  | register => exact h.finishAccess
  | _ => exact h.finish

/-- A command that is a row of the register operations, or one that no host sends. -/
theorem hostAccess {x : Option Hdr} {y : Option (Requester × Access)} (h : Canon d) :
    Canon (match x, y with
      | some hdr, some (_, a) => d.accessCmd hdr a
      | _, _ => d) := by
  cases x with
  | none => exact h
  | some =>
    induction y with
    | none => exact h
    | some => exact h.accessCmd

theorem hostBody {c : Instr} {ready : Bool} (h : Canon d) : Canon (d.hostBody c ready) := by
  have hd := h.hostAccess (x := hdrOf c) (y := accessOf d c)
  unfold Dev.hostBody
  induction c
  -- SEAL, whose constructor has the name of a command of Lean
  on_goal 14 => exact h.sealCmd
  case flush => exact h.flushCmd
  case write => exact h.writeCmd
  case read => exact h.readCmd
  case writeZeroes => exact h.writeCmd
  case deallocate => exact h.deallocCmd
  case secureDeallocate => exact h.deallocCmd
  case query => exact h.queryCmd
  case ingest => exact h.ingestCmd
  case delete => exact h.deleteCmd
  case compute => exact h.compute
  case create => exact h.createCmd
  case switch => exact h.switchCmd
  case retire => exact h.retireCmd
  case filterLoad => exact h.filterLoadCmd
  case repair => exact h.repairCmd
  case stats => exact h.statsCmd
  case allocate => exact h.allocateCmd
  case release => exact h.releaseCmd
  case update => exact h.updateCmd
  case copyIn => exact h.copyInCmd
  case copyOut => exact h.copyOutCmd
  case bind => exact h.bindCmd
  case unbind => exact h.unbindCmd
  case report => exact h.reportCmd
  case registerRead => exact h.registerReadCmd
  case registerWrite => exact h.registerWriteCmd
  case getLogPage => exact h.getLogPageCmd
  case identify => exact h.identifyCmd
  case abort => exact h.abortCmd
  case setFeatures => exact h.setFeaturesCmd
  case getFeatures => exact h.getFeaturesCmd
  case asynchronousEventRequest => exact h.asyncCmd
  case firmwareImageDownload => exact h.imageDownloadCmd
  case firmwareCommit => exact h.firmwareCommitCmd
  case keepAlive => exact h.finish
  case formatNvm => exact h.formatCmd
  case sanitize => exact h.sanitizeCmd
  case propertyGet => exact h.propertyGetCmd
  case propertySet => exact h.propertySetCmd
  case disconnect => exact h.disconnectCmd
  case planLoad => exact h.planLoadCmd
  case planDiscard => exact h.planDiscardCmd
  case apply => exact h.applyCmd
  case commit => exact h.commitCmd
  case revert => exact h.revertCmd
  case snapshot => exact h.snapshotCmd
  case attest => exact h.attestCmd
  case leaseLend => exact h.leaseLendCmd
  case leasePeer => exact h.leasePeerCmd
  case leaseAcquire => exact h.leaseAcquireCmd
  case leaseReturn => exact h.leaseReturnCmd
  case leaseRevoke => exact h.leaseRevokeCmd
  case leaseStatus => exact h.leaseStatusCmd
  all_goals exact hd

theorem registerLocks {c : Instr} {hdr : Hdr} (h : Canon d) : Canon (d.registerLocks c hdr) := by
  unfold Dev.registerLocks
  exact .upd h

theorem waitLocked {c : Instr} (h : Canon d) : Canon (d.waitLocked c) := by
  unfold Dev.waitLocked
  exact .fadd (.upd h)

theorem runLocked {c : Instr} {hdr : Hdr} (h : Canon d) : Canon (d.runLocked c hdr) := by
  unfold Dev.runLocked
  exact .ite h.registerLocks.waitLocked h.registerLocks.hostBody

theorem modArb {g : Nat} {f : GateArb → GateArb} (h : Canon d) : Canon (d.modArb g f) := by
  unfold Dev.modArb
  exact .upd h

theorem fetchOutside {c : Instr} (h : Canon d) : Canon (d.fetchOutside c) := by
  unfold Dev.fetchOutside
  induction kindOf c with
  | admin | vendorAdmin =>
      beta_reduce
      induction Dev.standby d with
      | none => exact h.suspendErase
      | some => exact h
  | _ => exact h

theorem leaveQueue {c : Instr} {hdr : Hdr} (h : Canon d) : Canon (d.leaveQueue c hdr) := by
  unfold Dev.leaveQueue
  exact .fetchOutside (.ite (.fadd (.upd h)) (.upd h))

theorem dispatch {c : Instr} {hdr : Hdr} (h : Canon d) : Canon (d.dispatch c hdr) := by
  unfold Dev.dispatch
  with_reducible_and_instances exact .opt h.leaveQueue.runLocked fun _ => h.leaveQueue.refuse

theorem serveQueue {g q : Nat} {a : GateArb} {yields : Bool} (h : Canon d) : Canon (d.serveQueue g q a yields) := by
  unfold Dev.serveQueue
  exact .upd (.ite h.modArb.fadd h.modArb)

theorem dispatchNext {g : Nat} (h : Canon d) : Canon (d.dispatchNext g) := by
  unfold Dev.dispatchNext
  with_reducible_and_instances exact .opt h fun _ => .opt h fun _ => .opt h fun _ => h.serveQueue.dispatch

theorem wakeFor {c : Instr} (h : Canon d) : Canon (d.wakeFor c) := by
  unfold Dev.wakeFor
  with_reducible_and_instances exact .ite h (.ite (.upd h) (.opt h fun _ => .ite (.upd h) h))

theorem noteEntryWait {c : Instr} {hdr : Hdr} (h : Canon d) : Canon (d.noteEntryWait c hdr) := by
  unfold Dev.noteEntryWait
  exact .ite h (.fadd (.upd h))

theorem noteHeads {g : Nat} (h : Canon d) : Canon (d.noteHeads g) := by
  unfold Dev.noteHeads
  with_reducible_and_instances exact .foldl _ h fun _ h => .opt h fun _ => .opt h fun _ => .ite h h.noteEntryWait

theorem joinQueue {c : Instr} {hdr : Hdr} (h : Canon d) : Canon (d.joinQueue c hdr) := by
  unfold Dev.joinQueue
  exact .upd h

theorem arrive {c : Instr} (h : Canon d) : Canon (d.arrive c) := by
  unfold Dev.arrive
  with_reducible_and_instances
    exact .opt h fun _ => .ite h (.ite h.wakeFor.joinQueue h.wakeFor.joinQueue.dispatchNext.noteHeads)

theorem connectArrives {c : Instr} (h : Canon d) : Canon (connectArrives d c) := by
  unfold Machine.connectArrives
  induction c with
  | connect =>
    refine .ite h (.ite h (.ite h.finish (.ite h.finish (.ite h.connectAdmin ?_))))
    with_reducible_and_instances exact .opt h fun _ => h.connectIo
  | _ => exact h

theorem gateDispatch {g : Nat} (h : Canon d) : Canon (gateDispatch d g) := by
  unfold Machine.gateDispatch
  exact .ite h h.dispatchNext.noteHeads

theorem rangeLockAcquire {queue cid : Nat} (h : Canon d) : Canon (rangeLockAcquire d queue cid) := by
  unfold Machine.rangeLockAcquire
  with_reducible_and_instances exact .opt h fun _ => .opt h fun _ => .ite h (.hostBody (.upd h))

/-! Functions of `Machine/Reads`. -/

theorem countSteps {tried : Bool} {step n : Nat} (h : Canon d) : Canon (d.countSteps tried step n) := by
  unfold Dev.countSteps
  extract_lets e f
  have he : Canon e := .ite h.fadd h
  have hf : Canon f := .ite he.fadd he
  split
  · exact hf.fadd
  · exact hf.fadd
  · exact hf

theorem logRead {die step : Nat} (h : Canon d) : Canon (d.logRead die step) := by
  unfold Dev.logRead
  exact .ite h h.draw.draw.logError

theorem addReads {die b n : Nat} (h : Canon d) : Canon (d.addReads die b n) := by
  unfold Dev.addReads
  exact .ite h.modBg.scheduleRewrite h.modBg

theorem noteRebuild {k j : Nat} (h : Canon d) : Canon (d.noteRebuild k j) := by
  unfold Dev.noteRebuild
  exact .ite h.modDie.retireDie h.modDie

theorem readEffects {k j : Nat} {o : DieOp} {step bits n : Nat} {tried : Bool} (h : Canon d) :
    Canon (d.readEffects k j o step bits n tried) := by
  unfold Dev.readEffects
  extract_lets _ _ e f _ g m
  have hf : Canon f := .ite h.countSteps.logRead.addReads h.countSteps.logRead
  have hg : Canon g := .ite (.foldl _ hf fun _ h => h.fadd.addReads) hf
  have hm : Canon m := .ite hg.scheduleRewrite hg
  exact .ite hm.noteRebuild hm

theorem hostUnread {tag : Nat} (h : Canon d) : Canon (d.hostUnread tag) := by
  unfold Dev.hostUnread
  with_reducible_and_instances
    refine .opt h.forgetReads fun _ => ?_
    beta_reduce
    split
    · exact h.forgetReads.endCopy
    · exact h.forgetReads.endCopy
    · exact h.forgetReads.endCopy
    · exact .opt h.forgetReads fun _ => h.forgetReads.refuse

theorem hostReady {tag : Nat} (h : Canon d) : Canon (d.hostReady tag) := by
  unfold Dev.hostReady
  with_reducible_and_instances exact .ite h (.opt h fun _ => h.hostBody)

theorem deliver {o : DieOp} {bad : Bool} (h : Canon d) : Canon (d.deliver o bad) := by
  unfold Dev.deliver
  induction DieOp.purpose o with
  | hostRead => exact .ite h.hostUnread h.hostReady
  | text => exact h.textRead
  | gather => exact h.gatherRead
  | passage => exact h.passageRead
  | speculate | patrol | program | erase | calibrate => exact h
  | relocate => exact .checkErasures (.ite h h.putUnits)
  | _ => exact h.blockRead

theorem arrives {k : Nat} {o : DieOp} {bad : Bool} (h : Canon d) : Canon (d.arrives k o bad) := by
  unfold Dev.arrives
  refine .ite (.deliver (.ite h.cachePut h)) ?_
  dsimp only
  induction DieOp.purpose o with
  | speculate => exact .ite h.fadd.fadd h.fadd
  | _ =>
      beta_reduce
      induction Dev.mapOf _ _ _ with
      | none => exact h.fadd.deliver
      | some => exact h.fadd.enqueueAt

theorem flashPieceReadDone {k j step0 bits : Nat} (h : Canon d) : Canon (flashPieceReadDone d k j step0 bits) := by
  unfold Machine.flashPieceReadDone
  with_reducible_and_instances
    refine .ite h (.opt h fun _ => ?_)
    exact .ite h
      (.issue (.arrives (.readEffects (.ite (.fadd (.modDie (.ite h.retireDie h))) (.modDie (.ite h.retireDie h))))))

/-! Functions of `Machine/Monitor`. -/

theorem request {type seq level : Nat} {rom : Bool} {f : Dev → Dev} (h : Canon d) (hf : ∀ {d}, Canon d → Canon (f d)) :
    Canon (d.request type seq level rom f) := by
  unfold Dev.request
  refine .ite h ?_
  extract_lets _ e
  have he : Canon e := .upd h
  split
  · exact .ite he.emit (.ite he.reply (.ite he.reply (.ite he.reply (hf he))))
  · exact .ite he.reply (.ite he.reply (.ite he.reply (hf he)))

theorem answerHello {seq : Nat} (h : Canon d) : Canon (d.answerHello seq) := h.reply

theorem answerChallenge {seq : Nat} (h : Canon d) : Canon (d.answerChallenge seq) := by
  unfold Dev.answerChallenge
  exact .reply (.upd h.freeBytes)

theorem setLevel {level ending : Nat} (h : Canon d) : Canon (d.setLevel level ending) := by
  unfold Dev.setLevel
  exact .upd h

theorem responseFails {seq : Nat} (h : Canon d) : Canon (d.responseFails seq) := by
  unfold Dev.responseFails
  exact .reply (.ite h.fadd (.upd h.fadd))

theorem answerRespond {seq slot level duration : Nat} {signature : List Byte} (h : Canon d) :
    Canon (d.answerRespond seq slot level duration signature) := by
  unfold Dev.answerRespond
  with_reducible_and_instances
    refine .ite h.reply (.opt h.reply fun _ => ?_)
    exact .ite h.reply
      (.ite (.responseFails (.upd h)) (.reply (.measure (.freeDigest (.setLevel (.setReg (.upd h)))))))

theorem answerBaud {seq rate : Nat} (h : Canon d) : Canon (d.answerBaud seq rate) := by
  unfold Dev.answerBaud
  exact .ite (.upd h.reply) h.reply

theorem answerRead {seq a count bytes : Nat} {keep : Bool} (h : Canon d) : Canon (d.answerRead seq a count bytes keep) := by
  unfold Dev.answerRead
  refine .ite h.reply ?_
  split
  · exact h.reply
  next _ _ r hr =>
    have h := h.readRegs hr
    exact h.reply

theorem answerWrite {seq a bytes v : Nat} (h : Canon d) : Canon (d.answerWrite seq a bytes v) := by
  unfold Dev.answerWrite
  split
  · exact h.reply
  next _ r hr =>
    have h := h.writeReg hr
    exact .ite h.reply h

theorem tierByte {tier a : Nat} (h : Canon d) : Canon (d.tierByte tier a).2 := by
  unfold Dev.tierByte
  with_reducible_and_instances exact .optSnd h.draw fun _ => h

theorem answerPeek {seq tier block a n : Nat} (h : Canon d) : Canon (d.answerPeek seq tier block a n) := by
  unfold Dev.answerPeek
  exact .ite h.reply (.ite h.reply (.reply (.foldlSnd _ h fun _ h => h.tierByte)))

theorem answerPoke {seq tier block a : Nat} {data : List Byte} (h : Canon d) : Canon (d.answerPoke seq tier block a data) := by
  unfold Dev.answerPoke
  with_reducible_and_instances
    exact .ite h.reply (.ite h.storeBm.reply (.reply (.foldl _ h fun _ h => .opt h fun _ => h.storeObj)))

theorem answerCounters {seq unit : Nat} (h : Canon d) : Canon (d.answerCounters seq unit) := by
  unfold Dev.answerCounters
  exact .ite h.freeKind.reply h.reply

theorem answerSnapshot {seq kind offset : Nat} (h : Canon d) : Canon (d.answerSnapshot seq kind offset) := by
  unfold Dev.answerSnapshot
  exact .ite h.reply (.ite h.replyPart h.askSnapshot)

theorem answerTraceCtl {seq ctl cls trig : Nat} (h : Canon d) : Canon (d.answerTraceCtl seq ctl cls trig) := by
  unfold Dev.answerTraceCtl
  split
  · exact h.reply
  next _ r hr =>
    have h := h.writeReg hr
    split
    · exact h.reply
    next _ r hr =>
      have h := h.writeReg hr
      split
      · exact h.reply
      next _ r hr =>
        have h := h.writeReg hr
        exact h.reply

theorem answerTraceRead {seq : Nat} (h : Canon d) : Canon (d.answerTraceRead seq) := h.traceRead.reply

theorem answerPlan {seq : Nat} (h : Canon d) : Canon (d.answerPlan seq) := h.freeBytes.reply

theorem monitorReset {letter : Char} {i : Nat} (h : Canon d) (he : d.monitorReset letter i = some e) : Canon e := by
  unfold Dev.monitorReset at he
  split at he
  · exact of_guard he h.computeAbort
  · exact of_guard he h.resetB
  · exact of_guard he (.ite h.mergeReset h.kerbReset)
  · exact of_guard he h.gateReset
  · exact of_guard he h.resetQ
  · exact of_guard he h.resetD
  · cases he

theorem answerReset {seq : Nat} {letter : Char} {i : Nat} (h : Canon d) : Canon (d.answerReset seq letter i) := by
  unfold Dev.answerReset
  split
  next _ r hr =>
    have h := h.monitorReset hr
    exact h.reply
  · exact h.reply

theorem answerFailover {seq : Nat} (h : Canon d) : Canon (d.answerFailover seq) := by
  unfold Dev.answerFailover
  exact .ite h.reply h.failover

theorem beginC (h : Canon d) : Canon d.beginC := by
  unfold Dev.beginC
  exact .foff (.fset (.closeGates (.upd h)))

theorem answerImage {seq offset : Nat} {last : Bool} {data : List Byte} (h : Canon d) :
    Canon (d.answerImage seq offset last data) := by
  unfold Dev.answerImage
  with_reducible_and_instances
    refine .ite h.reply (.ite (.reply (.upd h)) ?_)
    beta_reduce
    extract_lets _ e
    have he : Canon e := .upd h
    exact .exc (fun _ => he.imageFails.reply) fun _ => .beginC (.reply (.upd (.foldl _ he.draw.draw.killSectors fun _ h =>
      h.appendSector.appendSector)))

theorem baudRevert (h : Canon d) : Canon (baudRevert d) := by
  unfold Machine.baudRevert
  exact .ite (.upd h) h

theorem lockoutExpiry (h : Canon d) : Canon (lockoutExpiry d) := by
  unfold Machine.lockoutExpiry
  exact .ite h (.upd h.reach)

theorem sessionExpiry (h : Canon d) : Canon (sessionExpiry d) := by
  unfold Machine.sessionExpiry
  exact .ite h h.reach.setLevel

theorem registerRow {c : Instr} (h : Canon d) : Canon (registerRow d c) := by
  unfold Machine.registerRow
  split
  · exact h.arrive
  · exact .request h (·.answerWrite)
  · exact .request h (·.answerRead)
  · exact h

/-! Functions of `Machine/Module`. -/

theorem flushDies (h : Canon d) : Canon d.flushDies := by
  unfold Dev.flushDies
  exact .upd h

theorem flushPartials (h : Canon d) : Canon d.flushPartials := by
  unfold Dev.flushPartials
  with_reducible_and_instances exact .foldl _ h.modMedia fun _ h => .lst h fun _ _ => h.addProgram

theorem flushCheck (h : Canon d) : Canon d.flushCheck := by
  unfold Dev.flushCheck
  with_reducible_and_instances
    refine .ite h (.ite h.flushParity ?_)
    exact .opt h.flushParity.endFlush.modMedia fun _ => .ite (.upd h.flushParity.endFlush.modMedia) (.logNotice (.upd
      h.flushParity.endFlush.modMedia))

theorem holdupFlush (h : Canon d) : Canon d.holdupFlush := by
  unfold Dev.holdupFlush
  refine .ite h ?_
  exact .ite h.logFault.abandonErases.foff.modMedia
    (.flushCheck (.issueAll (.drainUnplaced (.flushPartials (.flushDies (.modMedia (.upd
      h.logFault.abandonErases.foff.dropSlots.closeGates)))))))

theorem flushForM (h : Canon d) : Canon d.flushForM := by
  unfold Dev.flushForM
  exact .upd (.foff (.ite h h.dropSlots.closeGates.flushMedia))

theorem modReset (h : Canon d) : Canon (modReset d) := by
  unfold Machine.modReset
  exact .ite h (.ite (.upd (.upd h)) (.flushForM (.upd h)))

theorem modResetRelease {f : Discovery} (h : Canon d) : Canon (modResetRelease d f) := by
  unfold Machine.modResetRelease
  exact .ite h (.ite (.upd h) (.ite (.upd (.upd h)) (.startUp (.upd h))))

theorem pfWarn (h : Canon d) : Canon (pfWarn d) := by
  unfold Machine.pfWarn
  exact .holdupFlush (.upd h)

theorem pfWarnRelease (h : Canon d) : Canon (pfWarnRelease d) := by
  unfold Machine.pfWarnRelease
  exact .upd h

theorem vinUnder (h : Canon d) : Canon (vinUnder d) := by
  unfold Machine.vinUnder
  exact .holdupFlush (.upd h)

theorem vinOver (h : Canon d) : Canon (vinOver d) := by
  unfold Machine.vinOver
  exact .holdupFlush (.upd h)

theorem nvmeMiCommand {opcode : Nat} (h : Canon d) : Canon (nvmeMiCommand d opcode) := by
  unfold Machine.nvmeMiCommand
  exact .emit (.ite (.upd (.ite (.upd h.draw) h)) (.ite (.upd h.draw) h))

theorem nvmeMiReset (h : Canon d) : Canon (nvmeMiReset d) := by
  unfold Machine.nvmeMiReset
  exact .ite h.emit (.ite h.emit h.emit.flushForM.startUp)

end
end Canon
end Sys2Proof.Machine
end

section
/-! Every command keeps the memories canonical, and with it every step. -/

namespace Sys2Proof.Machine

/-- A meaning that acts on the module alone, and keeps its memories canonical. -/
def KeepsCanon (x : State → Host.Outcome State Fault Refusal) : Prop :=
  ∃ f : Dev → Dev, (∀ s, x s = effect f s) ∧ ∀ d, Canon d → Canon (f d)

theorem KeepsCanon.effect {f : Dev → Dev} (hf : ∀ {d}, Canon d → Canon (f d)) : KeepsCanon (effect f) :=
  ⟨f, fun _ => rfl, fun _ h => hf h⟩

namespace KeepsCanon

theorem expertDispatch (b : Nat) : KeepsCanon (execExpertDispatch b) := .effect fun {d} h => by
  split
  · exact .ite h.expertDispatch h
  · exact h

theorem pairGather (b : Nat) : KeepsCanon (execPairGather b) := .effect fun {d} h => by
  split
  · exact .ite h.startGather h
  · exact h

theorem nandEraseDone (k i : Nat) (verified : Bool) : KeepsCanon (execNandEraseDone k i verified) := .effect fun {d} h => by
  split
  · exact .ite h.wipeErased h.nandEraseDone
  · exact h.nandEraseDone

end KeepsCanon

theorem exec_keepsCanon (c : Instr) : KeepsCanon (exec c) := by
  cases c <;> unfold exec
  case flush | write | read | writeZeroes | deallocate | secureDeallocate | query | ingest | delete | compute | create |
      switch | retire | filterLoad | repair | stats | allocate | release | update | copyIn | copyOut | bind | unbind |
      report | registerRead | registerWrite | getLogPage | identify | abort | setFeatures | getFeatures |
      asynchronousEventRequest | firmwareImageDownload | firmwareCommit | keepAlive | formatNvm | sanitize | propertyGet |
      propertySet | disconnect | planLoad | planDiscard | apply | commit | revert | snapshot | attest | leaseLend | leasePeer
      | leaseAcquire | leaseReturn | leaseRevoke | leaseStatus =>
    exact .effect (·.arrive)
  case secureDeallocDrained => exact .effect (·.secureDrained)
  case payloadFetchDone => exact .effect (·.payloadFetched)
  case releaseComplete => exact .effect (·.releaseComplete)
  case keepAliveExpiry => exact .effect (·.keepAliveExpiry)
  case connect => exact .effect (·.connectArrives)
  case quiesceDrained => exact .effect (·.quiesceDrained)
  case quiesceTimeout => exact .effect (·.quiesceTimeout)
  case standstillLatch => exact .effect (·.standstillLatch)
  case snapshotUnitTimeout => exact .effect (·.snapshotUnitTimeout)
  case leaseAcquireTimeout => exact .effect (·.leaseAcquireTimeout)
  case leaseNoticeReceived => exact .effect (·.leaseNotice)
  case leaseDeadline => exact .effect (·.leaseDeadline)
  case leaseIdleTimeout => exact .effect (·.leaseIdle)
  case nvmeMiCommand => exact .effect (·.nvmeMiCommand)
  case hello => exact .effect (·.request (·.answerHello))
  case challenge => exact .effect (·.request (·.answerChallenge))
  case respond => exact .effect (·.request (·.answerRespond))
  case logout => exact .effect fun h => h.request fun h => h.setLevel.reply
  case setBaud => exact .effect (·.request (·.answerBaud))
  case regRead => exact .effect (·.request (·.answerRead))
  case regWrite => exact .effect (·.request (·.answerWrite))
  case memPeek => exact .effect (·.request (·.answerPeek))
  case memPoke => exact .effect (·.request (·.answerPoke))
  case counters => exact .effect (·.request (·.answerCounters))
  case monitorSnapshot => exact .effect (·.request (·.answerSnapshot))
  case traceCtl => exact .effect (·.request (·.answerTraceCtl))
  case traceRead => exact .effect (·.request (·.answerTraceRead))
  case planState => exact .effect (·.request (·.answerPlan))
  case monitorReset => exact .effect (·.request (·.answerReset))
  case monitorFailover => exact .effect (·.request (·.answerFailover))
  case imageDownload => exact .effect (·.request (·.answerImage))
  case abandon | cellInject | eccInject | kerbInject | blkCountClear | kerbCountClear | cacheDrop | kerbCtlReset |
      ftlCountClear | reclaimHold | hifCountClear | portReset | pwrCountClear | loopsFreeze | secCountClear | failover |
      deviceReset | quarterReset | blockReset | forceHoldover | ppsOut | timeSet | traceMode | traceEnable | arm | trigger |
      traceClear | counterSample | lightValueWrite | lightAddWrite | lightOwnerWrite | bmwinWrite | fmtFlagsRead | planErrRead
      | railPeakRead | tempMaxRead =>
    exact .effect (·.registerRow)
  case gateDispatch => exact .effect (·.gateDispatch)
  case rangeLockAcquire => exact .effect (·.rangeLockAcquire)
  case arrayMac | arrayElemwise | arrayL1 | arrayL2 | arrayHamming | arrayMin | arrayMax => exact .effect (·.arrayStep)
  case vecAdd | vecSub | vecMul | vecDiv | vecFma | vecMin | vecMax | vecCvt | vecQuant | vecSel | vecRowsum | vecRowmax |
      vecSoftmax | vecRowstats | vecMergestats | vecLayernorm | vecRmsnorm =>
    exact .effect (·.vectorStep)
  case sfuFunction | sfuMicroProgram => exact .effect fun h => h.runOp h.sfuOp
  case dmaOp => exact .effect (·.dmaStep)
  case dmaAsyncDone => exact .effect (·.dmaFinish)
  case lightSet | lightAdd => exact .effect fun h => h.runOp h.lightOperation
  case lightWait => exact .effect (·.lightWaitStep)
  case lightExpiry => exact .effect (·.lightExpiryStep)
  case shadowLoadDone => exact .effect (·.shadowLoad)
  case pairGather => exact .pairGather _
  case commandBoundary => exact .effect fun h => h.boundary.relieve.driveStages.driveJobs
  case expertDispatch => exact .expertDispatch _
  case cellParityError => exact .effect (·.cellParityError)
  case spareSelfTestDone => exact .effect (·.spareSelfTestDone)
  case blockMemoryUncorrectable => exact .effect (·.blockMemoryUncorrectable)
  case sequencerWatchdog => exact .effect (·.sequencerWatchdog)
  case queueIntegrityError => exact .effect (·.queueIntegrityError)
  case blockMemoryCorrected => exact .effect (·.blockMemoryCorrected)
  case bucketLeak => exact .effect (·.bucketLeak)
  case queryBlockAdmit => exact .effect (·.queryBlockAdmit)
  case suspendTimeout => exact .effect fun h => h.modDie.issue
  case flashPieceReadDone => exact .effect (·.flashPieceReadDone)
  case thetaShare => exact .effect (·.thetaShare)
  case thetaReturn => exact .effect (·.thetaReturn)
  case nandProgramDone => exact .effect fun h => h.nandProgramDone.flushCheck
  case nandEraseDone => exact .nandEraseDone _ _ _
  case mutableRowTimeout => exact .effect (·.mutableRowTimeout)
  case reclaimVictim => exact .effect (·.reclaimVictim)
  case kerbFault => exact .effect (·.kerbFault)
  case kerbResetDone => exact .effect (·.kerbResetDone)
  case linkError => exact .effect (·.linkError)
  case sweepPassStart => exact .effect (·.passStart)
  case sweepPassEnd => exact .effect (·.passEnd)
  case repairBackground => exact .effect fun h => .ite h.repairAll h
  case stageRunDone => exact .effect (·.stageRunDone)
  case gateMerge => exact .effect (·.gateMerge)
  case rdmaWriteAck => exact .effect (·.writeAck)
  case jobBatchStart => exact .effect (·.jobBatchStart)
  case jobBatchEnd => exact .effect (·.jobBatchEnd)
  case beatStart => exact .effect (·.beatStart)
  case energyMeterInterval => exact .effect (·.energyInterval)
  case objectMoveExtent => exact .effect (·.moveExtent)
  case patrolScrub => exact .effect (·.patrolScrub)
  case stackReadUncorrectable => exact .effect (·.stackReadUncorrectable)
  case spareCopyDone => exact .effect (·.spareCopyDone)
  case lpddrReadUncorrectable => exact .effect (·.lpddrReadUncorrectable)
  case avenueFlitCrc => exact .effect (·.avenueFlitCrc)
  case routerUncorrectable => exact .effect (·.routerUncorrectable)
  case boulevardCrc => exact .effect (·.boulevardCrc)
  case arcadeFault => exact .effect (·.arcadeFault)
  case gateFault => exact .effect (·.gateFault)
  case linkTrainingDone => exact .effect (·.linkTrained)
  case ethernetUncorrectable => exact .effect (·.ethernetUncorrectable)
  case ecnCeReceived => exact .effect (·.ecnReceived)
  case cnpReceived => exact .effect (·.cnpReceived)
  case pfcFrameReceived => exact .effect (·.pfcReceived)
  case ptpSync => exact .effect (·.ptpSync)
  case ppsInPulse => exact .effect (·.ppsIn)
  case backgroundSlotStart => exact .effect (·.slotStart)
  case backgroundSlotEnd => exact .effect (·.slotEnd)
  case quarterDvfs => exact .effect (·.quarterDvfs)
  case readThreshold => exact .effect (·.readThreshold)
  case widen => exact .effect (·.widenLoop)
  case stackRefresh => exact .effect (·.stackRefresh)
  case linkEq => exact .effect (·.linkEq)
  case sensorSample => exact .effect (·.sensorSample)
  case thermalTrip => exact .effect (·.thermalTrip)
  case overCurrent => exact .effect (·.overCurrent)
  case underVoltage => exact .effect (·.underVoltage)
  case protectionRelease => exact .effect (·.protectionRelease)
  case overrideRampStep => exact .effect (·.rampStep)
  case protectionHoldTimeout => exact .effect (·.holdTimeout)
  case configSectorEraseDone => exact .effect (·.configErased)
  case configEraseResume => exact .effect (·.configResume)
  case configCopyForward => exact .effect (·.copyForward)
  case coldStart => exact .effect (·.coldStart)
  case modResetRelease => exact .effect (·.modResetRelease)
  case holdupBankTest => exact .effect (·.bankTest)
  case quarterResetDone => exact .effect (·.quarterResetDone)
  case blockResetDone => exact .effect (·.blockResetDone)
  case squareSelfTestDone => exact .effect (·.squareSelfTestDone)
  case ptpAnnounce => exact .effect (·.ptpAnnounce)
  case peerLeaseMessage => exact .effect (·.peerMessage)
  case ethernetLinkDown => exact .effect (·.linkDown)
  case sanitizePhaseDone => exact .effect (·.sanitizePhaseDone)
  case t3BatchSend => exact .effect (·.t3BatchSend)
  case nvmeMiReset => exact .effect (·.nvmeMiReset)
  case baudRevert => exact .effect (·.baudRevert)
  case monitorBadFrame => exact .effect fun h => h
  case monitorLockoutExpiry => exact .effect (·.lockoutExpiry)
  case sessionExpiry => exact .effect (·.sessionExpiry)
  case computeAbortEnd => exact .effect (·.computeAbortEnd)
  case journalCheckpoint => exact .effect (·.journalCheckpoint)
  case gatherWindowClose => exact .effect (·.gatherClose)
  case sweepWindowClose => exact .effect (·.sweepClose)
  case hotnessDecay => exact .effect (·.hotnessDecay)
  case powerStateTransition => exact .effect (·.powerTransition)
  case apstIdleTimeout => exact .effect (·.apstIdle)
  case placement => exact .effect (·.placementLoop)
  case sourceLossTimeout => exact .effect (·.sourceLoss)
  case ppsOutPulse => exact .effect (·.ppsOutPulse)
  case timeJournal => exact .effect (·.timeJournal)
  case heartbeat => exact .effect (·.heartbeat)
  case heartbeatMiss => exact .effect (·.heartbeatMiss)
  case activeSquareFault => exact .effect (·.activeSquareFault)
  case standbySquareFault => exact .effect (·.standbySquareFault)
  case squaresLost => exact .effect (·.squaresLost)
  case modReset => exact .effect (·.modReset)
  case pfWarn => exact .effect (·.pfWarn)
  case vinUnderVoltage => exact .effect (·.vinUnder)
  case vinOverVoltage => exact .effect (·.vinOver)
  case telemetrySample => exact .effect (·.telemetrySample)
  case pfWarnRelease => exact .effect (·.pfWarnRelease)
  -- What is left is SEAL, whose constructor has the name of a command of Lean.
  exact .effect (·.arrive)

/-- Settles O3: a step runs the command at the front of the queue, every command keeps the memories canonical, and an idle step changes
nothing. -/
theorem memoryStaysCanonical : Obligations.MemoryStaysCanonical := by
  intro s t h hs
  unfold step at hs
  split at hs
  · cases hs
    exact h
  next c rest _ =>
    obtain ⟨f, hx, hf⟩ := exec_keepsCanon c
    obtain ⟨hb, ho, hn⟩ := h
    have hd := hf { s.dev with out := [] } ⟨hb, ho, hn⟩
    rw [hx] at hs
    cases hs
    exact ⟨hd.blocks, hd.objects, hd.spaces⟩

end Sys2Proof.Machine
end

section
/-! The machine's queue: what a step does, and a run of the whole queue (log entry 2). -/

namespace Sys2Proof.Machine

/-- A meaning acts on the module alone: the queue plays no part in it. -/
def ActsOnModule (x : State → Host.Outcome State Fault Refusal) : Prop := ∃ f, ∀ s, x s = effect f s

theorem exec_actsOnModule (c : Instr) : ActsOnModule (exec c) := by
  obtain ⟨f, hf, -⟩ := exec_keepsCanon c
  exact ⟨f, hf⟩

/-- What a command makes of the module. -/
def actOf (c : Instr) (d : Dev) : Dev :=
  match exec c ⟨d, []⟩ with
  | .next t => t.dev
  | _ => d

/-- Every command completes with what it makes of the module, whatever waits behind it. -/
theorem exec_eq_actOf (c : Instr) (s : State) : exec c s = .next { s with dev := actOf c s.dev } := by
  obtain ⟨f, hf⟩ := exec_actsOnModule c
  rw [actOf, hf, hf]
  rfl

theorem step_nil {s : State} (h : s.pending = []) : step s = .next s := by
  unfold step
  rw [h]

theorem step_cons {s : State} {c : Instr} {rest : List Instr} (h : s.pending = c :: rest) :
    step s = .next { dev := actOf c s.dev, pending := rest } := by
  unfold step
  rw [h]
  exact exec_eq_actOf c _

/-- Settles O1: both clauses are the two cases of a step. -/
theorem stepRunsFrontCommand : Obligations.StepRunsFrontCommand :=
  ⟨fun _ _ => rfl, fun _ h => step_nil h⟩

/-- A step that answers a next state goes on from it. -/
theorem run_succ_of_step {M : Host.Core} {s t : M.State} (h : M.step s = .next t) (k : Nat) : M.run (k + 1) s = M.run k t := by
  simp only [Host.Core.run, h]

/-- As many steps as commands wait carry them out one after the other. -/
theorem run_queue (q : List Instr) (d : Dev) :
    Host.Core.run Sys2Proof.core q.length (⟨d, q⟩ : State) = .next (⟨q.foldl (fun d c => actOf c d) d, []⟩ : State) := by
  induction q generalizing d with
  | nil => rfl
  | cons c rest ih =>
    have hstep : Sys2Proof.core.step (⟨d, c :: rest⟩ : State) = .next (⟨actOf c d, rest⟩ : State) :=
      step_cons (s := ⟨d, c :: rest⟩) rfl
    exact (run_succ_of_step hstep rest.length).trans (ih (actOf c d))

/-- Settles O2, by induction on the queue: no command stops the machine, and none looks at the queue. -/
theorem queueRunsToItsEnd : Obligations.QueueRunsToItsEnd :=
  ⟨actOf, exec_eq_actOf, fun s => run_queue s.pending s.dev⟩

/-- Settles O4: power leaves every memory empty, and the empty list is canonical. -/
theorem resetMemoryCanonical : Obligations.ResetMemoryCanonical :=
  ⟨⟨Mem.wf_nil, Mem.wf_nil, Mem.wf_nil⟩, rfl, rfl, rfl, rfl⟩

end Sys2Proof.Machine
end

section
/-! Memories and registers: what reads back, and that the canonical form decides a memory (log entry 3). -/

namespace Sys2Proof.Machine

/-! Memories. -/

/-- The first entry of a memory reads as its byte. -/
theorem Mem.read_cons_head (a : Nat) (b : Byte) (m : Mem) : Mem.read ((a, b) :: m) a = b := by
  simp [Mem.read, AMap.get, AMap.look]

/-- A byte below every listed address reads as what an unlisted byte reads as. -/
theorem Mem.read_of_below {m : Mem} {a : Nat} (h : AMap.Below a m) : Mem.read m a = memDefault := by
  rw [Mem.read, AMap.get, AMap.look_of_below h]
  rfl

theorem Mem.read_cons_ne {a x : Nat} {b : Byte} {m : Mem} (h : a ≠ x) : Mem.read ((a, b) :: m) x = Mem.read m x := by
  simp [Mem.read, AMap.get, AMap.look, h]

/-- A memory whose first entry lies below all others and differs from the default, and whose other entries are canonical. -/
theorem Mem.wf_cons (a : Nat) (b : Byte) (m : Mem) :
    Mem.wf ((a, b) :: m) = true ↔ AMap.Below a m ∧ b ≠ memDefault ∧ Mem.wf m = true := by
  rw [Mem.wf_iff, Mem.wf_iff, AMap.sorted_cons]
  simp only [List.forall_mem_cons]
  tauto

/-- Of two canonical memories that read alike neither lists a byte below the first entry of the other. -/
theorem Mem.head_le_of_read {a x : Nat} {b y : Byte} {m n : Mem} (hm : Mem.wf ((a, b) :: m) = true)
    (hn : Mem.wf ((x, y) :: n) = true) (h : ∀ i, Mem.read ((a, b) :: m) i = Mem.read ((x, y) :: n) i) : x ≤ a := by
  obtain ⟨-, hb, -⟩ := (Mem.wf_cons a b m).1 hm
  obtain ⟨hx, -, -⟩ := (Mem.wf_cons x y n).1 hn
  by_contra hlt
  have hbelow : AMap.Below a ((x, y) :: n) := by
    intro e he
    rcases List.mem_cons.1 he with rfl | he
    · exact Nat.lt_of_not_le hlt
    · exact Nat.lt_trans (Nat.lt_of_not_le hlt) (hx e he)
  exact hb (by rw [← Mem.read_cons_head a b m, h, Mem.read_of_below hbelow])

/-- A canonical memory that reads everywhere as an unlisted byte lists nothing. -/
theorem Mem.eq_nil_of_read {m : Mem} (hm : Mem.wf m = true) (h : ∀ i, Mem.read m i = memDefault) : m = [] := by
  cases m with
  | nil => rfl
  | cons e m =>
    obtain ⟨a, b⟩ := e
    obtain ⟨-, hb, -⟩ := (Mem.wf_cons a b m).1 hm
    exact absurd ((Mem.read_cons_head a b m).symm.trans (h a)) hb

/-- Settles O5, by induction on the first memory: the lowest listed bytes agree, and what is left of both reads alike. -/
theorem canonicalMemoriesAgree : Obligations.CanonicalMemoriesAgree := by
  intro m
  induction m with
  | nil => exact fun n _ hn h => (Mem.eq_nil_of_read hn fun i => (h i).symm.trans (Mem.read_nil i)).symm
  | cons e m ih =>
    obtain ⟨a, b⟩ := e
    intro n hm hn h
    cases n with
    | nil => exact Mem.eq_nil_of_read hm fun i => (h i).trans (Mem.read_nil i)
    | cons e n =>
      obtain ⟨x, y⟩ := e
      obtain rfl : a = x := Nat.le_antisymm (Mem.head_le_of_read hn hm fun i => (h i).symm) (Mem.head_le_of_read hm hn h)
      obtain rfl : b = y := (Mem.read_cons_head a b m).symm.trans ((h a).trans (Mem.read_cons_head a y n))
      obtain ⟨hma, -, hmw⟩ := (Mem.wf_cons a b m).1 hm
      obtain ⟨hna, -, hnw⟩ := (Mem.wf_cons a b n).1 hn
      refine congrArg _ (ih n hmw hnw fun i => ?_)
      by_cases hi : a = i
      · subst hi
        rw [Mem.read_of_below hma, Mem.read_of_below hna]
      · rw [← Mem.read_cons_ne hi, h i, Mem.read_cons_ne hi]

/-- Settles O6. -/
theorem storedBytesReadBack : Obligations.StoredBytesReadBack := fun m a bytes h =>
  ⟨Mem.load_store m a bytes h, Mem.read_store_ne m a bytes, Mem.wf_store m a bytes h⟩

/-! Registers. -/

/-- Settles O7: a write of a field is a write of its register, and of the register's bits it changes the field's alone. -/
theorem registerFieldsHoldWhatIsWritten : Obligations.RegisterFieldsHoldWhatIsWritten := fun d a f _ v =>
  ⟨d.fget_fset_same a f v, fun _ h => d.reg_fset_ne a f v h, fun h => Dev.fget_fset_apart h d a v⟩

end Sys2Proof.Machine
end

section
/-! The commands of search, of administration and of the registers, as they arrive (R413, R421). -/

namespace Sys2Proof.Machine

/-- Settles O30: each of the rows arrives in its submission queue, and the body of each is its own command. -/
theorem searchCommandsRun : Obligations.SearchCommandsRun :=
  ⟨fun _ _ _ _ _ A => A.completes rfl rfl, fun _ _ _ _ _ _ _ _ _ A => A.completes rfl rfl,
    fun _ _ _ _ _ _ _ _ _ _ A => A.completes rfl rfl, fun _ _ _ _ _ _ _ _ _ _ _ _ A => A.completes rfl rfl,
    fun _ _ _ _ _ A => A.completes rfl rfl, fun _ _ _ _ _ A => A.completes rfl rfl, fun _ _ _ _ _ _ A => A.completes rfl rfl,
    fun _ _ _ _ _ A => A.completes rfl rfl, fun _ _ _ _ _ _ A => A.completes rfl rfl, fun _ _ _ _ A => A.completes rfl rfl,
    fun _ _ _ _ _ A => A.completes rfl rfl⟩

/-- Settles O32: each of the rows arrives in its submission queue, and the body of each is its own command. -/
theorem adminCommandsRun : Obligations.AdminCommandsRun :=
  ⟨fun _ _ _ _ _ _ _ A => A.completes rfl rfl, fun _ _ _ _ _ _ A => A.completes rfl rfl, fun _ _ _ _ _ A => A.completes rfl rfl,
    fun _ _ _ _ _ A => A.completes rfl rfl, fun _ _ _ _ _ A => A.completes rfl rfl, fun _ _ _ _ _ _ _ A => A.completes rfl rfl,
    fun _ _ _ _ _ _ A => A.completes rfl rfl, fun _ _ _ A => A.completes rfl rfl, fun _ _ _ _ _ A => A.completes rfl rfl,
    fun _ _ _ _ _ A => A.completes rfl rfl, fun _ _ _ A => A.completes rfl rfl, fun _ _ _ _ _ _ A => A.completes rfl rfl,
    fun _ _ _ _ _ _ A => A.completes rfl rfl, fun _ _ _ _ _ A => A.completes rfl rfl, fun _ _ _ _ _ A => A.completes rfl rfl,
    fun _ _ _ _ A => A.completes rfl rfl⟩

/-- A register operation of a host arrives as a command of its queue, and its body is the access that it stands for. -/
theorem accessOf_host {r : Dev} {c : Instr} {h : Hdr} {x : Access} (ha : accessOf r c = some (.host h, x)) :
    (∀ s, exec c s = effect (fun d => registerRow d c) s) ∧ (∀ d : Dev, registerRow d c = d.arrive c) ∧
      r.hostBody c false = r.accessCmd h x := by
  unfold accessOf at ha
  split at ha <;> cases ha <;> exact ⟨fun _ => rfl, fun _ => rfl, rfl⟩

/-- Settles O37: a register operation of a host arrives in its submission queue, and its body is its access. -/
theorem hostRegisterOperationsRun : Obligations.HostRegisterOperationsRun := by
  intro s c h r x A ha
  obtain ⟨hexec, hrow, hbody⟩ := accessOf_host ha
  exact A.completes ((hexec s).trans (congrArg (effect · s) (funext hrow))) hbody

end Sys2Proof.Machine
end

section
/-! The requests of the monitor and its other events (R538, R539, R558 to R560). -/

namespace Sys2Proof.Machine

/-! Requests that are served. -/

/-- A served request completes with what its work makes of the module as the request finds it. -/
theorem Completes.of_request {s : State} {c : Instr} {type seq level : Nat} {rom : Bool} {f : Dev → Dev} {e : Dev}
    (hc : exec c s = effect (fun d => d.request type seq level rom f) s) (hs : Serves s.clear seq level rom)
    (he : f s.clear.heard = e) : Completes c s e :=
  .of_effect hc ((Dev.request_served hs type f).trans he)

/-- A rate that the monitor knows is taken, and answered at the old one. -/
theorem Dev.answerBaud_known (d : Dev) (seq : Nat) {rate : Nat} (h : rate ∈ [115200, 230400, 460800, 921600, 1500000, 3000000]) :
    d.answerBaud seq rate =
      { d.reply 0x05 seq monOk [] with mon := { (d.reply 0x05 seq monOk []).mon with baud := rate, newBaud := true } } :=
  if_pos (List.contains_iff_mem.2 h)

/-- A write that its register takes is answered. -/
theorem Dev.answerWrite_ok {d x : Dev} {seq a n v : Nat} (h : d.writeReg .monitor a n v = .ok x) :
    d.answerWrite seq a n v = answered d x seq := by
  unfold Dev.answerWrite
  rw [h]
  rfl

/-- A reset that its unit has is carried out and answered. -/
theorem Dev.answerReset_some {d x : Dev} {seq i : Nat} {l : Char} (h : d.monitorReset l i = some x) :
    d.answerReset seq l i = x.reply 0x50 seq monOk [] := by
  unfold Dev.answerReset
  rw [h]

/-- A range of block memory that exists. -/
theorem Dev.memoryOk_block {b a n : Nat} (hb : b < 288) (hn : n ≤ 65536) (ha : a + n ≤ 2 ^ 23) : Dev.memoryOk 0 b a n = true := by
  simp only [Dev.memoryOk, Dev.tierBytes, if_pos, Bool.and_eq_true, decide_eq_true_eq]
  exact ⟨⟨hn, ha⟩, hb⟩

theorem Dev.answerPeek_block (d : Dev) {seq b a n : Nat} (h : Dev.memoryOk 0 b a n = true) :
    d.answerPeek seq 0 b a n = d.reply 0x12 seq monOk (d.loadBm b a n) := by
  unfold Dev.answerPeek
  rw [h]
  rfl

theorem Dev.answerPoke_block (d : Dev) {seq b a : Nat} {data : List Byte} (h : Dev.memoryOk 0 b a data.length = true) :
    d.answerPoke seq 0 b a data = (d.storeBm b a data).reply 0x13 seq monOk [] := by
  unfold Dev.answerPoke
  rw [h]
  rfl

/-- With a standby in service a failover is carried out, and receives no answer. -/
theorem Dev.answerFailover_standby {d : Dev} {q : Nat} (seq : Nat) (h : d.standby = some q) : d.answerFailover seq = d.failTo q 5 := by
  unfold Dev.answerFailover Dev.failover
  rw [h]
  rfl

/-- Settles O40: a served request does its work, and where its operands pass their checks that work is the one stated. -/
theorem monitorRequestsComplete : Obligations.MonitorRequestsComplete := by
  refine fun s seq => ⟨fun hs => ⟨.of_request rfl hs rfl, .of_request rfl hs rfl, fun _ _ _ _ => .of_request rfl hs rfl,
      .of_request rfl hs rfl, fun rate hr => ?baud⟩,
    fun hs => ⟨fun _ _ _ _ => .of_request rfl hs rfl, fun _ => .of_request rfl hs rfl, .of_request rfl hs rfl⟩,
    fun hs => ⟨fun _ _ _ _ hx => .of_request rfl hs (Dev.answerWrite_ok hx), fun _ _ => .of_request rfl hs rfl,
      fun _ _ _ => .of_request rfl hs rfl, .of_request rfl hs rfl, fun _ _ _ hx => .of_request rfl hs (Dev.answerReset_some hx)⟩,
    fun hs => ⟨fun b a n hb hn ha => .of_request rfl hs (Dev.answerPeek_block _ (Dev.memoryOk_block hb hn ha)),
      fun _ _ _ _ => .of_request rfl hs rfl,
      fun b a data hb hn ha => .of_request rfl hs (Dev.answerPoke_block _ (Dev.memoryOk_block hb hn ha)),
      fun _ _ _ _ => .of_request rfl hs rfl, fun q hq => .of_request rfl hs (Dev.answerFailover_standby seq hq)⟩,
    fun hs _ _ _ => .of_request rfl hs rfl⟩
  case baud => exact ⟨_, .of_request rfl hs (Dev.answerBaud_known _ seq hr), rfl, rfl, rfl⟩

/-! Requests above the session's level (R559). -/

/-- A request above the session's level is answered LEVEL, where nothing else turns it away. -/
theorem Dev.request_above {d : Dev} {seq level : Nat} (hup : d.monitorUp = true) (hfree : d.monitorBusy = false)
    (hnew : d.mon.lastFrame = none ∨ d.mon.lastSeq ≠ some seq) (hrom : d.romRecovery = false) (hlock : d.monitorLocked = false)
    (hlevel : d.sec.level < level) (type : Nat) (rom : Bool) (f : Dev → Dev) :
    d.request type seq level rom f = d.heard.reply type seq monLevel [] := by
  have hr : ¬ (d.heard.romRecovery && !rom) = true := by
    change ¬ (d.romRecovery && !rom) = true
    simp [hrom]
  have hl : ¬ (decide (0 < level) && d.heard.monitorLocked) = true := by
    change ¬ (decide (0 < level) && d.monitorLocked) = true
    simp [hlock]
  have hv : d.heard.sec.level < level := hlevel
  unfold Dev.request
  rw [hup, hfree, if_neg (by decide)]
  dsimp only
  split
  next n frame h1 h2 =>
    have hn : n ≠ seq := by
      rintro rfl
      exact hnew.elim (fun h => absurd (h.symm.trans h2) nofun) fun h => h h1
    exact (if_neg hn).trans ((if_neg hr).trans ((if_neg hl).trans (if_pos hv)))
  next => exact (if_neg hr).trans ((if_neg hl).trans (if_pos hv))

/-- Settles O41: no earlier check turns the request away, so that its level does; an answer changes neither memory nor register. -/
theorem monitorRefusesAboveLevel : Obligations.MonitorRefusesAboveLevel := by
  intro s seq hup hfree hnew hrom hlock
  have refused {c : Instr} {type level : Nat} {rom : Bool} {f : Dev → Dev} (hlevel : s.clear.sec.level < level)
      (hc : exec c s = effect (fun d => d.request type seq level rom f) s) :
      Completes c s (s.clear.heard.reply type seq monLevel []) :=
    .of_effect hc (Dev.request_above hup hfree hnew hrom hlock hlevel type rom f)
  exact ⟨fun h => ⟨fun _ _ _ => refused h rfl, fun _ _ => refused h rfl, fun _ _ _ => refused h rfl, refused h rfl,
      fun _ _ => refused h rfl⟩,
    fun h => ⟨fun _ _ _ _ => refused h rfl, fun _ _ _ _ => refused h rfl, refused h rfl, fun _ _ _ => refused h rfl⟩,
    fun _ => ⟨rfl, rfl⟩⟩

/-! Other events. -/

theorem Dev.reach_mems (d : Dev) (n : Nat) : (d.reach n).mems = d.mems := by
  obtain ⟨⟨⟨ks, rs, t, m, p, k, h⟩, -⟩, -⟩ := d.reach_frame n
  rw [h]
  rfl

theorem lockoutExpiry_eq {d : Dev} (h : d.sec.lockUntil ≠ 0) : lockoutExpiry d =
    { d.reach d.sec.lockUntil with sec := { (d.reach d.sec.lockUntil).sec with lockUntil := 0 } } := if_neg h

theorem sessionExpiry_eq {d : Dev} (h : d.sec.level ≠ 0) : sessionExpiry d = (d.reach d.sec.sessionEnd).setLevel 0 0 := if_neg h

theorem Dev.le_reach (d : Dev) (n : Nat) : n ≤ (d.reach n).time.ns := (d.reach_frame n).2 ▸ Nat.le_max_right _ _

/-- Settles O42: a lockout or a session that is there ends at its own instant. -/
theorem monitorEventsComplete : Obligations.MonitorEventsComplete := by
  refine ⟨fun s => .of_effect (f := fun d => d) rfl rfl, fun s h => .of_effect (f := baudRevert) rfl (if_pos h),
    fun s h => ⟨_, .of_effect (f := lockoutExpiry) rfl (lockoutExpiry_eq h), rfl, Dev.le_reach _ _, ?lockout⟩,
    fun s h => ⟨_, .of_effect (f := sessionExpiry) rfl (sessionExpiry_eq h), rfl, Dev.le_reach _ _, ?session⟩⟩
  case lockout => exact Dev.reach_mems s.clear _
  case session => exact Dev.reach_mems s.clear _

end Sys2Proof.Machine
end

section
/-! SUPPORT. Which registers the recording of an event changes: those of the trace, and the count of completions (R414, R547 to R550). -/

namespace Sys2Proof.Machine

/-- A register that the trace, or a posted completion, changes. -/
def LogReg (a : Nat) : Prop := a = Reg.TRC_STAT ∨ a = Reg.TRC_RD_PTR ∨ a = Reg.TRC_LOST ∨ a = Reg.HIF_CMDS

/-- Every other register of `e` reads as it does in `d`. -/
def LogRegsOnly (d e : Dev) : Prop := ∀ a, ¬ LogReg a → e.reg a = d.reg a

namespace LogRegsOnly

theorem refl (d : Dev) : LogRegsOnly d d := fun _ _ => rfl

theorem trans {d e f : Dev} (h : LogRegsOnly d e) (g : LogRegsOnly e f) : LogRegsOnly d f := fun a ha => (g a ha).trans (h a ha)

theorem of_regs {d e : Dev} (h : e.regs = d.regs) : LogRegsOnly d e := fun a _ => by rw [Dev.reg, Dev.reg, h]

theorem setReg (d : Dev) (v : Nat) {a : Nat} (h : LogReg a) : LogRegsOnly d (d.setReg a v) :=
  fun _ hb => Dev.reg_setReg_ne d v fun hab => hb (hab ▸ h)

theorem stat (d : Dev) (f : Fld) (v : Nat) : LogRegsOnly d (d.fset Reg.TRC_STAT f v) := setReg d _ (.inl rfl)

theorem traced (d : Dev) (t : TraceState) : LogRegsOnly d { d with trace := t } := of_regs rfl

theorem takeSeq (d : Dev) (src : Nat) : LogRegsOnly d (d.takeSeq src).2 := of_regs rfl

theorem extra (d : Dev) (f : Fld) (n : Nat) : LogRegsOnly d (d.fadd Reg.TRC_STAT f n) := stat d f _

theorem fget {d e : Dev} (h : LogRegsOnly d e) {a : Nat} (ha : ¬ LogReg a) (f : Fld) : e.fget a f = d.fget a f := by
  rw [Dev.fget, Dev.fget, h a ha]

theorem tempOf {d e : Dev} (h : LogRegsOnly d e) {s : Nat} (hs : ¬ LogReg (Reg.PWR_TEMP s)) : e.tempOf s = d.tempOf s := by
  rw [Dev.tempOf, Dev.tempOf, h.fget hs]

theorem freeze (d : Dev) : LogRegsOnly d d.traceFreeze := (stat d _ _).trans (setReg _ _ (.inr (.inl rfl)))

theorem discard (d : Dev) : LogRegsOnly d d.traceDiscard := setReg d _ (.inr (.inr (.inl rfl)))

theorem put (d : Dev) (pos n : Nat) (bytes : List Byte) : LogRegsOnly d (d.tracePut pos n bytes) := by
  unfold Dev.tracePut
  refine trans ?_ (stat _ _ _)
  refine trans ?_ (traced _ _)
  split
  · exact stat d _ _
  · exact refl d

theorem write (d : Dev) (n : Nat) (bytes : List Byte) : LogRegsOnly d (d.traceWrite n bytes) := by
  unfold Dev.traceWrite
  refine trans ?_ (put _ _ _ _)
  split
  · exact refl d
  · exact put d _ _ _

theorem enter (d : Dev) (n : Nat) (bytes : List Byte) : LogRegsOnly d (d.traceEnter n bytes) := by
  have full : LogRegsOnly d d.traceFreeze.traceDiscard := (freeze d).trans (discard _)
  unfold Dev.traceEnter
  split
  case isTrue => exact refl d
  case isFalse =>
    split
    · dsimp only
      split
      · exact write d n bytes
      · split
        · exact full
        · split
          · exact (write d n bytes).trans (freeze _)
          · exact write d n bytes
    · dsimp only
      split
      · exact full
      · split
        · exact ((write d n bytes).trans (traced _ _)).trans (freeze _)
        · exact (write d n bytes).trans (traced _ _)
    · exact discard d
    · exact refl d

theorem trigger (d : Dev) (cause src seq : Nat) : LogRegsOnly d (d.traceTrigger cause src seq) := by
  unfold Dev.traceTrigger
  split
  · exact refl d
  · split
    · refine trans (trans (trans ?_ (stat _ _ _)) (stat _ _ _)) (traced _ _)
      exact trans (takeSeq d _) (write _ _ _)
    · exact extra d _ _

theorem record (d : Dev) (src ev n : Nat) (p : List Byte) : LogRegsOnly d (d.traceRecord src ev n p) := by
  unfold Dev.traceRecord
  split
  · exact refl d
  · split
    · exact refl d
    · dsimp only
      split
      · exact (enter d _ _).trans (trigger _ _ _ _)
      · exact enter d _ _

theorem logEvent (d : Dev) (src ev : Nat) (p : List Byte) : LogRegsOnly d (d.logEvent src ev p) := by
  rw [Dev.logEvent_eq]
  exact trans (of_regs rfl) (record _ _ _ _ _)

theorem asyncAll (d : Dev) (kind : AsyncKind) (page : Nat) (config : Option Nat) : LogRegsOnly d (d.asyncAll kind page config) := by
  unfold Dev.asyncAll
  refine foldl_keeps (LogRegsOnly d) _ _ _ (of_regs rfl) fun e x h => h.trans ?_
  split
  split
  · exact refl e
  · split
    · exact setReg _ _ (.inr (.inr (.inr rfl)))
    · exact of_regs rfl

theorem logError (d : Dev) (src ev code severity reset unit : Nat) (dist : Option Nat) (address detail region : Nat) :
    LogRegsOnly d (d.logError src ev code severity reset unit dist address detail region) := by
  unfold Dev.logError
  dsimp only
  generalize he : d.logEvent src ev _ = e
  have h : LogRegsOnly d e := he ▸ logEvent d src ev _
  split <;> split
  · exact (h.trans (trigger _ _ _ _)).trans (asyncAll _ _ _ _)
  · exact h.trans (asyncAll _ _ _ _)
  · exact h.trans (trigger _ _ _ _)
  · exact h

theorem logFault (d : Dev) (src code severity reset detail : Nat) : LogRegsOnly d (d.logFault src code severity reset detail) :=
  logError d _ _ _ _ _ _ _ _ _ _

end LogRegsOnly

/-- The registers of power lie below those that recording an event changes. -/
theorem not_logReg {a : Nat} (h : a < Reg.HIF_CMDS) : ¬ LogReg a := by
  unfold LogReg Reg.TRC_STAT Reg.TRC_RD_PTR Reg.TRC_LOST
  unfold Reg.HIF_CMDS at *
  omega

theorem LogOnly.mems {d e : Dev} (h : LogOnly d e) : e.mems = d.mems := by
  obtain ⟨_, _, _, _, _, _, _, rfl⟩ := h
  rfl

theorem LogOnly.time {d e : Dev} (h : LogOnly d e) : e.time = d.time := by
  obtain ⟨_, _, _, _, _, _, _, rfl⟩ := h
  rfl

theorem LogOnly.power {d e : Dev} (h : LogOnly d e) : e.power = d.power := by
  obtain ⟨_, _, _, _, _, _, _, rfl⟩ := h
  rfl

end Sys2Proof.Machine
end

section
/-! Beats and metering intervals (R321, R342, R448, R460). -/

namespace Sys2Proof.Machine

/-! Metering. -/

/-- `e` differs from `d` in registers and in power alone, and its meters and the work that they divide by are those of `d`. -/
def KeepsMeters (d e : Dev) : Prop :=
  ∃ rs p, e = { d with regs := rs, power := p } ∧ p.meterUj = d.power.meterUj ∧ p.basis = d.power.basis

namespace KeepsMeters

theorem refl (d : Dev) : KeepsMeters d d := ⟨_, _, rfl, rfl, rfl⟩

theorem trans {d e f : Dev} (h : KeepsMeters d e) (g : KeepsMeters e f) : KeepsMeters d f := by
  obtain ⟨_, _, rfl, hm, hb⟩ := h
  obtain ⟨_, _, rfl, gm, gb⟩ := g
  exact ⟨_, _, rfl, gm.trans hm, gb.trans hb⟩

theorem setReg (d : Dev) (a v : Nat) : KeepsMeters d (d.setReg a v) := ⟨_, _, rfl, rfl, rfl⟩

theorem fset (d : Dev) (a : Nat) (f : Fld) (v : Nat) : KeepsMeters d (d.fset a f v) := setReg d _ _

theorem fadd (d : Dev) (a : Nat) (f : Fld) (n : Nat) : KeepsMeters d (d.fadd a f n) := setReg d _ _

theorem power (d : Dev) (p : PowerState) (hm : p.meterUj = d.power.meterUj) (hb : p.basis = d.power.basis) :
    KeepsMeters d { d with power := p } := ⟨_, _, rfl, hm, hb⟩

theorem mems {d e : Dev} (h : KeepsMeters d e) : e.mems = d.mems := by
  obtain ⟨_, _, rfl, -, -⟩ := h
  rfl

theorem meterUj {d e : Dev} (h : KeepsMeters d e) : e.power.meterUj = d.power.meterUj := by
  obtain ⟨_, _, rfl, hm, -⟩ := h
  exact hm

theorem basis {d e : Dev} (h : KeepsMeters d e) : e.power.basis = d.power.basis := by
  obtain ⟨_, _, rfl, -, hb⟩ := h
  exact hb

theorem foldl {α : Type} (f : Dev → α → Dev) (h : ∀ d a, KeepsMeters d (f d a)) (l : List α) (d : Dev) :
    KeepsMeters d (l.foldl f d) := foldl_keeps (KeepsMeters d) f l d (refl d) fun _ a g => g.trans (h _ a)

/-- The division of one unit's energy. -/
theorem divideEnergy (d : Dev) (unit uj : Nat) : KeepsMeters d (d.divideEnergy unit uj).1 := by
  unfold Dev.divideEnergy
  dsimp only
  split
  · exact refl d
  · refine foldl_keeps (fun acc : Dev × Nat => KeepsMeters d acc.1) _ _ _ (refl d) fun acc x h => ?_
    split
    · exact h
    · exact (h.trans (fadd acc.1 _ _ _)).trans (power _ _ rfl rfl)

theorem throttle (d : Dev) : KeepsMeters d d.throttle := by
  unfold Dev.throttle
  refine foldl _ (fun e x => ?_) _ d
  dsimp only
  split
  · exact (power e _ rfl rfl).trans (fadd _ _ _ _)
  · exact refl e

theorem countGated (d : Dev) : KeepsMeters d d.countGated := by
  unfold Dev.countGated
  refine foldl _ (fun e q => ?_) _ d
  split
  · exact refl e
  · exact fadd e _ _ _

theorem conflict (d : Dev) (loop : Nat) : KeepsMeters d (d.conflict loop) := fadd d _ _ _

theorem powerCap (d : Dev) : KeepsMeters d d.powerCap := by
  have shown (p : PowerState) (hm : p.meterUj = d.power.meterUj) (hb : p.basis = d.power.basis) (v : Nat) :
      KeepsMeters d (({ d with power := p } : Dev).countGated.fset Reg.PWR_STAT Fld.PWR_STAT_GATING v) :=
    ((power d p hm hb).trans (countGated _)).trans (fset _ _ _ _)
  unfold Dev.powerCap
  split
  · exact countGated d
  · dsimp only
    split
    · refine shown _ ?_ ?_ _ <;> rfl
    · refine trans (shown _ ?_ ?_ _) (conflict _ 7) <;> rfl

end KeepsMeters

/-- An interval empties the work that it divided by and adds its energy to the meters. -/
theorem energyInterval_meters (d : Dev) (bs ks ss xs : List (Nat × Nat)) (rest : Nat) :
    (energyInterval d bs ks ss xs rest).power.basis = [] ∧ (energyInterval d bs ks ss xs rest).mems = d.mems ∧
      (energyInterval d bs ks ss xs rest).power.meterUj = d.power.meterUj +
        ((bs.map Prod.snd).sum + (ks.map Prod.snd).sum + (ss.map Prod.snd).sum + (xs.map Prod.snd).sum + rest) := by
  have hend (e : Dev) : KeepsMeters e e.throttle.powerCap := (KeepsMeters.throttle e).trans (.powerCap _)
  unfold energyInterval
  extract_lets units
  have hsum : (units.map (·.2)).sum = (bs.map Prod.snd).sum + (ks.map Prod.snd).sum + (ss.map Prod.snd).sum + (xs.map Prod.snd).sum := by
    simp only [units, List.map_append, List.map_map, List.sum_append]
    rfl
  split
  next e left hfold =>
    have hdiv : KeepsMeters d (e, left).1 := by
      rw [← hfold]
      refine foldl_keeps (fun acc : Dev × Nat => KeepsMeters d acc.1) _ _ _ (.refl d) fun acc x h => ?_
      have hx := KeepsMeters.divideEnergy acc.1 x.1 x.2
      split
      next f n hf =>
        rw [hf] at hx
        exact h.trans hx
    refine ⟨(hend _).basis, (hend _).mems.trans hdiv.mems, (hend _).meterUj.trans ?_⟩
    show _ + ((units.map (·.2)).sum + rest) = _
    rw [hsum]
    exact congrArg (· + _) hdiv.meterUj

/-! Beats. -/

/-- The module as a beat begins: time is at the beat, and the meters and the districts that a cap stopped start afresh. -/
def Dev.beatBegun (d : Dev) (watts : Nat) : Dev :=
  let e := d.reach ((d.beat + 1) * d.period)
  let e := { e with power := { e.power with beatUj := [], meterUj := 0, throttled := [] } }
  let e := { e with jobs := e.jobs.map fun (j : Nat × Job) => (j.1, { j.2 with cycles := 0 }) }
  let e := { e with squares := { e.squares with onNs := e.squares.onNs + e.period } }
  e.fset Reg.PWR_STAT Fld.PWR_STAT_INPUT_W watts

/-- Meters within 5% of rail 0 raise nothing; others are reported. -/
theorem beatStart_eq (d : Dev) (watts uj : Nat) : beatStart d watts uj =
    if 20 * ((d.power.meterUj - uj) + (uj - d.power.meterUj)) ≤ uj then d.beatBegun watts
    else ((d.beatBegun watts).draw.2.fon Reg.PWR_STAT Fld.PWR_STAT_METER_FAULT).logFault (srcSensor 0)
      ((d.beatBegun watts).draw.1.toNat % 2 ^ 16) 0 0 d.power.meterUj := rfl

theorem Dev.beatBegun_frame (d : Dev) (watts : Nat) : (d.beat + 1) * d.period ≤ (d.beatBegun watts).time.ns ∧
    (d.beatBegun watts).mems = d.mems ∧ (d.beatBegun watts).events = d.events := by
  obtain ⟨⟨⟨ks, rs, t, m, p, n, h⟩, -⟩, ht⟩ := d.reach_frame ((d.beat + 1) * d.period)
  refine ⟨?_, ?_, ?_⟩
  · exact ht ▸ Nat.le_max_right _ _
  · exact d.reach_mems _
  · change (d.reach _).events = d.events
    rw [h]

/-- Settles O46: what a beat begins with stands, whether or not a fault of the meters is then reported; a metering interval moves the
meters on by all its energy. -/
theorem beatsComplete : Obligations.BeatsComplete := by
  refine ⟨fun s w uj hw _ => ?beat, fun s bs ks ss xs rest =>
    ⟨_, .of_effect (f := (energyInterval · bs ks ss xs rest)) rfl rfl, energyInterval_meters _ _ _ _ _ _⟩⟩
  obtain ⟨htime, hmems, hevents⟩ := s.clear.beatBegun_frame w
  have hwatts : (s.clear.beatBegun w).fget Reg.PWR_STAT Fld.PWR_STAT_INPUT_W = w :=
    (Dev.fget_fset_same _ _ _ _).trans (Nat.mod_eq_of_lt hw)
  by_cases hok : 20 * ((s.clear.power.meterUj - uj) + (uj - s.clear.power.meterUj)) ≤ uj
  · exact ⟨_, .of_effect (f := (beatStart · w uj)) rfl ((beatStart_eq _ w uj).trans (if_pos hok)), htime, rfl, rfl, rfl, hwatts, hmems,
      fun _ => hevents⟩
  · refine ⟨_, .of_effect (f := (beatStart · w uj)) rfl ((beatStart_eq _ w uj).trans (if_neg hok)), ?_⟩
    generalize hb : s.clear.beatBegun w = b at htime hmems hwatts ⊢
    have hlog : ∃ x : EventRec, LogOnly { b.draw.2.fon Reg.PWR_STAT Fld.PWR_STAT_METER_FAULT with events := b.events ++ [x] }
        ((b.draw.2.fon Reg.PWR_STAT Fld.PWR_STAT_METER_FAULT).logFault (srcSensor 0) (b.draw.1.toNat % 2 ^ 16) 0 0
          s.clear.power.meterUj) := by
      obtain ⟨x, -, -, h⟩ := (b.draw.2.fon Reg.PWR_STAT Fld.PWR_STAT_METER_FAULT).logError_logs (srcSensor 0) 0x40
        (b.draw.1.toNat % 2 ^ 16) 0 0 (srcSensor 0) none 0 s.clear.power.meterUj 0xFFFFFFFF
      exact ⟨x, h⟩
    have hregs := LogRegsOnly.logFault (b.draw.2.fon Reg.PWR_STAT Fld.PWR_STAT_METER_FAULT) (srcSensor 0)
      (b.draw.1.toNat % 2 ^ 16) 0 0 s.clear.power.meterUj
    obtain ⟨x, hlog⟩ := hlog
    refine ⟨?_, ?_, ?_, ?_, ?_, ?_, fun h => absurd h hok⟩
    · rw [hlog.time]; exact htime
    · rw [hlog.power]; subst hb; rfl
    · rw [hlog.power]; subst hb; rfl
    · rw [hlog.power]; subst hb; rfl
    · rw [hregs.fget (not_logReg (by decide))]
      exact (Dev.fget_fset_apart (.inr (by decide)) _ _ _).trans hwatts
    · exact hlog.mems.trans hmems

end Sys2Proof.Machine
end

section
/-! The adaptive loops (R464 to R473). -/

namespace Sys2Proof.Machine

/-- The floor of a quarter's clock never lies above its ceiling (R465). -/
theorem Dev.clockBounds_le (d : Dev) (q : Nat) : (d.clockBounds q).1 ≤ (d.clockBounds q).2.1 := Nat.min_le_right _ _

/-- The setting of a quarter's clock is the one that is asked for. -/
theorem Dev.setTarget_target (d : Dev) (q : Nat) {f : Nat} (hf : f < 1024) :
    (d.setTarget q f).fget (Reg.PWR_QTR q) Fld.PWR_QTR_TARGET_MHZ = f := by
  unfold Dev.setTarget
  split
  case isTrue h => exact h.symm
  case isFalse =>
    refine (Dev.fget_fset_apart (.inl (by decide)) _ _ _).trans ?_
    exact (Dev.fget_fset_same _ _ _ _).trans (Nat.mod_eq_of_lt hf)

theorem Dev.setTarget_mems (d : Dev) (q f : Nat) : (d.setTarget q f).mems = d.mems := by
  unfold Dev.setTarget
  split <;> rfl

/-- A loop's conflict, where there is one, is counted in no memory. -/
theorem Dev.conflictIf_mems (d : Dev) (loop : Nat) (p : Prop) [Decidable p] : (if p then d.conflict loop else d).mems = d.mems := by
  split <;> rfl

/-- Values put at the keys of a list: each of its keys holds its own. -/
theorem AMap.look_foldl_put {α : Type} (v : Nat → α) (l : List Nat) (m : AMap α) {x : Nat}
    (h : x ∈ l ∨ AMap.look m x = some (v x)) : AMap.look (l.foldl (fun m x => AMap.put m x (v x)) m) x = some (v x) := by
  induction l generalizing m with
  | nil => exact h.resolve_left List.not_mem_nil
  | cons y t ih =>
    refine ih _ ?_
    by_cases hxy : x = y
    · subst hxy
      exact .inr (AMap.look_put _ _ _)
    · rw [AMap.look_put_ne _ _ hxy]
      exact h.imp_left fun hm => (List.mem_cons.1 hm).resolve_left hxy

/-- What QUARTER_DVFS sets lies between the quarter's bounds. -/
theorem quarterDvfs_between (d : Dev) (q : Nat) (t : Int) (w : Nat) (work : Bool)
    (h : (decide (4 ≤ q) || d.frozen || d.quarantined q || decide (3 ≤ d.power.ps)) = false) :
    ∃ e f, quarterDvfs d q t w work = Dev.setTarget e q f ∧ (d.clockBounds q).1 ≤ f ∧ f ≤ (d.clockBounds q).2.1 ∧ e.mems = d.mems := by
  refine ⟨_, _, (if_neg (by rw [h]; decide)), ?_, ?_, ?_⟩
  · exact Nat.le_min.2 ⟨d.clockBounds_le q, Nat.le_max_left _ _⟩
  · exact Nat.min_le_left _ _
  · exact d.conflictIf_mems 0 _

/-- Settles O47: each loop's setting is cut to its bounds. -/
theorem adaptiveLoopsComplete : Obligations.AdaptiveLoopsComplete := by
  refine ⟨fun s q t w work hq hf hn hps hc => ?dvfs, fun s die o margin hslot hf => ?threshold, fun s use x hf hx hen => ?widen,
    fun s i hf hslot hi => ?link⟩
  case dvfs =>
    obtain ⟨e, f, heq, hlo, hhi, hmems⟩ := quarterDvfs_between s.clear q t w work (by
      simp only [hf, hn, Nat.not_le.2 hq, Nat.not_le.2 hps, decide_false, Bool.or_false])
    refine ⟨_, .of_effect (f := (quarterDvfs · q t w work)) rfl heq, ?_, ?_, (e.setTarget_mems q f).trans hmems⟩ <;>
      rwa [Dev.setTarget_target _ _ (by omega)]
  case threshold =>
    refine ⟨_, .of_effect (f := (readThreshold · die o margin)) rfl (if_neg (by rw [hslot, hf]; decide)), ?_, AMap.look_put _ _ _,
      AMap.look_put _ _ _⟩
    exact s.clear.conflictIf_mems 1 _
  case widen =>
    refine ⟨_, _, .of_effect (f := (widenLoop · use)) rfl (if_neg (by rw [hf]; decide)), AMap.look_foldl_put _ _ _ (.inl ?_),
      Nat.min_le_left _ _, ?_, ?_⟩
    · exact List.mem_filter.2 ⟨List.mem_range.2 hx, hen⟩
    · exact Nat.le_min.2 ⟨Nat.min_le_right _ _, Nat.le_max_left _ _⟩
    · exact s.clear.conflictIf_mems 3 _
  case link =>
    refine .of_effect (f := (linkEq · 0 i true)) rfl (if_neg ?_)
    simp [hf, hslot, Nat.not_le.2 hi]

/-- Settles O48: the field that is written holds the rate, and no loop's register is written. -/
theorem refreshFollowsTemperature : Obligations.RefreshFollowsTemperature := by
  intro s k hk hf hq hmin
  refine ⟨_, .of_effect (f := (stackRefresh · k)) rfl (if_neg (by rw [hf, hq]; decide)), ?_, fun loop hl => ?_, rfl⟩
  · rw [Dev.fget_fset_same, Nat.max_comm]
    refine Nat.mod_eq_of_lt (Nat.max_lt.2 ⟨Nat.lt_succ_of_le (Nat.le_succ_of_le hmin), ?_⟩)
    show _ < 4
    split
    · decide
    · split <;> decide
  · refine Dev.reg_fset_ne _ _ _ _ ?_
    unfold Reg.PWR_LOOP Reg.STK_STAT
    omega

end Sys2Proof.Machine
end
section
/-! Samples and the protection loops (R458, R475, R476, R574). -/

namespace Sys2Proof.Machine

theorem toSigned_ofSigned {v : Int} (hlo : -32768 ≤ v) (hhi : v < 32768) : toSigned 16 (ofSigned 16 v % 2 ^ 16) = v := by
  unfold toSigned ofSigned
  split <;> omega

/-- The temperature that a sensor's register shows is the one that was written. -/
theorem Dev.tempOf_fset (d : Dev) (s : Nat) {v : Int} (hlo : -32768 ≤ v) (hhi : v < 32768) :
    (d.fset (Reg.PWR_TEMP s) Fld.PWR_TEMP_TEMP (ofSigned 16 v)).tempOf s = v := by
  rw [Dev.tempOf, Dev.fget_fset_same]
  exact toSigned_ofSigned hlo hhi

/-- The coolant's watch changes the memories nowhere, and no register but those of the trace and of completions. -/
def WatchOnly (d e : Dev) : Prop := LogRegsOnly d e ∧ e.mems = d.mems

namespace WatchOnly

theorem refl (d : Dev) : WatchOnly d d := ⟨.refl d, rfl⟩

theorem trans {d e f : Dev} (h : WatchOnly d e) (g : WatchOnly e f) : WatchOnly d f := ⟨h.1.trans g.1, g.2.trans h.2⟩

theorem power (d : Dev) (p : PowerState) : WatchOnly d { d with power := p } := ⟨.of_regs rfl, rfl⟩

theorem asyncAll (d : Dev) (kind : AsyncKind) (page : Nat) (config : Option Nat) : WatchOnly d (d.asyncAll kind page config) :=
  ⟨.asyncAll d kind page config, (d.asyncAll_logs kind page config).mems⟩

theorem coolantNotice (d : Dev) (s : Nat) : WatchOnly d (d.coolantNotice s) := by
  unfold Dev.coolantNotice
  obtain ⟨x, -, -, hlog⟩ := d.draw.2.logError_logs (srcSensor s) 0x40 (d.draw.1.toNat % 2 ^ 16) 0 0 (srcSensor s) none 0
    (ofSigned 16 (d.draw.2.tempOf s)) 0xFFFFFFFF
  exact trans (e := d.draw.2) ⟨.of_regs rfl, rfl⟩ (trans ⟨.logFault _ _ _ _ _ _, hlog.mems⟩ (asyncAll _ _ _ _))

theorem watchCoolant (d : Dev) (s : Nat) (was : Option Int) : WatchOnly d (d.watchCoolant s was) := by
  unfold Dev.watchCoolant
  extract_lets t e badIn f
  have he : WatchOnly d e := by
    unfold e
    split
    · exact asyncAll _ _ _ _
    · exact refl d
  have hf : WatchOnly d f := by
    unfold f
    split
    · exact he.trans (coolantNotice e 16)
    · exact he
  split
  case isTrue => exact hf
  case isFalse =>
    split
    · exact hf.trans (power _ _)
    · split
      · exact hf.trans (power _ _)
      · split
        · exact (hf.trans (power _ _)).trans (coolantNotice _ 17)
        · exact hf

end WatchOnly

/-- A rail's sample shows its voltage and current, and the peak is the greater of it and the current. -/
theorem sensorSample_rail (d : Dev) {r c : Nat} {v : Int} (hr : r < 14) (hv : 0 ≤ v) (hv' : v < 65536) (hc : c < 65536) :
    (sensorSample d r v c).fget (Reg.PWR_RAIL r) Fld.PWR_RAIL_MV = v.toNat ∧
      (sensorSample d r v c).fget (Reg.PWR_RAIL r) Fld.PWR_RAIL_CURRENT = c ∧
      (sensorSample d r v c).fget (Reg.PWR_RAIL r) Fld.PWR_RAIL_PEAK = max (d.fget (Reg.PWR_RAIL r) Fld.PWR_RAIL_PEAK) c ∧
      (sensorSample d r v c).mems = d.mems := by
  unfold sensorSample
  rw [if_pos hr]
  extract_lets a e p f
  have hmv : e.fget a Fld.PWR_RAIL_MV = v.toNat := by
    rw [Dev.fget_fset_apart (.inr (by decide)), Dev.fget_fset_same]
    exact Nat.mod_eq_of_lt (show v.toNat < 65536 by omega)
  have hcur : e.fget a Fld.PWR_RAIL_CURRENT = c := (Dev.fget_fset_same _ _ _ _).trans (Nat.mod_eq_of_lt hc)
  have hpeak : e.fget a Fld.PWR_RAIL_PEAK = d.fget a Fld.PWR_RAIL_PEAK := by
    rw [Dev.fget_fset_apart (.inl (by decide)), Dev.fget_fset_apart (.inl (by decide))]
  have hf : f.regs = e.regs ∧ f.mems = d.mems := by
    unfold f
    split <;> exact ⟨rfl, rfl⟩
  have hget (g : Fld) : f.fget a g = e.fget a g := by rw [Dev.fget, Dev.fget, Dev.reg, Dev.reg, hf.1]
  have hlt : max (d.fget a Fld.PWR_RAIL_PEAK) c < 65536 := Nat.max_lt.2 ⟨bits_lt _ _ _, hc⟩
  refine ⟨?_, ?_, ?_, hf.2⟩
  · rw [Dev.fget_fset_apart (.inr (by decide)), hget, hmv]
  · rw [Dev.fget_fset_apart (.inr (by decide)), hget, hcur]
  · rw [Dev.fget_fset_same, hget, hget, hpeak, hcur]
    exact Nat.mod_eq_of_lt hlt

/-- The registers of a sample after it: the temperature, valid, and the greatest so far. -/
def Dev.sampled (d : Dev) (i : Nat) (v : Int) : Dev :=
  let e := (d.fset (Reg.PWR_TEMP i) Fld.PWR_TEMP_TEMP (ofSigned 16 v)).fon (Reg.PWR_TEMP i) Fld.PWR_TEMP_VALID
  e.fset (Reg.PWR_TEMP i) Fld.PWR_TEMP_MAX
    (ofSigned 16 (max (toSigned 16 (e.fget (Reg.PWR_TEMP i) Fld.PWR_TEMP_MAX)) (e.tempOf i)))

/-- The sample of a temperature that no quarter's quarantine hangs on. -/
theorem sensorSample_eq (d : Dev) {i : Nat} (v : Int) (c : Nat) (hi : 36 ≤ i) (h : hasSensor i = true) :
    sensorSample d i v c = (d.sampled i v).watchCoolant i
      (if d.fbit (Reg.PWR_TEMP i) Fld.PWR_TEMP_VALID then some (d.tempOf i) else none) := by
  unfold sensorSample
  rw [if_neg (by omega), if_neg (by rw [h]; decide)]
  refine if_neg fun hq => ?_
  simp only [Bool.and_eq_true, decide_eq_true_eq] at hq
  omega

theorem Dev.sampled_shows (d : Dev) (i : Nat) {v : Int} (hlo : -32768 ≤ v) (hhi : v < 32768) :
    (d.sampled i v).tempOf i = v ∧ (d.sampled i v).fbit (Reg.PWR_TEMP i) Fld.PWR_TEMP_VALID = true := by
  refine ⟨Eq.trans ?_ (d.tempOf_fset i hlo hhi), decide_eq_true ?_⟩
  · exact congrArg (toSigned 16) ((Dev.fget_fset_apart (.inr (by decide)) _ _ _).trans (Dev.fget_fset_apart (.inr (by decide)) _ _ _))
  · exact (Dev.fget_fset_apart (.inl (by decide)) _ _ _).trans (Dev.fget_fset_same _ _ _ _)

theorem hasSensor_lt {i : Nat} (h : hasSensor i = true) : i < 226 := by
  unfold hasSensor at h
  simp only [Bool.or_eq_true, Bool.and_eq_true, decide_eq_true_eq] at h
  omega

/-- Settles O49: a sample is read back past the coolant's watch; each loop takes the branch that its condition names. -/
theorem protectionCompletes : Obligations.ProtectionCompletes := by
  refine ⟨fun s r v c hr hv hv' hc => ⟨_, .of_effect (f := (sensorSample · r v c)) rfl rfl, sensorSample_rail _ hr hv hv' hc⟩,
    fun s i v hi hs hlo hhi => ⟨_, .of_effect (f := (sensorSample · i v 0)) rfl (sensorSample_eq _ _ _ hi hs), ?temp⟩,
    fun s i t ht h => .of_effect (f := (thermalTrip · i)) rfl ?trip,
    fun s r limit hr h => .of_effect (f := (overCurrent · r)) rfl ?current,
    fun s r h1 h12 h => .of_effect (f := (underVoltage · r)) rfl (if_pos ?voltage),
    fun s l u o ho hr h => .of_effect (f := (protectionRelease · l u)) rfl ?release,
    fun s l u q o ho hr hq h => .of_effect (f := (rampStep · l u)) rfl ?ramp,
    fun s u q o ho hr hq => .of_effect (f := (holdTimeout · 8 u)) rfl ?hot,
    fun s u o ho hr hq => .of_effect (f := (holdTimeout · 10 u)) rfl ?low⟩
  case temp =>
    obtain ⟨hregs, hmems⟩ := WatchOnly.watchCoolant (s.clear.sampled i v) i
      (if s.clear.fbit (Reg.PWR_TEMP i) Fld.PWR_TEMP_VALID then some (s.clear.tempOf i) else none)
    obtain ⟨htemp, hvalid⟩ := s.clear.sampled_shows i hlo hhi
    have hreg : ¬ LogReg (Reg.PWR_TEMP i) := not_logReg (by
      have := hasSensor_lt hs
      unfold Reg.PWR_TEMP Reg.HIF_CMDS
      omega)
    exact ⟨(hregs.tempOf hreg).trans htemp, (congrArg (fun n => decide (n = 1)) (hregs.fget hreg _)).trans hvalid, hmems⟩
  case trip => simp only [thermalTrip, ht, if_pos h]
  case current =>
    unfold overCurrent
    rw [hr]
    exact if_pos h
  case voltage => simp [h1, h12, h]
  case release => simp [protectionRelease, ho, hr, h]
  case ramp => simp [rampStep, ho, hr, hq, Nat.not_le.2 h]
  case hot => simp [holdTimeout, ho, hr, hq]
  case low => simp [holdTimeout, ho, hr, hq]

end Sys2Proof.Machine
end

section
/-! Faults of blocks, errors of the memories and of the crossings (R487, R488, R490 to R493, R496). -/

namespace Sys2Proof.Machine

/-! Faults of blocks. -/

/-- What a fault shows at its block: its error bit, and the address of a first uncorrectable read. -/
def Dev.faultShown (d : Dev) (b bit address : Nat) : Dev :=
  if bit = 0 && bits (d.reg (Reg.BLK_ERR b)) 0 3 = 0 then
    (d.setError (Reg.BLK_ERR b) bit 3 3).setReg (Reg.BLK_ERR_ADDR b) (address % 2 ^ 23)
  else d.setError (Reg.BLK_ERR b) bit 3 3

/-- A fault of a block that is not in self-test is logged, and aborts. -/
theorem Dev.blockFault_eq (d : Dev) {b : Nat} (bit code address : Nat) (h : d.blockTesting b = false) :
    d.blockFault b bit code address = ((d.faultShown b bit address).logError (d.srcOfBlock b) 0x40 code 2 (letterCode 'A')
      (d.srcOfBlock b) ((d.running b).map fun x => x.2.district) (if bit = 0 then address else 0) 0 (4864 + b)).computeAbort [b]
        (d.srcOfBlock b) := by
  have hkeep : (d.faultShown b bit address).blockTesting b = d.blockTesting b ∧ (d.faultShown b bit address).running b = d.running b ∧
      (d.faultShown b bit address).srcOfBlock b = d.srcOfBlock b := by
    unfold Dev.faultShown
    split <;> exact ⟨rfl, rfl, rfl⟩
  obtain ⟨htest, hrun, hsrc⟩ := hkeep
  rw [← hrun, ← hsrc]
  exact if_neg (ne_true_of_eq_false (htest.trans h))

/-- Settles O16: outside a self-test no guard turns the report away. -/
theorem blockFaultsComplete : Obligations.BlockFaultsComplete := by
  refine ⟨fun s b a ht => ⟨_, ?shown, .of_effect (f := (blockMemoryUncorrectable · b a)) rfl (Dev.blockFault_eq _ 0 0x0201 a ht)⟩,
    fun s b ht hr => .of_effect (f := (sequencerWatchdog · b)) rfl ?watchdog,
    fun s b ht => .of_effect (f := (queueIntegrityError · b)) rfl (Dev.blockFault_eq _ 2 0x0203 0 ht),
    fun s b a ht => .of_effect (f := (blockMemoryCorrected · b)) rfl (if_neg (ne_true_of_eq_false ht))⟩
  case shown => simp only [Dev.faultShown, decide_true, Bool.true_and, decide_eq_true_eq]
  case watchdog =>
    have hrun : (s.clear.running b).isNone = false := by rw [Option.isNone_eq_false_iff, hr]
    exact (if_neg (ne_true_of_eq_false hrun)).trans (Dev.blockFault_eq _ 1 0x0202 0 ht)

/-! Errors of T0 and T1. -/

/-- The module with a patrol's pass counted, where the line read was the last. -/
def Dev.patrolled (d : Dev) (r address : Nat) : Dev :=
  if endsPass d r address then d.fadd (eccReg r) Fld.STK_ECC_SCRUB_PASSES 1 else d

/-- The pass is counted, up to the field's greatest value, and nothing else happens. -/
theorem Dev.patrolled_frame (d : Dev) (r address : Nat) : (d.patrolled r address).mems = d.mems ∧
    (d.patrolled r address).events = d.events ∧ (d.patrolled r address).fget (eccReg r) Fld.STK_ECC_SCRUB_PASSES =
      min (2 ^ 16 - 1) (d.fget (eccReg r) Fld.STK_ECC_SCRUB_PASSES + (endsPass d r address).toNat) := by
  unfold Dev.patrolled
  split
  case isTrue h =>
    rw [h, Dev.fget_fadd_same, Nat.min_comm]
    exact ⟨rfl, rfl, rfl⟩
  case isFalse h =>
    have hlt : d.fget (eccReg r) Fld.STK_ECC_SCRUB_PASSES < 2 ^ 16 := bits_lt _ _ _
    rw [eq_false_of_ne_true h, Bool.toNat_false, Nat.add_zero, Nat.min_eq_right (Nat.le_sub_one_of_lt hlt)]
    exact ⟨rfl, rfl, rfl⟩

/-- A patrol of T0 or T1 in its slot. -/
theorem patrolScrub_eq (d : Dev) {r : Nat} (a : Nat) (found : LineRead) (hslot : d.slotNames 0 = true) (hr : r < 4864) :
    patrolScrub d r a found = match found with
      | .good => d.patrolled r a
      | .corrected => ((d.patrolled r a).fadd (eccReg r) Fld.STK_ECC_CORRECTED 1).bucketAdd r
      | .uncorrectable =>
        (((((d.patrolled r a).fadd (eccReg r) Fld.STK_ECC_UNCORR 1).logError ((d.patrolled r a).regionSource r) 0x40
          (if r < 768 then 0x0501 else 0x0504) 1 0 ((d.patrolled r a).regionSource r) none a 0 r).abandonMove r a).repairLine r a) := by
  unfold patrolScrub
  rw [hslot, if_neg (by decide), if_neg (Nat.not_le.2 hr)]
  cases found <;> rfl

/-- Settles O18: each event is its definition's branch; the pass and the spare are read back from their fields. -/
theorem memoryErrorsComplete : Obligations.MemoryErrorsComplete := by
  refine ⟨fun s r h => .of_effect (f := (bucketLeak · r)) rfl (if_pos h),
    fun s r h => .of_effect (f := (bucketLeak · r)) rfl (if_neg h),
    fun s r a hslot hr => ?patrol, fun s k c a q cid e he => ⟨fun hc => ?untraced, fun hc => ?traced⟩, fun s k hc => ?spare,
    fun s n a q cid e he => .of_effect (f := (lpddrReadUncorrectable · n a q cid)) rfl (he ▸ rfl)⟩
  case patrol =>
    obtain ⟨hmems, hevents, hpass⟩ := s.clear.patrolled_frame r a
    exact ⟨s.clear.patrolled r a, hmems, hevents, hpass,
      .of_effect (f := (patrolScrub · r a .good)) rfl (patrolScrub_eq _ a .good hslot hr),
      .of_effect (f := (patrolScrub · r a .corrected)) rfl (patrolScrub_eq _ a .corrected hslot hr),
      .of_effect (f := (patrolScrub · r a .uncorrectable)) rfl (patrolScrub_eq _ a .uncorrectable hslot hr)⟩
  case untraced =>
    subst he
    refine .of_effect (f := (stackReadUncorrectable · k c a q cid)) rfl ?_
    simp only [stackReadUncorrectable, if_neg (Nat.not_lt.2 hc)]
  case traced =>
    subst he
    refine .of_effect (f := (stackReadUncorrectable · k c a q cid)) rfl ?_
    simp only [stackReadUncorrectable, if_pos hc]
  case spare =>
    refine ⟨_, .of_effect (f := (spareCopyDone · k)) rfl (if_pos hc), decide_eq_false ?_, decide_eq_true (Dev.fget_fset_same _ _ _ _), rfl⟩
    rw [Dev.fon, Dev.fget_fset_apart (.inl (by decide)), Dev.foff, Dev.fget_fset_same]
    decide

/-! Errors of the crossings. -/

/-- The module with a crossing's retries counted and its failed lanes noted. -/
def Dev.lanesNoted (d : Dev) (retries key lanes : Nat) : Dev :=
  let e := countRetries d retries
  { e with contain := { e.contain with lanes := AMap.put e.contain.lanes key lanes } }

theorem avenueFlitCrc_eq (d : Dev) (q retries lanes : Nat) : avenueFlitCrc d q retries lanes =
    let e := d.lanesNoted retries q (max (AMap.get d.contain.lanes q 0) lanes)
    if 3 ≤ lanes then e.quarantine q 0x0403 d.srcSquare lanes
    else if AMap.get d.contain.lanes q 0 < lanes then e.logError d.srcSquare 0x40 0x0402 0 0 d.srcSquare none 0 lanes 0xFFFFFFFF
    else e.logError d.srcSquare 0x40 0x0401 0 0 d.srcSquare none 0 retries 0xFFFFFFFF := rfl

theorem boulevardCrc_eq (d : Dev) (n lanes : Nat) : boulevardCrc d n lanes =
    let e := d.lanesNoted 1 (8 + n) lanes
    if 5 ≤ lanes then e.shutDown 2 0x0602 d.srcSquare n
    else e.logError d.srcSquare 0x40 0x0601 0 0 d.srcSquare none 0 (if lanes = 0 then n else lanes) 0xFFFFFFFF := rfl

/-- An error record lengthens the log, quarantines and shuts down nothing, and changes no memory. -/
theorem Dev.logError_frame (d : Dev) (src ev code severity reset unit : Nat) (dist : Option Nat) (address detail region : Nat) :
    d.events.length < (d.logError src ev code severity reset unit dist address detail region).events.length ∧
      (d.logError src ev code severity reset unit dist address detail region).contain = d.contain ∧
      (d.logError src ev code severity reset unit dist address detail region).mems = d.mems := by
  obtain ⟨x, -, -, _, _, l, _, _, _, _, h⟩ := d.logError_logs src ev code severity reset unit dist address detail region
  rw [h]
  refine ⟨?_, rfl, rfl⟩
  simp only [List.length_append, List.length_singleton]
  omega

/-- Settles O19: the number of failed lanes picks the branch; what a record changes is in `Dev.logError_frame`. -/
theorem crossingErrorsComplete : Obligations.CrossingErrorsComplete := by
  refine ⟨fun s q r lanes h => ⟨_, .of_effect (f := (avenueFlitCrc · q r lanes)) rfl ((avenueFlitCrc_eq _ q r lanes).trans (if_pos h)),
      rfl, rfl⟩, fun s q r lanes h => ?avenue,
    fun s q stop => rfl, fun s n lanes h => ⟨_, .of_effect (f := (boulevardCrc · n lanes)) rfl ((boulevardCrc_eq _ n lanes).trans
      (if_pos h)), rfl, rfl⟩, fun s n lanes h => ?boulevard, fun s n => rfl⟩
  case avenue =>
    have logged (code detail : Nat) (he : avenueFlitCrc s.clear q r lanes =
        (s.clear.lanesNoted r q (max (AMap.get s.clear.contain.lanes q 0) lanes)).logError s.clear.srcSquare 0x40 code 0 0
          s.clear.srcSquare none 0 detail 0xFFFFFFFF) : ∃ e, Completes (.avenueFlitCrc q r lanes) s e ∧
        s.dev.events.length < e.events.length ∧ e.contain.quarantined = s.dev.contain.quarantined ∧ e.mems = s.dev.mems := by
      obtain ⟨hlog, hcontain, hmems⟩ := (s.clear.lanesNoted r q (max (AMap.get s.clear.contain.lanes q 0) lanes)).logError_frame
        s.clear.srcSquare 0x40 code 0 0 s.clear.srcSquare none 0 detail 0xFFFFFFFF
      exact ⟨_, .of_effect (f := (avenueFlitCrc · q r lanes)) rfl he, hlog, (congrArg ContainState.quarantined hcontain).trans rfl, hmems⟩
    have heq := (avenueFlitCrc_eq s.clear q r lanes).trans (if_neg (Nat.not_le.2 h))
    by_cases hk : AMap.get s.clear.contain.lanes q 0 < lanes
    · exact logged 0x0402 lanes (heq.trans (if_pos hk))
    · exact logged 0x0401 r (heq.trans (if_neg hk))
  case boulevard =>
    obtain ⟨hlog, hcontain, hmems⟩ := (s.clear.lanesNoted 1 (8 + n) lanes).logError_frame s.clear.srcSquare 0x40 0x0601 0 0
      s.clear.srcSquare none 0 (if lanes = 0 then n else lanes) 0xFFFFFFFF
    exact ⟨_, .of_effect (f := (boulevardCrc · n lanes)) rfl ((boulevardCrc_eq _ n lanes).trans (if_neg (Nat.not_le.2 h))), hlog,
      (congrArg ContainState.shutdown hcontain).trans rfl, hmems⟩

end Sys2Proof.Machine
end

section
/-! Ends of the dies' operations (R224, R228, R382, R388, R390). -/

namespace Sys2Proof.Machine

/-- The group and the member that a die of a Kerb serves, as its place in the grid gives them. -/
theorem groupOfDie_kerb {k j : Nat} (hj : j < 32) : groupOfDie (32 * k + j) = 3 * j + k % 3 := by
  unfold groupOfDie
  omega

theorem memberOfDie_kerb {k j : Nat} (hj : j < 32) : memberOfDie (32 * k + j) = k / 3 := by
  unfold memberOfDie
  omega

/-- The end of a program whose die runs it and whose units it holds. -/
theorem nandProgramDone_eq {d : Dev} {k j : Nat} {o : DieOp} {p : Program} (verified : Bool) (hbusy : (d.die k j).busy = some o)
    (hk : o.kind = .program) (hp : o.purpose = .program) {e : Dev}
    (he : e = (d.modDie k j fun x => { x with busy := none }).fadd (Reg.KERB_CH_PIECES k (j / 4)) Fld.KERB_CH_PIECES_PIECES 16)
    (hfind : (e.media.programs.find? fun p => p.group = 3 * j + k % 3 && p.member = k / 3 && p.sb = o.ns && p.page = o.piece) = some p) :
    nandProgramDone d k j verified = (if verified then e.programmed p o.cls
      else e.modDie k j fun x => { x with queue := { o with since := 0, suspends := 0 } :: x.queue }).issue k j := by
  subst he
  unfold nandProgramDone
  rw [hbusy]
  dsimp only
  rw [if_neg (by rw [hk, hp]; decide), hfind]

/-- The end of a verified erase whose superblock no victim holds. -/
theorem nandEraseDone_eq {d : Dev} {k j : Nat} {o : DieOp} (hbusy : (d.die k j).busy = some o) (hk : o.kind = .erase) {e : Dev}
    (he : e = (((d.modDie k j fun x => { x with busy := none }).modBg (2048 * (32 * k + j) + o.piece) fun x =>
      { x with epoch := (x.epoch + 1) % 2 ^ 32, intent := false, reads := 0 }).cacheDropWhere k fun p =>
        Dev.generationBg p.generation = 2048 * (32 * k + j) + o.piece).journalPut (.eraseDone (32 * k + j) o.piece))
    (hv : e.victimOf (groupOfDie (32 * k + j)) o.piece = none) : nandEraseDone d k j true =
      (e.modMedia fun m => { m with rewrites := m.rewrites.filter (· ≠ 2048 * (32 * k + j) + o.piece) }).issue k j := by
  have hv' : (e.modMedia fun m => { m with rewrites := m.rewrites.filter (· ≠ 2048 * (32 * k + j) + o.piece) }).victimOf
      (groupOfDie (32 * k + j)) o.piece = none := hv
  subst he
  unfold nandEraseDone
  rw [hbusy]
  dsimp only
  rw [if_neg (by rw [hk]; decide), if_pos rfl, hv']

/-- The pieces that a read takes from its die. -/
def DieOp.pieces (d : Dev) (o : DieOp) : Nat := match o.purpose with
  | .high _ => 16
  | .relocate _ => if d.corpus o.ns then 16 else 1
  | _ => 1

/-- The end of a read that its die answered, with the Kerb online. -/
theorem flashPieceReadDone_eq {d : Dev} {k j step bits : Nat} {o : DieOp} (hk : k < 48) (hj : j < 32) (hstep : step ≤ 5)
    (hbusy : (d.die k j).busy = some o) (hkind : o.kind = .read) (hok : d.dieOk (32 * k + j) = true) (hon : d.kerbOnline k = true) :
    flashPieceReadDone d k j step bits =
      (((((d.modDie k j fun x => { x with busy := none }).fadd (Reg.KERB_CH_PIECES k (j / 4)) Fld.KERB_CH_PIECES_PIECES
        (o.pieces d)).readEffects k j o (d.readStep k (32 * k + j) (max 1 step) (Dev.placeOf o.generation)) bits (o.pieces d)
          true).arrives k o (d.readStep k (32 * k + j) (max 1 step) (Dev.placeOf o.generation) = 5)).issue k j) := by
  have hin : (decide (48 ≤ k) || decide (32 ≤ j)) = false := by
    rw [decide_eq_false (Nat.not_le.2 hk), decide_eq_false (Nat.not_le.2 hj), Bool.or_false]
  unfold flashPieceReadDone
  rw [hin, if_neg Bool.false_ne_true, hbusy]
  dsimp only
  rw [if_neg (by rw [hkind]; decide), if_neg (Nat.not_lt.2 hstep), if_neg (Nat.not_lt.2 hstep), hok, hon, Bool.and_true,
    if_pos rfl]
  rfl

/-- Settles O23: with the operation on its die, each event is what its lemma above says. -/
theorem dieOperationsEnd : Obligations.DieOperationsEnd := by
  refine ⟨fun s k j o e hj hbusy hk hp he p hfind => ?program, fun s k j o e hw hbusy hk _ he hv => ?erase,
    fun s k j step bits o e hk hj hstep hbusy hkind hok hon he => ?read⟩
  case program =>
    rw [groupOfDie_kerb hj, memberOfDie_kerb hj] at hfind
    refine ⟨.of_effect (execNandProgramDone.eq_1 k j true s) ?_, .of_effect (execNandProgramDone.eq_1 k j false s) ?_⟩
    · rw [nandProgramDone_eq true hbusy hk hp he hfind, if_pos rfl]
    · rw [nandProgramDone_eq false hbusy hk hp he hfind, if_neg Bool.false_ne_true]
  case erase =>
    refine .of_effect (execNandEraseDone.eq_1 k j true s) ?_
    rw [hw]
    exact nandEraseDone_eq hbusy hk he hv
  case read =>
    subst he
    exact .of_effect (f := (flashPieceReadDone · k j step bits)) rfl (flashPieceReadDone_eq hk hj hstep hbusy hkind hok hon)

end Sys2Proof.Machine
end

section
/-! Events of the Squares, and the ends of the resets Q and B (R504 to R506, R518). -/

namespace Sys2Proof.Machine

/-! The Squares. -/

/-- `e` has the memories of `d`, and its Squares are in the states of those of `d`. -/
def KeepsSquares (d e : Dev) : Prop :=
  e.mems = d.mems ∧ e.squares.testing = d.squares.testing ∧ e.squares.a = d.squares.a ∧ e.squares.b = d.squares.b

namespace KeepsSquares

theorem refl (d : Dev) : KeepsSquares d d := ⟨rfl, rfl, rfl, rfl⟩

theorem trans {d e f : Dev} (h : KeepsSquares d e) (g : KeepsSquares e f) : KeepsSquares d f := by
  obtain ⟨h1, h2, h3, h4⟩ := h
  obtain ⟨g1, g2, g3, g4⟩ := g
  exact ⟨g1.trans h1, g2.trans h2, g3.trans h3, g4.trans h4⟩

theorem modFlash (d : Dev) (s : Nat) (g : CfgFlash → CfgFlash) : KeepsSquares d (d.modFlash s g) := by
  refine ⟨d.modFlash_mems s g, ?_⟩
  unfold Dev.modFlash
  rw [Dev.showFlash_squares]
  dsimp only
  split <;> exact ⟨rfl, rfl, rfl⟩

theorem catchUp (d : Dev) (s : Nat) : KeepsSquares d (d.catchUp s) := by
  unfold Dev.catchUp
  refine foldl_keeps (KeepsSquares d) _ _ _ (modFlash d s _) fun e k h => ?_
  exact foldl_keeps (KeepsSquares d) _ _ _ h fun e _ h => h.trans (modFlash e s _)

theorem sqState {d e : Dev} (h : KeepsSquares d e) (s : Nat) : e.sqState s = d.sqState s := by
  obtain ⟨-, -, ha, hb⟩ := h
  rw [Dev.sqState, Dev.sqState, ha, hb]

end KeepsSquares

theorem Dev.sqState_setSquare (d : Dev) (s : Nat) (x : SqState) : (d.setSquare s x).sqState s = x := by
  by_cases h : s = 0
  · subst h
    rfl
  · have hset : (d.setSquare s x).squares = { d.squares with b := x } := if_neg h
    rw [Dev.sqState, if_neg h, hset]

theorem Dev.setSquare_frame (d : Dev) (s : Nat) (x : SqState) :
    (d.setSquare s x).mems = d.mems ∧ (d.setSquare s x).squares.testing = d.squares.testing := by
  refine ⟨rfl, ?_⟩
  show (if s = 0 then { d.squares with a := x } else { d.squares with b := x } : SquareState).testing = _
  split <;> rfl

/-- A Square that passed its self-test is the standby. -/
theorem squareSelfTestDone_passed (d : Dev) (h : d.squares.testing = true) : ∃ e : Dev, squareSelfTestDone d true = e.driveWrites ∧
    e.squares.testing = false ∧ e.sqState (1 - d.activeSq) = .standby ∧ e.mems = d.mems := by
  have hnot : ¬ (!d.squares.testing) = true := by rw [h]; decide
  refine ⟨_, (if_neg hnot).trans (if_neg (by decide)), ?_, ?_, ?_⟩ <;> dsimp only
  · exact (KeepsSquares.catchUp _ _).2.1.trans (Dev.setSquare_frame _ _ _).2
  · exact ((KeepsSquares.catchUp _ _).sqState _).trans (Dev.sqState_setSquare _ _ _)
  · exact (KeepsSquares.catchUp _ _).1

/-! Resets Q and B. -/

/-- The containment of `d` is `k`: the resets of `k` run. -/
def ContainIs (k : ContainState) (d : Dev) : Prop := d.contain = k

namespace ContainIs
variable {k : ContainState} {d : Dev}

theorem foldl {α : Type} {f : Dev → α → Dev} (l : List α) (h : ContainIs k d) (hs : ∀ {d} a, ContainIs k d → ContainIs k (f d a)) :
    ContainIs k (l.foldl f d) := foldl_keeps (ContainIs k) f l d h fun _ a h => hs a h

theorem logFault {src code severity reset detail : Nat} (h : ContainIs k d) : ContainIs k (d.logFault src code severity reset detail) :=
  (d.logError_frame _ _ _ _ _ _ _ _ _ _).2.1.trans h

theorem finishWith {q cid dw0 dw1 : Nat} {st : Status} (h : ContainIs k d) : ContainIs k (d.finishWith q cid st dw0 dw1) := by
  obtain ⟨_, _, _, _, _, _, _, he⟩ := Dev.finishWith_logs d q cid st dw0 dw1
  rw [he]
  exact h

theorem setReg {a v : Nat} (h : ContainIs k d) : ContainIs k (d.setReg a v) := h

theorem fset {a v : Nat} {f : Fld} (h : ContainIs k d) : ContainIs k (d.fset a f v) := h

theorem fadd {a n : Nat} {f : Fld} (h : ContainIs k d) : ContainIs k (d.fadd a f n) := h

theorem setError {a bit n multi : Nat} (h : ContainIs k d) : ContainIs k (d.setError a bit n multi) := h

theorem draw (h : ContainIs k d) : ContainIs k d.draw.2 := h

theorem setBlock {b : Nat} {x : Block} (h : ContainIs k d) : ContainIs k (d.setBlock b x) := h

theorem modKerb {u : Nat} {f : Kerb → Kerb} (h : ContainIs k d) : ContainIs k (d.modKerb u f) := h

theorem modSlot' {i : Nat} {f : AmendSlot → AmendSlot} (h : ContainIs k d) : ContainIs k (d.modSlot' i f) := h

theorem measure {register digest : Nat} (h : ContainIs k d) : ContainIs k (d.measure register digest) := h

theorem takeSeq {src : Nat} (h : ContainIs k d) : ContainIs k (d.takeSeq src).2 := h

theorem zeroBlock {b : Nat} (h : ContainIs k d) : ContainIs k (d.zeroBlock b) := h

theorem storeBm {b a : Nat} {bytes : List Byte} (h : ContainIs k d) : ContainIs k (d.storeBm b a bytes) := h

theorem storeObj {i o : Nat} {bytes : List Byte} (h : ContainIs k d) : ContainIs k (d.storeObj i o bytes) := h

theorem undefineBm {b a n : Nat} (h : ContainIs k d) : ContainIs k (d.undefineBm b a n) := h

theorem undefineObj {i a n : Nat} (h : ContainIs k d) : ContainIs k (d.undefineObj i a n) := h

theorem changeLink {u l : Nat} (h : ContainIs k d) : ContainIs k (d.changeLink u l) := by
  unfold Dev.changeLink Dev.putLink
  split
  · exact h.modKerb.fadd.draw.logFault
  · exact h.fset.fadd.draw.logFault

theorem settleLinks {us : List Nat} (h : ContainIs k d) : ContainIs k (d.settleLinks us) := by
  unfold Dev.settleLinks
  refine foldl _ h fun u h => ?_
  dsimp only
  split
  · exact h
  · exact h.changeLink

theorem endBlockTest {b : Nat} (h : ContainIs k d) : ContainIs k (d.endBlockTest b) := by
  unfold Dev.endBlockTest
  extract_lets e
  have he : ContainIs k e := by
    refine foldl _ h fun c h => ?_
    dsimp only
    split
    · exact h
    · split
      · exact h.fset
      · split
        · exact h.fset.setError.draw.setReg
        · exact h.fset.setError
  split
  · exact he.fset.fadd
  · exact he

theorem defaultWindows {b home : Nat} (h : ContainIs k d) : ContainIs k (d.defaultWindows b home) := by
  unfold Dev.defaultWindows
  exact foldl _ h fun _ h => h.setReg

theorem fillBanks {b : Nat} (h : ContainIs k d) : ContainIs k (d.fillBanks b) := h

theorem takeRole {b : Nat} (h : ContainIs k d) : ContainIs k (d.takeRole b) := by
  unfold Dev.takeRole
  dsimp only
  split
  · split
    · exact h.setBlock.defaultWindows
    · split
      · exact h.setBlock.defaultWindows.zeroBlock
      · exact h.setBlock
    · exact h.setBlock.defaultWindows.zeroBlock
    · exact h.setBlock.defaultWindows.zeroBlock.fillBanks
  · split
    · exact h
    · exact h.setBlock

theorem amendDone {i : Nat} (h : ContainIs k d) : ContainIs k (d.amendDone i) := by
  unfold Dev.amendDone
  dsimp only
  split
  · exact h
  · exact h.modSlot'.fadd.measure.takeSeq.finishWith

theorem awaitNoMore {b : Nat} (h : ContainIs k d) : ContainIs k (d.awaitNoMore b) := by
  unfold Dev.awaitNoMore
  refine foldl _ h fun i h => ?_
  dsimp only
  split
  · split
    · exact h.modSlot'.amendDone
    · exact h.modSlot'
  · exact h

theorem takeCells {b : Nat} (h : ContainIs k d) : ContainIs k (d.takeCells b) := h

theorem reapply {b : Nat} (h : ContainIs k d) : ContainIs k (d.reapply b) := h.takeRole.takeCells.fillBanks.awaitNoMore

theorem restoreT0 {stack : Nat → Bool} (h : ContainIs k d) : ContainIs k (d.restoreT0 stack) := by
  unfold Dev.restoreT0
  refine foldl _ h fun x h => ?_
  dsimp only
  split
  · exact h
  · refine foldl _ h fun y h => ?_
    split
    · exact h.storeObj
    · exact h.undefineObj

theorem restream {b : Nat} {x : Binding} (h : ContainIs k d) : ContainIs k (d.restream b x) := by
  unfold Dev.restream
  split
  · split
    · exact h.storeBm
    · exact h.undefineBm
  · exact h

theorem restoreBlock {b : Nat} (h : ContainIs k d) : ContainIs k (d.restoreBlock b) := by
  unfold Dev.restoreBlock
  dsimp only
  split
  · exact h.undefineBm
  · exact foldl _ h.undefineBm fun x h => h.restream

theorem retrainStacks {which : Nat → Bool} (h : ContainIs k d) : ContainIs k (d.retrainStacks which) := by
  unfold Dev.retrainStacks
  exact foldl _ h fun _ h => h.fset.fadd

end ContainIs

/-- A list has no entry left that was taken out of it. -/
theorem contains_filter_ne (l : List Nat) (q : Nat) : (l.filter (· ≠ q)).contains q = false := by
  simp [List.contains_eq_mem]

/-- The module with the resets of a quarter, or of a block, no longer running. -/
def Dev.quarterBack (d : Dev) (q : Nat) : Dev :=
  { d with contain := { d.contain with resettingQuarters := d.contain.resettingQuarters.filter (· ≠ q) } }

def Dev.blockBack (d : Dev) (b : Nat) : Dev :=
  { d with contain := { d.contain with resettingBlocks := d.contain.resettingBlocks.filter (· ≠ b) } }

/-- A quarter that passed its self-test comes back: its blocks take the plan again, and its memories are restored. -/
theorem quarterResetDone_passed {d : Dev} {q : Nat} (h : d.contain.resettingQuarters.contains q = true) :
    ∃ e : Dev, quarterResetDone d q true = e.driveStages.driveJobs ∧ e.contain.resettingQuarters.contains q = false := by
  have keep {e : Dev} (he : ContainIs (d.quarterBack q).contain e) : e.contain.resettingQuarters.contains q = false := by
    rw [he]
    exact contains_filter_ne _ q
  refine ⟨_, (if_neg (by rw [h]; decide)).trans (if_neg (by decide)), keep ?_⟩
  refine .foldl _ (.restoreT0 (.retrainStacks (.foldl _ (.settleLinks rfl) fun p h => h.endBlockTest.reapply))) fun p h => ?_
  split
  · exact h.restoreBlock
  · exact h

/-- A quarter that failed its self-test is quarantined. -/
theorem quarterResetDone_failed {d : Dev} {q : Nat} (h : d.contain.resettingQuarters.contains q = true) :
    ∃ e : Dev, ∃ x : Word, quarterResetDone d q false = e.quarantine q (x.toNat % 2 ^ 16) e.srcSquare 0 ∧
      e.contain.resettingQuarters.contains q = false := by
  have keep {e : Dev} (he : ContainIs (d.quarterBack q).contain e) : e.contain.resettingQuarters.contains q = false := by
    rw [he]
    exact contains_filter_ne _ q
  refine ⟨_, _, (if_neg (by rw [h]; decide)).trans (if_pos (by decide)), keep ?_⟩
  exact (ContainIs.foldl _ rfl fun _ h => h.fset).draw

/-- Settles O52: each event takes the branch that its condition names; what runs on after a reset runs no reset of its own. -/
theorem squareEventsComplete : Obligations.SquareEventsComplete := by
  refine ⟨fun s => ⟨fun h => .of_effect (f := heartbeat) rfl (if_neg h), fun h => .of_effect (f := heartbeat) rfl (if_pos h)⟩,
    fun s => ⟨fun q h => .of_effect (f := heartbeatMiss) rfl ?miss, fun h => .of_effect (f := heartbeatMiss) rfl ?noMiss⟩,
    fun s e he => ⟨fun q h => ?active, fun h hs => ?lost, fun h hs => ?gone⟩,
    fun s => ⟨fun q h => .of_effect (f := standbySquareFault) rfl ?standby, fun h => .of_effect (f := standbySquareFault) rfl ?none⟩,
    fun s => ⟨fun h => .of_effect (f := squaresLost) rfl (if_neg h), fun h => .of_effect (f := squaresLost) rfl (if_pos h)⟩,
    fun s => ⟨fun h => ⟨?passed, .of_effect (f := (squareSelfTestDone · false)) rfl ?failed⟩, fun h ok =>
      .of_effect (f := (squareSelfTestDone · ok)) rfl (if_pos (by rw [h]; decide))⟩,
    fun s q => ⟨fun h => ⟨?back, ?quarantined⟩, fun h ok => .of_effect (f := (quarterResetDone · q ok)) rfl (if_pos (by rw [h]; decide))⟩,
    fun s b => ⟨fun h => ⟨s.clear.blockBack b, contains_filter_ne _ b, ?blockBack, ?retired⟩, fun h ok =>
      .of_effect (f := (blockResetDone · b ok)) rfl (if_pos (by rw [h]; decide))⟩⟩
  case miss => rw [heartbeatMiss, Dev.failover, h]
  case noMiss => rw [heartbeatMiss, Dev.failover, h]
  case active =>
    subst he
    exact .of_effect (f := activeSquareFault) rfl (by rw [activeSquareFault, activeFails, h])
  case lost =>
    subst he
    exact .of_effect (f := activeSquareFault) rfl (by rw [activeSquareFault, activeFails, h]; exact if_neg hs)
  case gone =>
    subst he
    exact .of_effect (f := activeSquareFault) rfl (by rw [activeSquareFault, activeFails, h]; exact if_pos hs)
  case standby => rw [standbySquareFault, h]
  case none => rw [standbySquareFault, h]
  case passed =>
    obtain ⟨e, he, hkeep⟩ := squareSelfTestDone_passed s.clear h
    exact ⟨e, .of_effect (f := (squareSelfTestDone · true)) rfl he, hkeep⟩
  case failed => exact (if_neg (by rw [h]; decide)).trans (if_pos (by decide))
  case back =>
    obtain ⟨e, he, hkeep⟩ := quarterResetDone_passed h
    exact ⟨e, .of_effect (f := (quarterResetDone · q true)) rfl he, hkeep⟩
  case quarantined =>
    obtain ⟨e, x, he, hkeep⟩ := quarterResetDone_failed h
    exact ⟨e, x, .of_effect (f := (quarterResetDone · q false)) rfl he, hkeep⟩
  case blockBack => exact .of_effect (f := (blockResetDone · b true)) rfl ((if_neg (by rw [h]; decide)).trans (if_pos rfl))
  case retired => exact .of_effect (f := (blockResetDone · b false)) rfl ((if_neg (by rw [h]; decide)).trans (if_neg (by decide)))

end Sys2Proof.Machine
end

section
/-! Events of device time and of the power states (R436, R437, R444 to R446, R453). -/

namespace Sys2Proof.Machine

/-! Masters and sources. -/

/-- To show a master's figures changes registers only. -/
theorem Dev.showMaster_frame (d : Dev) (p : Nat) : (d.showMaster p).time = d.time ∧ (d.showMaster p).mems = d.mems := by
  unfold Dev.showMaster
  split <;> exact ⟨rfl, rfl⟩

theorem Dev.showMaster_plan (d : Dev) (p : Nat) : (d.showMaster p).plan = d.plan := by
  unfold Dev.showMaster
  split <;> rfl

/-- An Announce's master is the port's. -/
theorem ptpAnnounce_master (d : Dev) {p : Nat} (cls steps id : Nat) (hp : p < 2) :
    AMap.look (ptpAnnounce d p cls steps id).time.masters p = some ⟨(match AMap.look d.time.masters p with
      | some m => m.lastSync
      | none => none), cls % 256, steps % 65536, id % 2 ^ 64⟩ ∧ (ptpAnnounce d p cls steps id).mems = d.mems := by
  unfold ptpAnnounce
  rw [if_neg (Nat.not_le.2 hp)]
  dsimp only
  split
  · rw [(Dev.showMaster_frame _ _).1, (Dev.showMaster_frame _ _).2]
    exact ⟨AMap.look_put _ _ _, rfl⟩
  · exact ⟨AMap.look_put _ _ _, rfl⟩

/-- The module with every source out of use. -/
def Dev.sourcesLost (d : Dev) : Dev :=
  let masters := d.time.masters.map fun (m : Nat × Master) => (m.1, { m.2 with lastSync := none })
  let e := { d with time := { d.time with masters := masters, ppsUsable := false } }
  if d.plan.timeBase.source = 0 then e else e.foff Reg.TIME_STAT Fld.TIME_STAT_PPS_PRESENT

theorem Dev.sourcesLost_frame (d : Dev) : d.sourcesLost.time.ppsUsable = false ∧ d.sourcesLost.time.lock = d.time.lock ∧
    d.sourcesLost.mems = d.mems := by
  unfold Dev.sourcesLost
  dsimp only
  split <;> exact ⟨rfl, rfl, rfl⟩

theorem sourceLoss_locked {d : Dev} (h : d.time.lock = .locked) : sourceLoss d = d.sourcesLost.enterLock .holdover := by
  have hlock := d.sourcesLost_frame.2.1.trans h
  show (match d.sourcesLost.time.lock with
    | .acquiring => d.sourcesLost.enterLock .freeRun
    | .locked => d.sourcesLost.enterLock .holdover
    | .recovering => d.sourcesLost.enterLock .holdover
    | _ => d.sourcesLost) = _
  rw [hlock]

/-! Pulses and slots. -/

theorem not_mediaReg_timeCtl : ¬ MediaReg Reg.TIME_CTL := by
  unfold MediaReg Reg.TIME_CTL Reg.KERB_SUSPEND Reg.FTL_REWRITE Reg.FTL_GRP Reg.FTL_ERR Reg.STK_STAT
  rintro (⟨k, h⟩ | h | ⟨g, h⟩ | h | ⟨s, h⟩) <;> omega

/-- A pulse whose output is on goes out at the whole second. -/
theorem ppsOutPulse_eq {d : Dev} (hon : d.fbit Reg.TIME_CTL Fld.TIME_CTL_PPS_OUT = true) (hheld : d.pins.ppsHeld = false) :
    ∃ e : Dev, ppsOutPulse d = e.emit .ppsPulse ∧ e.out = d.out ∧ e.mems = d.mems := by
  obtain ⟨⟨⟨ks, rs, t, m, p, n, he⟩, hregs⟩, -⟩ := d.reach_frame (roundUp d.time.ns 1000000000)
  have hreg := hregs _ not_mediaReg_timeCtl
  refine ⟨d.reach (roundUp d.time.ns 1000000000), if_pos ?_, ?_, d.reach_mems _⟩
  · rw [Dev.fbit, Dev.fget, hreg, he]
    simp only [hheld, Bool.not_false, Bool.and_true]
    exact hon
  · rw [he]

/-- From the beat at which a slot begins, none is ahead. -/
theorem slotAhead_zero {start beat cycle : Nat} (hc : 0 < cycle) (h : beat % cycle = start % cycle) :
    (start + cycle - beat % cycle) % cycle = 0 := by
  have hle := Nat.mod_le start cycle
  have hdiv := Nat.div_add_mod start cycle
  rw [h, show start + cycle - start % cycle = cycle * (start / cycle + 1) by rw [Nat.mul_succ]; omega]
  exact Nat.mul_mod_right _ _

/-- A slot that begins now is open, and what begins with it leaves it open. -/
theorem slotStart_opens {d : Dev} {i : Nat} {x : SlotEntry} (hx : d.plan.windows.slots[i]? = some x) (hlen : x.length ≠ 0)
    (hopen : d.time.openSlots.contains i = false) (hbeat : d.beat % d.plan.windows.slotCycle = x.start % d.plan.windows.slotCycle)
    (hc : 0 < d.plan.windows.slotCycle) : (slotStart d i).time.openSlots.contains i = true ∧ (slotStart d i).mems = d.mems := by
  have heq : slotStart d i = (d.putSlots (d.time.openSlots ++ [i]).dedup).slotBegins i := by
    unfold slotStart
    dsimp only
    rw [hx]
    dsimp only
    rw [slotAhead_zero hc hbeat, if_pos rfl, if_neg (by rw [hopen, decide_eq_false hlen]; decide)]
  obtain ⟨⟨⟨ks, rs, t, m, p, n, hput⟩, -⟩, htime⟩ := d.putSlots_frame (d.time.openSlots ++ [i]).dedup
  have hbegin := (d.putSlots (d.time.openSlots ++ [i]).dedup).slotBegins_frame i
  rw [heq, hbegin.time_eq, htime]
  obtain ⟨⟨ks', rs', m', n', he⟩, -⟩ := hbegin
  refine ⟨?_, ?_⟩
  · simp [List.contains_eq_mem]
  · rw [he, hput]
    rfl

/-- A slot that ends is closed. -/
theorem slotEnd_closes {d : Dev} {i : Nat} {x : SlotEntry} (hx : d.plan.windows.slots[i]? = some x)
    (hopen : d.time.openSlots.contains i = true) (hlen : x.length ≠ d.plan.windows.slotCycle) :
    (slotEnd d i).time.openSlots.contains i = false ∧ (slotEnd d i).mems = d.mems := by
  have closes (e : Dev) (he : e.mems = d.mems) :
      (e.putSlots (e.time.openSlots.filter (· ≠ i))).time.openSlots.contains i = false ∧
        (e.putSlots (e.time.openSlots.filter (· ≠ i))).mems = d.mems := by
    obtain ⟨⟨⟨ks, rs, t, m, p, n, hput⟩, -⟩, htime⟩ := e.putSlots_frame (e.time.openSlots.filter (· ≠ i))
    rw [htime]
    refine ⟨contains_filter_ne _ i, ?_⟩
    rw [hput]
    exact he
  have hgo : ¬ (!d.time.openSlots.contains i || decide (x.length = d.plan.windows.slotCycle)) = true := by
    rw [hopen, decide_eq_false hlen]
    decide
  unfold slotEnd
  dsimp only
  rw [hx]
  dsimp only
  rw [if_neg hgo]
  split
  · exact closes d rfl
  · exact closes _ (d.reach_mems _)

/-- Settles O51: each event is its definition's branch; masters, slots and pulses are read back past what follows device time. -/
theorem timeEventsComplete : Obligations.TimeEventsComplete := by
  refine ⟨fun s p cls steps id hp hcls hsteps hid => ?announce, fun s p o e hf h0 he hc => ?sync, fun s o hf h2 => ?pps,
    fun s h => ?loss, fun s hon hheld => ?pulse, fun s => rfl, fun s i x hx hlen hopen hbeat hc => ?start,
    fun s i x hx hopen hlen => ?finish, fun s ps h => ?enter, fun s ps ms hidle hon hlook hlt hlends => ?apst⟩
  case announce =>
    obtain ⟨hlook, hmems⟩ := ptpAnnounce_master s.clear cls steps id hp
    exact ⟨_, _, .of_effect (f := (ptpAnnounce · p cls steps id)) rfl rfl, hlook, Nat.mod_eq_of_lt hcls, Nat.mod_eq_of_lt hsteps,
      Nat.mod_eq_of_lt hid, hmems⟩
  case sync =>
    have hf' : e.forced = false := he ▸ hf
    have h0' : e.plan.timeBase.source = 0 := he ▸ h0
    have hshow : (e.showMaster p).plan.timeBase.source = 0 := (congrArg (·.timeBase.source) (e.showMaster_plan p)).trans h0'
    refine .of_effect (f := (ptpSync · p o)) rfl ?_
    unfold ptpSync
    extract_lets _ _ e' f
    rw [show e' = e from he.symm, if_neg (by simp [hf', h0', hc]), show f = e.showMaster p from congrArg (·.showMaster p) he.symm]
    exact if_pos hshow
  case pps =>
    refine .of_effect (f := (ppsIn · o true)) rfl ?_
    unfold ppsIn
    extract_lets _ _ e
    have hf' : e.forced = false := by
      rw [← hf]
      exact congrArg (fun n => decide (n = 1)) (congrArg (bits · _ _) (Dev.reg_fset_ne _ _ _ _ (by decide)))
    have h2' : e.plan.timeBase.source = 2 := h2
    rw [hf', h2', if_neg (by decide)]
    rfl
  case loss =>
    obtain ⟨hpps, -, hmems⟩ := s.clear.sourcesLost_frame
    exact ⟨_, .of_effect (f := sourceLoss) rfl (sourceLoss_locked h), hpps, hmems⟩
  case pulse =>
    obtain ⟨e, he, hout, hmems⟩ := ppsOutPulse_eq hon hheld
    exact ⟨_, .of_effect (f := ppsOutPulse) rfl he, congrArg (· ++ [Out.ppsPulse]) hout, hmems⟩
  case start => exact ⟨_, .of_effect (f := (slotStart · i)) rfl rfl, slotStart_opens hx hlen hopen hbeat hc⟩
  case finish => exact ⟨_, .of_effect (f := (slotEnd · i)) rfl rfl, slotEnd_closes hx hopen hlen⟩
  case enter =>
    refine .of_effect (f := powerTransition) rfl ?_
    rw [powerTransition, h]
  case apst =>
    refine .of_effect (f := apstIdle) rfl ?_
    unfold apstIdle
    rw [hidle, hon, hlook, if_neg (by decide)]
    refine if_neg ?_
    simp only [Bool.or_eq_true, Bool.and_eq_true, decide_eq_true_eq, not_or, not_and]
    exact ⟨Nat.not_le.2 hlt, fun h4 => ne_true_of_eq_false (hlends h4)⟩

end Sys2Proof.Machine
end

section
/-! Start-up, reset M, power warnings and NVMe-MI (R398, R405, R434, R518, R566 to R569). -/

namespace Sys2Proof.Machine

/-- What a Configuration Set to an endpoint that answers sets: another addressing of the ports. -/
def Dev.configured (d : Dev) (op : Nat) : Dev :=
  if op = 3 && miAnswers d then { d.draw.2 with host := { d.draw.2.host with addressing := some d.draw.1.toNat } } else d

/-- An endpoint that answers releases SMB_ALERT_N. -/
def Dev.alertReleased (d : Dev) : Dev := if miAnswers d then { d with pins := { d.pins with smbAlert := false } } else d

theorem nvmeMiCommand_eq (d : Dev) (op : Nat) : nvmeMiCommand d op =
    (d.configured op).alertReleased.emit (.mi op (!miAnswers (d.configured op).alertReleased)) := rfl

theorem miAnswers_configured (d : Dev) (op : Nat) : miAnswers (d.configured op) = miAnswers d := by
  unfold Dev.configured
  split <;> rfl

theorem miAnswers_alertReleased (d : Dev) : miAnswers d.alertReleased = miAnswers d := by
  unfold Dev.alertReleased
  split <;> rfl

theorem Dev.configured_of_not {d : Dev} {op : Nat} (h : op ≠ 3 ∨ miAnswers d = false) : d.configured op = d := by
  refine if_neg fun hc => ?_
  rw [Bool.and_eq_true, decide_eq_true_eq] at hc
  exact h.elim (fun h => h hc.1) fun h => ne_true_of_eq_false h hc.2

/-- Settles O53: each event takes the branch of its definition that its condition names. -/
theorem moduleEventsComplete : Obligations.ModuleEventsComplete := by
  refine ⟨fun s f => rfl,
    fun s d hd => ⟨fun hlow hf => .of_effect (f := modReset) rfl ?reset, fun hlow hf => .of_effect (f := modReset) rfl ?during,
      fun hlow => .of_effect (f := modReset) rfl (if_pos hlow)⟩,
    fun s f d hd => ⟨fun hlow hm hw hv => .of_effect (f := (modResetRelease · f)) rfl ?starts,
      fun hlow hm hbad => .of_effect (f := (modResetRelease · f)) rfl ?waits,
      fun hlow hm => .of_effect (f := (modResetRelease · f)) rfl ?free,
      fun hlow => .of_effect (f := (modResetRelease · f)) rfl (if_pos (by rw [hlow]; decide))⟩,
    fun s n => rfl,
    fun s op => ⟨fun h hop => .of_effect (f := (nvmeMiCommand · op)) rfl ?answered, fun h hop => ?config,
      fun h => .of_effect (f := (nvmeMiCommand · op)) rfl ?silent⟩,
    fun s => ⟨fun h hf => .of_effect (f := nvmeMiReset) rfl ((if_neg (by rw [h]; decide)).trans (if_neg (ne_true_of_eq_false hf))),
      fun h hf => .of_effect (f := nvmeMiReset) rfl ((if_neg (by rw [h]; decide)).trans (if_pos hf)),
      fun h => .of_effect (f := nvmeMiReset) rfl (if_pos (by rw [h]; decide))⟩,
    fun s => rfl, fun s => rfl, fun s => rfl, fun s => rfl,
    fun s w hw hs hf => ⟨fun hp b => .of_effect (f := (sanitizePhaseDone · b)) rfl ?erase, fun hp =>
      ⟨.of_effect (f := (sanitizePhaseDone · false)) rfl ?fails, .of_effect (f := (sanitizePhaseDone · true)) rfl ?goesOn⟩,
      fun hp b => .of_effect (f := (sanitizePhaseDone · b)) rfl ?done⟩,
    fun s b h => .of_effect (f := (sanitizePhaseDone · b)) rfl ?idle⟩
  case reset =>
    subst hd
    exact (if_neg (ne_true_of_eq_false hlow)).trans (if_neg (ne_true_of_eq_false hf))
  case during =>
    subst hd
    exact (if_neg (ne_true_of_eq_false hlow)).trans (if_pos hf)
  case starts =>
    subst hd
    refine (if_neg (by rw [hlow]; decide)).trans ((if_neg ?_).trans (if_neg ?_))
    · exact ne_true_of_eq_false (congrArg Bool.not hm)
    · exact ne_true_of_eq_false ((congrArg₂ or hw hv))
  case waits =>
    subst hd
    refine (if_neg (by rw [hlow]; decide)).trans ((if_neg ?_).trans (if_pos ?_))
    · exact ne_true_of_eq_false (congrArg Bool.not hm)
    · exact (Bool.or_eq_true _ _).mpr hbad
  case free =>
    subst hd
    exact (if_neg (by rw [hlow]; decide)).trans (if_pos (congrArg Bool.not hm))
  case answered =>
    rw [nvmeMiCommand_eq, miAnswers_alertReleased, Dev.configured_of_not (.inl hop), h, Dev.alertReleased, if_pos h]
    rfl
  case config =>
    subst hop
    have hset : s.clear.configured 3 = { s.clear.draw.2 with host :=
      { s.clear.draw.2.host with addressing := some s.clear.draw.1.toNat } } := if_pos h
    refine ⟨_, s.clear.draw.1.toNat, .of_effect (f := (nvmeMiCommand · 3)) rfl (nvmeMiCommand_eq _ 3), ?_⟩
    rw [miAnswers_alertReleased, Dev.alertReleased, miAnswers_configured, h, if_pos rfl, hset]
    exact ⟨rfl, rfl, rfl, rfl⟩
  case silent =>
    rw [nvmeMiCommand_eq, miAnswers_alertReleased, Dev.configured_of_not (.inr h), h, Dev.alertReleased,
      if_neg (ne_true_of_eq_false h)]
    rfl
  case erase => simp [sanitizePhaseDone, hw, hs, hf, hp]
  case fails => simp [sanitizePhaseDone, hw, hs, hf, hp]
  case goesOn => simp [sanitizePhaseDone, hw, hs, hf, hp]
  case done => simp [sanitizePhaseDone, hw, hs, hf, hp]
  case idle =>
    unfold sanitizePhaseDone
    split
    next w hw =>
      refine if_pos ((Bool.or_eq_true _ _).mpr ((h w hw).imp_left fun hs => ?_))
      rw [hs]
      rfl
    next => rfl

end Sys2Proof.Machine
end
